-- ==== Sys2Proof/Word.lean ====
section
/-! DEFINITION. The word types of the WJ2 (R7): bytes, 32-bit and 64-bit words, and sparse tables. -/

namespace Sys2Proof

/-- One byte. -/
abbrev Byte := BitVec 8

/-- A 32-bit word: an FP32 value (R51) or a generator word (R260). -/
abbrev W32 := BitVec 32

/-- A 64-bit register word (R7). -/
abbrev W64 := BitVec 64

/-- The 40-bit accumulator value of R75. -/
abbrev Acc := BitVec 40

/-- A sparse table: the entries listed, in strictly rising index; an index that is not listed holds the table's default. -/
abbrev Table (α : Type) := List (Nat × α)

end Sys2Proof
end

