-- ==== Sys2Proof/Syntax.lean ====
section
/-! DEFINITION. The commands of the WJ2: one constructor per row of spec/opcode_table.json, with the operands the
chapters give the command, and, where the device learns something from outside, what the outside supplied. -/

namespace Sys2Proof

/-- The view of a register access or queue entry (R377, R423). -/
inductive View where
  | job
  | priv
  deriving DecidableEq, Repr

/-- What the host returns for a fetch of host memory: the bytes, or nothing when the adapter refuses the address (R381). -/
abbrev HostRead := Option (List Byte)

/-- The result a physical stall's self-test reports (R395). -/
inductive TestResult where
  | pass
  | failArray
  | failMemory
  | failVector
  | failOther
  deriving DecidableEq, Repr

/-- What the Reed–Solomon decoder found while an access read the loft (R289 to R291): the word addresses it corrected
and the word addresses it found uncorrectable. -/
structure EccReport where
  corrected : List Nat
  uncorrectable : List Nat
  deriving DecidableEq, Repr

/-- What the SEC-DED codes of a stall's scratch and accumulator memory did during a command (R18, R19): the words corrected, and
whether a word of an operand was uncorrectable. -/
structure Secded where
  corrected : Nat
  uncorr : Bool
  deriving DecidableEq, Repr

/-- A command of a stall whose data pass through its memories: the logical stall, and what SEC-DED did on the way. -/
structure OnStall where
  stall : Nat
  sram : Secded
  deriving DecidableEq, Repr

/-- A flit of a packet in flight on one hop of its path (R307, R310). -/
structure FlitAt where
  packet : Nat
  flit : Nat
  hop : Nat
  deriving DecidableEq, Repr

/-- What the entry of a command queue, or a picture, meets: the host's answer to the read that it makes, and what the loft's decoder found
where it reads the loft. -/
structure EntryData where
  host : HostRead
  ecc : EccReport
  deriving DecidableEq, Repr

/-- How the write-out of a satchel went outside the hub (R447); of one that went well, the words of the loft that were corrected (R290). -/
inductive SaveOutcome where
  | done (corrected : List Nat := [])
  | hostRefused
  | scratchUncorrectable (n addr : Nat)
  | loftUncorrectable (addr : Nat)
  | storeError (status : Nat)
  deriving DecidableEq, Repr

/-- A completion of a store command: its status, and what the loft's decoder found in the words that the command moved (R458, R470). -/
structure StoreDone where
  status : Nat
  ecc : EccReport
  deriving DecidableEq, Repr

/-- What the store module answers to the commands of CONFIG (R460). -/
structure StoreAnswers where
  identifyStatus : Nat
  nsExists : Bool
  lbads : Nat
  nsze : Nat
  awun : Nat
  mdtsBytes : Nat
  readStatus : Nat
  record0 : List Byte
  record1 : List Byte
  deriving DecidableEq, Repr

/-- What the receivers of one optical engine measured in qualification (R402, R403). -/
structure EngineQual where
  engine : Nat
  lit : Bool
  failMask : Nat
  txfailMask : Nat
  worst : Nat
  deriving DecidableEq, Repr

/-- The measurements of a LINK_QUAL (R402): optical engines, ring bridges, hub bridges and vertical links. -/
structure LinkResults where
  engines : List EngineQual
  ringFail : Nat
  hubFail : Nat
  vlinkFail : List Nat
  deriving DecidableEq, Repr

/-- The commands: one constructor per row of the opcode table, in the table's order. -/
inductive Instr where
  /-- RESET_N_ASSERT (R29). A low on RESET_N resets the device, empties the loft, the model cache and every slot, and takes the host link down. -/
  | resetNAssert
  /-- RESET_N_RELEASE (R513). The release of RESET_N with PWRGD_AUX high starts the hub boot, and SMBus answers within 5 ms. -/
  | resetNRelease
  /-- PWRGD_AUX_RISE (R515). PWRGD_AUX rising lets a released RESET_N start the device. -/
  | pwrgdAuxRise
  /-- PWRGD_AUX_FALL (R515). PWRGD_AUX falling while RESET_N is high acts as an assertion of RESET_N. -/
  | pwrgdAuxFall
  /-- PWRGD_CORE_RISE (R515). PWRGD_CORE rising makes the core supply available to power transitions, judged when a queued command starts. -/
  | pwrgdCoreRise
  /-- PWRGD_CORE_FALL (R419). PWRGD_CORE falling while a barn is powered raises SUPPLY_RANGE and stops the device; in STANDBY or AUX it does nothing. -/
  | pwrgdCoreFall
  /-- SENSOR_SAMPLE (R418). Each die's sensors are read at least every 4,096 hub beats, and the readings are checked for a thermal trip and for VCORE range. -/
  | sensorSample (temps : List Int) (vcore : List Nat)
  /-- MEAS_AVERAGE (R418). At the end of each 2^20-hub-beat average the power, VCORE and temperature registers, HOT and VMISMATCH are updated. -/
  | measAverage (power : Nat) (temps : List Int) (vcore : List Nat)
  /-- PWR_AUX (R409). PWR_CMD AUX unpowers the barns, the loft and the engines, or is queued, refused or accepted without preconditions after a trip. -/
  | pwrAux (view : View) (tag : Nat)
  /-- PWR_STANDBY (R409). PWR_CMD STANDBY puts the loft into self-refresh and unpowers the barns and engines, if the preconditions of R410 hold. -/
  | pwrStandby (view : View) (tag : Nat)
  /-- PWR_IDLE (R409). PWR_CMD IDLE powers the hub die and the barns one at a time from AUX or STANDBY, if PWRGD_CORE is high. -/
  | pwrIdle (view : View) (tag : Nat)
  /-- PWR_YARDS (R413). PWR_CMD YARDS gates yards at once and ungates yards one per barn, in ascending order, as PWR_YARD_SET requests. -/
  | pwrYards (view : View) (tag : Nat)
  /-- POWER_TRANSITION_DONE (R409). An AUX, STANDBY or IDLE transition completes, the new state takes effect and any pending request starts. -/
  | powerTransitionDone
  /-- YARD_GATE_DONE (R413). A yard completes its gating after 5,000 beats. -/
  | yardGateDone (y : Nat)
  /-- YARD_UNGATE_DONE (R413). A yard completes ungating after 25,000 beats with zeroed memories, and the next yard of its barn starts. -/
  | yardUngateDone (y : Nat)
  /-- BRING_FUSE_READ (R392). FUSE_READ reads and checks the fuse map copies and applies the steering, loft remaps, fuse-bad wavelengths and retired stalls. -/
  | bringFuseRead (view : View) (tag : Nat) (copyA copyB : List Byte)
  /-- BRING_SELFTEST (R394). SELFTEST starts the self-test of the wave marked in BRING_WAVE_w, subject to the wave limits. -/
  | bringSelftest (view : View) (tag : Nat)
  /-- SELFTEST_STALL_REPORT (R395). A stall finishes its 2,400,000-beat self-test and reports its result, and the wave completes when every stall has reported. -/
  | selftestStallReport (p : Nat) (r : TestResult)
  /-- BRING_ABORT (R396). ABORT completes a running wave at once and records every stall still RUNNING as FAIL_OTHER. -/
  | bringAbort (view : View) (tag : Nat)
  /-- BRING_RECONCILE (R397). RECONCILE decides each stall's health, counts DEFECT_DISAGREE and builds the logical map by R14. -/
  | bringReconcile (view : View) (tag : Nat)
  /-- BRING_FW_BCAST (R399). FW_BCAST broadcasts the stall firmware, repairs digest failures, and retires and moves stalls that fail three repairs. -/
  | bringFwBcast (view : View) (tag : Nat)
  /-- BRING_MAIN (R400). MAIN leaves drill mode and installs the logical map in every network interface. -/
  | bringMain (view : View) (tag : Nat)
  /-- BRING_LOFT_TEST (R401). LOFT_TEST tests the spare and exposed pages, adds volatile remaps and leaves every exposed word zeroed. -/
  | bringLoftTest (view : View) (tag : Nat)
  /-- BRING_LINK_QUAL (R402). LINK_QUAL runs PRBS31 qualification of the selected gates, internal links, host engine and store engine, and records the results. -/
  | bringLinkQual (view : View) (tag : Nat) (arg : Nat)
  /-- BRING_READY (R516). READY confirms the bring-up results, sets BRING_STATUS.READY and opens the commands that R516 excluded. -/
  | bringReady (view : View) (tag : Nat)
  /-- BRING_DRILL (R405). DRILL returns an idle, unowned and unloaded device to drill mode in phase DRILL_RETURN. -/
  | bringDrill (view : View) (tag : Nat)
  /-- BRING_UNIT_RESET (R406). UNIT_RESET clears the drill-mode stopped state of the named physical stall. -/
  | bringUnitReset (view : View) (tag : Nat) (p : Nat)
  /-- DRILL_UNIT_ERROR (R27). A unit that detects an error in drill mode stops and sends its fault record to the hub. -/
  | drillUnitError (source unit code : Nat) (addr : Nat)
  /-- SEC_VERIFY (R429). VERIFY fetches and checks the firmware image, consumes a boot epoch on first success and starts the hub part. -/
  | secVerify (view : View) (tag : Nat) (len : Nat)
  /-- SEC_SVN_COMMIT (R430). SVN_COMMIT burns anti-rollback fuses until the fused version equals the running SVN. -/
  | secSvnCommit (view : View) (tag : Nat)
  /-- ID_TREE_BUILT (R432). The security block finishes building the lower identity tree of the epoch and sets TREE. -/
  | idTreeBuilt
  /-- SEC_SIGN (R434). SIGN reads a nonce and writes a signed attestation report once TREE is set, or is refused with ATTEST_EXHAUSTED. -/
  | secSign (view : View) (tag : Nat) (nonce : HostRead)
  /-- SEC_JOB_GRANT (R427). A write of OWNED = 1 clears the previous owner's job state and grants the device to JOBID. -/
  | secJobGrant (view : View) (jobid : Nat)
  /-- SEC_JOB_RELEASE (R427). A write of OWNED = 0 releases the device when nothing of the job is resident or running. -/
  | secJobRelease (view : View) (jobid : Nat)
  /-- SYL_STAGE (R222). STAGE copies a chunk from host memory to the slot at its fill point and updates the digest. -/
  | sylStage (view : View) (slot tag : Nat) (data : HostRead)
  /-- SYL_FINISH (R223). FINISH runs the image-only checks in order and makes the slot STAGED or BAD. -/
  | sylFinish (view : View) (slot tag : Nat)
  /-- SYL_LOAD (R225). LOAD checks the slot, signature and residency, sets HELD and runs the load phases. -/
  | sylLoad (view : View) (slot tag : Nat)
  /-- SYL_LOAD_COMMIT (R227). At the end of the load phases the image commits: the slot is RESIDENT, the stalls are in the state of commit and HELD clears. `ecc` is what the loft's decoder found in the cached image. -/
  | sylLoadCommit (ecc : EccReport)
  /-- SYL_UNLOAD (R230). UNLOAD returns a resident image's slot to STAGED and frees its stalls, counters and circuits. -/
  | sylUnload (view : View) (slot tag : Nat)
  /-- SYL_EVICT (R224). EVICT returns a STAGED or BAD slot to EMPTY. -/
  | sylEvict (view : View) (slot tag : Nat)
  /-- SYL_ABORT (R224). ABORT stops a STAGE once its fetches land and returns a FILLING or BAD slot to EMPTY. -/
  | sylAbort (view : View) (slot tag : Nat)
  /-- SYL_CLEAR (R229). CLEAR ends the hold left by a load that failed in its load phases. -/
  | sylClear (view : View) (slot tag : Nat)
  /-- SYL_POLICY_WRITE (R232). A write to SYL_POLICY sets REQUIRE and KEYV, or sets LOCK, and is ignored once LOCK is set. -/
  | sylPolicyWrite (view : View) (value : W64)
  /-- SYL_KEY_WRITE (R233). A write to a SYL_KEY register takes effect only while the key's KEYV bit and LOCK are clear. -/
  | sylKeyWrite (view : View) (k w : Nat) (value : W64)
  /-- ROLL_READ (R251). READ copies a roll entry into ROLL_E0-E3. -/
  | rollRead (view : View) (tag idx : Nat)
  /-- ROLL_WRITE (R252). WRITE checks and copies ROLL_E0-E3 into an entry, which becomes READY. -/
  | rollWrite (view : View) (tag idx : Nat)
  /-- ROLL_PAUSE (R251). PAUSE holds a READY entry out of rounds, or sets PPEND on an INFLIGHT one. -/
  | rollPause (view : View) (tag idx : Nat)
  /-- ROLL_RESUME (R251). RESUME returns a PAUSED entry to READY, or clears PPEND. -/
  | rollResume (view : View) (tag idx : Nat)
  /-- ROLL_RELEASE (R251). RELEASE frees a READY, PAUSED or DONE entry. -/
  | rollRelease (view : View) (tag idx : Nat)
  /-- ROLL_RUN (R251). RUN starts a stopped circuit, reading its ROLL_DRIVEN mark. -/
  | rollRun (view : View) (tag circuit : Nat)
  /-- ROLL_DRAIN (R254). DRAIN discards a circuit's pending worklists and makes it DRAINING until its rounds in flight complete. -/
  | rollDrain (view : View) (tag circuit : Nat)
  /-- ROLL_WORKLIST (R253). WORKLIST checks a worklist record, makes its entries INFLIGHT and queues it as a round. -/
  | rollWorklist (view : View) (tag : Nat) (record : HostRead)
  /-- ROLL_DRIVEN_WRITE (R250). A write to ROLL_DRIVEN is ignored if it would mark more than eight circuits. -/
  | rollDrivenWrite (view : View) (value : W64)
  /-- ROUND_ISSUE (R238). The hub issues a pending worklist or a roll-driven selection as a round into every stall's round ring once room allows. -/
  | roundIssue (c : Nat)
  /-- ROUND_COMPLETE (R239). When every stall has ended its program for a round, each sample's STEP advances and it becomes DONE, PAUSED or READY. -/
  | roundComplete (c : Nat)
  /-- PROGRAM_START (R237). A stall starts its program for the next round at ENTRY once the round entry is in its ring. -/
  | programStart (n : Nat)
  /-- OPERATION_COMPLETE (R161). An operation completes once all its writes are acknowledged and sets its SIGNAL tokens, ending the program at NEXT = 0xFFFF. -/
  | operationComplete (n k : Nat)
  /-- MATMUL (R84). MATMUL starts once its WAIT tokens are set and walks its loop table issuing matrix instructions. -/
  | matmul (n : Nat)
  /-- CONV (R184). CONV computes a convolution or a pool through the window fetch. -/
  | conv (n : Nat)
  /-- CHAIN (R153). CHAIN computes the score product, the chained soft maximum and the value product per query tile. -/
  | chain (n : Nat)
  /-- ELEMWISE (R131). ELEMWISE applies its epilogue list to each element of its input tile. -/
  | elemwise (at_ : OnStall)
  /-- ROWSTAT (R119). ROWSTAT folds row partials in canonical order. -/
  | rowstat (at_ : OnStall)
  /-- SOFTMAX (R128). SOFTMAX computes the soft maximum of each row in two passes. -/
  | softmax (at_ : OnStall)
  /-- NORM (R126). NORM normalises each row from its completed partial. -/
  | norm (at_ : OnStall)
  /-- DRAW (R276). DRAW picks one column per row of scores by temperature, top-k, top-p and a random draw. -/
  | draw (at_ : OnStall)
  /-- NOISE (R272). NOISE writes normal, uniform, dropout or raw random values keyed by element index. -/
  | noise (at_ : OnStall)
  /-- MOVE (R162). MOVE copies and converts its A operand to C tile by tile. -/
  | move (at_ : OnStall)
  /-- SEND (R317). SEND copies its A operand tile by tile onto a route. -/
  | send (at_ : OnStall)
  /-- RECV (R317). RECV copies tiles from a receive window to scratch or loft and frees each entry. -/
  | recv (at_ : OnStall)
  /-- HALO (R198). HALO exchanges READY and edge rows with its neighbouring bands. -/
  | halo (at_ : OnStall)
  /-- COLLECT (R340). COLLECT performs an all-reduce, reduce-scatter, all-gather or broadcast per tile in canonical ring order. -/
  | collect (at_ : OnStall) (down : Bool)
  /-- STEP (R247). STEP applies the timetable coefficients and optional fresh noise to produce the next latent. -/
  | stepOp (at_ : OnStall)
  /-- GUIDE (R246). GUIDE combines the conditional and unconditional predictions by the guidance scale. -/
  | guide (at_ : OnStall)
  /-- FENCE (R162). FENCE completes once every earlier operation of the stall has completed. -/
  | fence (n : Nat)
  /-- MATRIX_INSTRUCTION_ISSUE (R84). The loop engine issues a matrix instruction once its operand tiles and a slot are ready, and it runs its 64 or 256 steps. -/
  | matrixInstructionIssue (n : Nat) (sram : Secded)
  /-- SLOT_READOUT (R96). A slot whose last instruction ends with READOUT is read row by row as FP32 to the vector engine. -/
  | slotReadout (at_ : OnStall) (slot : Nat)
  /-- CHAIN_OUT (R98). A slot ending with CHAIN_OUT is sent unrounded to the next chain member's window. -/
  | chainOut (at_ : OnStall) (slot : Nat)
  /-- EPILOGUE_RUN (R140). The vector engine runs the epilogue list of the oldest slot in READOUT. -/
  | epilogueRun (at_ : OnStall)
  /-- PROLOGUE_RUN (R143). The prologue list runs once on a usable landed A tile and writes the staged result. -/
  | prologueRun (at_ : OnStall)
  /-- STALL_PREEMPT_STOP (R436). A stall under pre-emption stops at its next pre-emption point or where it waits. -/
  | stallPreemptStop (n : Nat)
  /-- FAB_READ (R288). A loft controller takes a READ request and answers with RDATA. -/
  | fabRead (k : Nat) (ecc : EccReport)
  /-- FAB_WRITE (R288). A loft controller takes a WRITE into its ordered queue, merges partial words and acknowledges it. -/
  | fabWrite (k : Nat) (ecc : EccReport)
  /-- FAB_TAKE (R177). A work counter serves a take atomically and returns the next iteration or the end. -/
  | fabTake (k : Nat)
  /-- FAB_DATA (R315). A credited DATA packet lands in a receive window entry. -/
  | fabData (k : Nat)
  /-- FAB_ACK (R161). An ACK arrives at the writing stall and frees its outstanding-write slot. -/
  | fabAck (k : Nat)
  /-- FAB_RDATA (R173). RDATA arrives in a reserved landing entry, and a tile becomes usable when all its bytes have arrived. -/
  | fabRdata (k : Nat)
  /-- FAB_CREDIT (R315). A CREDIT return restores a sender's credit for a window, ledger or HALO entry. -/
  | fabCredit (k : Nat)
  /-- FAB_LEDGER (R149). A row-ledger partial arrives and is accepted into a FREE entry. -/
  | fabLedger (k : Nat)
  /-- FAB_READY (R198). A HALO READY arrives and is matched, held or discarded by instance count. -/
  | fabReady (k : Nat)
  /-- FAB_REG (R311). A REG access from the hub reaches a stall window and is acknowledged. -/
  | fabReg (view : View) (n off : Nat) (write : Option W64)
  /-- FLIT_RETRY (R310). A flit failing its CRC is resent from the hop's retry buffer, and the packet is dropped after seven failed retries. -/
  | flitRetry (at_ : FlitAt)
  /-- LOFT_SCRUB_TICK (R293). Each slice scrubs the next page on each scrub tick, correcting or poisoning words. -/
  | loftScrubTick (slice : Nat) (ecc : EccReport)
  /-- LOFT_REFRESH (R295). Each slice refreshes itself from its own oscillator, at double rate above 85 °C. -/
  | loftRefresh (slice : Nat) (hot : Bool)
  /-- LOFT_MAP_WRITE (R302). A write to LOFT_MAP takes effect or is ignored with MREFUSED. -/
  | loftMapWrite (view : View) (value : W64)
  /-- LOFT_PART_WRITE (R301). A write to LOFT_PART_i takes effect or is ignored with PREFUSED. -/
  | loftPartWrite (view : View) (i : Nat) (value : W64)
  /-- LOFT_ZERO (R303). ZERO starts writing zero words over a partition entry's range in every slice. -/
  | loftZero (view : View) (tag : Nat) (entry : Nat)
  /-- LOFT_ZERO_DONE (R303). ZERO completes when the last slice has finished its share. -/
  | loftZeroDone
  /-- LANE_LOCK (R322). A lane receiver locks after 64 consecutive good codewords. -/
  | laneLock (e w : Nat)
  /-- LANE_LOSS_OF_LOCK (R328). An active lane loses lock and the link retrains onto the spare, or goes down with none left. -/
  | laneLossOfLock (e w : Nat)
  /-- GATE_BER_WARN (R322). A lane whose corrected symbols reach the threshold within one window raises GATE_BER_WARN. -/
  | gateBerWarn (g w corrected : Nat)
  /-- GATE_ENABLE (R327). A write of GATE_CTL_i.EN enables a gate, which starts training, or disables it. -/
  | gateEnable (view : View) (g : Nat) (value : W64)
  /-- GATE_RETRAIN (R327). A write of RETRAIN starts training of a gate. -/
  | gateRetrain (view : View) (g : Nat)
  /-- GATE_TRAIN_RECEIVE (R327). A TRAIN codeword is received with the far end's identity and proposed lane map. -/
  | gateTrainReceive (g node pgate : Nat) (proposal : List Nat) (farLocks txfail : Nat)
  /-- GATE_TRAIN_DONE (R327). Both ends adopt the lower end's proposal and the gate becomes UP. -/
  | gateTrainDone (g : Nat)
  /-- GATE_FRAME_RECEIVE (R324). A frame is accepted in order or refused with NAK, and its control word is read. `bad` lists
  the logical lanes whose codeword did not decode. -/
  | gateFrameReceive (g : Nat) (bad : List Nat) (seq : Nat) (ctrl : BitVec 48) (payload : List Byte)
  /-- GATE_REPEAT_OLDEST (R324). With 128 frames unacknowledged the transmitter repeats the oldest with REPEAT set. -/
  | gateRepeatOldest (g : Nat)
  /-- GATE_RESEND_LIMIT (R326). A frame sent eight times without acceptance takes the gate DOWN and raises GATE_DOWN. -/
  | gateResendLimit (g : Nat)
  /-- GATE_ACK_TIMEOUT (R326). ACK not advancing for 65,536 frames takes the gate DOWN and raises GATE_DOWN. -/
  | gateAckTimeout (g : Nat)
  /-- GATE_PKT_DATA (R342). A gate DATA packet is relayed straight on or delivered into its window, checking the expected tile number. -/
  | gatePktData (g : Nat)
  /-- GATE_PKT_CREDIT (R337). A gate CREDIT packet returns window credits to the gate controller. -/
  | gatePktCredit (g : Nat)
  /-- GATE_ABORT (R344). A received ABORT raises GROUP_MEMBER_LOST, stops the job and is passed on. -/
  | gateAbort (g : Nat)
  /-- GATE_NODE_WRITE (R327). A write to GATE_NODE takes effect or is ignored with GREFUSED while a gate is enabled. -/
  | gateNodeWrite (view : View) (value : W64)
  /-- GATE_GROUP_WRITE (R336). A write to GATE_GROUP_g is ignored with GREFUSED while a resident image names the group. -/
  | gateGroupWrite (view : View) (g : Nat) (value : W64)
  /-- GATE_ROUTE_WRITE (R336). A write to GATE_ROUTE_r is ignored with RREFUSED while the route lies in a named group's range. -/
  | gateRouteWrite (view : View) (r : Nat) (hi : Bool) (value : W64)
  /-- VID_OPEN (R350). OPEN reads a context record and opens a stream. -/
  | vidOpen (view : View) (tag : Nat) (stream : Nat) (record : HostRead)
  /-- VID_SUBMIT (R354). SUBMIT queues a picture descriptor on a stream. -/
  | vidSubmit (view : View) (tag : Nat) (stream : Nat) (record : HostRead)
  /-- VID_KEY (R362). KEY makes the next picture to start a key picture. -/
  | vidKey (view : View) (tag : Nat) (stream : Nat)
  /-- VID_LTR_MARK (R363). LTR_MARK marks the next picture as the long-term reference of a slot. -/
  | vidLtrMark (view : View) (tag : Nat) (stream slot : Nat)
  /-- VID_LTR_USE (R363). LTR_USE makes the next picture predict only from a slot. -/
  | vidLtrUse (view : View) (tag : Nat) (stream slot : Nat)
  /-- VID_CLOSE (R369). CLOSE discards queued pictures and closes the stream once the running picture completes. -/
  | vidClose (view : View) (tag : Nat) (stream : Nat)
  /-- PICTURE_START (R357). A free engine starts the eligible picture of the highest priority class. -/
  | pictureStart (e : Nat)
  /-- PICTURE_COMPLETE (R355). A picture completes after its picture time and posts a video completion record. -/
  | pictureComplete (e : Nat) (src : EntryData)
  /-- HOST_FLIT_RECEIVE (R373). A host link flit is accepted in order or refused with NAK, and its acknowledgement and credits are read. -/
  | hostFlitReceive (header : W64) (crcOk : Bool)
  /-- HOST_LINK_TIMEOUT (R374). ACK not advancing for 65,536 flit times takes the link down and raises HOST_LINK_DOWN. -/
  | hostLinkTimeout
  /-- HOST_CPL (R376). A completion of a device read of host memory arrives into its reserved space. -/
  | hostCpl (tag status : Nat) (data : List Byte)
  /-- HOST_DB_WRITE (R378). A doorbell write sets a queue's TAIL, or is ignored with QERR. -/
  | hostDbWrite (view : View) (q : Nat) (value : W64)
  /-- HOST_QUEUE_CONFIG_WRITE (R379). A write to HOST_SQ_q or HOST_CQ_q configures a queue, or is ignored with QERR. -/
  | hostQueueConfigWrite (view : View) (q : Nat) (cq : Bool) (value : W64)
  /-- QUEUE_ENTRY_TAKE (R378). The device takes the next submission entry once its unit has accepted the previous one and hands it to the unit. -/
  | queueEntryTake (q : Nat) (entry : HostRead) (data : EntryData)
  /-- COPY_TO_LOFT (R380). COPY TO_LOFT moves bytes from host memory into the loft after a partition check. -/
  | copyToLoft (q tag host loft len : Nat) (data : HostRead) (ecc : EccReport)
  /-- COPY_FROM_LOFT (R380). COPY FROM_LOFT moves bytes from the loft to host memory, reporting poisoned words. -/
  | copyFromLoft (q tag host loft len : Nat) (hostOk : Bool) (ecc : EccReport)
  /-- COMPLETION_RECORD_WRITE (R383). A completion record is written to its queue's ring once there is room, or is lost if the queue is disabled, and may send an alert. -/
  | completionRecordWrite (q : Nat)
  /-- SMB_IDENTITY (R387). SMBus command 0x01 returns the identity registers. -/
  | smbIdentity (pecOk : Bool)
  /-- SMB_TEMPERATURE (R387). SMBus command 0x02 returns the hottest junction temperature. -/
  | smbTemperature (pecOk : Bool)
  /-- SMB_POWER_STATE (R387). SMBus command 0x03 returns the power state. -/
  | smbPowerState (pecOk : Bool)
  /-- SMB_STATUS (R387). SMBus command 0x04 returns the link, alert, drill, ready and link-down bits. -/
  | smbStatus (pecOk : Bool)
  /-- SMB_POWER (R387). SMBus command 0x05 returns the measured power. -/
  | smbPower (pecOk : Bool)
  /-- SMB_LAST_FAULT (R387). SMBus command 0x06 returns the most recent device fault record. -/
  | smbLastFault (pecOk : Bool)
  /-- SMB_CLEAR_ALERT (R387). SMBus command 0x20 clears HOST_STATUS.ALERT. -/
  | smbClearAlert (pecOk : Bool)
  /-- CTX_PREEMPT (R435). PREEMPT stops round issue and makes every stall stop at its next pre-emption point or wait. -/
  | ctxPreempt (view : View) (tag : Nat)
  /-- CTX_STOPPED (R437). Once every stall has stopped and its traffic has drained, CTX_STATUS.STATE becomes STOPPED. -/
  | ctxStopped
  /-- CTX_SAVE (R446). SAVE writes the satchel to host memory or the store module. -/
  | ctxSave (view : View) (tag : Nat) (whole store : Bool) (outcome : SaveOutcome)
  /-- CTX_RESTORE (R449). RESTORE checks and writes a satchel into place. -/
  | ctxRestore (view : View) (tag : Nat) (store : Bool) (data : HostRead)
  /-- CTX_RESUME (R453). RESUME returns the stopped job to its saved circuit states and continues each stall. -/
  | ctxResume (view : View) (tag : Nat)
  /-- CTX_CLEAR (R450). CLEAR returns the job to its state at commit after a refused restore. -/
  | ctxClear (view : View) (tag : Nat)
  /-- CTX_VACATE (R454). VACATE closes streams, discards execution state, unloads images and zeroes the marked partition entries. -/
  | ctxVacate (view : View) (tag : Nat) (zmask : Nat)
  /-- SNAP_CONFIG (R460). CONFIG identifies the store namespace, checks the region and reads both slot records. -/
  | snapConfig (view : View) (tag : Nat) (answers : StoreAnswers)
  /-- SNAP_TAKE (R467). TAKE requests a snapshot at the first step that no training round has reached. -/
  | snapTake (view : View) (tag : Nat)
  /-- SNAP_CAPTURE (R467). At the snapshot step the hub holds training rounds and copies the hub section, groups and control records to the stage area. -/
  | snapCapture
  /-- SNAP_LOSS_READ (R468). Once every training circuit completes the snapshot step, the hub reads the loss and writes the trailer. -/
  | snapLossRead
  /-- SNAP_COMMIT (R461). The last flush completes, the slot record is valid and the snapshot commits. -/
  | snapCommit
  /-- SNAP_ABORT (R470). ABORT stops a drain once its outstanding commands complete. -/
  | snapAbort (view : View) (tag : Nat)
  /-- SNAP_GROUPS (R472). GROUPS writes the group words and routes from a snapshot. -/
  | snapGroups (view : View) (tag : Nat) (slot : Nat) (host keepRoutes : Bool) (data : HostRead)
  /-- SNAP_RESTORE (R473). RESTORE checks and writes a snapshot, runs the position check and enters REPLAY. -/
  | snapRestore (view : View) (tag : Nat) (slot : Nat) (host : Bool) (data : HostRead)
  /-- REPLAY_CHECK (R475). After the replayed step the loss is compared with the trailer and the restore is accepted or REPLAY_MISMATCH is raised. -/
  | replayCheck
  /-- SNAP_CLEAR (R476). CLEAR ends a snapshot hold and returns STATE to ARMED. -/
  | snapClear (view : View) (tag : Nat)
  /-- SNAP_CONFIG_WRITE (R465). A write to a SNAP configuration register is ignored with CREFUSED while an image is resident or a snapshot is active. -/
  | snapConfigWrite (view : View) (off : Nat) (value : W64)
  /-- STORE_CPL (R458). An NVM Express completion arrives on the store port and completes its command. -/
  | storeCpl (cid : Nat) (answer : StoreDone)
  /-- STORE_COMMAND_TIMEOUT (R459). A store command without its completion for 2^31 flit times raises STORE_ERROR. -/
  | storeCommandTimeout (cid : Nat)
  /-- STORE_LINK_DOWN (R459). The store link goes down, raising STORE_ERROR and failing every later store command. -/
  | storeLinkDown
  /-- RNG_SEED_WRITE (R267). A write to RNG_SEED takes effect, or is dropped with WDROP while a circuit runs. -/
  | rngSeedWrite (view : View) (value : W64)
  /-- RNG_BASE_WRITE (R267). A write to RNG_BASE_c takes effect, or is dropped with WDROP while circuit c runs. -/
  | rngBaseWrite (view : View) (c : Nat) (value : W64)
  /-- FAULT_RECORD_COMMIT (R479). The hub assigns SEQ to a raised record, writes it to the logs and applies its class. -/
  | faultRecordCommit (i : Nat)
  /-- FLT_HEAD_WRITE (R486). A write of HEAD frees log records, or is ignored with HREFUSED. -/
  | fltHeadWrite (view : View) (device : Bool) (value : W64)
  /-- STW_APERTURE_READ (R500). An aperture read returns a word of the selected stall space, setting RANGE or UNCORR where due. -/
  | stwApertureRead (view : View) (tag : Nat) (n k : Nat) (sram : Secded)
  /-- STW_APERTURE_WRITE (R501). An aperture write is performed only on an idle unloaded stall or in drill mode, otherwise it sets WREFUSED. -/
  | stwApertureWrite (view : View) (n k : Nat) (value : W64)
  /-- REGISTER_WRITE (R492). A write to a register with no row of its own acts on each field by its access code after the window and view checks. -/
  | registerWrite (view : View) (addr : Nat) (words : List W64) (data : HostRead)
  /-- REGISTER_READ (R424). A host register read is judged by window and view, returning the value, or zero with a VIEW_VIOLATION record, or ADDRESS status with BADACC set. -/
  | registerRead (view : View) (tag : Nat) (addr len : Nat)
  /-- HUB_BOOT_DONE (R388). The hub boot ROM finishes testing the hub die and training the host link, and the phase becomes BOOTED or HUB_SELFTEST_FAIL is raised. -/
  | hubBootDone (ok : Bool)
  /-- VERIFY_DONE (R429). Firmware verification ends up to 2,000,000 hub beats after the image arrives, consuming an epoch and reaching FW_OK, or raising FW_SIGNATURE or FW_ROLLBACK. -/
  | verifyDone (burnOk : Bool)
  /-- SVN_COMMIT_DONE (R430). SVN_COMMIT finishes burning its fuses, 50,000 hub beats each, and completes. -/
  | svnCommitDone
  /-- SIGN_DONE (R434). A SIGN completes within 200,000 hub beats after TREE is set, writes the signed report and posts its completion record. -/
  | signDone
  /-- FW_BCAST_DONE (R399). FW_BCAST finishes its broadcast, repairs and moves and completes, with phase BROADCAST or REFUSED. -/
  | fwBcastDone (failures : List (Nat × Nat))
  /-- LOFT_TEST_DONE (R401). LOFT_TEST finishes its patterns and remaps after about 35.2 million beats and completes, with phase LOFT_OK or REFUSED. -/
  | loftTestDone (pages spares : List (Nat × Nat × Nat))
  /-- LINK_QUAL_DONE (R404). LINK_QUAL finishes the slowest selected part after up to about 15.6 s, applies the results and completes, possibly raising LINK_QUALIFY_FAIL. -/
  | linkQualDone (results : LinkResults)
  deriving DecidableEq, Repr

end Sys2Proof
end

