-- ==== Sys2Proof/Decode.lean ====
section
/-! DEFINITION. Reading a command from a table word. Every row of spec/opcode_table.json lists no bits, so no word spells a
command: commands reach the block through its pins, registers, queues and links (R1). -/

namespace Sys2Proof

/-- The command that a table word spells: none, because no row of the table gives bits. -/
def decodeTableWord (_nbits _w : Nat) : Option Instr := none

end Sys2Proof
end

