-- ==== Sys2Proof/Config.lean ====
section
/-! DEFINITION. What the spec leaves to a part, a data file or an implementation: constants and functions with no body, so
that no statement can rest on a value. Log entries 1, 3, 4 and 7 name them. -/

namespace Sys2Proof.Config

/-! ## Free values (log entry 1) -/

/-- The `i`-th free number. -/
opaque freeNat : Nat → Nat

/-- The payload bytes that the hub's outbound buffer of a gate holds (R318). -/
opaque gateBuffer : Nat

/-! ## Fused values (log entry 3; R430, R431, R495, R498) -/

/-- DEV_SERIAL.SERIAL. -/
opaque serial : W64
/-- DEV_LOT, lot and date codes. -/
opaque lot : W64
/-- DEV_FEAT.ROMVER. -/
opaque romver : Byte
/-- The anti-rollback fuses burned when the part left manufacture, reduced to 0 to 64 where it is read. -/
opaque svnFused : Nat
/-- The epoch fuses burned when the part left manufacture, reduced to 0 to 32,768 where it is read. -/
opaque epochsFused : Nat
/-- SEC_IDKEY's identifier and root: the last 48 of its 60 bytes. -/
opaque idKey : Nat → Byte

/-! ## Keys and signatures of the part (log entry 7; R428, R431, R434) -/

/-- The vendor's LMS public key in the boot ROM: 56 bytes. -/
opaque vendorKey : List Byte
/-- The randomizer, the chain values and then the path of the top tree's signature with leaf `e` over the lower tree's key, byte `i`. -/
opaque topSign : Nat → Nat → Byte
/-- The identifier and the root of the lower tree of epoch `e`, byte `i`. -/
opaque lowerKey : Nat → Nat → Byte
/-- The randomizer, the chain values and then the path of the signature that leaf `l` of epoch `e` gives over a report, byte `i`. -/
opaque lowerSign : Nat → Nat → List Byte → Nat → Byte

/-! ## The WJ2 function table (log entry 7; R113 to R115) -/

/-- A segment's record by function code, segment key and field: C0, C1, C2, C3, CLAMP (4) and CLAMP_KIND (5). The key is
the segmented variable's sign, exponent and top three fraction bits, plus 4,096 × the part of the function it belongs to. -/
opaque segment : Nat → Nat → Nat → W32
/-- LN2 in FP32 as the table holds it. -/
opaque ln2 : W32
/-- The three parts of π/2 that argument reduction subtracts. -/
opaque piHalf : Nat → W32

/-! ## Parameters whose place in OPARAM the spec does not give (log entry 7; R119, R126, R128) -/

/-- The epsilon of a NORM, by the OPARAM bytes. -/
opaque normEps : List Byte → W32
/-- The form of a NORM (true: by mean and variance; false: root mean square), by the OPARAM bytes. -/
opaque normCentred : List Byte → Bool

/-- The statistic that a ROWSTAT stores in column `c`, by the OPARAM bytes: an index into R121's list. -/
opaque rowstatColumn : List Byte → Nat → Nat

/-! ## Video coding (log entry 7; R346 to R367): functions of a picture's place and content alone (R43, R44, R47). The arguments are
the stream's position, its context record, the bytes of its reference area, and the picture's samples or the unit's bytes. -/

/-- The coded picture: a bitstream of the declared profile and level (R346, R349, R353). -/
opaque codedBytes : List Nat → List Byte → List Byte → List Nat → List Byte
/-- Step 1 or step 2 of R361 acted on the picture. -/
opaque budgetHit : List Nat → List Byte → List Byte → List Nat → Bool
/-- The picture store that a picture takes, reduced modulo NREF, and byte `i` of what it holds then (R351). -/
opaque refStore : List Nat → List Byte → List Byte → List Nat → Nat
opaque refByte : List Nat → List Byte → List Byte → List Nat → Nat → Byte
/-- What a decode engine makes of a unit, reduced modulo 5: 0 decoded, 1 a reference missing, 2 a syntax error or a level limit
exceeded, 3 a sequence header that it does not support, 4 show_existing_frame. -/
opaque unitKind : List Nat → List Byte → List Byte → List Nat → Nat
/-- The unit is a key picture with a supported sequence header. -/
opaque unitKey : List Nat → List Byte → List Byte → List Nat → Bool
/-- The frame of the unit is shown. -/
opaque unitShown : List Nat → List Byte → List Byte → List Nat → Bool
/-- PicOrderCntVal, or the display order count, of the unit's picture (R355). -/
opaque unitOrder : List Nat → List Byte → List Byte → List Nat → Nat
/-- The reference slot that a show_existing_frame shows, and the mask of the slots that a frame refreshes (R355, R365). -/
opaque unitSlot : List Nat → List Byte → List Byte → List Nat → Nat
opaque unitRefresh : List Nat → List Byte → List Byte → List Nat → Nat
/-- Sample `k` of the decoded picture, in the order of its planes. -/
opaque decodedSample : List Nat → List Byte → List Byte → List Nat → Nat → Nat
/-- The largest picture of a level, in bits, by CODEC and LEVEL. -/
opaque picLimit : Nat → Nat → Nat

end Sys2Proof.Config
end

