-- ==== Sys2Proof/Machine/Bytes.lean ====
section
/-! DEFINITION. Tables by index, bit fields, little-endian bytes and byte memory in canonical form. -/

namespace Sys2Proof.Machine

/-! ## Tables -/

/-- The entry listed at `i`. -/
def tfind {α : Type} (t : Table α) (i : Nat) : Option α :=
  match t with
  | [] => none
  | (j, v) :: r => if j = i then some v else tfind r i

/-- The entry at `i`, `d` where none is listed. -/
def tget {α : Type} (d : α) (t : Table α) (i : Nat) : α := (tfind t i).getD d

/-- The table with `v` listed at `i`, in rising order. -/
def tset {α : Type} (t : Table α) (i : Nat) (v : α) : Table α :=
  match t with
  | [] => [(i, v)]
  | (j, w) :: r =>
    if i < j then (i, v) :: (j, w) :: r
    else if i = j then (i, v) :: r
    else (j, w) :: tset r i v

/-- The table with the entry at `i` changed by `f`. -/
def tmod {α : Type} (d : α) (t : Table α) (i : Nat) (f : α → α) : Table α := tset t i (f (tget d t i))

/-- The table without an entry at `i`. -/
def tdel {α : Type} (t : Table α) (i : Nat) : Table α := t.filter fun p => p.1 ≠ i

/-! ## Bit fields -/

/-- Bits `hi` to `lo` of a number. -/
def bits (x hi lo : Nat) : Nat := (x / 2 ^ lo) % 2 ^ (hi + 1 - lo)

/-- Field [hi:lo] of a register word (R7). -/
def fld (w : W64) (hi lo : Nat) : Nat := bits w.toNat hi lo

/-- Bit `i` of a number. -/
def bit (x i : Nat) : Bool := x.testBit i

/-- A Bool as a one-bit number. -/
def b2n (b : Bool) : Nat := if b then 1 else 0

/-- A value saturated to `n` bits. -/
def sat (n x : Nat) : Nat := min x (2 ^ n - 1)

/-- A register word from (bit position, value) pairs; each value must already fit its field. -/
def pack (fs : List (Nat × Nat)) : W64 := BitVec.ofNat 64 (fs.foldl (fun a p => a + p.2 * 2 ^ p.1) 0)

/-- `n` reduced to `w` bits in two's complement. -/
def twos (w : Nat) (x : Int) : Nat := (x % (2 ^ w : Int)).toNat

/-- The signed number that `w` bits hold. -/
def signed (w x : Nat) : Int := if x % 2 ^ w < 2 ^ (w - 1) then (x % 2 ^ w : Nat) else ((x % 2 ^ w : Nat) : Int) - 2 ^ w

/-- The indices of the set bits among the lowest `n`. -/
def setBits (n x : Nat) : List Nat := (List.range n).filter fun i => x.testBit i

/-- A mask from a list of bit numbers. -/
def maskOf (is : List Nat) : Nat := is.foldl (fun a i => a ||| (1 <<< i)) 0

/-! ## Bytes, little-endian (R7) -/

/-- `n` bytes of a number, least significant first. -/
def leBytes : Nat → Nat → List Byte
  | 0, _ => []
  | n + 1, x => BitVec.ofNat 8 x :: leBytes n (x / 256)

/-- The number that bytes hold, least significant first. -/
def leNat : List Byte → Nat
  | [] => 0
  | b :: r => b.toNat + 256 * leNat r

/-- Bytes `off` to `off + n − 1` of a string, absent bytes reading 0. -/
def slice (bs : List Byte) (off n : Nat) : List Byte :=
  let t := (bs.drop off).take n
  t ++ List.replicate (n - t.length) 0

/-- The little-endian number in bytes `off` to `off + n − 1`. -/
def leAt (bs : List Byte) (off n : Nat) : Nat := leNat (slice bs off n)

/-- Byte `i` of a string, 0 beyond its end. -/
def byteAt (bs : List Byte) (i : Nat) : Nat := (bs.getD i 0).toNat

/-- `n` zero bytes. -/
def zeros (n : Nat) : List Byte := List.replicate n 0

/-- A string cut or padded with zeros to `n` bytes. -/
def padTo (n : Nat) (bs : List Byte) : List Byte := slice bs 0 n

/-- A string cut into pieces of `n` items, by fuel. -/
def chunksFuel {α : Type} : Nat → Nat → List α → List (List α)
  | 0, _, _ => []
  | _ + 1, _, [] => []
  | f + 1, n, x :: r => ((x :: r).take n) :: chunksFuel f n ((x :: r).drop n)

/-- A string cut into pieces of `n` items. -/
def chunks {α : Type} (n : Nat) (l : List α) : List (List α) := chunksFuel l.length n l

/-! ## Byte memory -/

/-- The byte at an address; an unlisted byte reads 0 (log entry 4). -/
def memGet (m : List (Nat × Byte)) (a : Nat) : Byte :=
  match m with
  | [] => 0
  | (j, v) :: r => if j = a then v else memGet r a

/-- The memory without an entry at `a`. -/
def memDel (m : List (Nat × Byte)) (a : Nat) : List (Nat × Byte) :=
  match m with
  | [] => []
  | (j, v) :: r => if j = a then r else if a < j then (j, v) :: r else (j, v) :: memDel r a

/-- The memory with a nonzero `b` listed at `a`. -/
def memPut (m : List (Nat × Byte)) (a : Nat) (b : Byte) : List (Nat × Byte) :=
  match m with
  | [] => [(a, b)]
  | (j, v) :: r =>
    if a < j then (a, b) :: (j, v) :: r
    else if a = j then (a, b) :: r
    else (j, v) :: memPut r a b

/-- The memory with byte `b` at `a`: writing zero removes the entry. -/
def memSet (m : List (Nat × Byte)) (a : Nat) (b : Byte) : List (Nat × Byte) :=
  if b = 0 then memDel m a else memPut m a b

/-- `n` bytes from `a` up. -/
def memRead (m : List (Nat × Byte)) (a n : Nat) : List Byte := (List.range n).map fun i => memGet m (a + i)

/-- The memory with the cells written in order. -/
def memCells (m : List (Nat × Byte)) (cs : List (Nat × Byte)) : List (Nat × Byte) :=
  cs.foldl (fun m c => memSet m c.1 c.2) m

/-- The memory with the bytes `bs` from `a` up. -/
def memWrite (m : List (Nat × Byte)) (a : Nat) (bs : List Byte) : List (Nat × Byte) :=
  match bs with
  | [] => m
  | b :: r => memWrite (memSet m a b) (a + 1) r

/-- The memory with every byte of [lo, hi) zero. -/
def memZero (m : List (Nat × Byte)) (lo hi : Nat) : List (Nat × Byte) := m.filter fun c => c.1 < lo || hi ≤ c.1

/-- The memory with every byte outside the kept addresses zero. -/
def memKeep (m : List (Nat × Byte)) (keep : Nat → Bool) : List (Nat × Byte) := m.filter fun c => keep c.1

/-- Addresses strictly rise from `a`, and no listed byte is zero. -/
def memWfFrom (a : Nat) (m : List (Nat × Byte)) : Bool :=
  match m with
  | [] => true
  | (j, v) :: r => decide (a ≤ j) && decide (v ≠ 0) && memWfFrom (j + 1) r

/-- The canonical form of byte memory: addresses strictly rise and no listed byte is zero. -/
def Memory.wf (m : List (Nat × Byte)) : Bool := memWfFrom 0 m

end Sys2Proof.Machine
end

