-- ==== Sys2Proof/Machine/State.lean ====
section
/-! DEFINITION. The state of the WJ2 as plain data: every register, buffer, queue, counter and mode that spec/ names,
block by block, the queue of waiting commands, and the state after reset. Field defaults are the reset values. -/

namespace Sys2Proof.Machine

/-- Bytes by address, strictly rising, no byte that is zero (an unlisted byte reads 0; log entry 4). -/
abbrev Mem := List Host.Cell

/-- The reasons a step can stop with a fault. -/
inductive Fault where
  /-- Reserved for an access that spec/ would call non-existent; no meaning of this model raises it, because the spec
  gives every access an outcome (R424, R490, R491). Safe. -/
  | outsideDevice
  deriving DecidableEq, Repr

/-- The reasons a command has no meaning. -/
inductive Refusal where
  /-- Raised by no meaning: the mark of a command that is not modelled, by its mnemonic. Safe. -/
  | notModelled (mnemonic : String)
  deriving DecidableEq, Repr

/-! ## Common pieces -/

/-- Who issued a unit's command: a register access, or a command queue (R383). -/
inductive Via where
  | reg
  | queue (q : Nat)
  deriving DecidableEq, Repr

/-- A command's issuer and the TAG it carries (8 bits through a register, 32 through a queue; R380). -/
structure Issuer where
  via : Via := .reg
  tag : Nat := 0
  deriving DecidableEq, Repr

/-- A fault record before and after the hub commits it (R477). `seq` is assigned at commit (R479). -/
structure FRec where
  code : Nat := 0
  source : Nat := 0
  unit : Nat := 0
  lstall : Nat := 0x7FF
  beats : Nat := 0
  detail : List Byte := []
  seq : Nat := 0
  viaCtx : Bool := false
  deriving DecidableEq, Repr

/-- A completion record waiting for its ring (R382, R383). -/
structure CplRec where
  tag : Nat := 0
  status : Nat := 0
  kind : Nat := 0
  body : List Byte := []
  deriving DecidableEq, Repr

/-- A transaction the device sends on the host link (R375). -/
inductive HostTxn where
  | write (addr : Nat) (bytes : List Byte)
  | read (addr len tag : Nat)
  | cpl (tag status : Nat) (bytes : List Byte)
  | msg (field : W64)
  deriving DecidableEq, Repr

/-! ## Pins, DEV and HOST -/

/-- The three board inputs (R386, R508); unconnected inputs read low (R509; log entry 2). -/
structure Pins where
  resetN : Bool := false
  pwrgdAux : Bool := false
  pwrgdCore : Bool := false
  deriving DecidableEq, Repr

/-- The DEV block (R498), the pace counts (R39) and the hub's own counts (R36). -/
structure Dev where
  scratch : W64 := 0
  badacc : Bool := false
  paceBarn : Table Nat := []
  paceHub : Nat := 0
  hubBeats : Nat := 0
  booting : Bool := false
  deriving DecidableEq, Repr

/-- One command queue pair (R378, R379, R382). `blocked` is the unit and OP of an entry that has been read and waits at the head
for its busy unit (R378). -/
structure Queue where
  sqBase : Nat := 0
  sqEn : Bool := false
  sqLog2 : Nat := 0
  cqBase : Nat := 0
  cqAlert : Bool := false
  cqLog2 : Nat := 0
  tail : Nat := 0
  sqHead : Nat := 0
  cqHead : Nat := 0
  cqTail : Nat := 0
  phase : Bool := true
  waiting : List CplRec := []
  inflight : Nat := 0
  blocked : Option (Nat × Nat) := none
  deriving DecidableEq, Repr

/-- What an outstanding read of host memory is for (R376). -/
inductive ReadUse where
  | firmware (offset : Nat)
  | other
  deriving DecidableEq, Repr

/-- An outstanding read of host memory (R376). -/
structure HostReq where
  tag : Nat
  addr : Nat
  len : Nat
  use : ReadUse
  deriving DecidableEq, Repr

/-- The HOST block and the host link (R371 to R385). -/
structure HostBlk where
  up : Bool := false
  down : Bool := false
  alert : Bool := false
  qerr : Bool := false
  replays : Nat := 0
  cqlost : Nat := 0
  evq : Nat := 0
  queues : Table Queue := []
  lastJob : Nat := 15
  lastPriv : Nat := 19
  rxAck : Nat := 4095
  rxNak : Bool := false
  txSeq : Nat := 0
  unacked : List Nat := []
  posted : Nat := 1024
  nonposted : Nat := 256
  tx : List HostTxn := []
  txq : List HostTxn := []
  reads : List HostReq := []
  deriving DecidableEq, Repr

/-! ## PWR -/

/-- The commanded power states (R407); ACTIVE is IDLE with a yard ungated. -/
inductive PState where
  | aux
  | standby
  | idle
  deriving DecidableEq, Repr

/-- The PWR block and the transitions in progress (R407 to R421). -/
structure PwrBlk where
  st : PState := .aux
  moving : Option PState := none
  pend : Option (PState × Nat) := none
  yardsQueued : Option Nat := none
  tag : Nat := 0
  result : Nat := 0
  yardSet : BitVec 40 := 0
  yardOn : BitVec 40 := 0
  gating : BitVec 40 := 0
  ungating : BitVec 40 := 0
  waitingY : BitVec 40 := 0
  pendY : BitVec 40 := 0
  pendTarget : BitVec 40 := 0
  pendTag : Nat := 0
  vset : Nat := 750
  power : Nat := 0
  vcore : Nat := 0
  updates : Nat := 0
  temps : List Int := []
  hot : Bool := false
  vmismatch : Bool := false
  tripped : Bool := false
  thermalLogged : Bool := false
  supplyLogged : Bool := false
  stopped : Bool := false
  deriving DecidableEq, Repr

/-! ## BRING -/

/-- The bring-up phases (R391). -/
inductive Phase where
  | reset | booted | fwOk | fused | testing | reconciled | broadcast | main | loftOk | qualified | ready | drillReturn
  | refused
  deriving DecidableEq, Repr

/-- BRING_PST_p.TEST (R391). -/
inductive TestState where
  | untested | running | pass | failArray | failMemory | failVector | failOther | failFw
  deriving DecidableEq, Repr

/-- BRING_PST_p, the firmware a physical stall holds and its drill-mode stop (R27, R391, R399). -/
structure Pst where
  rs0 : Nat := 127
  rs1 : Nat := 127
  cs0 : Nat := 127
  cs1 : Nat := 127
  fuseBad : Bool := false
  test : TestState := .untested
  retired : Bool := false
  logical : Option Nat := none
  fw : Bool := false
  drillStop : Bool := false
  deriving DecidableEq, Repr

/-- BRING_OPT_e with the fuse-bad wavelengths of the engine (R391, R393). -/
structure OptQual where
  worst : Nat := 0
  txfail : Nat := 0
  fail : Nat := 0
  tested : Nat := 0
  fuseBad : Nat := 0
  deriving DecidableEq, Repr

/-- The BRING commands that run until an event completes them. -/
inductive BringOp where
  | selftest | fwBcast | loftTest | linkQual (arg : Nat)
  deriving DecidableEq, Repr

/-- The BRING block and what bring-up has recorded (R388 to R405). -/
structure BringBlk where
  phase : Phase := .reset
  run : Option (BringOp × Nat) := none
  tag : Nat := 0
  result : Nat := 0
  overrun : Bool := false
  ready : Bool := false
  main : Bool := false
  drill : Bool := true
  refusal : Nat := 0
  disagree : Nat := 0
  ended : Bool := false
  loftTested : Bool := false
  wasReady : Bool := false
  drillFail : Bool := false
  intPass : Bool := false
  hostPass : Bool := false
  storePass : Bool := false
  waves : Table W64 := []
  wave : List Nat := []
  pst : Table Pst := []
  opt : Table OptQual := []
  intDone : Bool := false
  ringFail : Nat := 0
  hubFail : Nat := 0
  vlinkFail : List Nat := []
  fuseRemap : List (Nat × Nat × Nat) := []
  volRemap : List (Nat × Nat × Nat) := []
  spareBad : List (Nat × Nat × Nat) := []
  stopUnits : List (Nat × Nat) := []
  deriving DecidableEq, Repr

/-! ## SEC -/

/-- The running firmware image (R428, R429). -/
structure Firmware where
  digest : List Byte
  stallDigest : List Byte
  svn : Nat
  build : W64
  deriving DecidableEq, Repr

/-- The SEC commands that run until an event completes them. -/
inductive SecOp where
  | verify (len : Nat) | svnCommit
  deriving DecidableEq, Repr

/-- A SIGN in progress (R434): its issuer's view, TAG, buffer and the nonce read. -/
structure SignRun where
  view : View
  tag : Nat
  addr : Nat
  nonce : List Byte
  deriving DecidableEq, Repr

/-- The SEC block and the security fuses (R427 to R434). `svnBurned` and `epochsBurned` count the fuses burned beyond
those the part left manufacture with (log entry 3); they are kept through reset. -/
structure SecBlk where
  tag : Nat := 0
  result : Nat := 0
  overrun : Bool := false
  run : Option (SecOp × Nat) := none
  fwAddr : Nat := 0
  fetched : Table (List Byte) := []
  fetchNext : Nat := 0
  fetchBad : Bool := false
  fw : Option Firmware := none
  epochOk : Bool := false
  jrefused : Bool := false
  svnBurned : Nat := 0
  epochsBurned : Nat := 0
  owned : Bool := false
  jobid : Nat := 0
  attTag : Nat := 0
  attResult : Nat := 0
  attOverrun : Bool := false
  attAddr : Nat := 0
  sign : Option SignRun := none
  tree : Bool := false
  leaf : Nat := 0
  epoch : Option Nat := none
  refusedWhy : Option Nat := none
  stepFive : Bool := false
  deriving DecidableEq, Repr

/-! ## SYL -/

/-- Slot states (R201). -/
inductive SlotState where
  | empty | filling | staged | bad | resident
  deriving DecidableEq, Repr

/-- A loft page of the cache partition that holds the bytes of an image page: those of the STALL section of stall `owner`, or, with
none, those of no STALL section (R203, R286; log entry 12). -/
structure CachePage where
  page : Nat
  owner : Option Nat
  base : Nat
  deriving DecidableEq, Repr

/-- One slot of the model cache (R201, R222): the bytes as they were staged, or, once loaded, as they were installed; whether FINISH
verified a signature; and where the bytes lie in the loft (R203). -/
structure CacheSlot where
  st : SlotState := .empty
  bytes : List Byte := []
  signed : Bool := false
  pages : List CachePage := []
  deriving DecidableEq, Repr

/-- A LOAD in its load phases (R225, R226). -/
structure LoadRun where
  slot : Nat
  issuer : Issuer
  start : Nat
  deriving DecidableEq, Repr

/-- The SYL block (R220 to R234). -/
structure SylBlk where
  argAddr : Nat := 0
  argOff : Nat := 0
  argLen : Nat := 0
  stageTag : Nat := 0
  loadTag : Nat := 0
  stageResult : Nat := 0
  loadResult : Nat := 0
  overrun : Bool := false
  held : Bool := false
  heldFull : Bool := false
  heldStalls : List Nat := []
  load : Option LoadRun := none
  loadFailed : Bool := false
  failFull : Bool := false
  failStalls : List Nat := []
  faultCode : Nat := 0
  loadBeats : Nat := 0
  slots : Table CacheSlot := []
  lock : Bool := false
  require : Bool := false
  keyv : Nat := 0
  keys : Table W64 := []
  deriving DecidableEq, Repr

/-! ## ROLL and RNG -/

/-- Sample states (R249). -/
inductive SampleState where
  | free | ready | inflight | done | paused
  deriving DecidableEq, Repr

/-- A roll entry (R249): its data fields, its status, the count at which it last became READY (R255) and the issuer of
its last WRITE (R383). -/
structure RollEntry where
  step : Nat := 0
  nsteps : Nat := 0
  prio : Nat := 0
  circuit : Nat := 0
  seed : W64 := 0
  gscale : W32 := 0
  arena : Nat := 0
  first : Nat := 0
  tag : Nat := 0
  tt : Nat := 0
  st : SampleState := .free
  ppend : Bool := false
  order : Nat := 0
  via : Via := .reg
  deriving DecidableEq, Repr

/-- Circuit states (ROLL_CIRC_c.STATE). -/
inductive CircState where
  | absent | stopped | running | draining
  deriving DecidableEq, Repr

/-- An accepted worklist (R253). -/
structure Worklist where
  tag : Nat
  via : Via
  entries : List Nat
  deriving DecidableEq, Repr

/-- A round in flight (R236 to R239): its number, its samples in batch position order, the stalls that have ended their
program for it, and the worklist it came from. -/
structure Round where
  num : Nat
  samples : List Nat
  ended : List Nat
  work : Option (Nat × Via)
  deriving DecidableEq, Repr

/-- A circuit (R236, R249, R254). -/
structure Circ where
  st : CircState := .absent
  next : Nat := 0
  rounds : Nat := 0
  flight : List Round := []
  pending : List Worklist := []
  driven : Bool := false
  deriving DecidableEq, Repr

/-- The ROLL block (R249 to R255). -/
structure RollBlk where
  regs : RollEntry := {}
  argAddr : Nat := 0
  tag : Nat := 0
  result : Nat := 0
  overrun : Bool := false
  entries : Table RollEntry := []
  circuits : Table Circ := []
  mark : BitVec 32 := 0
  readyCount : Nat := 0
  deriving DecidableEq, Repr

/-- The RNG block (R265 to R267). `seed0` and `base0` are the registers at the last commit, to which CLEAR returns them (R450; log
entry 26). -/
structure RngBlk where
  seed : W64 := 0
  base : Table Nat := []
  wdrop : Bool := false
  seed0 : W64 := 0
  base0 : Table Nat := []
  deriving DecidableEq, Repr

/-! ## LOFT -/

/-- A partition entry LOFT_PART_i (R299). -/
structure Part where
  access : Nat := 0
  base : Nat := 0
  limit : Nat := 0
  deriving DecidableEq, Repr

/-- The refresh and scrub state of one slice (R293, R295). -/
structure Slice where
  page : Nat := 0
  passes : Nat := 0
  doubled : Bool := false
  refreshes : Nat := 0
  deriving DecidableEq, Repr

/-- A ZERO in progress (R303), or one that VACATE runs (R454). -/
structure ZeroRun where
  entry : Nat
  base : Nat
  limit : Nat
  issuer : Option Issuer
  deriving DecidableEq, Repr

/-- The parts of a WRITE transfer that have reached the loft: its number, their cells, and the bytes still to arrive (R181). -/
structure TileWrite where
  id : Nat
  cells : List (Nat × Byte)
  left : Nat
  deriving DecidableEq, Repr

/-- The loft and the LOFT block (R280 to R303). -/
structure LoftBlk where
  mem : Mem := []
  poison : List Nat := []
  loc : Nat := 8
  cloc : Nat := 16
  zresult : Nat := 0
  ztag : Nat := 0
  zero : Option ZeroRun := none
  mrefused : Bool := false
  prefused : Bool := false
  poisoned : Nat := 0
  corrected : Table Nat := []
  scrubOn : Bool := true
  tick : Nat := 12
  slices : Table Slice := []
  plog : Table Nat := []
  parts : Table Part := []
  writes : List TileWrite := []
  deriving DecidableEq, Repr

/-! ## Stalls: descriptors and running programs -/

/-- A loop record (R164). -/
structure LoopRec where
  bound : Nat := 0
  role : Nat := 0
  order : Nat := 0
  preempt : Bool := false
  take : Bool := false
  hubctr : Bool := false
  ctr : Nat := 0
  dyn : Bool := false
  sa : Int := 0
  sb : Int := 0
  sc : Int := 0
  sx : Int := 0
  zero : Bool := true
  deriving DecidableEq, Repr

/-- An operand record (R169); `geom` is bytes 16 to 23 whole, read as SCALE_BASE or GEOM (R185). -/
structure OpRec where
  space : Nat := 0
  sfmt : Nat := 0
  id : Nat := 0
  landing : Nat := 0
  base : Nat := 0
  geom : Nat := 0
  srow : Nat := 0
  extent : Nat := 0
  deriving DecidableEq, Repr

/-- A stage record (R132). -/
structure StageRec where
  kind : Nat := 0
  func : Nat := 0
  fmt : Nat := 0
  rnd : Nat := 0
  ovf : Bool := false
  vfmt : Nat := 0
  imm : W32 := 0
  vaddr : Nat := 0
  xaddr : Nat := 0
  zero : Bool := true
  deriving DecidableEq, Repr

/-- An operation descriptor (R159, R160). -/
structure Desc where
  opcode : Nat := 0
  afmt : Nat := 0
  bfmt : Nat := 0
  cfmt : Nat := 0
  xfmt : Nat := 0
  rnd : Nat := 0
  ovf : Bool := false
  kin : Bool := false
  kout : Bool := false
  next : Nat := 0xFFFF
  cprev : Nat := 0x7FF
  cnext : Nat := 0x7FF
  wait : W64 := 0
  signal : W64 := 0
  swinBase : Nat := 0
  swinLen : Nat := 0
  cwinBase : Nat := 0
  cwinCap : Nat := 0
  fillmap : Nat := 0
  oparam : List Byte := []
  loops : List LoopRec := []
  a : OpRec := {}
  b : OpRec := {}
  c : OpRec := {}
  x : OpRec := {}
  pro : List StageRec := []
  epi : List StageRec := []
  deriving DecidableEq, Repr

/-- The state of a landing (R141, R143, R291); `dropped`: the loop has moved past it before all of its bytes arrived. -/
inductive LandState where
  | reserved | full | staged | poisoned | dropped
  deriving DecidableEq, Repr

/-- A landing of an operand (R172, R173): the operand (0 A, 1 B, 3 aux; 4 and 5 the
edge rows of a HALO, 6 and 7 the rows that its neighbours send), the iteration it was
fetched for, its entry, the bytes still to arrive (R141), the bytes that the fetch unit holds outside the entry (log entry
39), and the lines whose prologue produced NaN (R70). -/
structure Landing where
  opnd : Nat
  it : List Nat
  entry : Nat
  st : LandState
  left : Nat := 0
  raw : Mem := []
  nan : List Nat := []
  deriving DecidableEq, Repr

/-- A slot's tile read out to the vector engine and waiting for its epilogue (R96, R140), or, with `fin`, a tile of a
CHAIN's final output waiting for the stages after SOFTMAX_CHAIN (R153). `slot` is the slot that its tile still occupies while the
row ledger may make it wait (R147). -/
structure ReadTile where
  it : List Nat
  vals : List W32
  nan : List Nat
  fin : Bool := false
  slot : Option Nat := none
  deriving DecidableEq, Repr

/-- A row ledger entry (R146), and what the device knows of it beside its 32 bytes: whether an infinite element is folded in (R124;
log entry 13), the descriptor and instance whose row it is (R147; log entry 40), the consumers it is still to be sent to and how many
have it and have not accepted it (R149), and the sender and credit key of the partial it accepted (R315). -/
structure Ledger where
  n : Nat := 0
  st : Nat := 0
  max : W32 := 0
  sum : W32 := 0
  sq : W32 := 0
  mean : W32 := 0
  m2 : W32 := 0
  inf : Bool := false
  nextCol : Nat := 0
  row : Nat := 0
  own : Nat × Nat := (0xFFFF, 0)
  todo : List (Nat × Nat) := []
  await : Nat := 0
  from_ : Option (Nat × Nat) := none
  deriving DecidableEq, Repr

/-- The staged result of an A tile that lies in scratch or in a window (R143): its iteration, its bytes, and the lines
whose prologue produced NaN. -/
structure Staged where
  it : List Nat
  bytes : List Byte
  nan : List Nat
  deriving DecidableEq, Repr

/-- An operation in progress in a stall (R161, R163): its descriptor and instance number, its loop iteration per level,
whether iterations remain, what a TAKE waits for, the next iteration to fetch for each operand, landings, the staged A tile,
read-out tiles and how many rows of the oldest have met the ledger (R147), the COLLECT's next downward tile (R340), the cells of a
CHAIN's running output that became NaN (R70), the partials of rows between their tiles and passes (R119, R126, R129), the iteration
to return to once they are complete (log entry 17), a pool's folds and their NaN cells (R193), the candidates and results of a DRAW
(R276, R278), writes outstanding and event counts. Index 6 of an iteration is the pass of a SOFTMAX or NORM, index 7 the channel of
a pool's tile (log entry 17). -/
structure OpCtx where
  desc : Nat := 0
  inst : Nat := 0
  d : Desc := {}
  dynBound : Nat := 0
  it : List Nat := []
  walking : Bool := true
  takeWait : Bool := false
  takeSent : Bool := false
  fetchA : Option (List Nat) := none
  fetchB : Option (List Nat) := none
  fetchX : Option (List Nat) := none
  lands : List Landing := []
  staged : Option Staged := none
  readouts : List ReadTile := []
  down : Option (List Nat) := none
  chainNan : List Nat := []
  rows : List (List Nat × List Ledger) := []
  led : Nat := 0
  back : Option (List Nat) := none
  pool : List W32 := []
  poolNan : List Nat := []
  cands : List (List (W32 × Nat) × Nat) := []
  drawn : List (Int × Nat) := []
  out : Nat := 0
  satur : Nat := 0
  under : Nat := 0
  nans : Nat := 0
  deriving DecidableEq, Repr

/-- The program of a stall for one round (R237). -/
structure Prog where
  round : Nat := 0
  next : Nat := 0xFFFF
  ops : List OpCtx := []
  deriving DecidableEq, Repr

/-- Accumulator slot states (R93). -/
inductive SlotSt where
  | free | live | readout | sending | poisoned
  deriving DecidableEq, Repr

/-- An accumulator tile slot (R75, R93): 4,096 values row by row, the operation and output tile it serves. -/
structure AccSlot where
  st : SlotSt := .free
  vals : List Acc := []
  desc : Nat := 0
  it : List Nat := []
  nan : List Nat := []
  deriving DecidableEq, Repr

/-- A row partial held until its predecessor has folded (R148). -/
structure HeldPartial where
  entry : Nat
  row : Nat
  col : Nat
  ncols : Nat
  part : Ledger
  deriving DecidableEq, Repr

/-- An entry of a receive window in use (R141, R315), oldest first in its window: its tile's number, the bytes still to arrive, and the
sender, credit key and destination index that its credit returns to, or the group and member for a gate window (R337). -/
structure WinEntry where
  entry : Nat
  tile : Nat
  left : Nat := 0
  src : Nat := 0x7FF
  key : Nat := 0
  dst : Nat := 0
  grp : Option (Nat × Nat) := none
  deriving DecidableEq, Repr

/-- What a stall holds of the resident image it belongs to (R212, R213). -/
structure Loaded where
  slot : Nat
  circuit : Nat
  dtbase : Nat
  dtcount : Nat
  entry : Nat
  deriving DecidableEq, Repr

/-- A physical stall (R159 to R182, R443, R499). Window keys: 0–63 receive windows; 64 + d the chain window of
descriptor d; 8,192 + d its pair window; 16,384 and 16,385 the low and high halo. `winCount` counts the tiles that have come into a window or a
route's share of one, `winPos` is the place in the order of use of the next tile (log entry 41), `outQ` orders the tiles read out
(R140). `corrected` counts the words that SEC-DED
corrected (R19); no register shows it. -/
structure Stall where
  scratch : Mem := []
  slots : Table AccSlot := []
  readQ : List Nat := []
  sendQ : List Nat := []
  ledger : Table Ledger := []
  held : List HeldPartial := []
  tokens : W64 := 0
  inst : Table Nat := []
  beats : Nat := 0
  loaded : Option Loaded := none
  ring : List Nat := []
  prog : Option Prog := none
  lastRound : Nat := 0
  lastDesc : Nat := 0xFFFF
  lastIt : List Nat := []
  takeV : Nat := 0
  haloBits : BitVec 8 := 0
  haloReady : List (Nat × Nat × Nat) := []
  wins : Table (List WinEntry) := []
  winCount : Table Nat := []
  winPos : Table Nat := []
  outQ : List (Nat × Nat) := []
  used : Table (List Nat) := []
  stopKind : Nat := 2
  preempted : Bool := false
  jstop : Bool := false
  range : Bool := false
  wrefused : Bool := false
  uncorr : Bool := false
  space : Nat := 0
  offset : Nat := 0
  corrected : Nat := 0
  deriving DecidableEq, Repr

/-- A work counter (R177). -/
structure Counter where
  inst : Nat := 0
  value : Nat := 0
  deriving DecidableEq, Repr

/-! ## FAB -/

/-- The tile a WRITE carries to the loft under the write-once rule (R181): its fill map entry's address, its instance, and
the iteration that a TILE_CONFLICT names. -/
structure FillRef where
  addr : Nat
  inst : Nat
  it : List Nat
  deriving DecidableEq, Repr

/-- What a packet carries (R309, R311). A WRITE or DATA carries a part of a transfer of `total` bytes; WRITE parts of one transfer
have the number `id` (log entry 8). READ names the byte at each position of its tile, RDATA brings those bytes. -/
inductive PktBody where
  | read (n desc inst opnd entry : Nat) (it : List Nat) (cells : List (Nat × Nat))
  | rdata (n desc inst opnd entry : Nat) (it : List Nat) (cells : List (Nat × Byte)) (poisoned : Option Nat)
  | write (n desc inst id total : Nat) (cells : List (Nat × Byte)) (fill : Option FillRef)
  | take (n desc inst : Nat) (hub : Bool) (ctr count : Nat)
  | taken (n desc inst value : Nat)
  | data (n win : Nat) (from_ fromKey dest tile off total : Nat) (bytes : List Byte) (ack : Option (Nat × Nat × Nat))
  | ack (n desc inst : Nat)
  | credit (n key dest : Nat)
  | ledger (n entry desc : Nat) (part : Ledger) (complete : Bool)
  | accept (n entry : Nat)
  | ready (n side desc inst : Nat)
  deriving DecidableEq, Repr

/-- A packet in flight (R309): class, source and destination unit numbers, the units nearest the hops of its path (R307, R477), and how
often each of its flits has failed on each hop (R310), keyed by 8 × hop + flit. -/
structure Packet where
  cls : Nat
  src : Nat
  dst : Nat
  hops : List Nat := []
  fails : Table Nat := []
  body : PktBody
  deriving DecidableEq, Repr

/-- The FAB block and the packets in flight (R304 to R316); `xfer` numbers the transfers (log entry 8). -/
structure FabBlk where
  retries : Nat := 0
  dropped : Nat := 0
  packets : Table Nat := []
  lmap : Table Nat := []
  mapped : Bool := false
  xfer : Nat := 0
  net : List Packet := []
  deriving DecidableEq, Repr

/-! ## GATE -/

/-- One optical engine's lanes (R321, R322, R327): 0–11 gates, 12 host, 13 store. -/
structure Engine where
  locked : Nat := 0
  active : List Nat := []
  spare : Option Nat := none
  spared : Bool := false
  err : Table (Nat × Nat) := []
  warned : Nat := 0
  deriving DecidableEq, Repr

/-- Gate states (R327). -/
inductive GateState where
  | off | train | up | down
  deriving DecidableEq, Repr

/-- A gate packet (R329). -/
structure GatePkt where
  op : Nat
  group : Nat
  window : Nat
  stall : Nat
  member : Nat
  entry : Nat
  offset : Nat
  tile : Nat
  routeLo : W64
  routeHi : W64
  payload : List Byte
  deriving DecidableEq, Repr

/-- A frame sent and not yet acknowledged (R324): its number, its slots, how often it was sent, the write it ends, and the control word it
was last sent with (R323). -/
structure TxFrame where
  seq : Nat
  pkt : GatePkt
  sends : Nat
  ack : Option (Nat × Nat × Nat)
  ctrl : BitVec 48 := 0
  deriving DecidableEq, Repr

/-- One gate (R322 to R333). `keep`: it trains from UP, so unacknowledged frames are resent (R328). `rxBuf` holds the slots
received, `freed` the slots freed and not yet returned as LCRED, `out` the packets waiting to enter the gate. -/
structure Gate where
  en : Bool := false
  retrain : Bool := false
  st : GateState := .off
  keep : Bool := false
  replays : Nat := 0
  retrains : Nat := 0
  pgate : Nat := 0
  pnode : Nat := 0
  farProp : Option (List Nat × Nat) := none
  txSeq : Nat := 0
  unacked : List TxFrame := []
  rxAck : Nat := 255
  rxNak : Bool := false
  credits : Nat := 0
  rxBuf : List (List Byte) := []
  freed : Nat := 0
  out : List (GatePkt × Option (Nat × Nat × Nat)) := []
  deriving DecidableEq, Repr

/-- The GATE block (R319 to R345). Window-credit keys are stall × 64 + window: `sendCred` are the credits held, `granted` those
that have arrived and `expect` those that commits expect (R451); `sendSeq` counts the tiles sent on a key. -/
structure GateBlk where
  node : Nat := 0
  grefused : Bool := false
  rrefused : Bool := false
  aborts : Nat := 0
  engines : Table Engine := []
  gates : Table Gate := []
  groups : Table W64 := []
  routeLo : Table W64 := []
  routeHi : Table W64 := []
  guse : Table (Nat × Nat) := []
  sendCred : Table Nat := []
  granted : Table Nat := []
  expect : Table Nat := []
  sendSeq : Table Nat := []
  deriving DecidableEq, Repr

/-! ## VID -/

/-- A stream context record (R350). -/
structure VidCtx where
  role : Nat := 0
  codec : Nat := 0
  cls : Nat := 0
  engmask : Nat := 0
  width : Nat := 0
  height : Nat := 0
  depth : Nat := 8
  input : Nat := 0
  fmt : Nat := 0
  matrix : Nat := 1
  primaries : Nat := 0
  transfer : Nat := 0
  range : Nat := 0
  gop : Nat := 0
  keyint : Nat := 0
  rcmode : Nat := 0
  qpmin : Nat := 0
  qpmax : Nat := 0
  qpi : Nat := 0
  level : Nat := 0
  rate : Nat := 0
  peak : Nat := 0
  cpb : Nat := 0
  fnum : Nat := 0
  fden : Nat := 0
  wkey : Nat := 0
  maxpic : Nat := 0
  refbase : Nat := 0
  refsize : Nat := 0
  raw : List Byte := []
  deriving DecidableEq, Repr

/-- A picture descriptor (R354) with the issuer of its SUBMIT. -/
structure PicDesc where
  src : W64 := 0
  dst : W64 := 0
  srclen : Nat := 0
  dstlen : Nat := 0
  rpitch : Nat := 0
  ppitch : Nat := 0
  force : Bool := false
  tag : Nat := 0
  via : Via := .reg
  raw : List Byte := []
  deriving DecidableEq, Repr

/-- Stream states (VID_STR_s.STATE). -/
inductive StreamState where
  | closed | opened | error | closing
  deriving DecidableEq, Repr

/-- A stream context (R350 to R369). `eligible` orders the pictures that head the queues (R357); `closer` issued the CLOSE that waits
for the running picture; `keyAt` is the number of the last key picture, and `tags` are the TAGs of the pictures in an AV1 decoder's eight
reference slots (R355). -/
structure Stream where
  st : StreamState := .closed
  ctx : VidCtx := {}
  queue : List PicDesc := []
  eligible : Nat := 0
  picno : Nat := 0
  keypend : Bool := false
  ltrMark : Option Nat := none
  ltrUse : Option Nat := none
  ltrSlots : List (Option Nat) := [none, none, none, none]
  full : Nat := 0
  debt : Nat := 0
  concealed : Nat := 0
  budget : Nat := 0
  streamerr : Nat := 0
  keys : Nat := 0
  closer : Option Issuer := none
  keyAt : Nat := 0
  tags : List Nat := List.replicate 8 0
  deriving DecidableEq, Repr

/-- A picture running on an engine (R356, R362, R363). -/
structure RunPic where
  stream : Nat
  pic : PicDesc
  picno : Nat
  key : Bool
  ltrMark : Option Nat
  ltrUse : Option Nat
  deriving DecidableEq, Repr

/-- One video engine (VID_ENG_e). -/
structure VidEng where
  pictures : Nat := 0
  run : Option RunPic := none
  stream : Nat := 0
  deriving DecidableEq, Repr

/-- The VID block (R350 to R370). -/
structure VidBlk where
  argAddr : Nat := 0
  tag : Nat := 0
  result : Nat := 0
  overrun : Bool := false
  engines : Table VidEng := []
  streams : Table Stream := []
  order : Nat := 0
  deriving DecidableEq, Repr

/-! ## CTX and SNAP -/

/-- CTX_STATUS.STATE. -/
inductive CtxState where
  | run | stopping | stopped | saving | restoring | held
  deriving DecidableEq, Repr

/-- A VACATE in progress (R454): its issuer, the partition entries still to zero. -/
structure VacRun where
  issuer : Issuer
  entries : List Nat
  deriving DecidableEq, Repr

/-- The CTX block (R435 to R454). -/
structure CtxBlk where
  argAddr : Nat := 0
  argLen : Nat := 0
  argLabel : W64 := 0
  tag : Nat := 0
  result : Nat := 0
  overrun : Bool := false
  st : CtxState := .run
  preempt : Option Issuer := none
  saved : Bool := false
  fwdiff : Bool := false
  vtag : Nat := 0
  vresult : Nat := 0
  vac : Option VacRun := none
  deriving DecidableEq, Repr

/-- SNAP_STATUS.STATE. -/
inductive SnapState where
  | off | armed | capture | drain | restoring | replay | held
  deriving DecidableEq, Repr

/-- A store command of a drain (R458, R461), in issue order. -/
inductive StoreOp where
  | writeBlocks (lba : Nat) (bytes : List Byte)
  | flush
  deriving DecidableEq, Repr

/-- A slot record as the device holds it (R461). -/
structure SnapSlot where
  valid : Bool := false
  seq : Nat := 0
  step : Nat := 0
  jobid : Nat := 0
  length : Nat := 0
  digest : List Byte := []
  deriving DecidableEq, Repr

/-- A drain in progress (R461, R468): its slot record's fields, the snapshot without its trailer, the store commands still to be
issued and those outstanding by command identifier, and, once the loss is read, the snapshot's digest. -/
structure Drain where
  slot : Nat
  seq : Nat
  step : Nat
  jobid : Nat
  body : List Byte
  todo : List StoreOp
  outstanding : List (Nat × StoreOp)
  lossRead : Bool := false
  ending : Bool := false
  digest : List Byte := []
  deriving DecidableEq, Repr

/-- The SNAP block (R457 to R476). -/
structure SnapBlk where
  link : Bool := false
  lost : Bool := false
  tag : Nat := 0
  result : Nat := 0
  overrun : Bool := false
  crefused : Bool := false
  fwdiff : Bool := false
  newest : Nat := 0
  st : SnapState := .off
  nvalid : Bool := false
  nextStep : Nat := 0
  nsid : Nat := 0
  satlbas : Nat := 0
  lbaBase : Nat := 0
  lbaCount : Nat := 0
  regBase : Nat := 0
  pitch : Nat := 0
  losslen : Nat := 4
  stage : Nat := 0
  circmask : BitVec 32 := 0
  override : Nat := 0
  mean : Nat := 0
  cost : Nat := 256
  slots : Table SnapSlot := []
  argAddr : Nat := 0
  ext : Table W64 := []
  at_ : Option Nat := none
  drain : Option Drain := none
  aborting : Option Issuer := none
  nextCid : Nat := 0
  expectLoss : List Byte := []
  replayStep : Nat := 0
  source : Nat := 0
  lastBoundary : Nat := 0
  plainBeats : Nat := 0
  snapBeats : Nat := 0
  touched : Bool := false
  measuring : Nat := 0
  deriving DecidableEq, Repr

/-! ## FLT and SMBus -/

/-- One fault log (R484 to R486). -/
structure FLog where
  entries : Table FRec := []
  head : Nat := 0
  tail : Nat := 0
  count : Nat := 0
  lost : Nat := 0
  loste : Nat := 0
  hrefused : Bool := false
  deriving DecidableEq, Repr

/-- The FLT block and the records raised and not yet committed (R477 to R487). `pkgWin` and `yardWin` are the requesters still to be granted
in the open windows of the arbiters of drill mode (R25). -/
structure FltBlk where
  raised : List FRec := []
  seq : Nat := 0
  dlog : FLog := {}
  jlog : FLog := {}
  jstopped : Bool := false
  last : Option FRec := none
  linkLogged : Bool := false
  pkgWin : List Nat := []
  yardWin : Table (List Nat) := []
  deriving DecidableEq, Repr

/-- The last SMBus answer (R387). -/
structure SmbBlk where
  acked : Bool := false
  resp : List Byte := []
  deriving DecidableEq, Repr

/-! ## The whole state -/

/-- The state of the WJ2. `pending` is the queue of waiting commands, first in first out; `free` is the model's counter
of free values (log entry 1). -/
structure State where
  pending : List Instr := []
  free : Nat := 0
  pins : Pins := {}
  dev : Dev := {}
  host : HostBlk := {}
  pwr : PwrBlk := {}
  bring : BringBlk := {}
  sec : SecBlk := {}
  syl : SylBlk := {}
  roll : RollBlk := {}
  rng : RngBlk := {}
  loft : LoftBlk := {}
  stalls : Table Stall := []
  yardCtr : Table Counter := []
  yardBeats : Table Nat := []
  hubCtr : Table Counter := []
  fab : FabBlk := {}
  gate : GateBlk := {}
  vid : VidBlk := {}
  ctx : CtxBlk := {}
  snap : SnapBlk := {}
  flt : FltBlk := {}
  smb : SmbBlk := {}
  deriving DecidableEq, Repr

/-- The state after reset (R495): every register at the value its table's Reset column gives, the pins low as R509
leaves unconnected inputs, and an empty queue. -/
def State.reset : State := {}

end Sys2Proof.Machine
end

