-- ==== Sys2Proof/Machine/Ops.lean ====
section
/-! DEFINITION. The shared operations over State: free values, stalls and their numbering, power and readiness, raising a
fault record, sending on the host link, completion records, and the view check of a register access. -/

namespace Sys2Proof.Machine

/-! ## Free values (log entry 1) -/

/-- The free number at the front, and the state with the counter moved past it. -/
def takeFree (s : State) : Nat × State := (Config.freeNat s.free, { s with free := s.free + 1 })

/-! ## Numbering (R13, R14) -/

/-- The physical yard of a physical stall. -/
def yardOf (p : Nat) : Nat := p / 32

/-- The barn of a physical stall. -/
def barnOf (p : Nat) : Nat := p / 320

/-- BRING_PST_p. -/
def pstAt (s : State) (p : Nat) : Pst := tget {} s.bring.pst p

/-- The physical stall that serves logical stall `n` (R14), where the map has been built. -/
def physOf (s : State) (n : Nat) : Option Nat :=
  (s.bring.pst.find? fun e => e.2.logical = some n).map (·.1)

/-- The logical stall that physical stall `p` serves, 0x7FF if none (R477). -/
def logOf (s : State) (p : Nat) : Nat := (pstAt s p).logical.getD 0x7FF

/-- Physical stall `p`. -/
def stallP (s : State) (p : Nat) : Stall := tget {} s.stalls p

/-- Physical stall `p` replaced. -/
def setStallP (s : State) (p : Nat) (x : Stall) : State := { s with stalls := tset s.stalls p x }

/-- Physical stall `p` changed. -/
def modStallP (p : Nat) (f : Stall → Stall) (s : State) : State := setStallP s p (f (stallP s p))

/-! ## Power and readiness -/

/-- The barns are powered: the device is in IDLE or ACTIVE and no state transition runs (R407, R409). -/
def barnsOn (s : State) : Bool := s.pwr.st = .idle && s.pwr.moving.isNone

/-- Yard `y` is ungated: on, and not being gated (R407, R413). -/
def yardUp (s : State) (y : Nat) : Bool := barnsOn s && s.pwr.yardOn.getLsbD y && !s.pwr.gating.getLsbD y

/-- PWR_STATUS.STATE (R407). -/
def pstateCode (s : State) : Nat :=
  match s.pwr.st with
  | .aux => 1
  | .standby => 2
  | .idle => if (s.pwr.yardOn ||| s.pwr.ungating) = 0 then 3 else 4

/-- A thermal trip, a SUPPLY_RANGE or another DEVICE-class fault has stopped the device (R420, R480). -/
def stopped (s : State) : Bool := s.pwr.stopped

/-- Outputs are held (DEV_STATUS.HELD, R498). -/
def held (s : State) : Bool :=
  s.syl.held || s.ctx.st == .held || s.snap.st == .held || s.pwr.tripped

/-- Why a command of SYL, ROLL, VID, LOFT, CTX, SNAP or COPY is not performed before its own rules are read: the unit's
result and the completion record's status. Not ready: STATE and NOT_READY (R516); AUX or STANDBY: STATE (R496). -/
def unitBar (s : State) : Option (Nat × Nat) :=
  if !s.bring.ready then some (2, 0x11)
  else if !barnsOn s then some (2, 2)
  else none

/-- The same for a command other than a roll READ, COPY and CTX CLEAR: not accepted while CTX_STATUS.STATE is HELD (R450), and,
for a command of R439's list (`busy`), BUSY from the acceptance of PREEMPT until the job runs again. -/
def jobBar (busy : Bool) (s : State) : Option (Nat × Nat) :=
  match unitBar s with
  | some b => some b
  | none =>
    if s.ctx.st == .held then some (2, 2)
    else if busy && (s.ctx.st != .run || s.ctx.preempt.isSome) then some (1, 1)
    else none

/-- The number of resident images (SYL_STATUS.RESIDENT). -/
def residentCount (s : State) : Nat := (s.syl.slots.filter fun e => e.2.st == .resident).length

/-! ## Fault records (R477 to R488) -/

/-- The EVENT codes of the master table (R488). -/
def eventCodes : List Nat :=
  [0x0301, 0x0302, 0x0303, 0x0401, 0x0503, 0x0603, 0x0604, 0x0605, 0x0703, 0x0801, 0x0802, 0x0803, 0x0A02]

/-- The HOLD codes of the master table (R488). -/
def holdCodes : List Nat :=
  [0x0101, 0x0102, 0x0103, 0x0104, 0x0105, 0x0506, 0x0601, 0x0602, 0x0901, 0x0902, 0x0903, 0x0905, 0x0A01, 0x0A03]

/-- The DEVICE codes of the master table (R488). -/
def deviceCodes : List Nat := [0x0505, 0x0701, 0x0702, 0x0A04]

/-- The codes of the master table written to the device log alone (R488); SATCHEL_GEOMETRY and SATCHEL_DIGEST join them
when SNAP raised them (R484). -/
def deviceOnlyCodes : List Nat :=
  [0x0401, 0x0503, 0x0505, 0x0506, 0x0601, 0x0602, 0x0603, 0x0604, 0x0701, 0x0702, 0x0703, 0x0903, 0x0905, 0x0A01,
   0x0A02, 0x0A03, 0x0A04]

/-- The class of a code: 0 EVENT, 1 JOB, 2 HOLD, 3 DEVICE (R477, R488). -/
def codeClass (c : Nat) : Nat :=
  if c ∈ eventCodes then 0 else if c ∈ holdCodes then 2 else if c ∈ deviceCodes then 3 else 1

/-- A record goes to the job log as well: DJ in the master table (R484, R488). -/
def logsJob (r : FRec) : Bool :=
  if r.code = 0x0901 ∨ r.code = 0x0902 then r.viaCtx else !(deviceOnlyCodes.contains r.code)

/-- Detail format N (R478). -/
def detN : List Byte := []
/-- Detail format L: descriptor and loop iterations. -/
def detL (desc : Nat) (it : List Nat) : List Byte :=
  leBytes 2 desc ++ ((List.range 6).map fun i => leBytes 2 (sat 16 (it.getD i 0))).flatten
/-- Detail format O: descriptor, instance count, count of the code, round. -/
def detO (desc inst count round : Nat) : List Byte :=
  leBytes 2 desc ++ leBytes 4 inst ++ leBytes 4 (sat 32 count) ++ leBytes 4 round
/-- Detail format S: slot, section, byte offset, check. -/
def detS (slot sec off check : Nat) : List Byte :=
  leBytes 1 slot ++ zeros 1 ++ leBytes 2 sec ++ leBytes 5 off ++ leBytes 1 check
/-- Detail format A: address and access. -/
def detA (addr access : Nat) : List Byte := leBytes 5 (addr % 2 ^ 39) ++ leBytes 1 access
/-- Detail format G: gate, wavelength, group, member. -/
def detG (gate wl group member : Nat) : List Byte := leBytes 1 gate ++ leBytes 1 wl ++ leBytes 1 group ++ zeros 1 ++ leBytes 2 member
/-- Detail format V: stream, picture number, TAG. -/
def detV (stream picno tag : Nat) : List Byte := leBytes 1 stream ++ zeros 1 ++ leBytes 4 picno ++ leBytes 4 tag
/-- Detail format P: source, step, observed value. -/
def detP (src step v : Nat) : List Byte := leBytes 1 src ++ zeros 1 ++ leBytes 4 step ++ leBytes 4 v
/-- Detail format U: selector and two values. -/
def detU (sel a b : Nat) : List Byte := leBytes 1 sel ++ zeros 1 ++ leBytes 4 a ++ leBytes 4 b

/-- The beat count that a unit's records carry (R36): a stall's or a yard counter unit's own; the pace count of its die for
a loft controller, a fabric hop inside a barn and the hub's units. The hub controller's own count is `dev.hubBeats`. -/
def beatsOf (s : State) (source unit : Nat) : Nat :=
  match source with
  | 0 => (stallP s unit).beats
  | 1 => tget 0 s.yardBeats unit
  | 2 => tget 0 s.dev.paceBarn (unit / 8)
  | 3 => if unit < 1280 then tget 0 s.dev.paceBarn (barnOf unit) else s.dev.paceHub
  | 4 => s.dev.hubBeats
  | _ => s.dev.paceHub

/-- A unit raises a record: it waits for the hub to commit it (R479). -/
def raise (code source unit lstall : Nat) (detail : List Byte) (s : State) : State :=
  { s with flt.raised := s.flt.raised ++
      [{ code := code, source := source, unit := unit, lstall := lstall, beats := beatsOf s source unit, detail := detail }] }

/-- The hub controller raises a record: its own beat count has advanced by an amount the spec does not state (log entry 1). -/
def raiseHub (code : Nat) (detail : List Byte) (s : State) : State :=
  let (d, s) := takeFree s
  raise code 4 0 0x7FF detail { s with dev.hubBeats := (s.dev.hubBeats + d) % 2 ^ 64 }

/-- An operation instance is in progress in a stall (STW_STATE.RUNNING). DEDUCED: an instance that a JOB-class fault abandoned
(R257, R481) is no longer in progress, else UNLOAD could never end the stop (R230, R480; log entry 31). -/
def stallBusy (x : Stall) : Bool := !x.jstop && x.prog.any fun g => !g.ops.isEmpty

/-- Physical stall `p` raises a record (R477). -/
def raiseStall (code p : Nat) (detail : List Byte) (s : State) : State := raise code 0 p (logOf s p) detail s

/-- SCRATCH_UNCORRECTABLE, for a word of scratch or of accumulator memory (R19); the spec gives a command no address of it (log
entry 1). -/
def scratchUncorrectable (p : Nat) (s : State) : State :=
  let (a, s) := takeFree s
  raiseStall 0x0403 p (detA (a % 2 ^ 21) 0) s

/-- What SEC-DED did for a stall's command: corrections are counted at the stall, and change nothing else (R18, R19, R27). -/
def sramCount (p : Nat) (r : Secded) (s : State) : State :=
  if r.corrected = 0 then s else modStallP p (fun x => { x with corrected := x.corrected + r.corrected }) s

/-- A stall's command has used its memories: its corrections counted, and an uncorrectable word of scratch recorded (R19). DESIGN CHOICE: a
vector tile that met one is finished with the word as read (log entry 43). -/
def sramUsed (p : Nat) (r : Secded) (s : State) : State :=
  let s := sramCount p r s
  if r.uncorr then scratchUncorrectable p s else s

/-- VIEW_VIOLATION for an access of a type: 0 read, 1 write, 2 queue entry (R424). -/
def viewViolation (addr access : Nat) (s : State) : State := raiseHub 0x0603 (detA addr access) s

/-! ## Acknowledged writes (R161) -/

/-- An operation in a stall's program, changed. -/
def modOp (desc inst : Nat) (f : OpCtx → OpCtx) (x : Stall) : Stall :=
  { x with prog := x.prog.map fun g =>
      { g with ops := g.ops.map fun o => if o.desc = desc ∧ o.inst = inst then f o else o } }

/-- A write of an operation instance of logical stall `n` is acknowledged: its outstanding-write slot is free (R161). -/
def ackOp (n desc inst : Nat) (s : State) : State :=
  match physOf s n with
  | some p => modStallP p (modOp desc inst fun o => { o with out := o.out - 1 }) s
  | none => s

/-! ## The host link (R375, R376) -/

/-- POSTED or NONPOSTED credits of a transaction: one per 64 bytes of header and data (R376). -/
def txnCredits : HostTxn → Nat × Nat
  | .write _ bs => ((16 + bs.length + 63) / 64, 0)
  | .msg _ => (1, 0)
  | .read _ _ _ => (0, 1)
  | .cpl _ _ _ => (0, 0)

/-- The flits a transaction takes (R372; log entry 11). -/
def txnFlits : HostTxn → Nat
  | .write _ bs => (16 + bs.length + 255) / 256
  | .cpl _ _ bs => (16 + bs.length + 255) / 256
  | _ => 1

/-- A transaction sent on the link: its credits taken, its flits numbered and kept until acknowledged (R372, R373). -/
def linkSend (t : HostTxn) (h : HostBlk) : HostBlk :=
  { h with
    tx := h.tx ++ [t]
    posted := h.posted - (txnCredits t).1
    nonposted := h.nonposted - (txnCredits t).2
    unacked := h.unacked ++ (List.range (txnFlits t)).map fun i => (h.txSeq + i) % 4096
    txSeq := (h.txSeq + txnFlits t) % 4096 }

/-- The waiting transactions in order, each sent once its class has credits; a class that lacks them holds what follows
it in the same class (R376), and at most 1,024 flits are unacknowledged (R373). -/
def linkPump : List HostTxn → List HostTxn → Bool → Bool → HostBlk → HostBlk
  | [], left, _, _, h => { h with txq := left }
  | t :: r, left, pOk, nOk, h =>
    let (p, n) := txnCredits t
    let go := (p = 0 || (pOk && p ≤ h.posted)) && (n = 0 || (nOk && n ≤ h.nonposted))
    if 1024 < h.unacked.length + txnFlits t then { h with txq := left ++ t :: r }
    else if go then linkPump r left pOk nOk (linkSend t h)
    else linkPump r (left ++ [t]) (pOk && p = 0) (nOk && n = 0) h

/-- The device hands transactions to the host link; with the link down it sends nothing (R374). -/
def hostSend (ts : List HostTxn) (s : State) : State :=
  if s.host.up then { s with host := linkPump (s.host.txq ++ ts) [] true true s.host } else s

/-- The lowest tag that no outstanding read of host memory carries; at most 256 are outstanding (R376). -/
def freeReadTag (h : HostBlk) : Option Nat := (List.range 256).find? fun t => !(h.reads.any fun r => r.tag = t)

/-- One read of host memory is issued, if fewer than 256 are outstanding (R376). -/
def hostRead (addr len : Nat) (use : ReadUse) (s : State) : State :=
  match freeReadTag s.host with
  | none => s
  | some t =>
    let s := { s with host.reads := s.host.reads ++ [{ tag := t, addr := addr, len := len, use := use }] }
    hostSend [.read addr len t] s

/-- Bytes written to host memory, in transactions of at most 4,096 bytes (R375, R380). -/
def hostWrites (addr : Nat) (bs : List Byte) : List HostTxn :=
  (chunks 4096 bs).zipIdx.map fun c => .write (addr + 4096 * c.2) c.1

/-- An alert's ADDR (R385): KIND, QUEUE or class, code. -/
def alertField (kind sub code : Nat) : W64 := pack [(0, kind), (8, sub), (16, code)]

/-! ## Completion records (R382 to R384) -/

/-- Command queue `q`. -/
def queueAt (s : State) (q : Nat) : Queue := tget {} s.host.queues q

/-- Command queue `q` changed. -/
def modQueue (q : Nat) (f : Queue → Queue) (s : State) : State :=
  { s with host.queues := tmod {} s.host.queues q f }

/-- The queue that a cause's record goes to: its own, or EVQ for a cause issued through registers (R383). -/
def viaQueue (s : State) : Via → Nat
  | .reg => s.host.evq
  | .queue q => q

/-- A record becomes due: it waits for its ring (R383). -/
def post (via : Via) (r : CplRec) (s : State) : State :=
  modQueue (viaQueue s via) (fun x => { x with waiting := x.waiting ++ [r] }) s

/-- The unit has completed a command that was taken from a queue (R379). -/
def doneInflight (via : Via) (s : State) : State :=
  match via with
  | .reg => s
  | .queue q => modQueue q (fun x => { x with inflight := x.inflight - 1 }) s

/-- The completion record of a command (R382), and the command no longer incomplete. -/
def postCmd (iss : Issuer) (status : Nat) (body : List Byte) (s : State) : State :=
  doneInflight iss.via (post iss.via { tag := iss.tag, status := status, kind := 0, body := body } s)

/-- Body bytes 16–23 of a COMMAND record that names an address (R382). -/
def addrBody (a : Nat) : List Byte := leBytes 8 a

/-- A register command's issuer: its record goes to EVQ (R383). -/
def regIssuer (tag : Nat) : Issuer := { via := .reg, tag := tag % 256 }

/-- The status of a record whose command met a host address that the adapter refuses (R381), and the result that the unit
shows (log entry 14). -/
def refusedAddr (iss : Issuer) : Nat :=
  match iss.via with
  | .reg => 5
  | .queue _ => 0x13

/-- The 32 bytes of a fault record (R477). -/
def recBytes (r : FRec) : List Byte :=
  leBytes 2 r.code ++ leBytes 1 (codeClass r.code + 4 * r.source) ++ leBytes 1 0 ++ leBytes 2 r.unit ++
  leBytes 2 (r.lstall % 2048) ++ leBytes 4 r.seq ++ leBytes 6 r.beats ++ padTo 14 r.detail

/-! ## The view of a register access (R423 to R426, R489 to R492) -/

/-- An offset that names a register reached by the job view of a block with both views (R423). Offsets that name no
register behave as reserved ones there (R490). -/
def jobOffset (block off : Nat) : Bool :=
  match block with
  | 0x1 => !(0x300 ≤ off && off < 0x380)
  | 0x4 => off = 0x800 || off = 0x808 || off = 0x810 || (0x840 ≤ off && off < 0x880)
  | 0x5 => !(off = 0x400 || (0x500 ≤ off && off < 0x600 && off % 0x40 < 0x38))
  | 0x6 => off ≠ 0x400
  | 0x7 => true
  | 0x8 => !(off = 0x0 || off = 0x40 || (0x200 ≤ off && off < 0x280))
  | 0xA => 0x1800 ≤ off && off < 0x2000
  | 0xB => true
  | 0xC => off ≠ 0x400
  | 0xE => !(off = 0x8 || (0x20 ≤ off && off < 0x40) || (0x8000 ≤ off && off < 0xC000))
  | _ => false

/-- A DEV register named by an offset (R498). -/
def devNamed (off : Nat) : Bool :=
  off = 0x0 || off = 0x8 || off = 0x10 || off = 0x18 || off = 0x20 || off = 0x40 ||
  (0x100 ≤ off && off ≤ 0x120) || off = 0xFFF8

/-- The job view reaches the register at a window address: R423 while a job owns the device, R426 while none does. Every
writable field of DEV is privileged (R498). -/
def jobReach (s : State) (addr : Nat) (write : Bool) : Bool :=
  let block := addr / 0x10000
  let off := addr % 0x10000
  if block = 0 then
    if write then s.sec.owned && !devNamed off
    else (devNamed off && off ≠ 0x40) || (s.sec.owned && off ≠ 0x40)
  else if block = 4 then jobOffset 4 off
  else if 0x100000 ≤ addr then s.sec.owned
  else s.sec.owned && jobOffset block off

/-- A unit other than a stall has stopped on an error in drill mode, until reset (R27). -/
def unitStopped (s : State) (source unit : Nat) : Bool := s.bring.stopUnits.contains (source, unit)

/-- The hub controller answers the host: the link is up (R374), and it has not stopped on an error in drill mode (R27). -/
def hubServes (s : State) : Bool := s.host.up && !unitStopped s 4 0

/-- A host register write reaches its register: the link is up (R374), and the view reaches it (R424); else it is dropped,
and a view that does not reach it logs VIEW_VIOLATION. -/
def regWrite (v : View) (addr : Nat) (f : State → State) (s : State) : State :=
  if !hubServes s then s
  else if v = .job && !jobReach s addr true then viewViolation addr 1 s
  else f s

/-! ## The pace rings (R39; log entry 6) -/

/-- The barns whose pace counts advance: the four while the barns are powered (R39). -/
def tickBarns (s : State) : Table Nat :=
  if barnsOn s then [0, 1, 2, 3].map fun b => (b, (tget 0 s.dev.paceBarn b + 1) % 2 ^ 64) else s.dev.paceBarn

/-- One beat of every pace ring that runs: the hub's from the release of RESET_N while the auxiliary supply is up, a
barn's while the barn is powered (R39; log entry 6). -/
def tick (s : State) : State :=
  if s.pins.resetN && s.pins.pwrgdAux then
    { s with dev.paceHub := (s.dev.paceHub + 1) % 2 ^ 64, dev.paceBarn := tickBarns s }
  else s

/-! ## Windows -/

/-- Window addresses of the blocks (R489). -/
def hostBase : Nat := 0x10000
def pwrBase : Nat := 0x20000
def bringBase : Nat := 0x30000
def secBase : Nat := 0x40000
def sylBase : Nat := 0x50000
def rollBase : Nat := 0x60000
def rngBase : Nat := 0x70000
def loftBase : Nat := 0x80000
def fabBase : Nat := 0x90000
def gateBase : Nat := 0xA0000
def vidBase : Nat := 0xB0000
def ctxBase : Nat := 0xC0000
def snapBase : Nat := 0xD0000
def fltBase : Nat := 0xE0000
/-- The window address of logical stall `n` (R17). -/
def stwBase (n : Nat) : Nat := 0x100000 + n * 0x1000

/-- A register keeps the bits the host may not write: an RW field replaced in a number. -/
def setField (x hi lo v : Nat) : Nat := x - bits x hi lo * 2 ^ lo + (v % 2 ^ (hi + 1 - lo)) * 2 ^ lo

end Sys2Proof.Machine
end

