-- ==== Sys2Proof/Machine/Image.lean ====
section
/-! DEFINITION. Reading a syllabus image: header, directory, sections, records and operation descriptors (R159, R160, R164,
R169, R204 to R219, R244, R245, R313), and what the resident images say of stalls, circuits, groups and windows. -/

namespace Sys2Proof.Machine

/-- A directory entry (R207) with its index. -/
structure Sec where
  idx : Nat
  ty : Nat
  target : Nat
  off : Nat
  len : Nat
  deriving DecidableEq, Repr

/-- A stall record (R212). -/
structure StallRec where
  stall : Nat
  dtcount : Nat
  dtbase : Nat
  entry : Nat
  imgbase : Nat
  imglen : Nat
  deriving DecidableEq, Repr

/-- A stage record with its stall list (R213). -/
structure StageItem where
  circuit : Nat
  stage : Nat
  stalls : List Nat
  deriving DecidableEq, Repr

/-- A window record (R215): entry size in bytes. -/
structure WinRec where
  stall : Nat
  window : Nat
  cls : Nat
  base : Nat
  size : Nat
  cap : Nat
  deriving DecidableEq, Repr

/-- A route record (R313). -/
structure RouteRec where
  src : Nat
  cls : Nat
  group : Bool
  window : Nat
  credits : Nat
  dsts : List Nat
  deriving DecidableEq, Repr

/-- A fill map record (R218). -/
structure FillRec where
  loft : Bool
  addr : Nat
  tiles : Nat
  stall : Nat
  deriving DecidableEq, Repr

/-- A circuit record (R244). -/
structure CircRec where
  circuit : Nat
  batchMax : Nat
  rdepth : Nat
  roundMin : Nat
  stages : Nat
  ttFirst : Nat
  ttCount : Nat
  rring : Nat
  arenaBase : Nat
  arenaPitch : Nat
  arenaSlots : Nat
  deriving DecidableEq, Repr

/-- A timetable row (R245). -/
structure TtRow where
  cx : W32 := 0
  cd : W32 := 0
  ch : W32 := 0
  cz : W32 := 0
  time : W32 := 0
  inScale : W32 := 0
  gMul : W32 := 0
  deriving DecidableEq, Repr

/-! ## Header, directory, trailer -/

/-- The header's LENGTH (R205). -/
def imgLength (b : List Byte) : Nat := leAt b 8 8
/-- KIND: true for PARTIAL (R205). -/
def imgPartial (b : List Byte) : Bool := byteAt b 6 = 1
/-- IMAGE_ID (R205). -/
def imgId (b : List Byte) : Nat := leAt b 16 8
/-- SECTIONS (R205). -/
def imgSections (b : List Byte) : Nat := leAt b 24 4
/-- DIROFF (R205). -/
def imgDirOff (b : List Byte) : Nat := leAt b 28 4
/-- Offset of the trailer (R204). -/
def trailerOff (b : List Byte) : Nat := imgLength b - 64
/-- KEYSLOT of the trailer (R209). -/
def imgKeySlot (b : List Byte) : Nat := byteAt b (trailerOff b + 4)
/-- SIGLEN of the trailer (R209). -/
def imgSigLen (b : List Byte) : Nat := leAt b (trailerOff b + 16) 4
/-- DIGEST of the trailer (R209). -/
def imgDigest (b : List Byte) : List Byte := slice b (trailerOff b + 32) 32
/-- The signature block (R210). -/
def imgSignature (b : List Byte) : List Byte := slice b (trailerOff b - imgSigLen b) (imgSigLen b)

/-- Directory entry `i` (R207). -/
def dirEntry (b : List Byte) (i : Nat) : Sec :=
  let o := imgDirOff b + 32 * i
  { idx := i, ty := leAt b o 2, target := leAt b (o + 4) 4, off := leAt b (o + 8) 8, len := leAt b (o + 16) 8 }

/-- The sections of an image, in directory order. -/
def sectionsOf (b : List Byte) : List Sec := (List.range (imgSections b)).map (dirEntry b)

/-- The bytes of a section. -/
def secBytes (b : List Byte) (x : Sec) : List Byte := slice b x.off x.len

/-- The section of a type that an image holds at most once, or no bytes. -/
def secOfType (b : List Byte) (ty : Nat) : List Byte :=
  match (sectionsOf b).find? fun x => x.ty = ty with
  | some x => secBytes b x
  | none => []

/-! ## Records -/

/-- The stalls of STALLSET (R211). -/
def stallSet (b : List Byte) : List Nat :=
  let x := secOfType b 1
  (List.range 1200).filter fun n => (byteAt x (n / 8)).testBit (n % 8)

/-- The stall record of a STALL section (R212). -/
def stallRec (x : List Byte) : StallRec :=
  { stall := leAt x 0 2, dtcount := leAt x 2 2, dtbase := leAt x 4 4, entry := leAt x 8 2, imgbase := leAt x 12 4,
    imglen := leAt x 16 4 }

/-- The STALL section of logical stall `n`. -/
def stallSec (b : List Byte) (n : Nat) : Option Sec := (sectionsOf b).find? fun x => x.ty = 2 ∧ x.target = n

/-- The count in a section's count record (R213). -/
def countOf (x : List Byte) : Nat := leAt x 0 4

/-- The stage records of STAGES (R213). -/
def stagesOf (b : List Byte) : List StageItem :=
  let x := secOfType b 3
  (List.range (countOf x)).map fun i =>
    let o := 16 + 16 * i
    let n := leAt x (o + 4) 2
    let l := leAt x (o + 8) 4
    { circuit := byteAt x o, stage := leAt x (o + 2) 2, stalls := (List.range n).map fun j => leAt x (l + 2 * j) 2 }

/-- Window record `i` of WINDOWS (R215). -/
def winRec (x : List Byte) (i : Nat) : WinRec :=
  let o := 16 + 16 * i
  { stall := leAt x o 2, window := byteAt x (o + 2), cls := byteAt x (o + 3), base := leAt x (o + 4) 4,
    size := 256 * leAt x (o + 8) 2, cap := byteAt x (o + 10) }

/-- The window records of an image. -/
def windowsOf (b : List Byte) : List WinRec :=
  let x := secOfType b 6
  (List.range (countOf x)).map (winRec x)

/-- Route record `i` of ROUTES (R313). -/
def routeRec (x : List Byte) (i : Nat) : RouteRec :=
  let o := 16 + 32 * i
  { src := leAt x o 2, cls := byteAt x (o + 2), group := byteAt x (o + 3) % 2 = 1, window := leAt x (o + 4) 2,
    credits := byteAt x (o + 6),
    dsts := (List.range (byteAt x (o + 7))).map fun j => leAt x (o + 8 + 2 * j) 2 }

/-- The route records of an image. -/
def routesOf (b : List Byte) : List RouteRec :=
  let x := secOfType b 7
  (List.range (countOf x)).map (routeRec x)

/-- Fill map record `i` of FILLMAPS (R218). -/
def fillRec (x : List Byte) (i : Nat) : FillRec :=
  let o := 16 + 16 * i
  let a := leAt x o 8
  { loft := a.testBit 63, addr := a % 2 ^ 39, tiles := leAt x (o + 8) 4, stall := leAt x (o + 12) 4 }

/-- The fill map records of an image. -/
def fillMapsOf (b : List Byte) : List FillRec :=
  let x := secOfType b 9
  (List.range (countOf x)).map (fillRec x)

/-- Circuit record `i` of CIRCUITS (R244). -/
def circRec (x : List Byte) (i : Nat) : CircRec :=
  let o := 16 + 64 * i
  { circuit := byteAt x o, batchMax := byteAt x (o + 1), rdepth := byteAt x (o + 2), roundMin := byteAt x (o + 3),
    stages := leAt x (o + 4) 2, ttFirst := byteAt x (o + 6), ttCount := byteAt x (o + 7), rring := leAt x (o + 8) 4,
    arenaBase := leAt x (o + 16) 8 % 2 ^ 39, arenaPitch := leAt x (o + 24) 8, arenaSlots := leAt x (o + 32) 2 }

/-- The circuit records of an image. -/
def circuitsOf (b : List Byte) : List CircRec :=
  let x := secOfType b 4
  (List.range (countOf x)).map (circRec x)

/-- ROWS of timetable `t` of an image (R245). -/
def ttRows (b : List Byte) (t : Nat) : Nat := leAt (secOfType b 5) (16 + 16 * t) 2

/-- Row `r` of timetable `t` (R245). -/
def ttRow (b : List Byte) (t r : Nat) : TtRow :=
  let x := secOfType b 5
  let o := leAt x (16 + 16 * t + 4) 4 + 32 * r
  let w := fun k => BitVec.ofNat 32 (leAt x (o + 4 * k) 4)
  { cx := w 0, cd := w 1, ch := w 2, cz := w 3, time := w 4, inScale := w 5, gMul := w 6 }

/-- The hub counters COUNTERS marks (R217). -/
def hubCounters (b : List Byte) : List Nat :=
  let x := secOfType b 8
  (List.range 256).filter fun i => (byteAt x (i / 8)).testBit (i % 8)

/-- The yard counters COUNTERS marks, as yard × 64 + counter (R217). -/
def yardCounters (b : List Byte) : List Nat :=
  let x := secOfType b 8
  (List.range 2560).filter fun i => (byteAt x (32 + 8 * (i / 64) + (i % 64) / 8)).testBit (i % 8)

/-- The LOFTDATA sections: target address and data (R219). -/
def loftDataOf (b : List Byte) : List (Nat × List Byte) :=
  ((sectionsOf b).filter fun x => x.ty = 10).map fun x =>
    let d := secBytes b x
    (leAt d 0 8 % 2 ^ 39, d.drop 16)

/-! ## Descriptors -/

/-- A stride of 6 bytes, two's complement (R164). -/
def stride (b : List Byte) (o : Nat) : Int := signed 48 (leAt b o 6)

/-- A loop record (R164). -/
def loopRec (b : List Byte) : LoopRec :=
  let f := leAt b 6 2
  { bound := leAt b 0 4, role := byteAt b 4, order := byteAt b 5, preempt := f.testBit 0, take := f.testBit 1,
    hubctr := f.testBit 2, ctr := bits f 10 3, dyn := f.testBit 11, sa := stride b 8, sb := stride b 14,
    sc := stride b 20, sx := stride b 26, zero := b.all (· = 0) }

/-- An operand record (R169). -/
def opRec (b : List Byte) : OpRec :=
  { space := byteAt b 0, sfmt := byteAt b 1 % 16, id := leAt b 2 2, landing := leAt b 4 4, base := leAt b 8 8 % 2 ^ 39,
    geom := leAt b 16 8, srow := leAt b 24 4, extent := leAt b 28 4 }

/-- A stage record (R132). -/
def stageRec (b : List Byte) : StageRec :=
  { kind := byteAt b 0, func := byteAt b 1, fmt := byteAt b 2 % 16, rnd := byteAt b 2 / 16 % 4,
    ovf := (byteAt b 2).testBit 6, vfmt := byteAt b 3 % 16, imm := BitVec.ofNat 32 (leAt b 4 4), vaddr := leAt b 8 4,
    xaddr := leAt b 12 4, zero := b.all (· = 0) }

/-- An operation descriptor (R159, R160). -/
def descOf (b : List Byte) : Desc :=
  let ch := leAt b 8 4
  let cw := leAt b 36 4
  { opcode := byteAt b 0, afmt := byteAt b 1 % 16, bfmt := byteAt b 1 / 16, cfmt := byteAt b 2 % 16,
    xfmt := byteAt b 2 / 16, rnd := byteAt b 3 % 4, ovf := (byteAt b 3).testBit 2, kin := (byteAt b 4).testBit 0,
    kout := (byteAt b 4).testBit 1, next := leAt b 6 2, cprev := bits ch 10 0, cnext := bits ch 21 11,
    wait := BitVec.ofNat 64 (leAt b 12 8), signal := BitVec.ofNat 64 (leAt b 20 8), swinBase := leAt b 28 4,
    swinLen := leAt b 32 4, cwinBase := bits cw 20 0, cwinCap := bits cw 28 21, fillmap := leAt b 40 8 % 2 ^ 39,
    oparam := slice b 48 16,
    loops := (List.range 6).map fun l => loopRec (slice b (64 + 32 * l) 32),
    a := opRec (slice b 256 32), b := opRec (slice b 288 32), c := opRec (slice b 320 32), x := opRec (slice b 352 32),
    pro := (List.range 4).map fun i => stageRec (slice b (384 + 16 * i) 16),
    epi := (List.range 4).map fun i => stageRec (slice b (448 + 16 * i) 16) }

/-- Descriptor `d` of a stall, read from its scratch (R159). -/
def descAt (x : Stall) (d : Nat) : Desc :=
  match x.loaded with
  | some l => descOf (memRead x.scratch (l.dtbase + 512 * d) 512)
  | none => {}

/-- The descriptors of a STALL section, read from its image bytes. -/
def sectionDescs (sec : List Byte) : List Desc :=
  let r := stallRec sec
  (List.range r.dtcount).map fun d => descOf (slice sec (64 + r.dtbase - r.imgbase + 512 * d) 512)

/-- The descriptors of logical stall `q` of an image. -/
def descsIn (b : List Byte) (q : Nat) : List Desc :=
  match stallSec b q with
  | some x => sectionDescs (secBytes b x)
  | none => []

/-! ## What is resident -/

/-- Slot `k` of the model cache. -/
def slotAt (s : State) (k : Nat) : CacheSlot := tget {} s.syl.slots k

/-- The bytes of the image in slot `k`. -/
def imgAt (s : State) (k : Nat) : List Byte := (slotAt s k).bytes

/-- The slots that hold resident images, ascending. -/
def residents (s : State) : List Nat := (s.syl.slots.filter fun e => e.2.st == .resident).map (·.1)

/-- The stalls that resident images hold. -/
def residentStalls (s : State) : List Nat := (residents s).flatMap fun k => stallSet (imgAt s k)

/-- The slot and circuit record of a circuit of a resident image. -/
def circOf (s : State) (c : Nat) : Option (Nat × CircRec) :=
  (residents s).findSome? fun k => ((circuitsOf (imgAt s k)).find? fun r => r.circuit = c).map fun r => (k, r)

/-- The stalls of a circuit of an image (R213). -/
def circStalls (b : List Byte) (c : Nat) : List Nat :=
  ((stagesOf b).filter fun g => g.circuit = c).flatMap (·.stalls)

/-- The circuit that a stall of an image serves, through its stage (R213). -/
def stallCircuit (b : List Byte) (n : Nat) : Nat :=
  match (stagesOf b).find? fun g => g.stalls.contains n with
  | some g => g.circuit
  | none => 0

/-- The window record of stall `n`, window `w`, in the image that holds the stall. -/
def windowOf (b : List Byte) (n w : Nat) : Option WinRec := (windowsOf b).find? fun r => r.stall = n ∧ r.window = w

/-- Every descriptor of an image with its stall and index. -/
def imgDescs (b : List Byte) : List (Nat × Nat × Desc) :=
  (stallSet b).flatMap fun n =>
    match stallSec b n with
    | some x => (sectionDescs (secBytes b x)).zipIdx.map fun p => (n, p.2, p.1)
    | none => []

/-- GROUP of a COLLECT (R339). -/
def collectGroup (d : Desc) : Nat := byteAt d.oparam 1
/-- WUP and WDN of a COLLECT (R339). -/
def collectWup (d : Desc) : Nat := byteAt d.oparam 2 % 64
def collectWdn (d : Desc) : Nat := byteAt d.oparam 3 % 64

/-- The groups that an image names, by a GROUP route or a COLLECT (R336, R337). -/
def imgGroups (b : List Byte) : List Nat :=
  (((routesOf b).filter (·.group)).map fun r => r.dsts.getD 0 0) ++
  (((imgDescs b).filter fun x => x.2.2.opcode = 0x34).map fun x => collectGroup x.2.2)

/-- The groups that resident images name, each once (R336). -/
def namedGroups (s : State) : List Nat := ((residents s).flatMap fun k => imgGroups (imgAt s k)).eraseDups

/-- The LOFT regions of an image, each with the section that names it and the offset in it (R225, R244): operand regions
[BASE, BASE + EXTENT × 4 KiB), fill maps, LOFTDATA targets and arenas. -/
def imgRegions (b : List Byte) : List (Nat × Nat × Nat × Nat) :=
  (sectionsOf b).flatMap fun x =>
    let d := secBytes b x
    if x.ty = 2 then
      let r := stallRec d
      (sectionDescs d).zipIdx.flatMap fun p =>
        ([(p.1.a, 256), (p.1.b, 288), (p.1.c, 320), (p.1.x, 352)].filter fun o => o.1.space = 2).map fun o =>
          (x.idx, 64 + r.dtbase - r.imgbase + 512 * p.2 + o.2, o.1.base, o.1.base + 4096 * o.1.extent)
    else if x.ty = 4 then
      ((List.range (countOf d)).map fun i => (i, circRec d i)).filterMap fun p =>
        if p.2.arenaSlots = 0 then none
        else some (x.idx, 16 + 64 * p.1, p.2.arenaBase, p.2.arenaBase + p.2.arenaSlots * p.2.arenaPitch)
    else if x.ty = 9 then
      ((List.range (countOf d)).map fun i => (i, fillRec d i)).filterMap fun p =>
        if p.2.loft then some (x.idx, 16 + 16 * p.1, p.2.addr, p.2.addr + 8 * p.2.tiles) else none
    else if x.ty = 10 then
      let a := leAt d 0 8 % 2 ^ 39
      [(x.idx, 0, a, a + (x.len - 16))]
    else []

end Sys2Proof.Machine
end

