-- ==== Sys2Proof/Machine/Loft.lean ====
section
/-! DEFINITION. The loft (R280 to R303): the address map, words and poison, scrub and refresh, partitions, ZERO, and the host
COPY (R380). -/

namespace Sys2Proof.Machine

/-! ## The address map (R283, R284) -/

/-- The exposed loft: 320 GiB (R283). -/
def exposed : Nat := 320 * 2 ^ 30

/-- J, Q and I of LOFT_MAP: the job-local, cache-local and interleaved parts of a slice (R283). -/
def jobLocal (s : State) : Nat := s.loft.loc * 2 ^ 21
def cacheLocal (s : State) : Nat := s.loft.cloc * 2 ^ 21
def interleaved (s : State) : Nat := 2 ^ 28 - jobLocal s - cacheLocal s

/-- The slice of barn `b` that area `a` maps to (R284). -/
def areaSlice (s : State) (b a : Nat) : Nat :=
  if a < 300 then (physOf s (300 * b + a)).getD (320 * b + 32 * (a / 30) + a % 30) % 320
  else
    let free := (List.range 320).filter fun p => (pstAt s (320 * b + p)).logical.isNone
    free.getD (a - 300) 0

/-- The slice of a loft address, 320 × barn + slice, and the byte within it (R283). -/
def sliceOf (s : State) (addr : Nat) : Nat × Nat :=
  let b := addr / (80 * 2 ^ 30)
  let o := addr % (80 * 2 ^ 30)
  let i := interleaved s
  let j := jobLocal s
  let q := cacheLocal s
  if o < 320 * i then (320 * b + o / 4096 % 320, o / 4096 / 320 * 4096 + o % 4096)
  else if o < 320 * (i + j) then (320 * b + areaSlice s b ((o - 320 * i) / j), i + (o - 320 * i) % j)
  else (320 * b + areaSlice s b ((o - 320 * (i + j)) / q), i + j + (o - 320 * (i + j)) % q)

/-- The controller of a loft address, eight to a barn (R298). -/
def controllerOf (s : State) (addr : Nat) : Nat := (sliceOf s addr).1 / 40

/-! ## Words, corrections and poison (R287 to R292) -/

/-- The 64-byte word of an address (R287). -/
def wordOf (a : Nat) : Nat := a / 64 * 64

/-- A word is poisoned. -/
def poisonedWord (s : State) (w : Nat) : Bool := s.loft.poison.contains w

/-- An address put into a rising list. -/
def insertAddr (a : Nat) : List Nat → List Nat
  | [] => [a]
  | b :: r => if a < b then a :: b :: r else if a = b then b :: r else b :: insertAddr a r

/-- One word corrected by controller `c` (R290): counted in its barn; the first correction and every 65,536th after it are recorded. -/
def correctAt (c access a : Nat) (s : State) : State :=
  let n := tget 0 s.loft.corrected (c / 8) + 1
  let s := { s with loft.corrected := tset s.loft.corrected (c / 8) n }
  if n % 65536 = 1 then raise 0x0401 2 c 0x7FF (detA a access) s else s
def correctOne (access a : Nat) (s : State) : State := correctAt (controllerOf s a) access a s

/-- One word found uncorrectable is rewritten with the poison pattern and counted (R291). -/
def poisonOne (a : Nat) (s : State) : State :=
  if poisonedWord s a then s
  else { s with loft.poison := insertAddr a s.loft.poison, loft.poisoned := sat 25 (s.loft.poisoned + 1) }

/-- What the decoder found in the words that an access read (R289 to R291). -/
def eccApply (ecc : EccReport) (reads : Nat → Bool) (access : Nat) (s : State) : State :=
  let s := ((ecc.corrected.filter reads).filter fun w => !poisonedWord s w).foldl (fun s w => correctOne access w s) s
  (ecc.uncorrectable.filter reads).foldl (fun s w => poisonOne w s) s

/-- Bytes of the loft. -/
def loftRead (s : State) (a n : Nat) : List Byte := memRead s.loft.mem a n

/-- The words that a range touches. -/
def wordsIn (a n : Nat) : List Nat := if n = 0 then [] else (List.range ((wordOf (a + n - 1) - wordOf a) / 64 + 1)).map fun i => wordOf a + 64 * i

/-- The first poisoned word of a range. -/
def firstPoison (s : State) (a n : Nat) : Option Nat := (wordsIn a n).find? (poisonedWord s)

/-- A write of cells to the loft (R287, R291, R292): a whole word clears its poison; a partial write to a poisoned word is
not performed. `whole` says which words the write covers entirely. -/
def loftPut (cells : List (Nat × Byte)) (whole : Nat → Bool) (s : State) : State :=
  { s with
    loft.mem := memCells s.loft.mem (cells.filter fun c => !poisonedWord s (wordOf c.1) || whole (wordOf c.1))
    loft.poison := s.loft.poison.filter fun w => !(whole w && cells.any fun c => wordOf c.1 = w) }

/-- The cells of consecutive bytes. -/
def cellsAt (a : Nat) (bs : List Byte) : List (Nat × Byte) := bs.zipIdx.map fun p => (a + p.2, p.1)

/-- A word lies entirely in a range. -/
def wholeIn (a n w : Nat) : Bool := a ≤ w && w + 64 ≤ a + n

/-- One more packet of a class has been injected, `c` times. -/
def countPkts (cls c : Nat) (s : State) : State :=
  { s with fab.packets := tmod 0 s.fab.packets cls fun x => (x + c) % 2 ^ 32 }

/-- The lengths of the pieces that 4 KiB pages cut a range into: each lies in one slice (R283). -/
def pagePieces (a n : Nat) : List Nat :=
  if n = 0 then []
  else (List.range ((a + n - 1) / 4096 - a / 4096 + 1)).map fun i =>
    let lo := max a ((a / 4096 + i) * 4096)
    min (a + n) ((a / 4096 + i + 1) * 4096) - lo

/-- The packets of an access of the hub to a range (R281, R309, R311). DESIGN CHOICE: one transfer to each 4 KiB page of it; they are
counted, and the access is one step (log entry 8). -/
def hubPkts (data answer a n : Nat) (s : State) : State :=
  let ps := pagePieces a n
  countPkts data ((ps.map fun c => (c + 495) / 496).sum) (countPkts answer ps.length s)

/-- The hub writes bytes to the loft: WRITE packets and their ACKs. -/
def hubWrite (a : Nat) (bs : List Byte) (s : State) : State :=
  loftPut (cellsAt a bs) (wholeIn a bs.length) (hubPkts 2 1 a bs.length s)

/-- The hub reads a range of the loft: READ packets and their RDATA; what the decoder found on the way (R290, R291). -/
def hubRead (ecc : EccReport) (access a n : Nat) (s : State) : State :=
  eccApply ecc (fun w => (wordsIn a n).contains w) access (hubPkts 1 0 a n s)

/-- The first poisoned word that a write of cells covers in part (R291). -/
def blockedWord (s : State) (cells : List (Nat × Byte)) (whole : Nat → Bool) : Option Nat :=
  (cells.find? fun c => poisonedWord s (wordOf c.1) && !whole (wordOf c.1)).map fun c => wordOf c.1

/-! ## Partitions (R299, R300) -/

/-- LOFT_PART_i. -/
def partAt (s : State) (i : Nat) : Part := tget {} s.loft.parts i

/-- The ranges of the enabled entries of a kind (R299). -/
def partRanges (s : State) (access : Nat) : List (Nat × Nat) :=
  ((List.range 16).filter fun i => (partAt s i).access = access).map fun i =>
    ((partAt s i).base * 2 ^ 21, (partAt s i).limit * 2 ^ 21)

/-- The job's loft partition: the enabled JOB entries (R299). -/
def jobRanges (s : State) : List (Nat × Nat) := partRanges s 1

/-- The first address of [a, hi) that no range covers, by fuel (R300). -/
def firstOutsideFuel : Nat → List (Nat × Nat) → Nat → Nat → Option Nat
  | 0, _, a, hi => if a < hi then some a else none
  | f + 1, rs, a, hi =>
    if hi ≤ a then none
    else
      match rs.find? fun r => r.1 ≤ a && a < r.2 with
      | some r => firstOutsideFuel f rs r.2 hi
      | none => some a

/-- The first address of [a, hi) outside the ranges (R300). -/
def firstOutside (rs : List (Nat × Nat)) (a hi : Nat) : Option Nat := firstOutsideFuel (rs.length + 1) rs a hi

/-- An address lies in the job's loft partition. -/
def inJob (s : State) (a : Nat) : Bool := (jobRanges s).any fun r => r.1 ≤ a && a < r.2

/-- What a host command through a view may reach (R300). -/
def viewRanges (s : State) : View → List (Nat × Nat)
  | .job => jobRanges s
  | .priv => [(0, exposed)]

/-- LOFT_MAP and LOFT_PART_i as register words. -/
def loftMapWord (s : State) : W64 := pack [(8, s.loft.cloc), (0, s.loft.loc)]
def partWord (p : Part) : W64 := pack [(62, p.access), (32, p.limit), (0, p.base)]

/-- The loft address of a byte of a slice: the inverse of `sliceOf` (R283). -/
def addrOf (s : State) (slice byte : Nat) : Nat :=
  let b := slice / 320
  let i := interleaved s
  let j := jobLocal s
  let q := cacheLocal s
  let area := ((List.range 320).find? fun a => areaSlice s b a = slice % 320).getD 0
  80 * 2 ^ 30 * b +
  (if byte < i then byte / 4096 * 320 * 4096 + slice % 320 * 4096 + byte % 4096
   else if byte < i + j then 320 * i + area * j + (byte - i)
   else 320 * (i + j) + area * q + (byte - i - j))

/-- LOFT_MAP takes new values: every byte and every poisoned word stays where it is in its slice, and is read at the address that the new
map gives that place (R302). -/
def remapped (loc cloc : Nat) (s : State) : State :=
  let t := { s with loft.loc := loc, loft.cloc := cloc }
  let move := fun a => let (sl, byte) := sliceOf s a; addrOf t sl byte
  { t with
    loft.mem := memCells [] (s.loft.mem.map fun c => (move c.1, c.2))
    loft.poison := s.loft.poison.foldl (fun l w => insertAddr (move w) l) [] }

/-- A write to LOFT_MAP (R302). -/
def loftMapSet (value : W64) (s : State) : State :=
  if ((List.range 16).any fun i => (partAt s i).access ≠ 0) ∨ (s.syl.slots.any fun e => e.2.st ≠ .empty) ∨
     128 < fld value 7 0 + fld value 15 8 then { s with loft.mrefused := true }
  else remapped (fld value 7 0) (fld value 15 8) s

/-- LOFT_MAP_WRITE (R302). -/
def execLoftMapWrite (view : View) (value : W64) (s : State) : Host.Outcome State Fault Refusal :=
  .next (regWrite view loftBase (loftMapSet value) s)

/-- Two ranges have an address in common. -/
def overlaps (a b : Nat × Nat) : Bool := a.1 < b.2 && b.1 < a.2 && a.1 < a.2 && b.1 < b.2

/-- The arenas of an image (R244). -/
def arenasOf (b : List Byte) : List (Nat × Nat) :=
  ((circuitsOf b).filter fun c => c.arenaSlots ≠ 0).map fun c => (c.arenaBase, c.arenaBase + c.arenaSlots * c.arenaPitch)

/-- The reference areas of the video streams that are not CLOSED (R352). -/
def refAreas (s : State) : List (Nat × Nat) :=
  (s.vid.streams.filter fun e => e.2.st != .closed).map fun e => (e.2.ctx.refbase, e.2.ctx.refbase + e.2.ctx.refsize)

/-- The cache-local range of each barn (R283). -/
def cacheLocalRanges (s : State) : List (Nat × Nat) :=
  [0, 1, 2, 3].map fun b =>
    (b * 80 * 2 ^ 30 + 320 * (interleaved s + jobLocal s), (b + 1) * 80 * 2 ^ 30)

/-- An enabled entry may not be disabled (R301): a resident image has a LOFT region in it, or a slot has bytes in it. -/
def partBusy (s : State) (p : Part) : Bool :=
  ((residents s).any fun k => (imgRegions (imgAt s k)).any fun r =>
    overlaps (r.2.2.1, r.2.2.2) (p.base * 2 ^ 21, p.limit * 2 ^ 21)) ||
  (p.access = 2 && s.syl.slots.any fun e => e.2.st ≠ .empty && e.2.pages.any fun g =>
    p.base * 2 ^ 21 ≤ g.base && g.base < p.limit * 2 ^ 21)

/-- A write to LOFT_PART_i breaks a rule of R301. -/
def partRefused (s : State) (i : Nat) (v : W64) : Bool :=
  let p := partAt s i
  let access := fld v 63 62
  let lo := fld v 17 0
  let hi := fld v 49 32
  (p.access ≠ 0 && access ≠ 0) || access = 3 || (p.access ≠ 0 && partBusy s p) ||
  (access ≠ 0 && (hi ≤ lo || 163840 < hi ||
    (cacheLocalRanges s ++ partRanges s 1 ++ partRanges s 2).any fun r => overlaps r (lo * 2 ^ 21, hi * 2 ^ 21))) ||
  (s.loft.zero.any fun z => z.entry = i)

/-- A write to LOFT_PART_i (R301). -/
def loftPartSet (i : Nat) (v : W64) (s : State) : State :=
  if partRefused s i v then { s with loft.prefused := true }
  else { s with loft.parts := tset s.loft.parts i { access := fld v 63 62, base := fld v 17 0, limit := fld v 49 32 } }

/-- LOFT_PART_WRITE (R301). -/
def execLoftPartWrite (view : View) (i : Nat) (value : W64) (s : State) : Host.Outcome State Fault Refusal :=
  .next (regWrite view (loftBase + 0x200 + 8 * i) (loftPartSet i value) s)

/-! ## Scrub and refresh (R293 to R295) -/

/-- The pages that a pass of a slice visits (R293): 65,536 exposed, and its share of the controller's spare pages less
those that the loft test failed. -/
def passPages (s : State) (slice : Nat) : Nat :=
  65536 + (if slice % 320 % 40 < 32 then 3277 else 3276) -
    ((s.bring.spareBad.filter fun x => 320 * x.1 + x.2.1 = slice).eraseDups.length)

/-- The good spare pages of a slice (R293). -/
def goodSpares (s : State) (slice : Nat) : Nat := passPages s slice - 65536

/-- The exposed page, as a slice and a page of it, that a spare page serves. DESIGN CHOICE: the remaps of a controller take its good spare
pages in ascending order (log entry 49). -/
def servedPage (s : State) (slice spare : Nat) : Option (Nat × Nat) :=
  let c := slice / 40
  let earlier := ((List.range (slice % 40)).map fun i => goodSpares s (40 * c + i)).sum
  (((s.bring.fuseRemap ++ s.bring.volRemap).filter fun x => (320 * x.1 + x.2.1) / 40 = c)[earlier + spare]?).map
    fun x => (320 * x.1 + x.2.1, x.2.2)

/-- The page that a scrub tick visits, as a slice and an exposed page of it: none for a spare page that serves no remap. -/
def scrubPage (s : State) (slice page : Nat) : Option (Nat × Nat) :=
  if page < 65536 then some (slice, page) else servedPage s slice (page - 65536)

/-- A word lies in the page that a scrub tick visits. -/
def scrubReads (s : State) (slice page w : Nat) : Bool :=
  let (sl, byte) := sliceOf s w
  scrubPage s slice page = some (sl, byte / 4096)

/-- A visit to a spare page that serves no remap: its words have no loft address, and the reports name them from 320 GiB up. DESIGN
CHOICE: they are counted as any other, and the record of a correction names a free address (log entry 49). -/
def scrubSpare (slice : Nat) (ecc : EccReport) (s : State) : State :=
  let s := (ecc.corrected.filter fun w => exposed ≤ w).foldl (fun s _ =>
    let (a, s) := takeFree s
    correctAt (slice / 40) 0 (a % 2 ^ 39) s) s
  { s with loft.poisoned := sat 25 (s.loft.poisoned + (ecc.uncorrectable.filter fun w => exposed ≤ w).length) }

/-- A word that scrub poisoned takes the lowest free entry of the poison log, if one is free. -/
def plogAdd (w : Nat) (s : State) : State :=
  match (List.range 16).find? fun i => (tfind s.loft.plog i).isNone with
  | some i => { s with loft.plog := tset s.loft.plog i w }
  | none => s

/-- One scrub tick of a slice (R293). -/
def scrubTick (slice : Nat) (ecc : EccReport) (s : State) : State :=
  if !(s.loft.scrubOn && s.bring.loftTested && barnsOn s) || unitStopped s 2 (slice / 40) then s
  else
    let x := tget {} s.loft.slices slice
    let reads := scrubReads s slice x.page
    let new := (ecc.uncorrectable.filter reads).filter fun w => !poisonedWord s w
    let s := new.eraseDups.foldl (fun s w => plogAdd w s) (eccApply ecc reads 0 s)
    let s := if (scrubPage s slice x.page).isNone then scrubSpare slice ecc s else s
    let last := passPages s slice ≤ x.page + 1
    let x := { x with page := if last then 0 else x.page + 1, passes := if last then x.passes + 1 else x.passes }
    { s with loft.slices := tset s.loft.slices slice x }

/-- LOFT_SCRUB_TICK (R293). -/
def execLoftScrubTick (slice : Nat) (ecc : EccReport) (s : State) : Host.Outcome State Fault Refusal :=
  .next (scrubTick slice ecc s)

/-- PASSES: the smallest pass count of any slice (R293). -/
def passesMin (s : State) : Nat :=
  ((List.range 1280).map fun i => (tget {} s.loft.slices i).passes).foldl min (tget {} s.loft.slices 0).passes

/-- A slice refreshes itself, at double rate above 85 °C, while the loft is powered (R295, R296). -/
def refresh (slice : Nat) (hot : Bool) (s : State) : State :=
  if s.pwr.st == .aux then s
  else { s with loft.slices := tmod {} s.loft.slices slice fun x =>
    { x with doubled := hot, refreshes := x.refreshes + 1 } }

/-- LOFT_REFRESH (R295). -/
def execLoftRefresh (slice : Nat) (hot : Bool) (s : State) : Host.Outcome State Fault Refusal :=
  .next (refresh slice hot s)

/-! ## ZERO (R303) -/

/-- Some stall has an operation instance in progress (R230, R303). -/
def opsRunning (s : State) : Bool := s.stalls.any fun e => stallBusy e.2

/-- Some circuit is RUNNING or DRAINING. -/
def circuitsRunning (s : State) : Bool := s.roll.circuits.any fun e => e.2.st == .running || e.2.st == .draining

/-- A LOFT command completes with a result and its record (R303, R383). -/
def loftDone (iss : Issuer) (result : Nat) (s : State) : State :=
  postCmd iss result [] { s with loft.ztag := iss.tag % 256, loft.zresult := result }

/-- A LOFT command barred before its own rules (R496, R516). -/
def loftBarred (iss : Issuer) (b : Nat × Nat) (s : State) : State :=
  postCmd iss b.2 [] { s with loft.ztag := iss.tag % 256, loft.zresult := b.1 }

/-- ZERO on a JOB entry that a resident image names is BUSY during a pre-emption (R439). -/
def preemptBars (s : State) (p : Part) : Bool :=
  (s.ctx.st != .run || s.ctx.preempt.isSome) && p.access = 1 &&
  (residents s).any fun k => (imgRegions (imgAt s k)).any fun r =>
    overlaps (r.2.2.1, r.2.2.2) (p.base * 2 ^ 21, p.limit * 2 ^ 21)

/-- ZERO through a view (R303). One written while ZACTIVE = 1 is dropped. -/
def zero (view : View) (iss : Issuer) (entry : Nat) (s : State) : State :=
  if s.loft.zero.isSome then s
  else
    match jobBar false s with
    | some b => loftBarred iss b s
    | none =>
      let p := partAt s entry
      if p.access = 0 ∨ view = .job ∧ p.access ≠ 1 then loftDone iss 5 s
      else if circuitsRunning s ∨ opsRunning s ∨ preemptBars s p ∨ p.access = 2 ∧ s.syl.slots.any (fun e => e.2.st ≠ .empty) then
        loftDone iss 1 s
      else
        { s with loft.zero := some { entry := entry, base := p.base * 2 ^ 21, limit := p.limit * 2 ^ 21, issuer := some iss } }

/-- LOFT_ZERO (R303). -/
def execLoftZero (view : View) (tag : Nat) (entry : Nat) (s : State) : Host.Outcome State Fault Refusal :=
  .next (regWrite view (loftBase + 0x10) (zero view (regIssuer tag) (entry % 16)) s)

/-- A range of the loft zeroed, its poison cleared (R303). -/
def loftZeroed (lo hi : Nat) (s : State) : State :=
  { s with loft.mem := memZero s.loft.mem lo hi, loft.poison := s.loft.poison.filter fun w => w < lo || hi ≤ w }

/-! ## COPY (R380) -/

/-- The view of a queue (R423). -/
def queueView (q : Nat) : View := if q < 16 then .job else .priv

/-- The command register's window address that a VIEW completion of queue `q` names, by unit (R381). -/
def unitAddr (q unit : Nat) (vacate : Bool) : Nat :=
  match unit with
  | 1 => sylBase
  | 2 => rollBase
  | 3 => vidBase
  | 4 => loftBase + 0x10
  | 5 => if vacate then ctxBase + 0x400 else ctxBase
  | 6 => snapBase
  | _ => hostBase + 0x110 + 0x20 * q

/-- Why a COPY does not move bytes: its status and record body (R300, R380, R381, R516). -/
def copyBar (q host loft len : Nat) (hostOk : Bool) (s : State) : Option (Nat × List Byte) :=
  match unitBar s with
  | some b => some (b.2, [])
  | none =>
    if len = 0 ∨ len % 64 ≠ 0 ∨ 2 ^ 39 < loft + len then some (5, [])
    else
      match firstOutside (viewRanges s (queueView q)) loft (loft + len) with
      | some a => some (0x13, addrBody a)
      | none => if hostOk then none else some (0x13, addrBody host)

/-- A COPY of a queue: VIEW while no job owns the device (R426), else barred or run by `f`. -/
def copyRun (q tag host loft len : Nat) (hostOk : Bool) (f : Issuer → State → State) (s : State) : State :=
  let iss : Issuer := { via := .queue q, tag := tag }
  let s := modQueue q (fun x => { x with inflight := x.inflight + 1 }) s
  if q < 16 ∧ !s.sec.owned then postCmd iss 0x10 [] (viewViolation (unitAddr q 7 false) 2 s)
  else
    match copyBar q host loft len hostOk s with
    | some (st, body) => postCmd iss st body s
    | none => f iss s

/-- Bytes moved into the loft: words covered in part are merged, and a poisoned one is left (R291, R380). -/
def copyIn (loft : Nat) (bs : List Byte) (ecc : EccReport) (iss : Issuer) (s : State) : State :=
  let whole := wholeIn loft bs.length
  let s := eccApply ecc (fun w => (wordsIn loft bs.length).contains w && !whole w) 4 s
  let bad := blockedWord s (cellsAt loft bs) whole
  let s := hubWrite loft bs s
  match bad with
  | some w => postCmd iss 0x12 (addrBody w) s
  | none => postCmd iss 0 [] s

/-- The enabled extents SNAP_EXT_i (R464). -/
def extRanges (s : State) : List (Nat × Nat) :=
  ((List.range 8).map fun i => tget 0 s.snap.ext i).filterMap fun w =>
    if fld w 63 63 = 1 then some (fld w 17 0 * 2 ^ 21, fld w 49 32 * 2 ^ 21) else none

/-- RBASE and P of the state region (R463). -/
def regionBase (s : State) : Nat := s.snap.regBase * 2 ^ 21
def regionPitch (s : State) : Nat := s.snap.pitch * 2 ^ 21

/-- Physical half `h` of the state region (R463). -/
def regionHalf (s : State) (h : Nat) : Nat × Nat :=
  (regionBase s + h * (regionPitch s / 2), regionBase s + (h + 1) * (regionPitch s / 2))

/-- A COPY TO_LOFT touches an extent, or the half that a drain is reading (R464). -/
def copyHeld (s : State) (loft len : Nat) : Bool :=
  s.snap.st != .off &&
  ((extRanges s).any (overlaps (loft, loft + len)) ||
   s.snap.st == .drain && (s.snap.drain.any fun d => overlaps (loft, loft + len) (regionHalf s (d.step % 2))))

/-- COPY TO_LOFT (R380), BUSY where R464 says so. -/
def copyTo (q tag host loft len : Nat) (data : HostRead) (ecc : EccReport) : State → State :=
  copyRun q tag host loft len data.isSome fun iss s =>
    if copyHeld s loft len then postCmd iss 1 [] s else copyIn loft (padTo len (data.getD [])) ecc iss s

/-- COPY_TO_LOFT (R380). -/
def execCopyToLoft (q tag host loft len : Nat) (data : HostRead) (ecc : EccReport) (s : State) :
    Host.Outcome State Fault Refusal :=
  .next (copyTo q tag host loft len data ecc s)

/-- The maximal runs of present bytes, each with its address. -/
def runsFrom (a : Nat) : List (Option Byte) → List (Nat × List Byte)
  | [] => []
  | none :: r => runsFrom (a + 1) r
  | some b :: r =>
    match runsFrom (a + 1) r with
    | (c, l) :: t => if c = a + 1 then (a, b :: l) :: t else (a, [b]) :: (c, l) :: t
    | [] => [(a, [b])]

/-- Bytes moved out of the loft: the host bytes of a poisoned word stay unwritten (R380). -/
def copyOut (host loft len : Nat) (ecc : EccReport) (iss : Issuer) (s : State) : State :=
  let s := hubRead ecc 0 loft len s
  let bytes := (List.range len).map fun i =>
    if poisonedWord s (wordOf (loft + i)) then none else some (memGet s.loft.mem (loft + i))
  let txns := (chunks 4096 bytes).zipIdx.flatMap fun c =>
    (runsFrom (host + 4096 * c.2) c.1).map fun r => HostTxn.write r.1 r.2
  let s := hostSend txns s
  match firstPoison s loft len with
  | some w => postCmd iss 0x12 (addrBody w) s
  | none => postCmd iss 0 [] s

/-- COPY FROM_LOFT (R380). -/
def copyFrom (q tag host loft len : Nat) (hostOk : Bool) (ecc : EccReport) : State → State :=
  copyRun q tag host loft len hostOk (copyOut host loft len ecc)

/-- COPY_FROM_LOFT (R380). -/
def execCopyFromLoft (q tag host loft len : Nat) (hostOk : Bool) (ecc : EccReport) (s : State) :
    Host.Outcome State Fault Refusal :=
  .next (copyFrom q tag host loft len hostOk ecc s)

end Sys2Proof.Machine
end

