-- ==== Sys2Proof/Machine/Gates.lean ====
section
/-! DEFINITION. Optical lanes, gate links, gate packets and routes, and group entries (R319 to R345). -/

namespace Sys2Proof.Machine

/-- Optical engine `e`: 0–11 gates, 12 host, 13 store (R319). -/
def engineAt (s : State) (e : Nat) : Engine := tget {} s.gate.engines e

/-- Optical engine `e` changed. -/
def modEngine (e : Nat) (f : Engine → Engine) (s : State) : State :=
  { s with gate.engines := tmod {} s.gate.engines e f }

/-- Gate `g`. -/
def gateAt (s : State) (g : Nat) : Gate := tget {} s.gate.gates g

/-- Gate `g` changed. -/
def modGate (g : Nat) (f : Gate → Gate) (s : State) : State := { s with gate.gates := tmod {} s.gate.gates g f }

/-- The wavelengths of an engine (R319). -/
def lanesOf (e : Nat) : Nat := if e < 12 then 9 else 5

/-- The lanes that carry traffic (R319). -/
def activeLanes (e : Nat) : Nat := if e < 12 then 8 else 4

/-- BRING_OPT_e. -/
def optAt (s : State) (e : Nat) : OptQual := tget {} s.bring.opt e

/-- The good wavelengths of an engine: qualified, passed, not fuse-bad, no TXFAIL (R403). -/
def goodLanes (s : State) (e : Nat) : List Nat :=
  let o := optAt s e
  (List.range (lanesOf e)).filter fun w =>
    o.tested.testBit w && !o.fail.testBit w && !o.fuseBad.testBit w && !o.txfail.testBit w

/-! ## Group entries and routes (R331, R332, R335) -/

/-- GATE_GROUP_g. -/
def groupAt (s : State) (g : Nat) : W64 := tget 0 s.gate.groups g
/-- VALID, NMEM, SELF, PEER and RBASE of a group entry. -/
def grpValid (w : W64) : Bool := fld w 63 63 = 1
def grpNmem (w : W64) : Nat := fld w 62 51
def grpSelf (w : W64) : Nat := fld w 50 40
def grpPeer (w : W64) : Nat := fld w 39 29
def grpRbase (w : W64) : Nat := fld w 10 0

/-- The successor and the predecessor of member `k` of `n` in canonical ring order (R335). -/
def succMember (n k : Nat) : Nat := (k + 1) % n
def predMember (n k : Nat) : Nat := (k + n - 1) % n

/-- Segment `i` of a route, GATE and COUNT (R331). -/
def routeSeg (lo hi : W64) (i : Nat) : Nat × Nat :=
  let w := if i < 3 then lo else hi
  let b := 20 * (i % 3)
  (fld w (b + 19) (b + 16), fld w (b + 15) b)

/-- NSEG of a route (R331). -/
def routeNseg (hi : W64) : Nat := fld hi 62 60

/-- A route meets R332. -/
def routeOk (lo hi : W64) : Bool :=
  let n := routeNseg hi
  let segs := (List.range 6).map (routeSeg lo hi)
  let used := segs.take n
  decide (n ≤ 6) && used.all (fun x => decide (x.1 < 12) && decide (1 ≤ x.2)) && (segs.drop n).all (fun x => x == (0, 0)) &&
  decide ((used.map (·.2)).sum ≤ 65535) && (used.zip (used.drop 1)).all (fun p => decide (p.1.1 / 2 < p.2.1 / 2)) &&
  fld lo 63 60 == 0 && fld hi 63 63 == 0

/-- Route `r` of the table. -/
def routeAt (s : State) (r : Nat) : W64 × W64 := (tget 0 s.gate.routeLo r, tget 0 s.gate.routeHi r)

/-! ## Gate packets (R329) -/

/-- The slots of a packet. -/
def pktSlots (p : GatePkt) : Nat := (32 + p.payload.length + 127) / 128

/-- The packet that starts at the front of a receive buffer, after empty slots (R329). -/
def dropIdle : List (List Byte) → List (List Byte)
  | [] => []
  | s :: r => if byteAt s 0 % 16 = 0 then dropIdle r else s :: r

/-- A gate header and its payload read from slot bytes (R329). -/
def readPkt (b : List Byte) : GatePkt :=
  { op := byteAt b 0 % 16, group := byteAt b 2, window := byteAt b 3 % 64, stall := leAt b 4 2 % 2048,
    member := leAt b 6 2 % 2048, entry := byteAt b 8, offset := leAt b 10 2 % 4096, tile := leAt b 12 2,
    routeLo := BitVec.ofNat 64 (leAt b 16 8), routeHi := BitVec.ofNat 64 (leAt b 24 8),
    payload := slice b 32 (16 * (byteAt b 1 % 32)) }

/-- The packet at the front of gate `g`'s receive buffer, once all its slots have arrived. -/
def frontPkt (s : State) (g : Nat) : Option GatePkt :=
  let buf := dropIdle (gateAt s g).rxBuf
  match buf with
  | [] => none
  | x :: _ =>
    let n := (32 + 16 * (byteAt x 1 % 32) + 127) / 128
    if buf.length < n then none else some (readPkt (buf.take n).flatten)

/-- The packet at the front leaves the receive buffer, and its slots are freed (R325). -/
def popPkt (g : Nat) (p : GatePkt) (s : State) : State :=
  modGate g (fun x => { x with rxBuf := (dropIdle x.rxBuf).drop (pktSlots p), freed := x.freed + pktSlots p }) s

/-- Where a packet that has arrived on gate `g` goes: `none` to deliver here, or the gate it leaves on, whether straight,
and the packet with its route advanced (R331). -/
def routeStep (g : Nat) (p : GatePkt) : Option (Nat × Bool × GatePkt) :=
  let seg := fld p.routeLo 62 60
  let (_, cnt) := routeSeg p.routeLo p.routeHi seg
  let b := 20 * (seg % 3)
  let dec := fun (w : W64) => BitVec.ofNat 64 (setField w.toNat (b + 15) b (cnt - 1))
  let p := if seg < 3 then { p with routeLo := dec p.routeLo } else { p with routeHi := dec p.routeHi }
  if 0 < cnt - 1 then some (g ^^^ 1, true, p)
  else
    let seg' := seg + 1
    if seg' = routeNseg p.routeHi then none
    else
      let p := { p with routeLo := BitVec.ofNat 64 (setField p.routeLo.toNat 62 60 seg') }
      some ((routeSeg p.routeLo p.routeHi seg').1, false, p)

/-! ## Sending (R324, R325, R333) -/

/-- Outputs of the device that a gate carries are held: a DEVICE-class stop (R420) or the load of a FULL image (R228).
ABORT is link control and is never held (R344). In drill mode no group traffic passes (R24). -/
def gateHeld (s : State) (p : GatePkt) : Bool := s.bring.drill || p.op ≠ 3 && (stopped s || (s.syl.held && s.syl.heldFull))

/-- The slots that the next frame returns as LCRED: as many as its field holds (R323, R325). -/
def lcredOf (x : Gate) : Nat := min 1023 x.freed

/-- The control word of a frame as it is sent (R323): ACK, NAK while a frame is missing (R324), REPEAT, and LCRED. -/
def ctrlWord (x : Gate) (rep : Bool) : BitVec 48 := (pack [(10, lcredOf x), (9, b2n rep), (8, b2n x.rxNak), (0, x.rxAck)]).setWidth 48

/-- A frame that carries a packet is sent and kept until acknowledged; the packet's slots take link credits, and the slots freed here are
returned (R323 to R325). Frames without a packet are not in the model: they would carry ACK, NAK and LCRED sooner (log entry 48). -/
def sendFrame (p : GatePkt) (ack : Option (Nat × Nat × Nat)) (x : Gate) : Gate :=
  { x with unacked := x.unacked ++ [{ seq := x.txSeq, pkt := p, sends := 1, ack := ack, ctrl := ctrlWord x false }],
           txSeq := (x.txSeq + 1) % 256, credits := x.credits - pktSlots p, freed := x.freed - lcredOf x }

/-- A frame is sent again with REPEAT = 1 and the control word of the moment (R323, R324), and counted (R325's REPLAYS). -/
def sendAgain (f : TxFrame) (x : Gate) : Gate × TxFrame :=
  ({ x with freed := x.freed - lcredOf x, replays := sat 16 (x.replays + 1) }, { f with sends := f.sends + 1, ctrl := ctrlWord x true })

/-- Frames sent again, in order. -/
def resendList : List TxFrame → Gate → Gate × List TxFrame
  | [], x => (x, [])
  | f :: r, x =>
    let a := sendAgain f x
    let b := resendList r a.1
    (b.1, a.2 :: b.2)

/-- A gate has room for a packet: it is UP, fewer than 128 frames are unacknowledged, and the link credits suffice, with 8
left for a packet that enters or turns (R324, R333). -/
def gateRoom (x : Gate) (p : GatePkt) (straight : Bool) : Bool :=
  x.st == .up && x.unacked.length < 128 && pktSlots p + (if straight then 0 else 8) ≤ x.credits

/-- The packets waiting at a gate enter it in order while there is room, by fuel (R333). -/
def gatePumpFuel : Nat → Nat → State → State
  | 0, _, s => s
  | f + 1, g, s =>
    match (gateAt s g).out with
    | [] => s
    | (p, ack) :: rest =>
      if gateRoom (gateAt s g) p false && !gateHeld s p then
        gatePumpFuel f g (modGate g (fun x => sendFrame p ack { x with out := rest }) s)
      else s

/-- The packets waiting at a gate enter it while there is room (R333). -/
def gatePump (g : Nat) (s : State) : State := gatePumpFuel (gateAt s g).out.length g s

/-- A DATA packet counts in GATE_GUSE_g: sent, received (modulo 2³²). -/
def countTx (g : Nat) (s : State) : State :=
  { s with gate.guse := tmod (0, 0) s.gate.guse g fun x => ((x.1 + 1) % 2 ^ 32, x.2) }
def countRx (g : Nat) (s : State) : State :=
  { s with gate.guse := tmod (0, 0) s.gate.guse g fun x => (x.1, (x.2 + 1) % 2 ^ 32) }

/-- A packet joins those waiting at the gate its route leaves on; a route to the device itself sends nothing. -/
def gateQueue (p : GatePkt) (ack : Option (Nat × Nat × Nat)) (front : Bool) (s : State) : State :=
  if routeNseg p.routeHi = 0 then s
  else
    let g := (routeSeg p.routeLo p.routeHi 0).1
    let s := if p.op = 1 then countTx p.group s else s
    gatePump g (modGate g (fun x => { x with out := if front then (p, ack) :: x.out else x.out ++ [(p, ack)] }) s)

/-- A packet of group `grp` to a member, its route from the table (R335). -/
def memberPkt (s : State) (grp member : Nat) (op : Nat) : GatePkt :=
  let w := groupAt s grp
  let (lo, hi) := routeAt s (grpRbase w + member)
  { op := op, group := grp, window := 0, stall := 0, member := grpSelf w, entry := 0, offset := 0, tile := 0,
    routeLo := lo, routeHi := hi, payload := [] }

/-- A CREDIT packet: credits for a window of a stall, to a member (R329, R337). -/
def sendCredit (grp member stall window n : Nat) (s : State) : State :=
  gateQueue { memberPkt s grp member 2 with stall := stall, window := window, tile := n } none false s

/-- ABORT for one group, to the successor and to the predecessor (R344). -/
def abortGroup (s : State) (grp : Nat) : State :=
  let w := groupAt s grp
  let n := grpNmem w
  let s := gateQueue (memberPkt s grp (succMember n (grpSelf w)) 3) none true s
  gateQueue (memberPkt s grp (predMember n (grpSelf w)) 3) none true s

/-- ABORT for every group that a resident image names (R344). -/
def abortGroups (s : State) : State := (namedGroups s).foldl abortGroup s

/-! ## Lanes (R320 to R322, R328) -/

/-- LANE_LOCK (R322): the receiver of wavelength `w` of engine `e` locks. -/
def laneLocks (e w : Nat) (s : State) : State := modEngine e (fun x => { x with locked := x.locked ||| (1 <<< w) }) s

/-- LANE_LOCK (R322). -/
def execLaneLock (e w : Nat) (s : State) : Host.Outcome State Fault Refusal := .next (laneLocks e w s)

/-- A gate goes DOWN and raises GATE_DOWN (R326); its packets wait. -/
def gateDown (g wl : Nat) (s : State) : State :=
  raise 0x0502 5 g 0x7FF (detG g wl 0 0x7FF) (modGate g (fun x => { x with st := .down, keep := false }) s)

/-- A retrain begins: error counts and the warning of every lane clear (R322, R345's GATE_LANE_ERR). -/
def laneErrClear (e : Nat) (s : State) : State := modEngine e (fun x => { x with err := [], warned := 0 }) s

/-- Unacknowledged frames are sent again from ACK + 1, in order (R324). -/
def resendAll (x : Gate) : Gate :=
  let r := resendList x.unacked x
  { r.1 with unacked := r.2 }

/-- The spare wavelength takes the place of lane `w` of an engine, if it is locked (R328). -/
def spareTakes (w : Nat) (x : Engine) : Option Engine :=
  match x.spare with
  | some sp =>
    if x.locked.testBit sp then
      some { x with active := x.active.map (fun a => if a = w then sp else a), spare := none, spared := true }
    else none
  | none => none

/-- An UP gate has retrained onto other wavelengths: its frames are resent, and nothing else shows it (R328). -/
def retrained (g : Nat) (e : Engine) (s : State) : State :=
  modGate g (fun x => { resendAll x with retrains := sat 16 (x.retrains + 1) }) (laneErrClear g (modEngine g (fun _ => e) s))

/-- An active lane of an UP gate has lost lock (R328): both ends retrain with the spare in its place and resend; with no
spare left, and in drill mode, where nothing is spared (R27), the gate goes DOWN (R326). -/
def gateLaneLost (g w : Nat) (s : State) : State :=
  if (gateAt s g).st ≠ .up then s
  else
    match if s.bring.drill then none else spareTakes w (engineAt s g) with
    | some e => retrained g e s
    | none => gateDown g w s

/-- The far end of an UP gate proposes other wavelengths: a lane of its own has failed, and this end retrains with it (R328). -/
def farRetrains (g : Nat) (proposal : List Nat) (s : State) : State :=
  let e := engineAt s g
  if (gateAt s g).st == .up && proposal != e.active && proposal.length = 8 && !s.bring.drill &&
     (proposal.all fun w => e.locked.testBit w) then
    retrained g { e with active := proposal, spare := none, spared := true } s
  else s

/-- GATE_BER_WARN (R322): corrected symbols of one window, counted, and the warning once until the next retrain. -/
def berWarn (g w corrected : Nat) (s : State) : State :=
  let x := engineAt s g
  let s := modEngine g (fun x => { x with err := tmod (0, 0) x.err w fun c => (sat 32 (c.1 + corrected), c.2) }) s
  if 1369021 ≤ corrected ∧ ¬ x.warned.testBit w then
    raise 0x0503 5 g 0x7FF (detG g w 0 0x7FF) (modEngine g (fun x => { x with warned := x.warned ||| (1 <<< w) }) s)
  else s

/-- GATE_BER_WARN (R322). -/
def execGateBerWarn (g w corrected : Nat) (s : State) : Host.Outcome State Fault Refusal :=
  .next (berWarn g w corrected s)

/-! ## Gate states and training (R327) -/

/-- Training starts: TRAIN codewords on all nine wavelengths, lane error counts cleared. From UP the link's frames are
kept (R328). -/
def startTraining (g : Nat) (s : State) : State :=
  laneErrClear g (modGate g (fun x =>
    { x with st := .train, keep := x.st == .up || (x.keep && x.st == .train), retrain := false, farProp := none }) s)

/-- Training starts again (RETRAINS). -/
def retrainGate (g : Nat) (s : State) : State :=
  startTraining g (modGate g (fun x => { x with retrains := sat 16 (x.retrains + 1) }) s)

/-- EN = 1 is ignored: in REFUSED (R389), with the engines unpowered, or on a gate that is UNQUALIFIED or has fewer than 8
good wavelengths (R403). -/
def enIgnored (s : State) (g : Nat) : Bool :=
  s.bring.phase == .refused || !barnsOn s || (goodLanes s g).length < 8

/-- A write of GATE_CTL_g: EN and RETRAIN (R327). -/
def gateCtlWrite (g : Nat) (value : W64) (s : State) : State :=
  let en := fld value 0 0 = 1
  let s :=
    if s.bring.phase == .refused then s
    else if en then
      if (gateAt s g).en || enIgnored s g then s
      else startTraining g (modGate g (fun x => { x with en := true }) s)
    else
      modGate g (fun x => { x with en := false, st := .off, keep := false, unacked := [], rxBuf := [], freed := 0 }) s
  if fld value 1 1 = 0 then s
  else if (gateAt s g).en ∧ en then retrainGate g s
  else modGate g (fun x => { x with retrain := true }) s

/-- GATE_ENABLE (R327). -/
def execGateEnable (view : View) (g : Nat) (value : W64) (s : State) : Host.Outcome State Fault Refusal :=
  .next (regWrite view (gateBase + 0x100 + 8 * g) (gateCtlWrite g value) s)

/-- A write of GATE_CTL_g with RETRAIN = 1 that leaves EN as it is (R327): without EN no training begins, and the bit stays set. -/
def gateRetrainWrite (g : Nat) (s : State) : State :=
  if (gateAt s g).en then retrainGate g s else modGate g (fun x => { x with retrain := true }) s

/-- GATE_RETRAIN (R327). -/
def execGateRetrain (view : View) (g : Nat) (s : State) : Host.Outcome State Fault Refusal :=
  .next (regWrite view (gateBase + 0x100 + 8 * g) (gateRetrainWrite g) s)

/-- A TRAIN codeword of the far end: its identity, proposal, locks and receive failures (R327, R403). A gate in DOWN trains
again when its far end trains, and an UP gate follows a far end whose lane has failed (R328). -/
def trainReceive (g node pgate : Nat) (proposal : List Nat) (farLocks txfail : Nat) (s : State) : State :=
  if (gateAt s g).st == .off || unitStopped s 5 g then s
  else
    let s := farRetrains g proposal s
    let s := if (gateAt s g).st == .down then retrainGate g s else s
    let s := modGate g (fun x => { x with pnode := node, pgate := pgate, farProp := some (proposal, farLocks) }) s
    { s with bring.opt := tmod {} s.bring.opt g fun o => { o with txfail := txfail % 512 } }

/-- GATE_TRAIN_RECEIVE (R327). -/
def execGateTrainReceive (g node pgate : Nat) (proposal : List Nat) (farLocks txfail : Nat) (s : State) :
    Host.Outcome State Fault Refusal :=
  .next (trainReceive g node pgate proposal farLocks txfail s)

/-- The gate's own proposal: the eight lowest good wavelengths that hold lock (R327). -/
def ownProposal (s : State) (g : Nat) : List Nat :=
  ((goodLanes s g).filter fun w => (engineAt s g).locked.testBit w).take 8

/-- The wavelength map both ends adopt: the proposal of the end whose (GATE_NODE, gate number) is lower, if it names eight
wavelengths that hold lock at both ends (R327). -/
def adopted (s : State) (g : Nat) : Option (List Nat) :=
  let x := gateAt s g
  match x.farProp with
  | none => none
  | some (far, farLocks) =>
    let mine := s.gate.node < x.pnode ∨ s.gate.node = x.pnode ∧ g ≤ x.pgate
    let map := if mine then ownProposal s g else far
    if map.length = 8 ∧ (map.all fun w => (engineAt s g).locked.testBit w && farLocks.testBit w) then some map else none

/-- A link that becomes UP afresh: 1,024 link credits, nothing unacknowledged (R325). -/
def freshLink (x : Gate) : Gate :=
  { x with txSeq := 0, unacked := [], rxAck := 255, rxNak := false, credits := 1024, rxBuf := [], freed := 0 }

/-- Both ends adopt the map and the gate becomes UP (R327): the ninth wavelength, if good, takes the spare role. -/
def trainDone (g : Nat) (s : State) : State :=
  if (gateAt s g).st ≠ .train || unitStopped s 5 g then s
  else
    match adopted s g with
    | none => s
    | some map =>
      let spare := (goodLanes s g).find? fun w => !map.contains w
      let s := modEngine g (fun e => { e with active := map, spare := spare, spared := false }) s
      let s := modGate g (fun x =>
        let x := if x.keep then resendAll x else freshLink x
        { x with st := .up, keep := false }) s
      gatePump g s

/-- GATE_TRAIN_DONE (R327). -/
def execGateTrainDone (g : Nat) (s : State) : Host.Outcome State Fault Refusal := .next (trainDone g s)

/-! ## Frames (R323 to R326) -/

/-- Frames up to ACK are dropped; the writes whose last packet they carry are acknowledged (R324, R342). -/
def ackFrames (g ack : Nat) (s : State) : State :=
  let u := (gateAt s g).unacked
  if u.any fun f => f.seq = ack then
    let done := (u.takeWhile fun f => f.seq ≠ ack) ++ ((u.dropWhile fun f => f.seq ≠ ack).take 1)
    let s := modGate g (fun x => { x with unacked := x.unacked.drop done.length }) s
    done.foldl (fun s f => match f.ack with | some (n, d, i) => ackOp n d i s | none => s) s
  else s

/-- The control word of a frame whose codewords decode: ACK, NAK and LCRED (R323, R324, R325). Nothing is sent again in drill mode (R27). -/
def readControl (g : Nat) (ctrl : BitVec 48) (s : State) : State :=
  let c := ctrl.toNat
  let s := ackFrames g (bits c 7 0) s
  let s := if c.testBit 8 && !s.bring.drill then modGate g resendAll s else s
  gatePump g (modGate g (fun x => { x with credits := x.credits + bits c 19 10 }) s)

/-- A frame in order is accepted: its 40 slots of 128 bytes enter the receive buffer; any other sets NAK until the frame
needed arrives (R323, R324). -/
def acceptFrame (seq : Nat) (payload : List Byte) (x : Gate) : Gate :=
  if seq = (x.rxAck + 1) % 256 then
    { x with rxAck := seq, rxNak := false, rxBuf := dropIdle (x.rxBuf ++ chunks 128 (padTo 5120 payload)) }
  else { x with rxNak := true }

/-- The wavelength of a codeword: of a logical lane, or, from 8 up, one named as 8 + its number. -/
def wavelengthOf (x : Engine) (l : Nat) : Nat := if l < 8 then x.active.getD l l else l - 8

/-- Uncorrectable codewords are counted on the wavelengths that carried them (R322). -/
def countUncorr (g : Nat) (bad : List Nat) (s : State) : State :=
  modEngine g (fun x => { x with err := bad.foldl (fun t l =>
    tmod (0, 0) t (wavelengthOf x l) fun c => (c.1, sat 32 (c.2 + 1))) x.err }) s

/-- The codewords of one SEQ arrive on gate `g` (R322 to R324); `bad` lists those that did not decode: the logical lanes of the frame, and,
from 8 up, the wavelengths that carried TRAIN codewords, which are the spare of an UP gate and all of one that trains. -/
def frameReceive (g : Nat) (bad : List Nat) (seq : Nat) (ctrl : BitVec 48) (payload : List Byte) (s : State) : State :=
  if (gateAt s g).st == .off || unitStopped s 5 g then s
  else
    let s := countUncorr g bad s
    if (gateAt s g).st ≠ .up then s
    else if bad.all (8 ≤ ·) then modGate g (acceptFrame seq payload) (readControl g ctrl s)
    else modGate g (fun x => { x with rxNak := true }) s

/-- GATE_FRAME_RECEIVE (R324). -/
def execGateFrameReceive (g : Nat) (bad : List Nat) (seq : Nat) (ctrl : BitVec 48) (payload : List Byte) (s : State) :
    Host.Outcome State Fault Refusal :=
  .next (frameReceive g bad seq ctrl payload s)

/-- With 128 frames unacknowledged the transmitter repeats the oldest (R324). -/
def repeatOldest (g : Nat) (s : State) : State :=
  let x := gateAt s g
  match x.unacked with
  | f :: r =>
    if x.st == .up ∧ 128 ≤ x.unacked.length ∧ !s.bring.drill then
      modGate g (fun x => { (sendAgain f x).1 with unacked := (sendAgain f x).2 :: r }) s
    else s
  | [] => s

/-- GATE_REPEAT_OLDEST (R324). -/
def execGateRepeatOldest (g : Nat) (s : State) : Host.Outcome State Fault Refusal := .next (repeatOldest g s)

/-- GATE_RESEND_LIMIT (R326): the same frame sent 8 times without acceptance. -/
def execGateResendLimit (g : Nat) (s : State) : Host.Outcome State Fault Refusal :=
  .next (if (gateAt s g).st == .up && (gateAt s g).unacked.any (fun f => 8 ≤ f.sends) then gateDown g 0xF s else s)

/-- GATE_ACK_TIMEOUT (R326): ACK has not advanced for 65,536 frames while frames are unacknowledged. -/
def execGateAckTimeout (g : Nat) (s : State) : Host.Outcome State Fault Refusal :=
  .next (if (gateAt s g).st == .up && !(gateAt s g).unacked.isEmpty then gateDown g 0xF s else s)

/-! ## Relay, credits and ABORT (R331, R337, R344) -/

/-- A packet that is not for this device is relayed when the gate it leaves on has room (R331, R333). -/
def relay (g out : Nat) (straight : Bool) (p p' : GatePkt) (s : State) : State :=
  if gateRoom (gateAt s out) p' straight then popPkt g p (modGate out (sendFrame p' none) s) else s

/-- The packet at the front of gate `g`, if of an OP, relayed or given to `f` (R331). In drill mode the gates accept no group traffic: the
packet stays where it is (R24). -/
def withFront (g op : Nat) (f : GatePkt → State → State) (s : State) : State :=
  match frontPkt s g with
  | none => s
  | some p =>
    if s.bring.drill || p.op ≠ op then s
    else
      match routeStep g p with
      | some (out, straight, p') => relay g out straight p p' s
      | none => f p s

/-- A CREDIT packet grants or returns window credits to the gate controller (R329, R337, R451). -/
def takeCredit (g : Nat) (p : GatePkt) (s : State) : State :=
  let s := popPkt g p s
  { s with gate.sendCred := tmod 0 s.gate.sendCred (p.stall * 64 + p.window) fun c => c + p.tile
           gate.granted := tmod 0 s.gate.granted (p.stall * 64 + p.window) fun c => c + p.tile }

/-- GATE_PKT_CREDIT (R337). -/
def execGatePktCredit (g : Nat) (s : State) : Host.Outcome State Fault Refusal := .next (withFront g 2 (takeCredit g) s)

/-- A received ABORT: counted; discarded when the job has stopped or no resident image names the group; else
GROUP_MEMBER_LOST names the sender's MEMBER and the ABORT is passed on in the same direction (R344). -/
def takeAbort (g : Nat) (p : GatePkt) (s : State) : State :=
  let s := popPkt g p s
  let s := { s with gate.aborts := sat 16 (s.gate.aborts + 1) }
  if s.flt.jstopped || stopped s || !(namedGroups s).contains p.group then s
  else
    let w := groupAt s p.group
    let n := grpNmem w
    let dest := if p.member = predMember n (grpSelf w) then succMember n (grpSelf w) else predMember n (grpSelf w)
    let s := gateQueue (memberPkt s p.group dest 3) none true s
    raise 0x0504 5 g 0x7FF (detG g 0xF p.group p.member) s

/-- GATE_ABORT (R344). -/
def execGateAbort (g : Nat) (s : State) : Host.Outcome State Fault Refusal := .next (withFront g 3 (takeAbort g) s)

/-! ## Registers (R327, R336) -/

/-- A write to GATE_NODE: ignored with GREFUSED while any gate has EN = 1. -/
def nodeWrite (value : W64) (s : State) : State :=
  if s.gate.gates.any fun e => e.2.en then { s with gate.grefused := true }
  else { s with gate.node := fld value 47 0 }

/-- GATE_NODE_WRITE (R327). -/
def execGateNodeWrite (view : View) (value : W64) (s : State) : Host.Outcome State Fault Refusal :=
  .next (regWrite view (gateBase + 8) (nodeWrite value) s)

/-- The writable bits of GATE_GROUP_g and of the words of a route. -/
def groupMask : W64 := 0xFFFFFFFFE00007FF
def routeLoMask : W64 := 0x0FFFFFFFFFFFFFFF
def routeHiMask : W64 := 0x7FFFFFFFFFFFFFFF

/-- A write to GATE_GROUP_g: ignored with GREFUSED while a resident image names group `g` (R336). -/
def groupWrite (g : Nat) (value : W64) (s : State) : State :=
  if (namedGroups s).contains g then { s with gate.grefused := true }
  else { s with gate.groups := tset s.gate.groups g (value &&& groupMask) }

/-- GATE_GROUP_WRITE (R336). -/
def execGateGroupWrite (view : View) (g : Nat) (value : W64) (s : State) : Host.Outcome State Fault Refusal :=
  .next (regWrite view (gateBase + 0x1000 + 8 * g) (groupWrite g value) s)

/-- Route `r` lies in the range of a group that a resident image names (R336). -/
def routeNamed (s : State) (r : Nat) : Bool :=
  (namedGroups s).any fun g => let w := groupAt s g; grpRbase w ≤ r && r < grpRbase w + grpNmem w

/-- A write to a word of GATE_ROUTE_r: ignored with RREFUSED while the route lies in a named group's range (R336). -/
def routeWrite (r : Nat) (hi : Bool) (value : W64) (s : State) : State :=
  if routeNamed s r then { s with gate.rrefused := true }
  else if hi then { s with gate.routeHi := tset s.gate.routeHi r (value &&& routeHiMask) }
  else { s with gate.routeLo := tset s.gate.routeLo r (value &&& routeLoMask) }

/-- GATE_ROUTE_WRITE (R336). -/
def execGateRouteWrite (view : View) (r : Nat) (hi : Bool) (value : W64) (s : State) : Host.Outcome State Fault Refusal :=
  .next (regWrite view (gateBase + 0x2000 + 16 * r + (if hi then 8 else 0)) (routeWrite r hi value) s)

end Sys2Proof.Machine
end

