-- ==== Sys2Proof/Machine/Faults.lean ====
section
/-! DEFINITION. Committing a fault record: the two logs, the alert, and what each class does (R479 to R487, R257, R440, R470,
R390). -/

namespace Sys2Proof.Machine

/-! ## The job stops (R481, R257) -/

/-- A unit's stop flag set in every stall of the resident images (R481). -/
def stopStalls (s : State) : State :=
  (residentStalls s).foldl (fun s n =>
    match physOf s n with
    | some p => modStallP p (fun x => { x with jstop := true }) s
    | none => s) s

/-- An entry becomes READY, at the next count (R255). -/
def makeReady (i : Nat) (s : State) : State :=
  let c := s.roll.readyCount
  { s with roll.entries := tmod {} s.roll.entries i fun e => { e with st := .ready, ppend := false, order := c },
           roll.readyCount := c + 1 }

/-- The entries that are INFLIGHT. -/
def inflightEntries (s : State) : List Nat := (s.roll.entries.filter fun e => e.2.st == .inflight).map (·.1)

/-- Every circuit becomes STOPPED, its rounds in flight and its pending worklists discarded; entries that were INFLIGHT
return to READY with STEP unchanged (R257). -/
def stopCircuits (s : State) : State :=
  let s := (inflightEntries s).foldl (fun s i => makeReady i s) s
  { s with roll.circuits := s.roll.circuits.map fun e =>
      (e.1, if e.2.st == .absent then e.2 else { e.2 with st := .stopped, flight := [], pending := [] }) }

/-- A CTX command completes: result, tag and record (R383). -/
def ctxDone (iss : Issuer) (result : Nat) (s : State) : State :=
  postCmd iss result [] { s with ctx.tag := iss.tag % 256, ctx.result := result }

/-- A JOB-class fault before STOPPED: PREEMPT completes with FAULT and STATE returns to RUN (R440). -/
def ctxOnFault (s : State) : State :=
  match s.ctx.preempt with
  | some iss => ctxDone iss 4 { s with ctx.st := .run, ctx.preempt := none }
  | none => s

/-- A snapshot command completes (R465's block; R383). -/
def snapDone (iss : Issuer) (result : Nat) (s : State) : State :=
  postCmd iss result [] { s with snap.tag := iss.tag % 256, snap.result := result }

/-- A capture or drain is abandoned: its slot record stays VALID = 0 and STATE is ARMED (R470). -/
def snapAbandon (s : State) : State :=
  let s := { s with snap.st := .armed, snap.drain := none, snap.at_ := none }
  match s.snap.aborting with
  | some iss => snapDone iss 0 { s with snap.aborting := none }
  | none => s

/-- A drain that is being abandoned ends once no store command is outstanding (R470). -/
def abortDrained (s : State) : State :=
  if s.snap.aborting.isSome || s.snap.drain.any (·.ending) then
    if s.snap.drain.all fun d => d.outstanding.isEmpty then snapAbandon s else s
  else s

/-- A JOB-class fault during CAPTURE or DRAIN: a drain that has read the loss goes on; another is abandoned as by ABORT, once its outstanding
commands have completed (R470). -/
def snapOnJobFault (s : State) : State :=
  match s.snap.st, s.snap.drain with
  | .capture, _ => snapAbandon s
  | .drain, some d =>
    if d.lossRead then s else abortDrained { s with snap.drain := some { d with todo := [], ending := true } }
  | _, _ => s

/-- The effect of a JOB-class fault (R480, R481, R257): once only until JSTOPPED clears. -/
def jobStop (s : State) : State :=
  if s.flt.jstopped then s
  else
    let s := snapOnJobFault (ctxOnFault (stopCircuits (stopStalls (abortGroups s))))
    if residentCount s = 0 then s else { s with flt.jstopped := true }

/-! ## The device stops (R420, R480) -/

/-- A running BRING command ends at once with FAULT; the phase keeps its value (R390). -/
def bringOnStop (s : State) : State :=
  match s.bring.run with
  | some (_, tag) => { s with bring.run := none, bring.tag := tag, bring.result := 4, bring.ended := true }
  | none => { s with bring.ended := true }

/-- A drain is abandoned and a stop for pre-emption too (R440, R470). -/
def snapOnStop (s : State) : State :=
  match s.snap.st with
  | .capture | .drain => snapAbandon s
  | _ => s

/-- The device stops, as for a thermal trip (R420, R480): ABORT for its groups first, then nothing issues, starts or is
injected, and outputs are held. -/
def deviceStop (s : State) : State :=
  if stopped s then s
  else
    let s := snapOnStop (bringOnStop (abortGroups s))
    { s with pwr.stopped := true, ctx.st := if s.ctx.st == .stopping then .run else s.ctx.st, ctx.preempt := none }

/-! ## The logs (R484 to R487) -/

/-- A log takes a record: an EVENT record is dropped with 448 or more entries occupied, any other with 512 (R485). -/
def logAdd (r : FRec) (l : FLog) : FLog :=
  if codeClass r.code = 0 ∧ 448 ≤ l.count then { l with loste := sat 16 (l.loste + 1) }
  else if 512 ≤ l.count then { l with lost := sat 16 (l.lost + 1) }
  else { l with entries := tset l.entries l.tail r, tail := (l.tail + 1) % 512, count := l.count + 1 }

/-- A log would drop the record (R485). -/
def logDrops (r : FRec) (l : FLog) : Bool := if codeClass r.code = 0 then 448 ≤ l.count else 512 ≤ l.count

/-- The record goes to the device log, and a DJ record to the job log while a job owns the device (R484). -/
def logRecord (r : FRec) (s : State) : State :=
  let toJob := logsJob r && s.sec.owned
  { s with flt.dlog := logAdd r s.flt.dlog, flt.jlog := if toJob then logAdd r s.flt.jlog else s.flt.jlog }

/-- The FAULT alert of a JOB, HOLD or DEVICE record, and FLT_LAST (R385, R487). -/
def faultAlert (r : FRec) (written : Bool) (s : State) : State :=
  if codeClass r.code = 0 then s
  else
    let s := { s with host.alert := true, flt.last := some r,
                      flt.linkLogged := s.flt.linkLogged || r.code == 0x0505 }
    if written then hostSend [.msg (alertField 2 (codeClass r.code) r.code)] s else s

/-- What the class of a committed record does (R480): HOLD holds what its owning rule named when it raised the record. -/
def classEffect (r : FRec) (s : State) : State :=
  if codeClass r.code = 1 then jobStop s
  else if codeClass r.code = 3 then deviceStop s
  else s

/-- The hub commits a raised record (R479): it takes SEQ, is logged, alerts, and its class acts. -/
def commitRecord (r : FRec) (s : State) : State :=
  let r := { r with seq := s.flt.seq }
  let written := !logDrops r s.flt.dlog || (logsJob r && s.sec.owned && !logDrops r s.flt.jlog)
  let s := { s with flt.seq := (s.flt.seq + 1) % 2 ^ 32 }
  classEffect r (faultAlert r written (logRecord r s))

/-! ## The arbiters of drill mode (R25, R26; log entry 52) -/

/-- The index of a record's way to the hub at the package's arbiter: the hub controller 1, the drill port of yard y 2 + y (R25). -/
def pkgIndex (r : FRec) : Nat := if r.source = 0 then 2 + yardOf r.unit else if r.source = 1 then 2 + r.unit else 1

/-- The requesters still to be granted in an arbiter's window, in index order: when none is left, a new window opens with those that wait
(R25). DESIGN CHOICE: it opens as its first grant is made (log entry 52). -/
def grantWindow (win waiting : List Nat) : List Nat :=
  match win.filter waiting.contains with
  | [] => (List.range 42).filter waiting.contains
  | w => w

/-- A record of a firmware digest that failed after a repair: the hub repairs one stall at a time, and goes on when it has this (R399). -/
def afterRepair (r : FRec) : Bool := r.source = 0 && r.code = 0x0604 && byteAt r.detail 0 != 0

/-- A record waits for an earlier one: of its own unit, which has one request outstanding (R26), or of a broadcast's repair (R399). -/
def waitsBehind (before : List FRec) (r : FRec) : Bool :=
  before.any fun x => (x.source = r.source && x.unit = r.unit) ||
    (r.source = 0 && r.code = 0x0604 && x.code = 0x0604 && (afterRepair r || afterRepair x))

/-- The records that are requests of the arbiters. -/
def requests : List FRec → List FRec → List FRec
  | _, [] => []
  | before, r :: rest => (if waitsBehind before r then [] else [r]) ++ requests (before ++ [r]) rest

/-- The stalls of a yard whose records are requests, by their number in it. -/
def yardWaiting (s : State) (y : Nat) : List Nat :=
  ((requests [] s.flt.raised).filter fun r => r.source = 0 && yardOf r.unit = y).map fun r => r.unit % 32

/-- In drill mode a record reaches the hub when its unit is granted: it is the unit's one outstanding request (R26), and the yard's and the
package's arbiters give it its turn (R25). The state with the windows moved on. -/
def drillGrant (i : Nat) (r : FRec) (s : State) : Option State :=
  let y := yardOf r.unit
  let pw := grantWindow s.flt.pkgWin ((requests [] s.flt.raised).map pkgIndex)
  let yw := grantWindow (tget [] s.flt.yardWin y) (yardWaiting s y)
  if waitsBehind (s.flt.raised.take i) r || pw.head? != some (pkgIndex r) ||
     (r.source = 0 && yw.head? != some (r.unit % 32)) then none
  else
    some { s with
      flt.pkgWin := pw.drop 1
      flt.yardWin := if r.source = 0 then tset s.flt.yardWin y (yw.drop 1) else s.flt.yardWin }

/-- Raised record `i` is committed: in main mode in whatever order the hub takes simultaneous records (R479), in drill mode as the arbiters
grant (R25, R26). -/
def commitAt (i : Nat) (s : State) : State :=
  match s.flt.raised[i]? with
  | none => s
  | some r =>
    if s.bring.drill then
      match drillGrant i r s with
      | some s => commitRecord r { s with flt.raised := s.flt.raised.eraseIdx i }
      | none => s
    else commitRecord r { s with flt.raised := s.flt.raised.eraseIdx i }

/-- FAULT_RECORD_COMMIT (R479). -/
def execFaultRecordCommit (i : Nat) (s : State) : Host.Outcome State Fault Refusal := .next (commitAt i s)

/-! ## Freeing records (R486) -/

/-- A write of HEAD, with W1C HREFUSED in bit 21: frees every entry from the old HEAD up, or is ignored (R486). -/
def headWrite (value : W64) (l : FLog) : FLog :=
  let l := if fld value 21 21 = 1 then { l with hrefused := false } else l
  let n := (fld value 8 0 + 512 - l.head) % 512
  if n ≤ l.count then { l with head := fld value 8 0, count := l.count - n } else { l with hrefused := true }

/-- FLT_JSTAT or FLT_DSTAT written. -/
def fltStatWrite (device : Bool) (value : W64) (s : State) : State :=
  if device then { s with flt.dlog := headWrite value s.flt.dlog } else { s with flt.jlog := headWrite value s.flt.jlog }

/-- FLT_HEAD_WRITE (R486). -/
def execFltHeadWrite (view : View) (device : Bool) (value : W64) (s : State) : Host.Outcome State Fault Refusal :=
  .next (regWrite view (fltBase + (if device then 8 else 0)) (fltStatWrite device value) s)

end Sys2Proof.Machine
end

