-- ==== Sys2Proof/Machine/Num.lean ====
section
/-! DEFINITION. Numbers and their formats: exact values, decoding, conversion with every rounding and overflow mode, lane
arithmetic, block sums and the 40-bit accumulator (R49 to R80, R105). -/

namespace Sys2Proof.Machine

/-! ## Exact values -/

/-- An exact value: NaN, an infinity, or ± m × 2^e. -/
inductive Val where
  | nan
  | inf (neg : Bool)
  | fin (neg : Bool) (m : Nat) (e : Int)
  deriving DecidableEq, Repr

/-- +0. -/
def Val.zero : Val := .fin false 0 0

/-- The value is NaN. -/
def Val.isNan : Val → Bool
  | .nan => true
  | _ => false

/-- The value is infinite. -/
def Val.isInf : Val → Bool
  | .inf _ => true
  | _ => false

/-- The value is +0 or −0. -/
def Val.isZero : Val → Bool
  | .fin _ 0 _ => true
  | _ => false

/-- The value's sign is negative. -/
def Val.isNeg : Val → Bool
  | .nan => false
  | .inf n => n
  | .fin n _ _ => n

/-- ⌊log₂⌋ of a nonzero magnitude m × 2^e. -/
def binade (m : Nat) (e : Int) : Int := e + Nat.log2 m

/-- The negated value. -/
def Val.neg : Val → Val
  | .nan => .nan
  | .inf n => .inf (!n)
  | .fin n m e => .fin (!n) m e

/-- The value × 2^k. -/
def Val.scale (k : Int) : Val → Val
  | .fin n m e => .fin n m (e + k)
  | v => v

/-- A magnitude with its sign as an integer of units 2^u, for u at or below its exponent. -/
def toUnits (neg : Bool) (m : Nat) (e u : Int) : Int :=
  let x : Int := m * 2 ^ (e - u).toNat
  if neg then -x else x

/-- The value of an integer of units 2^u. -/
def ofUnits (x : Int) (u : Int) (negZero : Bool) : Val :=
  .fin (if x = 0 then negZero else decide (x < 0)) x.natAbs u

/-- The exact sum; a zero sum is +0 unless both addends are −0 (R53). -/
def Val.add : Val → Val → Val
  | .nan, _ => .nan
  | _, .nan => .nan
  | .inf a, .inf b => if a = b then .inf a else .nan
  | .inf a, _ => .inf a
  | _, .inf b => .inf b
  | .fin a m e, .fin b n f =>
    let u := min e f
    ofUnits (toUnits a m e u + toUnits b n f u) u (a && b)

/-- The exact product. -/
def Val.mul : Val → Val → Val
  | .nan, _ => .nan
  | _, .nan => .nan
  | .inf a, .inf b => .inf (a ^^ b)
  | .inf a, .fin b n _ => if n = 0 then .nan else .inf (a ^^ b)
  | .fin a m _, .inf b => if m = 0 then .nan else .inf (a ^^ b)
  | .fin a m e, .fin b n f => .fin (a ^^ b) (m * n) (e + f)

/-- The order of two values, NaN aside. -/
def Val.lt : Val → Val → Bool
  | .nan, _ => false
  | _, .nan => false
  | .inf a, .inf b => a && !b
  | .inf a, _ => a
  | _, .inf b => !b
  | .fin a m e, .fin b n f =>
    let u := min e f
    decide (toUnits a m e u < toUnits b n f u)

/-- A quotient of positive integers × 2^e, to 64 significant bits and a sticky bit: enough for one rounding to FP32. -/
def ratio (neg : Bool) (a b : Nat) (e : Int) : Val :=
  let k := 66 + Nat.log2 b
  let q := a * 2 ^ k / b
  let st := if a * 2 ^ k % b = 0 then 0 else 1
  .fin neg (2 * q + st) (e - k - 1)

/-! ## Formats (R49, R51) -/

/-- Element bits of a format code (R49). -/
def fmtBits (f : Nat) : Nat :=
  match f with
  | 0 => 32 | 1 => 16 | 2 => 16 | 7 => 6 | 8 => 6 | 9 => 4 | 0xC => 32 | _ => 8

/-- An MX format (R49). -/
def isMx (f : Nat) : Bool := 5 ≤ f && f ≤ 0xA

/-- Exponent bits, fraction bits and bias of a float format (R51). -/
def floatShape (f : Nat) : Nat × Nat × Int :=
  match f with
  | 0 => (8, 23, 127)
  | 1 => (8, 7, 127)
  | 2 => (5, 10, 15)
  | 3 => (4, 3, 7)
  | 5 => (4, 3, 7)
  | 4 => (5, 2, 15)
  | 6 => (5, 2, 15)
  | 7 => (3, 2, 3)
  | 8 => (2, 3, 1)
  | _ => (2, 1, 1)

/-- The format has infinities: FP32, BF16, FP16 and the two E5M2 (R51). -/
def hasInf (f : Nat) : Bool := f = 0 || f = 1 || f = 2 || f = 4 || f = 6

/-- A float encoding read exactly (R51). -/
def decodeFloat (f x : Nat) : Val :=
  let (eb, mb, bias) := floatShape f
  let neg := x.testBit (eb + mb)
  let ex := bits x (eb + mb - 1) mb
  let fr := x % 2 ^ mb
  if hasInf f && ex = 2 ^ eb - 1 then (if fr = 0 then .inf neg else .nan)
  else if (f = 3 || f = 5) && ex = 15 && fr = 7 then .nan
  else if ex = 0 then .fin neg fr (1 - bias - mb)
  else .fin neg (2 ^ mb + fr) (ex - bias - mb)

/-- An integer as a value. -/
def ofInt (x : Int) (e : Int) : Val := ofUnits x e false

/-- An encoding of a format read exactly, before any block scale (R51, R54). -/
def decode (f x : Nat) : Val :=
  match f with
  | 0xA => ofInt (signed 8 x) (-6)
  | 0xB => ofInt (signed 8 x) 0
  | 0xC => ofInt (signed 32 x) 0
  | _ => decodeFloat f x

/-! ## Rounding (R62 to R69) -/

/-- A magnitude m × 2^e rounded to units of 2^u by a mode: 0 nearest even, 1 toward zero, 2 stochastic with the random
bits `r`, of which `nb` are used (R62, R64). -/
def roundUnits (rnd nb r m : Nat) (e u : Int) : Nat :=
  if u ≤ e then m * 2 ^ (e - u).toNat
  else
    let d := (u - e).toNat
    let lo := m / 2 ^ d
    let rem := m % 2 ^ d
    if rnd = 0 then
      if 2 ^ d < 2 * rem ∨ 2 ^ d = 2 * rem ∧ lo % 2 = 1 then lo + 1 else lo
    else if rnd = 1 then lo
    else
      let t := rem * 2 ^ (nb + 1) / 2 ^ d
      if r % 2 ^ nb < t / 2 + t % 2 then lo + 1 else lo

/-- The random bits that a stochastic conversion to a format takes (R64). -/
def srBits (f : Nat) : Nat := if f = 9 then 3 else 4

/-- The magnitude bits of a finite value rounded to a float format with its exponent range unbounded above (R67). -/
def roundFloat (f rnd r m : Nat) (e : Int) : Nat :=
  if m = 0 then 0
  else
    let (_, mb, bias) := floatShape f
    let emin := 1 - bias
    let u := max (binade m e) emin - mb
    ((u + mb - emin).toNat) * 2 ^ mb + roundUnits rnd (srBits f) r m e u

/-- The magnitude bits of a float format's largest finite value (R51). -/
def maxFinite (f : Nat) : Nat :=
  match f with
  | 0 => 0x7F7FFFFF | 1 => 0x7F7F | 2 => 0x7BFF | 3 => 0x7E | 5 => 0x7E | 4 => 0x7B | 6 => 0x7B | 7 => 0x1F | 8 => 0x1F
  | _ => 7

/-- The sign bit of a format. -/
def signBit (f : Nat) (neg : Bool) : Nat := if neg then 2 ^ (fmtBits f - 1) else 0

/-- The canonical NaN of a float format (R52). -/
def nanBits (f : Nat) : Nat :=
  match f with
  | 0 => 0x7FC00000 | 1 => 0x7FC0 | 2 => 0x7E00 | 4 => 0x7E | 6 => 0x7E | _ => 0x7F

/-- The infinity of a format that has one. -/
def infBits (f : Nat) : Nat :=
  match f with
  | 0 => 0x7F800000 | 1 => 0x7F80 | 2 => 0x7C00 | _ => 0x7C

/-- A conversion's result: its encoding, and whether it counts as SATURATED. -/
structure Cvt where
  bits : Nat
  sat : Bool := false
  deriving DecidableEq, Repr

/-- The result of an overflow under a mode (R67): toward zero, or SAT, the largest finite value; NONSAT, infinity, or NaN
for E4M3. -/
def overflowed (f rnd : Nat) (nonsat neg : Bool) : Cvt :=
  if rnd = 1 ∨ ¬ nonsat then { bits := signBit f neg + maxFinite f, sat := true }
  else if hasInf f then { bits := signBit f neg + infBits f, sat := true }
  else { bits := nanBits f, sat := true }

/-- Conversion to a scalar float format (R63, R67, R68). -/
def toFloat (f rnd : Nat) (nonsat : Bool) (r : Nat) : Val → Cvt
  | .nan => { bits := nanBits f }
  | .inf n =>
    if hasInf f then { bits := signBit f n + infBits f }
    else if nonsat then { bits := nanBits f, sat := true }
    else { bits := signBit f n + maxFinite f, sat := true }
  | .fin n m e =>
    let x := roundFloat f rnd r m e
    if maxFinite f < x then overflowed f rnd nonsat n else { bits := signBit f n + x }

/-- Conversion to INT8 or INT32 (R68, R69). -/
def toIntFmt (w rnd r : Nat) : Val → Cvt
  | .nan => { bits := 0, sat := true }
  | .inf n => { bits := if n then 2 ^ (w - 1) else 2 ^ (w - 1) - 1, sat := true }
  | .fin n m e =>
    let q := roundUnits rnd 4 r m e 0
    if n then
      if 2 ^ (w - 1) < q then { bits := 2 ^ (w - 1), sat := true } else { bits := (2 ^ w - q) % 2 ^ w }
    else if 2 ^ (w - 1) - 1 < q then { bits := 2 ^ (w - 1) - 1, sat := true }
    else { bits := q }

/-- Conversion of a value to a scalar format (R63 to R69). -/
def convert (f rnd : Nat) (nonsat : Bool) (r : Nat) (v : Val) : Cvt :=
  match f with
  | 0xB => toIntFmt 8 rnd r v
  | 0xC => toIntFmt 32 rnd r v
  | _ => toFloat f rnd nonsat r v

/-! ## MX blocks (R55 to R61) -/

/-- The value of an element under a scale byte (R55). -/
def mxValue (f x s : Nat) : Val := if s = 0xFF then .nan else (decode f x).scale (s - 127)

/-- emax of an element format. -/
def mxEmax (f : Nat) : Int :=
  match f with
  | 5 => 8 | 6 => 15 | 7 => 4 | 8 => 2 | 9 => 2 | _ => 0

/-- The magnitude of an MXINT8 element in units of 2⁻⁶, rounded. -/
def mxIntUnits (rnd r m : Nat) (e : Int) : Nat := roundUnits rnd 4 r m e (-6)

/-- A magnitude rounds to nearest even beyond the element format's largest finite value (R57 step 2). -/
def mxExceeds (f m : Nat) (e : Int) : Bool :=
  if f = 0xA then decide (127 < mxIntUnits 0 0 m e) else decide (maxFinite f < roundFloat f 0 0 m e)

/-- The larger of two magnitudes. -/
def magMax (a b : Nat × Int) : Nat × Int := if Val.lt (.fin false a.1 a.2) (.fin false b.1 b.2) then b else a

/-- The largest finite magnitude of a block's inputs; (0, 0) when all are zero, infinite or NaN. -/
def blockAmax (vs : List Val) : Nat × Int :=
  vs.foldl (fun a v => match v with | .fin _ m e => if m = 0 then a else if a.1 = 0 then (m, e) else magMax a (m, e)
                                    | _ => a) (0, 0)

/-- The scale exponent of a block (R57, R59, R61). -/
def blockExp (f : Nat) (vs : List Val) : Int :=
  let a := blockAmax vs
  if a.1 = 0 then (if vs.any Val.isInf then 127 else -127)
  else
    let x := binade a.1 a.2 - mxEmax f
    let x := if mxExceeds f a.1 (a.2 - x) then x + 1 else x
    max (-127) (min 127 x)

/-- One element of a block with scale exponent `x` (R58, R61, R67). -/
def mxElem (f rnd : Nat) (nonsat : Bool) (x : Int) (r : Nat) : Val → Cvt
  | .nan => { bits := nanBits f }
  | .inf n =>
    if f = 6 ∧ nonsat then { bits := signBit f n + infBits f }
    else if f = 0xA then { bits := if n then 0x81 else 0x7F, sat := true }
    else { bits := signBit f n + maxFinite f, sat := true }
  | .fin n m e =>
    if f = 0xA then
      let q := mxIntUnits rnd r m (e - x)
      if 127 < q then { bits := if n then 0x81 else 0x7F, sat := true }
      else { bits := if n then (256 - q) % 256 else q }
    else
      let q := roundFloat f rnd r m (e - x)
      if maxFinite f < q then
        overflowed f rnd (nonsat && decide (x = 127) && (f = 5 || f = 6)) n
      else { bits := signBit f n + q }

/-- An element rounded to ±0. -/
def mxIsZero (f b : Nat) : Bool := if f = 0xA then b = 0 else b % 2 ^ (fmtBits f - 1) = 0

/-- A built block: its scale byte, its elements, and its counts of SATURATED and BLOCK_UNDERFLOW. -/
structure MxBlock where
  scale : Nat
  elems : List Nat
  satur : Nat := 0
  under : Nat := 0
  deriving DecidableEq, Repr

/-- In place of random bits: an inserted padding value, which rounds to nearest even under SAT (R189). -/
def padDraw : Nat := 65536

/-- A block built from its inputs, each with its random bits (R57 to R61, R189). -/
def buildBlock (f rnd : Nat) (nonsat : Bool) (vs : List (Val × Nat)) : MxBlock :=
  let vals := vs.map (·.1)
  if vals.any Val.isNan && 7 ≤ f then { scale := 0xFF, elems := vs.map fun _ => 0 }
  else
    let x := blockExp f vals
    let es := vs.map fun v =>
      if v.2 = padDraw then mxElem f 0 false x 0 v.1 else mxElem f rnd nonsat x v.2 v.1
    { scale := (x + 127).toNat, elems := es.map (·.bits), satur := (es.filter (·.sat)).length,
      under := ((vs.zip es).filter fun p => match p.1.1 with
        | .fin _ m _ => m ≠ 0 && mxIsZero f p.2.bits
        | _ => false).length }

/-! ## Lane arithmetic (R105, R110) -/

/-- An FP32 lane value read exactly. -/
def val32 (x : W32) : Val := decodeFloat 0 x.toNat

/-- An exact value rounded once to FP32: overflow gives ±∞ and counts nothing (R105). -/
def round32 (v : Val) : W32 := BitVec.ofNat 32 (toFloat 0 0 true 0 v).bits

/-- The canonical NaN, +∞, −∞, +0 and 1.0 in FP32. -/
def nan32 : W32 := 0x7FC00000
def inf32 : W32 := 0x7F800000
def ninf32 : W32 := 0xFF800000
def one32 : W32 := 0x3F800000

/-- Add, subtract, multiply and fused multiply-add, one rounding each. -/
def fadd (a b : W32) : W32 := round32 ((val32 a).add (val32 b))
def fsub (a b : W32) : W32 := round32 ((val32 a).add (val32 b).neg)
def fmul (a b : W32) : W32 := round32 ((val32 a).mul (val32 b))
def fma (a b c : W32) : W32 := round32 (((val32 a).mul (val32 b)).add (val32 c))

/-- Sign changes are exact; a NaN is canonical. -/
def fneg (a : W32) : W32 := round32 (val32 a).neg
def fabs (a : W32) : W32 := round32 (if (val32 a).isNeg then (val32 a).neg else val32 a)

/-- The IEEE maximum and minimum: NaN if either is NaN; +0 above −0 (R110). -/
def fmax (a b : W32) : W32 :=
  let x := val32 a
  let y := val32 b
  if x.isNan || y.isNan then nan32
  else if x.isZero && y.isZero then (if x.isNeg && y.isNeg then a else 0)
  else if x.lt y then b else a
def fmin (a b : W32) : W32 :=
  let x := val32 a
  let y := val32 b
  if x.isNan || y.isNan then nan32
  else if x.isZero && y.isZero then (if x.isNeg || y.isNeg then 0x80000000 else 0)
  else if y.lt x then b else a

/-- The correctly rounded quotient of two exact values (R118, R121, R129). -/
def Val.div : Val → Val → Val
  | .nan, _ => .nan
  | _, .nan => .nan
  | .inf _, .inf _ => .nan
  | .inf a, .fin b _ _ => .inf (a ^^ b)
  | .fin a _ _, .inf b => .fin (a ^^ b) 0 0
  | .fin a m e, .fin b n f =>
    if n = 0 then (if m = 0 then .nan else .inf (a ^^ b))
    else if m = 0 then .fin (a ^^ b) 0 0
    else ratio (a ^^ b) m n (e - f)

/-- The correctly rounded FP32 quotient. -/
def fdiv (a b : W32) : W32 := round32 ((val32 a).div (val32 b))

/-- A count as an exact value. -/
def ofNatV (n : Nat) : Val := .fin false n 0

/-- The value is NaN, infinite, or finite, as an FP32 word. -/
def isNan32 (x : W32) : Bool := (val32 x).isNan
def isInf32 (x : W32) : Bool := (val32 x).isInf
def isFinite32 (x : W32) : Bool := !isNan32 x && !isInf32 x

/-! ## Block sums (R72 to R74) -/

/-- A block sum with whether it produced NaN from inputs none of which is NaN (R74). -/
structure BlockSum where
  val : Val
  made : Bool := false
  deriving DecidableEq, Repr

/-- An infinite sum where the finite one reaches 2¹²⁸ (R74). -/
def capSum : Val → Val
  | .fin n m e => if m ≠ 0 ∧ 128 ≤ binade m e then .inf n else .fin n m e
  | v => v

/-- The exact sum of finite products. -/
def sumVals (ps : List Val) : Val := ps.foldl Val.add Val.zero

/-- Products truncated toward −∞ to a multiple of 2^(E − 33), E the largest binade among them (R73). -/
def windowed (ps : List Val) : List Val :=
  let es := ps.filterMap fun p => match p with
    | .fin _ m e => if m = 0 then none else some (binade m e)
    | _ => none
  match es with
  | [] => ps
  | e0 :: r =>
    let u := r.foldl max e0 - 33
    ps.map fun p => match p with
      | .fin n m e =>
        if u ≤ e then p
        else ofUnits (Int.fdiv (if n then -(m : Int) else m) (2 ^ (u - e).toNat)) u false
      | v => v

/-- The block sum of pairs of operand values; `half` selects the window of R73 (R72 to R74). -/
def blockSum (half : Bool) (ab : List (Val × Val)) : BlockSum :=
  if ab.any fun p => p.1.isNan || p.2.isNan then { val := .nan }
  else
    let ps := ab.map fun p => p.1.mul p.2
    if ps.any Val.isNan then { val := .nan, made := true }
    else
      match ps.filter Val.isInf with
      | [] => { val := capSum (sumVals (if half then windowed ps else ps)) }
      | i :: r => if r.all fun j => j = i then { val := i } else { val := .nan, made := true }

/-! ## The accumulator (R75 to R80) -/

/-- A 40-bit accumulator value read exactly (R75). -/
def accVal (a : Acc) : Val :=
  let x := a.toNat
  let ex := bits x 38 31
  let fr := x % 2 ^ 31
  if ex = 255 then (if fr = 0 then .inf (x.testBit 39) else .nan)
  else if ex = 0 then .fin (x.testBit 39) fr (-157)
  else .fin (x.testBit 39) (2 ^ 31 + fr) (ex - 158)

/-- An exact value truncated toward −∞ to the 40-bit format (R76). -/
def roundDown : Val → Acc
  | .nan => 0x7FC0000000
  | .inf n => if n then 0xFF80000000 else 0x7F80000000
  | .fin n m e =>
    if m = 0 then (if n then 0x8000000000 else 0)
    else
      let u := max (binade m e) (-126) - 31
      let lo := roundUnits 1 4 0 m e u
      let exact := u ≤ e || m % 2 ^ (u - e).toNat = 0
      let q := if n && !exact then lo + 1 else lo
      let x := (u + 157).toNat * 2 ^ 31 + q
      BitVec.ofNat 40 ((if n then 2 ^ 39 else 0) + min x (255 * 2 ^ 31))

/-- One fold of a block sum, with whether it produced NaN (R76, R70). -/
def foldAcc (a : Acc) (s : BlockSum) : Acc × Bool :=
  let v := (accVal a).add s.val
  (roundDown v, s.made || (v.isNan && !(accVal a).isNan && !s.val.isNan))

/-- Readout to FP32 by nearest even under the header's overflow mode (R79). -/
def readFloat (nonsat : Bool) (a : Acc) : Cvt := toFloat 0 0 nonsat 0 (accVal a)

/-- Readout to INT32 (R80). -/
def readInt (a : Acc) : Cvt := toIntFmt 32 0 0 (accVal a)

end Sys2Proof.Machine
end

