-- ==== Sys2Proof/Machine/Funcs.lean ====
section
/-! DEFINITION. The special functions by segments (R113 to R115), row partials and statistics (R117 to R124), and the soft
maximum (R128 to R130). The function table itself is a data file: Config.segment (log entry 7). -/

namespace Sys2Proof.Machine

/-- A function's result, whether it counts NAN_PRODUCED, and whether it lies beyond the FP32 range: a finite input whose result a
lane holds as an infinity (R105). -/
structure FnRes where
  val : W32
  made : Bool := false
  beyond : Bool := false
  deriving DecidableEq, Repr

/-- What a stage conversion reads of a result (R113): one beyond the FP32 range overflows every target under R67. DESIGN CHOICE: it
stands for ±2¹²⁸, the smallest magnitude that does (log entry 37). -/
def FnRes.out (r : FnRes) : Val := if r.beyond then .fin (val32 r.val).isNeg 1 128 else val32 r.val

/-! ## Segments (R114) -/

/-- The clamp of a segment applied to a result (R114, R116). -/
def clampSeg (f key : Nat) (p : W32) : W32 :=
  let c := Config.segment f key 4
  let k := Config.segment f key 5
  if k = 1 then fmax p c else if k = 2 then fmin p c else p

/-- The cubic of the segment of `v` in part `part` of function `f`, before the combine step: the key and the value. -/
def segPoly (f part : Nat) (v : W32) : Nat × W32 :=
  let key := 4096 * part + v.toNat / 2 ^ 20
  let c := Config.segment f key
  let t := fsub v (v &&& 0xFFF00000)
  (key, fma (fma (fma (c 3) t (c 2)) t (c 1)) t (c 0))

/-- A function whose combine step is `g` (R114). -/
def segFn (f part : Nat) (v : W32) (g : W32 → W32) : W32 :=
  let (key, p) := segPoly f part v
  clampSeg f key (g p)

/-- |x| < 2^k for a finite FP32 value. -/
def below (x : W32) (k : Int) : Bool :=
  match val32 x with
  | .fin _ m e => m = 0 || decide (binade m e < k)
  | _ => false

/-- The power of two that a positive finite value is, if it is one. -/
def pow2Of : Val → Option Int
  | .fin _ m e => if m ≠ 0 ∧ 2 ^ Nat.log2 m = m then some (binade m e) else none
  | _ => none

/-- ± 2^k in FP32. -/
def pow32 (neg : Bool) (k : Int) : W32 := round32 (.fin neg 1 k)

/-- The significand of a nonzero value as an FP32 word in [1, 2), and its exponent. -/
def significand : Val → W32 × Int
  | .fin _ m e => (round32 (.fin false m (- Nat.log2 m)), binade m e)
  | _ => (one32, 0)

/-- The integer value of an FP32 word, if it is one. -/
def intOf : Val → Option Int
  | .fin n m e =>
    if 0 ≤ e then some (toUnits n m e 0)
    else if m % 2 ^ (-e).toNat = 0 then some (if n then -((m / 2 ^ (-e).toNat : Nat) : Int) else (m / 2 ^ (-e).toNat : Nat))
    else none
  | _ => none

/-- exp and exp2 (FUNC 1 and 2): their range of segments ends at 2^`k`. -/
def fnExp (f : Nat) (k : Int) (x : W32) : FnRes :=
  match val32 x with
  | .nan => { val := nan32 }
  | .inf n => { val := if n then 0 else inf32 }
  | v =>
    if below x (-24) then { val := one32 }
    else
      match (if f = 2 then (intOf v).filter fun n => -149 ≤ n && n ≤ 127 else none) with
      | some n => { val := pow32 false n }
      | none =>
        if !below x k then { val := if v.isNeg then 0 else inf32 }
        else { val := segFn f 0 x id }

/-- log and log2 (FUNC 3 and 4). -/
def fnLog (f : Nat) (x : W32) : FnRes :=
  match val32 x with
  | .nan => { val := nan32 }
  | .inf n => if n then { val := nan32, made := true } else { val := inf32 }
  | v =>
    if v.isZero then { val := ninf32 }
    else if v.isNeg then { val := nan32, made := true }
    else
      match pow2Of v with
      | some k =>
        if k = 0 then { val := 0 }
        else if f = 4 then { val := round32 (ofInt k 0) }
        else if k = -1 then { val := segFn f 0 x id }
        else { val := segFn f 1 one32 fun p => fma (round32 (ofInt k 0)) Config.ln2 p }
      | none =>
        let (m, e) := significand v
        if e = 0 ∨ e = -1 then { val := segFn f 0 x id }
        else
          let ef := round32 (ofInt e 0)
          { val := segFn f 1 m fun p => if f = 3 then fma ef Config.ln2 p else fadd ef p }

/-- reciprocal (FUNC 5). DESIGN CHOICE: a negative argument's sign joins in the combine step, before the clamp (log entry 37). -/
def fnRecip (x : W32) : FnRes :=
  match val32 x with
  | .nan => { val := nan32 }
  | .inf n => { val := round32 (.fin n 0 0) }
  | v =>
    if v.isZero then { val := round32 (.inf v.isNeg) }
    else
      match pow2Of v with
      | some k => { val := pow32 v.isNeg (-k) }
      | none =>
        let (m, e) := significand v
        { val := segFn 5 0 m fun p =>
            let q := (val32 p).scale (-e)
            round32 (if v.isNeg then q.neg else q) }

/-- sqrt and rsqrt (FUNC 6 and 7). -/
def fnSqrt (f : Nat) (x : W32) : FnRes :=
  match val32 x with
  | .nan => { val := nan32 }
  | .inf n => if n then { val := nan32, made := true } else { val := if f = 6 then inf32 else 0 }
  | v =>
    if v.isZero then { val := if f = 6 then x else round32 (.inf v.isNeg) }
    else if v.isNeg then { val := nan32, made := true }
    else
      let (m, e) := significand v
      let h := Int.fdiv e 2
      let par := (Int.emod e 2).toNat
      let k := if f = 6 then h else -h
      match pow2Of v with
      | some _ => if par = 0 then { val := pow32 false k }
                  else { val := segFn f par m fun p => round32 ((val32 p).scale k) }
      | none => { val := segFn f par m fun p => round32 ((val32 p).scale k) }

/-- 0.5 and −1.0 in FP32, and half of a value. -/
def half32 : W32 := 0x3F000000
def mone32 : W32 := 0xBF800000
def halve (x : W32) : W32 := fmul x half32

/-- The value of a bounded function below 2⁻²⁴ (R114's fixed regions). -/
def fnSmall (f : Nat) (x : W32) : W32 :=
  match f with
  | 8 => half32
  | 9 => x
  | 0xB => Config.ln2
  | _ => halve x

/-- The value at and beyond ±2⁷, infinities included (R113, R114). -/
def fnLarge (f : Nat) (x : W32) (neg : Bool) : W32 :=
  match f with
  | 8 => if neg then 0 else one32
  | 9 => if neg then mone32 else one32
  | 0xB => if neg then 0 else x
  | _ => if neg then 0x80000000 else x

/-- sigmoid, tanh, SiLU, softplus and both GELU forms (FUNC 8 to 0xD). -/
def fnBounded (f : Nat) (x : W32) : FnRes :=
  match val32 x with
  | .nan => { val := nan32 }
  | .inf n => { val := fnLarge f x n }
  | v =>
    if below x (-24) then { val := fnSmall f x }
    else if !below x 7 then { val := fnLarge f x v.isNeg }
    else { val := segFn f 0 x id }

/-- 2/π × 2²⁰⁰, truncated. -/
def twoOverPi : Nat := 1023008531944964742713634320094839494465182657242203849507326

/-- The integer nearest x × 2/π (R114). -/
def nearestQ : Val → Int
  | .fin n m e =>
    let p := m * twoOverPi
    let k := 200 - e
    let q := if 0 ≤ k then (p + 2 ^ (k - 1).toNat) / 2 ^ k.toNat else p * 2 ^ (-k).toNat
    if n then -(q : Int) else q
  | _ => 0

/-- A kernel of sin and cos at the reduced argument, and the sign that the quadrant gives (R114). -/
def trigKernel (cosK neg : Bool) (r : W32) : W32 :=
  let sg := fun p => if neg then fneg p else p
  if below r (-24) then sg (if cosK then one32 else r)
  else segFn 0xE (if cosK then 1 else 0) r sg

/-- sin and cos (FUNC 0xE and 0xF). DESIGN CHOICE: the three FMAs take the constants of π/2 in the order of the table, constant 0
first (log entry 37). -/
def fnTrig (f : Nat) (x : W32) : FnRes :=
  match val32 x with
  | .nan => { val := nan32 }
  | .inf _ => { val := nan32, made := true }
  | v =>
    if v.isZero then { val := if f = 0xE then x else one32 }
    else if !below x 20 && pow2Of v ≠ some 20 then { val := nan32, made := true }
    else
      let q := nearestQ v
      let qf := round32 (ofInt (-q) 0)
      let r := fma qf (Config.piHalf 2) (fma qf (Config.piHalf 1) (fma qf (Config.piHalf 0) x))
      let k := (Int.emod (if f = 0xE then q else q + 1) 4).toNat
      { val := trigKernel (k % 2 = 1) (2 ≤ k) r }

/-- An ACT function by FUNC (R135), before its range is judged. -/
def actRaw (f : Nat) (x : W32) : FnRes :=
  match f with
  | 1 => fnExp 1 7 x
  | 2 => fnExp 2 8 x
  | 3 => fnLog 3 x
  | 4 => fnLog 4 x
  | 5 => fnRecip x
  | 6 => fnSqrt 6 x
  | 7 => fnSqrt 7 x
  | 0xE => fnTrig 0xE x
  | 0xF => fnTrig 0xF x
  | 0x10 => { val := fabs x }
  | 0x11 => { val := fneg x }
  | 0x12 => { val := fmax x 0 }
  | f => fnBounded f x

/-- An ACT function by FUNC (R113, R135). -/
def actFn (f : Nat) (x : W32) : FnRes :=
  let r := actRaw f x
  { r with beyond := isInf32 r.val && isFinite32 x && !(val32 x).isZero }

/-- exp, sqrt, rsqrt, log, sin and cos as the operations use them. -/
def fexp (x : W32) : W32 := (fnExp 1 7 x).val
def fsqrt (x : W32) : W32 := (fnSqrt 6 x).val
def frsqrt (x : W32) : W32 := (fnSqrt 7 x).val

/-! ## Row partials (R117 to R119) -/

/-- The one-element partial of a value (R117). -/
def onePart (x : W32) : Ledger := { n := 1, max := x, sum := x, sq := fmul x x, mean := x, m2 := 0, inf := isInf32 x }

/-- A ledger entry with its partial replaced. -/
def withPart (l p : Ledger) : Ledger :=
  { l with n := p.n, max := p.max, sum := p.sum, sq := p.sq, mean := p.mean, m2 := p.m2, inf := p.inf }

/-- Two partials combined, the second holding the later columns (R118). -/
def combinePart (a b : Ledger) : Ledger :=
  if a.n = 0 then withPart a b
  else if b.n = 0 then a
  else
    let n := a.n + b.n
    let wB := round32 (ratio false b.n n 0)
    let wAB := round32 (ratio false (a.n * b.n) n 0)
    let d := fsub b.mean a.mean
    { a with
      n := n, max := fmax a.max b.max, sum := fadd a.sum b.sum, sq := fadd a.sq b.sq, mean := fma d wB a.mean,
      m2 := fadd (fadd a.m2 b.m2) (fmul (fmul d d) wAB), inf := a.inf || b.inf }

/-- The partial of a tile row: its valid columns in ascending order (R119). -/
def tilePart (xs : List W32) : Ledger := xs.foldl (fun p x => combinePart p (onePart x)) {}

/-- The partial of a whole row: tile partials of 64 columns in ascending order (R119). -/
def rowPart (xs : List W32) : Ledger := (chunks 64 xs).foldl (fun p t => combinePart p (tilePart t)) {}

/-! ## Statistics (R121, R124) -/

/-- A row held a NaN (its max is NaN), or else an infinite element. -/
def rowNan (p : Ledger) : Bool := isNan32 p.max
def rowInf (p : Ledger) : Bool := !rowNan p && p.inf

/-- NAN_PRODUCED events of a completed row (R124). -/
def rowEvents (p : Ledger) : Nat := if rowInf p then (if isNan32 p.sum then 2 else 1) else 0

/-- The mean (R121, R124): a row of −0 reports +0 (R123), which R118 gives for two columns and more. -/
def statMean (p : Ledger) : W32 :=
  if rowNan p || rowInf p then nan32 else if p.n = 1 ∧ p.mean = 0x80000000 then 0 else p.mean

/-- The variance and the mean square of a completed partial (R121, R124). -/
def statVar (p : Ledger) : W32 :=
  if rowNan p || rowInf p then nan32 else round32 ((val32 p.m2).div (ofNatV p.n))
def statMeanSq (p : Ledger) : W32 := if rowNan p then nan32 else round32 ((val32 p.sq).div (ofNatV p.n))

/-! ## Normalisation (R126, R127) -/

/-- The per-row factor of a normalisation: `centred` for layer or group, else root mean square. -/
def normRr (centred : Bool) (eps : W32) (p : Ledger) : W32 :=
  frsqrt (fadd (if centred then statVar p else statMeanSq p) eps)

/-- One element normalised, with γ and β where there are any (R126). -/
def normElem (centred : Bool) (p : Ledger) (rr : W32) (gb : Option (W32 × W32)) (x : W32) : W32 :=
  let y := if centred then fmul (fsub x (statMean p)) rr else fmul x rr
  match gb with
  | none => y
  | some (g, b) => if centred then fma y g b else fmul y g

/-! ## The soft maximum (R128 to R130) -/

/-- The empty soft-maximum partial. -/
def softEmpty : W32 × W32 := (ninf32, 0)

/-- One element folded into a soft-maximum partial (R128). -/
def softStep (p : W32 × W32) (x : W32) : W32 × W32 :=
  if x = ninf32 then p
  else
    let d := fsub x p.1
    let e := fexp (fneg (fabs d))
    if (Val.zero).lt (val32 d) then (x, fma p.2 e one32) else (p.1, fadd p.2 e)

/-- The soft-maximum partial of a tile row (R128). -/
def softTile (xs : List W32) : W32 × W32 := xs.foldl softStep softEmpty

/-- Two soft-maximum partials combined (R128). -/
def softCombine (a b : W32 × W32) : W32 × W32 :=
  if a = softEmpty then b
  else if b = softEmpty then a
  else
    let mm := fmax a.1 b.1
    (mm, fma a.2 (fexp (fsub a.1 mm)) (fmul b.2 (fexp (fsub b.1 mm))))

/-- How a row of the soft maximum ends (R130): `nanIn` it holds NaN, `infIn` it holds +∞. -/
def softSpecial (xs : List W32) : Option (W32 × Nat) :=
  if xs.any isNan32 then some (nan32, 0)
  else if xs.any fun x => x = inf32 then some (nan32, 1)
  else if xs.all fun x => x = ninf32 then some (0, 0)
  else none

/-- The soft maximum of a whole row, with its NAN_PRODUCED events (R128 to R130). -/
def softRow (xs : List W32) : List W32 × Nat :=
  match softSpecial xs with
  | some (v, n) => (xs.map fun _ => v, n)
  | none =>
    let (m, s) := ((chunks 64 xs).map softTile).foldl softCombine softEmpty
    let rc := fdiv one32 s
    (xs.map fun x => if x = ninf32 then 0 else fmul (fexp (fsub x m)) rc, 0)

end Sys2Proof.Machine
end

