-- ==== Sys2Proof/Machine/Rng.lean ====
section
/-! DEFINITION. The random generator (R260 to R269), the values NOISE and STEP draw (R272, R273), and the RNG block (R265,
R267). -/

namespace Sys2Proof.Machine

/-! ## The block function (R260, R261) -/

/-- Rotation constants (R260). -/
def rotA : List Nat := [16, 7, 25, 12, 3, 19, 28, 9, 22, 5, 14, 27]
def rotB : List Nat := [13, 21, 8, 30, 17, 4, 11, 24, 6, 29, 18, 2]

/-- One round over the four state words (R260). -/
def rngRound (k : List W32) (x : List W32) (r : Nat) : List W32 :=
  match x with
  | [x0, x1, x2, x3] =>
    let rk := k.getD (r % 4) 0 + BitVec.ofNat 32 (r + 1) * 0x6C8E9CF5
    let x0 := x0 + x2
    let x1 := x1 ^^^ rk
    let x3 := (x3 ^^^ x0).rotateLeft (rotA.getD r 0)
    let x2 := x2 + x3
    let x1 := (x1 + x2).rotateLeft (rotB.getD r 0)
    [x1, x2, x3, x0]
  | x => x

/-- F(k, x): four output words (R260). -/
def rngF (k x : List W32) : List W32 :=
  let x := (k.zip x).map fun p => p.2 ^^^ p.1
  let x := (List.range 12).foldl (rngRound k) x
  x.zipIdx.map fun p => p.1 + k.getD ((p.2 + 1) % 4) 0

/-- The key of a seed (R261). -/
def rngKey (s : W64) : List W32 :=
  let lo := s.setWidth 32
  let hi := (s >>> 32).setWidth 32
  [lo, hi, lo.rotateLeft 16 ^^^ 0xA4D31B5C, hi.rotateLeft 16 ^^^ 0x0E71B829]

/-- The key and the STEP of a random bit (R265). -/
structure RngSrc where
  seed : W64
  step : Nat
  deriving DecidableEq, Repr

/-- The block at a counter (R263). -/
def rngBlock (src : RngSrc) (stream element draw : Nat) : List W32 :=
  let w := BitVec.ofNat 32
  rngF (rngKey src.seed)
    [w (element % 2 ^ 16 * 2 ^ 16 + draw), w (element / 2 ^ 16), w src.step, w stream]

/-- The random bits of the stochastic conversion of an element with rounding index `e`, at a stage position (R268). -/
def srBitsOf (src : RngSrc) (e stage : Nat) : Nat :=
  let b := rngBlock src 0x20000 (e / 32) stage
  let n := e % 32
  bits (b.getD (n / 8) 0).toNat (4 * (n % 8) + 3) (4 * (n % 8))

/-! ## Noise values (R272, R273) -/

/-- The uniform value of an output word (R272). -/
def uniform (w : W32) : W32 := round32 (.fin false (2 * (w.toNat / 2 ^ 9) + 1) (-24))

/-- 2π in FP32 (R273). -/
def twoPi32 : W32 := 0x40C90FDB

/-- The standard normal value of element `e` (R273). -/
def normalZ (src : RngSrc) (stream e : Nat) : W32 :=
  let b := rngBlock src stream (e / 2) 0
  let l := (fnLog 3 (uniform (b.getD 0 0))).val
  let rr := fsqrt (fmul (round32 (ofInt (-2) 0)) l)
  let a := fmul (uniform (b.getD 1 0)) twoPi32
  fmul rr (fnTrig (if e % 2 = 0 then 0xF else 0xE) a).val

/-- The word that UNIFORM, DROPOUT and BITS take for element `e` (R272). -/
def noiseWord (src : RngSrc) (stream e : Nat) : W32 := (rngBlock src stream (e / 4) 0).getD (e % 4) 0

/-! ## The RNG block (R265, R267) -/

/-- A circuit is RUNNING or DRAINING. -/
def circBusy (c : Circ) : Bool := c.st == .running || c.st == .draining

/-- RNG_SEED written: dropped with WDROP while any circuit is RUNNING or DRAINING (R267). -/
def seedWrite (value : W64) (s : State) : State :=
  if s.roll.circuits.any fun e => circBusy e.2 then { s with rng.wdrop := true } else { s with rng.seed := value }

/-- RNG_SEED_WRITE (R267). -/
def execRngSeedWrite (view : View) (value : W64) (s : State) : Host.Outcome State Fault Refusal :=
  .next (regWrite view rngBase (seedWrite value) s)

/-- RNG_BASE_c written: dropped with WDROP while circuit c is RUNNING or DRAINING (R267). -/
def baseWrite (c : Nat) (value : W64) (s : State) : State :=
  if circBusy (tget {} s.roll.circuits c) then { s with rng.wdrop := true }
  else { s with rng.base := tset s.rng.base c (fld value 31 0) }

/-- RNG_BASE_WRITE (R267). -/
def execRngBaseWrite (view : View) (c : Nat) (value : W64) (s : State) : Host.Outcome State Fault Refusal :=
  .next (regWrite view (rngBase + 0x100 + 8 * c) (baseWrite c value) s)

end Sys2Proof.Machine
end

