-- ==== Sys2Proof/Machine/Roll.lean ====
section
/-! DEFINITION. The roll and its commands (R249 to R254), rounds (R236 to R240, R255, R257) and the step boundaries that
snapshots measure (R462, R469). -/

namespace Sys2Proof.Machine

/-! ## Commands (R251, R252) -/

/-- Roll entry `i`. -/
def entryAt (s : State) (i : Nat) : RollEntry := tget {} s.roll.entries i

/-- Roll entry `i` changed. -/
def modEntry (i : Nat) (f : RollEntry → RollEntry) (s : State) : State :=
  { s with roll.entries := tmod {} s.roll.entries i f }

/-- Circuit `c`. -/
def circAt (s : State) (c : Nat) : Circ := tget {} s.roll.circuits c

/-- Circuit `c` changed. -/
def modCirc (c : Nat) (f : Circ → Circ) (s : State) : State :=
  { s with roll.circuits := tmod {} s.roll.circuits c f }

/-- A roll command completes with a result, a record status and a body (R251, R382). -/
def rollOver (iss : Issuer) (result status : Nat) (body : List Byte) (s : State) : State :=
  postCmd iss status body { s with roll.tag := iss.tag % 256, roll.result := result }

/-- A roll command completes with a result code. -/
def rollDone (iss : Issuer) (result : Nat) (s : State) : State := rollOver iss result result [] s

/-- A roll command runs unless it is barred (R496, R516). -/
def rollCmd (iss : Issuer) (f : State → State) (s : State) : State :=
  match unitBar s with
  | some b => rollOver iss b.1 b.2 [] s
  | none => f s

/-- A roll command other than READ (R439, R450). -/
def rollJobCmd (iss : Issuer) (f : State → State) (s : State) : State :=
  match jobBar true s with
  | some b => rollOver iss b.1 b.2 [] s
  | none => f s

/-- STATE's code of an entry (R249). -/
def sampleCode : SampleState → Nat
  | .free => 0 | .ready => 1 | .inflight => 2 | .done => 3 | .paused => 4

/-- ROLL_E0 to ROLL_E3 as words. -/
def entryWords (e : RollEntry) : List W64 :=
  [pack [(48, e.step), (32, e.nsteps), (22, e.prio), (8, e.circuit), (3, b2n e.ppend), (0, sampleCode e.st)], e.seed,
   pack [(32, e.gscale.toNat), (16, e.arena), (0, e.first)], pack [(32, e.tag), (24, e.tt)]]

/-- The data fields that ROLL_E0 to ROLL_E3 hold. -/
def entryOfWords (w0 w1 w2 w3 : W64) : RollEntry :=
  { step := fld w0 63 48, nsteps := fld w0 47 32, prio := fld w0 23 22, circuit := fld w0 12 8, seed := w1,
    gscale := BitVec.ofNat 32 (fld w2 63 32), arena := fld w2 31 16, first := fld w2 15 0, tag := fld w3 63 32,
    tt := fld w3 27 24 }

/-- READ: the entry into ROLL_E0–E3, and into the record's body (R251, R382). -/
def rollRead (iss : Issuer) (i : Nat) : State → State :=
  rollCmd iss fun s =>
    let e := entryAt s i
    let s := match iss.via with
      | .reg => { s with roll.regs := e }
      | .queue _ => s
    rollOver iss 0 0 (zeros 8 ++ (entryWords e).flatMap fun w => leBytes 8 w.toNat) s

/-- ROLL_READ (R251). -/
def execRollRead (view : View) (tag idx : Nat) (s : State) : Host.Outcome State Fault Refusal :=
  .next (regWrite view rollBase (rollRead (regIssuer tag) (idx % 4096)) s)

/-- Every check of R252 holds for entry `i` written with `e`. -/
def entryOk (s : State) (i : Nat) (e : RollEntry) : Bool :=
  match circOf s e.circuit with
  | none => false
  | some (k, c) =>
    e.tt < c.ttCount && 1 ≤ e.nsteps && e.step < e.nsteps &&
    e.first + e.nsteps ≤ ttRows (imgAt s k) (c.ttFirst + e.tt) && isFinite32 e.gscale &&
    (if c.arenaSlots = 0 then e.arena = 0
     else e.arena < c.arenaSlots &&
       !(s.roll.entries.any fun x => x.1 ≠ i && x.2.circuit = e.circuit && x.2.arena = e.arena && x.2.st ≠ .free))

/-- WRITE (R251, R252). -/
def rollWrite (iss : Issuer) (i : Nat) (e : RollEntry) : State → State :=
  rollJobCmd iss fun s =>
    match (entryAt s i).st with
    | .ready | .inflight => rollDone iss 2 s
    | _ =>
      if entryOk s i e then
        rollDone iss 0 (makeReady i { s with roll.entries := tset s.roll.entries i { e with via := iss.via } })
      else rollDone iss 5 s

/-- ROLL_WRITE (R252). -/
def execRollWrite (view : View) (tag idx : Nat) (s : State) : Host.Outcome State Fault Refusal :=
  .next (regWrite view rollBase (rollWrite (regIssuer tag) (idx % 4096) s.roll.regs) s)

/-- PAUSE (R251). -/
def rollPause (iss : Issuer) (i : Nat) : State → State :=
  rollJobCmd iss fun s =>
    match (entryAt s i).st with
    | .ready => rollDone iss 0 (modEntry i (fun e => { e with st := .paused }) s)
    | .inflight => rollDone iss 0 (modEntry i (fun e => { e with ppend := true }) s)
    | .paused => rollDone iss 0 s
    | _ => rollDone iss 2 s

/-- ROLL_PAUSE (R251). -/
def execRollPause (view : View) (tag idx : Nat) (s : State) : Host.Outcome State Fault Refusal :=
  .next (regWrite view rollBase (rollPause (regIssuer tag) (idx % 4096)) s)

/-- RESUME (R251). -/
def rollResume (iss : Issuer) (i : Nat) : State → State :=
  rollJobCmd iss fun s =>
    match (entryAt s i).st with
    | .paused => rollDone iss 0 (makeReady i s)
    | .inflight => rollDone iss 0 (modEntry i (fun e => { e with ppend := false }) s)
    | _ => rollDone iss 2 s

/-- ROLL_RESUME (R251). -/
def execRollResume (view : View) (tag idx : Nat) (s : State) : Host.Outcome State Fault Refusal :=
  .next (regWrite view rollBase (rollResume (regIssuer tag) (idx % 4096)) s)

/-- RELEASE (R251). -/
def rollRelease (iss : Issuer) (i : Nat) : State → State :=
  rollJobCmd iss fun s =>
    match (entryAt s i).st with
    | .ready | .paused | .done => rollDone iss 0 (modEntry i (fun e => { e with st := .free, ppend := false }) s)
    | .inflight => rollDone iss 1 s
    | .free => rollDone iss 2 s

/-- ROLL_RELEASE (R251). -/
def execRollRelease (view : View) (tag idx : Nat) (s : State) : Host.Outcome State Fault Refusal :=
  .next (regWrite view rollBase (rollRelease (regIssuer tag) (idx % 4096)) s)

/-- RUN (R250, R251); STATE while JSTOPPED = 1 (R481). -/
def rollRun (iss : Issuer) (c : Nat) : State → State :=
  rollJobCmd iss fun s =>
    if s.flt.jstopped then rollDone iss 2 s
    else
      match (circAt s c).st with
      | .stopped => rollDone iss 0 (modCirc c (fun x => { x with st := .running, driven := s.roll.mark.getLsbD c }) s)
      | .running => rollDone iss 0 s
      | .draining => rollDone iss 1 s
      | .absent => rollDone iss 2 s

/-- ROLL_RUN (R251). -/
def execRollRun (view : View) (tag circuit : Nat) (s : State) : Host.Outcome State Fault Refusal :=
  .next (regWrite view rollBase (rollRun (regIssuer tag) (circuit % 32)) s)

/-- A circuit's pending worklists discarded, their entries READY again (R254). -/
def discardPending (c : Nat) (s : State) : State :=
  let es := (circAt s c).pending.flatMap (·.entries)
  modCirc c (fun x => { x with pending := [] }) (es.foldl (fun s i => makeReady i s) s)

/-- DRAIN (R254). -/
def rollDrain (iss : Issuer) (c : Nat) : State → State :=
  rollJobCmd iss fun s =>
    match (circAt s c).st with
    | .running | .draining =>
      let s := discardPending c s
      rollDone iss 0 (modCirc c (fun x => { x with st := if x.flight.isEmpty then .stopped else .draining }) s)
    | _ => rollDone iss 2 s

/-- ROLL_DRAIN (R254). -/
def execRollDrain (view : View) (tag circuit : Nat) (s : State) : Host.Outcome State Fault Refusal :=
  .next (regWrite view rollBase (rollDrain (regIssuer tag) (circuit % 32)) s)

/-- WORKLIST's checks in order: the result of the first that fails (R253). -/
def worklistBar (s : State) (c : Nat) (count : Nat) (es : List Nat) : Option Nat :=
  let x := circAt s c
  let bm := ((circOf s c).map fun p => p.2.batchMax).getD 0
  if x.st ≠ .running ∨ x.driven then some 2
  else if count = 0 ∨ bm < count ∨ es.eraseDups.length ≠ es.length then some 5
  else if !(es.all fun i => (entryAt s i).st == .ready && (entryAt s i).circuit = c) then some 2
  else if 16 ≤ x.pending.length then some 1
  else none

/-- WORKLIST (R253). -/
def rollWorklist (iss : Issuer) (addr : Nat) (record : HostRead) : State → State :=
  rollJobCmd iss fun s =>
    match record with
    | none => rollOver iss 5 (refusedAddr iss) (addrBody addr) s
    | some b =>
      let c := byteAt b 0
      let n := byteAt b 1
      let es := (List.range n).map fun i => leAt b (16 + 2 * i) 2
      match worklistBar s c n es with
      | some r => rollDone iss r s
      | none =>
        let s := es.foldl (fun s i => modEntry i (fun e => { e with st := .inflight }) s) s
        rollDone iss 0 (modCirc c (fun x =>
          { x with pending := x.pending ++ [{ tag := leAt b 4 4, via := iss.via, entries := es }] }) s)

/-- ROLL_WORKLIST (R253). -/
def execRollWorklist (view : View) (tag : Nat) (record : HostRead) (s : State) : Host.Outcome State Fault Refusal :=
  .next (regWrite view rollBase (rollWorklist (regIssuer tag) s.roll.argAddr record) s)

/-- ROLL_DRIVEN written: ignored if it would mark more than 8 circuits (R250). -/
def drivenWrite (value : W64) (s : State) : State :=
  if 8 < (setBits 32 value.toNat).length then s else { s with roll.mark := value.setWidth 32 }

/-- ROLL_DRIVEN_WRITE (R250). -/
def execRollDrivenWrite (view : View) (value : W64) (s : State) : Host.Outcome State Fault Refusal :=
  .next (regWrite view (rollBase + 0x400) (drivenWrite value) s)

/-! ## Training steps (R462, R467 to R469, R475) -/

/-- Circuit `c` is a training circuit (R462). -/
def isTraining (s : State) (c : Nat) : Bool := s.snap.circmask.getLsbD c

/-- The training step of round `r` of circuit `c` (R462). -/
def trainStep (s : State) (c r : Nat) : Nat := (tget 0 s.rng.base c + r) % 2 ^ 32

/-- The training circuits. -/
def trainingCircuits (s : State) : List Nat := (List.range 32).filter (isTraining s)

/-- The step of the oldest round of circuit `c` that is not complete. -/
def stepReached (s : State) (c : Nat) : Nat :=
  trainStep s c (match (circAt s c).flight with | f :: _ => f.num | [] => (circAt s c).next)

/-- The step of the next round of circuit `c`. -/
def nextStepOf (s : State) (c : Nat) : Nat := trainStep s c (circAt s c).next

/-- The step at which the next snapshot is due (R467): TAKE's or NEXT, while no training round has passed it and the store link
is up. -/
def snapTarget (s : State) : Option Nat :=
  let due := match s.snap.at_ with
    | some t => some t
    | none => if s.snap.nvalid then some s.snap.nextStep else none
  due.filter fun t => s.snap.link && (trainingCircuits s).all fun c => decide (nextStepOf s c ≤ t)

/-- A training round of step `t` is held (R467, R468, R475). -/
def stepHeld (s : State) (t : Nat) : Bool :=
  match s.snap.st with
  | .armed | .capture => (snapTarget s).any fun x => x ≤ t
  | .drain => (s.snap.drain.map (·.step)).any fun x => x < t
  | .replay => s.snap.replayStep < t
  | _ => false

/-- The cost of a snapshot in 1/256 of a step (R469). -/
def snapCost (bs bp : Nat) (old : Nat) : Nat := if bp = 0 then old else (256 * (bs - 2 * bp) + bp - 1) / bp

/-- The last training round of a step has completed: the beats of the step are measured (R469; log entry 15). -/
def boundary (s : State) : State :=
  let b := s.dev.paceHub - s.snap.lastBoundary
  let s := { s with snap.plainBeats := if s.snap.touched then s.snap.plainBeats else b }
  let s := match s.snap.measuring with
    | 2 => { s with snap.snapBeats := b, snap.measuring := 1 }
    | 1 => { s with snap.cost := sat 24 (snapCost (s.snap.snapBeats + b) s.snap.plainBeats s.snap.cost), snap.measuring := 0 }
    | _ => s
  { s with snap.lastBoundary := s.dev.paceHub, snap.touched := s.snap.st == .drain }

/-- After a training circuit completed its round of step `t`: the boundary, once every training circuit has passed `t`. -/
def stepCompleted (c t : Nat) (s : State) : State :=
  if !isTraining s c then s
  else if (trainingCircuits s).all fun d => decide (t < stepReached s d) then boundary s
  else s

/-! ## Rounds (R236 to R240, R255) -/

/-- No round of circuit `c` may be issued: the device or the job is stopped or held, or the job is pre-empted. -/
def issueBarred (s : State) (c : Nat) : Bool :=
  stopped s || s.flt.jstopped || s.ctx.st != .run || s.snap.st == .held || s.snap.st == .restoring ||
  (isTraining s c && stepHeld s (trainStep s c (circAt s c).next))

/-- The READY entries of a circuit. -/
def readyEntries (s : State) (c : Nat) : List (Nat × RollEntry) :=
  s.roll.entries.filter fun e => e.2.st == .ready && e.2.circuit = c

/-- An entry goes before another: higher PRIO, then earlier READY (R255). -/
def goesBefore (a b : Nat × RollEntry) : Bool :=
  b.2.prio < a.2.prio || (a.2.prio = b.2.prio && a.2.order ≤ b.2.order)

/-- The selection of a roll-driven round, if one may be built (R255). -/
def selection (s : State) (c : Nat) (r : CircRec) : Option (List Nat) :=
  let es := readyEntries s c
  if es.isEmpty then none
  else if r.roundMin ≤ es.length ∨ (circAt s c).flight.isEmpty then
    some (((es.mergeSort goesBefore).take r.batchMax).map (·.1))
  else none

/-- E, the bytes of a round entry (R240). -/
def roundBytes (r : CircRec) : Nat := 64 + 64 * r.batchMax

/-- The sample row of a roll entry (R240). -/
def sampleRow (s : State) (slot : Nat) (r : CircRec) (i : Nat) : List Byte :=
  let e := entryAt s i
  let t := ttRow (imgAt s slot) (r.ttFirst + e.tt) (e.first + e.step)
  let w := fun (x : W32) => leBytes 4 x.toNat
  leBytes 2 i ++ leBytes 2 e.arena ++ leBytes 2 e.step ++ leBytes 2 (e.first + e.step) ++ leBytes 8 e.seed.toNat ++
  w t.time ++ w t.inScale ++ w (fmul e.gscale t.gMul) ++ w t.cx ++ w t.cd ++ w t.ch ++ w t.cz ++ zeros 20

/-- A round entry (R240). -/
def roundEntry (s : State) (slot : Nat) (r : CircRec) (num : Nat) (es : List Nat) : List Byte :=
  padTo (roundBytes r) (leBytes 4 num ++ leBytes 1 es.length ++ zeros 59 ++ es.flatMap (sampleRow s slot r))

/-- A round entry written into the ring of a stall, which then has it to run (R238). -/
def ringWrite (r : CircRec) (num : Nat) (bs : List Byte) (n : Nat) (s : State) : State :=
  match physOf s n with
  | none => s
  | some p => modStallP p (fun x =>
      { x with scratch := memWrite x.scratch (r.rring + num % r.rdepth * roundBytes r) bs, ring := x.ring ++ [num] }) s

/-- A round is issued into every stall of its circuit (R238). -/
def issue (slot : Nat) (r : CircRec) (es : List Nat) (work : Option (Nat × Via)) (s : State) : State :=
  let c := r.circuit
  let num := (circAt s c).next
  let bs := roundEntry s slot r num es
  let s := (circStalls (imgAt s slot) c).foldl (fun s n => ringWrite r num bs n s) s
  let s := es.foldl (fun s i => modEntry i (fun e => { e with st := .inflight }) s) s
  modCirc c (fun x =>
    { x with next := (num + 1) % 2 ^ 32, flight := x.flight ++ [{ num := num, samples := es, ended := [], work := work }] }) s

/-- The next round of circuit `c`, a pending worklist or a selection, is issued once a ring entry is free (R238, R253,
R255). -/
def roundIssue (c : Nat) (s : State) : State :=
  match circOf s c with
  | none => s
  | some (slot, r) =>
    let x := circAt s c
    if x.st ≠ .running ∨ issueBarred s c ∨ r.rdepth ≤ x.flight.length then s
    else if x.driven then
      match selection s c r with
      | some es => issue slot r es none s
      | none => s
    else
      match x.pending with
      | w :: rest => issue slot r w.entries (some (w.tag, w.via)) (modCirc c (fun x => { x with pending := rest }) s)
      | [] => s

/-- ROUND_ISSUE (R238). -/
def execRoundIssue (c : Nat) (s : State) : Host.Outcome State Fault Refusal := .next (roundIssue c s)

/-- One sample's round completes (R239). -/
def sampleDone (c i : Nat) (s : State) : State :=
  let e := entryAt s i
  let s := modEntry i (fun e => { e with step := e.step + 1 }) s
  if e.step + 1 = e.nsteps then
    post e.via { tag := e.tag, status := 0, kind := 2, body := leBytes 2 i ++ leBytes 1 c }
      (modEntry i (fun e => { e with st := .done, ppend := false }) s)
  else if e.ppend then modEntry i (fun e => { e with st := .paused, ppend := false }) s
  else makeReady i s

/-- The oldest round of circuit `c` completes once every stall has ended its program for it (R239). -/
def roundComplete (c : Nat) (s : State) : State :=
  match circOf s c, (circAt s c).flight with
  | some (slot, _), f :: rest =>
    if !((circStalls (imgAt s slot) c).all fun n => f.ended.contains n) then s
    else
      let s := modCirc c (fun x =>
        { x with flight := rest, rounds := (x.rounds + 1) % 2 ^ 32,
                 st := if x.st == .draining && rest.isEmpty then .stopped else x.st }) s
      let s := f.samples.foldl (fun s i => sampleDone c i s) s
      let s := match f.work with
        | some (tag, via) =>
          post via { tag := tag, status := 0, kind := 1, body := leBytes 1 c ++ zeros 3 ++ leBytes 4 f.num } s
        | none => s
      stepCompleted c (trainStep s c f.num) s
  | _, _ => s

/-- ROUND_COMPLETE (R239). -/
def execRoundComplete (c : Nat) (s : State) : Host.Outcome State Fault Refusal := .next (roundComplete c s)

/-! ## A stall's program (R237) -/

/-- Stall `p` issues work: the device and the job run, its yard is up, it is not stopped by an error or a pre-emption. -/
def stallRuns (s : State) (p : Nat) : Bool :=
  let x := stallP s p
  !stopped s && !x.jstop && !x.preempted && !(pstAt s p).drillStop && yardUp s (yardOf p) && s.bring.main

/-- Logical stall `n` of a running job: its physical stall and what it holds. -/
def runningStall (s : State) (n : Nat) : Option (Nat × Stall) :=
  match physOf s n with
  | some p => if stallRuns s p then some (p, stallP s p) else none
  | none => none

/-- A stall starts its program for the next round in its ring, at ENTRY (R237); none starts from the acceptance of PREEMPT on
(R435). -/
def programStart (n : Nat) (s : State) : State :=
  match runningStall s n with
  | none => s
  | some (p, x) =>
    match x.prog, x.loaded, x.ring, s.ctx.st with
    | none, some l, r :: rest, .run =>
      setStallP s p { x with prog := some { round := r, next := l.entry, ops := [] }, ring := rest, lastRound := r }
    | _, _, _, _ => s

/-- PROGRAM_START (R237). -/
def execProgramStart (n : Nat) (s : State) : Host.Outcome State Fault Refusal := .next (programStart n s)

end Sys2Proof.Machine
end

