-- ==== Sys2Proof/Machine/Stall.lean ====
section
/-! DEFINITION. What the operations of a stall share: loop iterations (R164 to R168), addresses and their relocation and checks
(R166, R170, R174, R241, R242, R463), tiles in bytes and in values (R172, R269), and starting an operation (R161, R163). -/

namespace Sys2Proof.Machine

/-- What a step of the loop engine finds: not ready yet, a fault with its record's detail, or a value. -/
inductive Got (α : Type) where
  | wait
  | fault (code : Nat) (detail : List Byte)
  | ok (a : α)

/-- The next step of a computation that may wait or fault. -/
def Got.bind {α β : Type} (g : Got α) (f : α → Got β) : Got β :=
  match g with
  | .wait => .wait
  | .fault c d => .fault c d
  | .ok a => f a

/-- A computation run over a list, stopping at the first that waits or faults. -/
def gotAll {α β : Type} (f : α → Got β) : List α → Got (List β)
  | [] => .ok []
  | a :: r => (f a).bind fun b => (gotAll f r).bind fun bs => .ok (b :: bs)

/-! ## Operations in progress -/

/-- A stall stops at a fault of its own (R174): its record is raised and it issues nothing further. -/
def stallFault (p code : Nat) (detail : List Byte) (s : State) : State :=
  raiseStall code p detail (modStallP p (fun x => { x with jstop := true }) s)

/-- Operation `k` of a stall's program replaced. -/
def setOp (x : Stall) (k : Nat) (o : OpCtx) : Stall :=
  { x with prog := x.prog.map fun g => { g with ops := g.ops.set k o } }

/-- The operations of a stall's program. -/
def opsOf (x : Stall) : List OpCtx := (x.prog.map (·.ops)).getD []

/-- The oldest operation that `f` accepts, with its place. -/
def findOp (x : Stall) (f : OpCtx → Bool) : Option (Nat × OpCtx) :=
  ((opsOf x).zipIdx.find? fun p => f p.1).map fun p => (p.2, p.1)

/-! ## Loop iterations (R164, R165, R168) -/

/-- Levels in nesting order, outermost first. -/
def nest (d : Desc) : List Nat :=
  ((List.range 6).filter fun l => (d.loops.getD l {}).role ≠ 0).mergeSort fun a b =>
    (d.loops.getD a {}).order ≤ (d.loops.getD b {}).order

/-- Level `l` of a descriptor. -/
def level (d : Desc) (l : Nat) : LoopRec := d.loops.getD l {}

/-- The level with a role, if any. -/
def roleLevel (d : Desc) (role : Nat) : Option Nat := (List.range 6).find? fun l => (level d l).role = role

/-- The TAKE level, if any (R167). -/
def takeLevel (d : Desc) : Option Nat := (nest d).find? fun l => (level d l).take

/-- The DYN BATCH level, if any (R237). -/
def batchLevel (d : Desc) : Option Nat := (List.range 6).find? fun l => (level d l).role = 4 && (level d l).dyn

/-- POOL of a CONV (R186). -/
def convPool (d : Desc) : Nat := byteAt d.oparam 13 % 4

/-- The descriptor is a pool (R193). -/
def isPool (d : Desc) : Bool := d.opcode = 2 && convPool d ≠ 0

/-- SOFTMAX and NORM walk each row twice (R126, R129). -/
def twoPass (d : Desc) : Bool := d.opcode = 0x12 || d.opcode = 0x13

/-- Iterations of a level: tiles of 64 for M, N and K; the bound, or the instance's dynamic bound, otherwise (R165, R168). Level 6
is the pass of a row operation (log entry 17). -/
def levelCount (o : OpCtx) (l : Nat) : Nat :=
  let r := level o.d l
  if l = 6 then (if twoPass o.d then 2 else 1)
  else if r.role = 0 then 1
  else if r.role ≤ 3 then (r.bound + 63) / 64
  else if r.dyn then o.dynBound else r.bound

/-- The valid extent of a role in an iteration, 1 where the role has no level (R165). -/
def validOf (o : OpCtx) (it : List Nat) (role : Nat) : Nat :=
  match roleLevel o.d role with
  | some l => min 64 ((level o.d l).bound - 64 * it.getD l 0)
  | none => 1

/-- The index of a role's level in an iteration. -/
def roleIdx (o : OpCtx) (it : List Nat) (role : Nat) : Nat :=
  match roleLevel o.d role with
  | some l => it.getD l 0
  | none => 0

/-- The levels an operation walks, in nesting order: those of its loop table; for a row operation of two passes the pass, directly
outside N; for a DRAW N, and for a pool the channel within the N tile and then the taps, inside all others (log entry 17). -/
def walkNest (d : Desc) : List Nat :=
  if twoPass d then
    let out := (nest d).takeWhile fun l => (level d l).role ≠ 2
    out ++ 6 :: (nest d).drop out.length
  else if d.opcode = 0x20 then ((nest d).filter fun l => (level d l).role ≠ 2) ++ (nest d).filter fun l => (level d l).role = 2
  else if isPool d then ((nest d).filter fun l => (level d l).role ≠ 3) ++ 7 :: (nest d).filter fun l => (level d l).role = 3
  else nest d

/-- Iterations of a level from an iteration on: a pool's channels are those of its N tile. -/
def countAt (o : OpCtx) (it : List Nat) (l : Nat) : Nat := if l = 7 then validOf o it 2 else levelCount o l

/-- The first iteration. -/
def firstIt : List Nat := List.replicate 8 0

/-- The iteration after `it` over the levels `ls`, innermost first; none after the last. -/
def stepIt (o : OpCtx) : List Nat → List Nat → Option (List Nat)
  | [], _ => none
  | l :: r, it =>
    if it.getD l 0 + 1 < countAt o it l then some (it.set l (it.getD l 0 + 1)) else stepIt o r (it.set l 0)

/-- The next iteration of an operation, within one iteration of its TAKE level. -/
def nextIt (o : OpCtx) (it : List Nat) : Option (List Nat) :=
  stepIt o (((walkNest o.d).filter fun l => !(level o.d l).take).reverse) it

/-- The next iteration with the K level left out: the next output tile. -/
def nextTile (o : OpCtx) (it : List Nat) : Option (List Nat) :=
  stepIt o (((walkNest o.d).filter fun l => !(level o.d l).take && (level o.d l).role ≠ 3 && l ≠ 7).reverse) it

/-- The output tile of an iteration: the iteration with its K index cleared. -/
def outTile (d : Desc) (it : List Nat) : List Nat :=
  match roleLevel d 3 with
  | some l => it.set l 0
  | none => it

/-- The number of an output tile: M, N, BATCH and OUTER indices in nesting order, innermost fastest (R181). -/
def tileNumber (o : OpCtx) (it : List Nat) : Nat :=
  ((nest o.d).filter fun l => (level o.d l).role ≠ 3).foldl (fun a l =>
    let n := if (level o.d l).role ≤ 3 then levelCount o l else (level o.d l).bound
    a * n + it.getD l 0) 0

/-! ## Where an operation runs -/

/-- What an operation's addresses and random bits depend on: its stall, operation, circuit record, round and image. -/
structure Env where
  n : Nat
  p : Nat
  x : Stall
  o : OpCtx
  c : CircRec
  slot : Nat
  round : Nat

/-- The environment of operation `o` of logical stall `n`. -/
def envOf (s : State) (n p : Nat) (x : Stall) (o : OpCtx) : Env :=
  let l := x.loaded.getD { slot := 0, circuit := 0, dtbase := 0, dtcount := 0, entry := 0 }
  let c := ((circuitsOf (imgAt s l.slot)).find? fun r => r.circuit = l.circuit).getD
    { circuit := l.circuit, batchMax := 1, rdepth := 1, roundMin := 1, stages := 0, ttFirst := 0, ttCount := 0, rring := 0,
      arenaBase := 0, arenaPitch := 0, arenaSlots := 0 }
  { n := n, p := p, x := x, o := o, c := c, slot := l.slot, round := (x.prog.map (·.round)).getD 0 }

/-- The offset of the current round's entry in scratch (R238, R241). -/
def ringEntry (e : Env) : Nat := e.c.rring + e.round % e.c.rdepth * roundBytes e.c

/-- `n` bytes at offset `off` of the sample row of batch position `i` (R240). -/
def sampleField (e : Env) (i off n : Nat) : Nat := leNat (memRead e.x.scratch (ringEntry e + 64 + 64 * i + off) n)

/-- The samples of the current round (R240). -/
def roundSize (e : Env) : Nat := (memGet e.x.scratch (ringEntry e + 4)).toNat

/-- The batch position of an iteration, if the descriptor has a DYN BATCH level. -/
def batchPos (e : Env) (it : List Nat) : Option Nat := (batchLevel e.o.d).map fun l => it.getD l 0

/-- The key and STEP of an operation's random bits (R265). -/
def rngSrc (s : State) (e : Env) (it : List Nat) : RngSrc :=
  match batchPos e it with
  | some i => { seed := BitVec.ofNat 64 (sampleField e i 8 8), step := sampleField e i 4 2 }
  | none => { seed := s.rng.seed, step := trainStep s e.c.circuit e.round }

/-! ## Addresses (R166, R170, R241, R242, R463) -/

/-- The index of a level for the element at (line, position): the roles of the line and the position walk within the tile. -/
def levelIndex (r : LoopRec) (t lineRole posRole line pos : Nat) : Nat :=
  if 1 ≤ r.role ∧ r.role ≤ 3 then 64 * t + (if r.role = lineRole then line else if r.role = posRole then pos else 0) else t

/-- How a tile of an operand is walked: its record, its strides, and the roles of its lines and of positions along them.
Lines run along the block axis: K for A and B of a product, the column otherwise (R56, R170; log entry 16). -/
structure Walk where
  opr : OpRec
  stride : LoopRec → Int
  lineRole : Nat
  posRole : Nat

/-- The operands of a product and of the other operations. -/
def walkA (d : Desc) : Walk :=
  { opr := d.a, stride := (·.sa), lineRole := 1, posRole := if (roleLevel d 3).isSome then 3 else 2 }
def walkB (d : Desc) : Walk :=
  if (roleLevel d 3).isSome then { opr := d.b, stride := (·.sb), lineRole := 2, posRole := 3 }
  else { opr := d.b, stride := (·.sb), lineRole := 1, posRole := 2 }
def walkC (d : Desc) : Walk := { opr := d.c, stride := (·.sc), lineRole := 1, posRole := 2 }
def walkX (d : Desc) : Walk := { opr := d.x, stride := (·.sx), lineRole := 1, posRole := 2 }

/-- The element offset of an element (R166). -/
def elemOffset (d : Desc) (w : Walk) (it : List Nat) (line pos : Nat) : Int :=
  ((List.range 6).map fun l =>
    let r := level d l
    (levelIndex r (it.getD l 0) w.lineRole w.posRole line pos : Int) * w.stride r).foldl (· + ·) 0

/-- The byte address of an element, before relocation, and the bit of its lowest bit (R166, R56). -/
def elemAddr (d : Desc) (w : Walk) (it : List Nat) (line pos : Nat) : Int × Nat :=
  let b := elemOffset d w it line pos * fmtBits w.opr.sfmt
  (w.opr.base + Int.fdiv b 8, (Int.emod b 8).toNat)

/-- The address of the scale of a block (R170). -/
def scaleAddr (d : Desc) (w : Walk) (it : List Nat) (line block : Nat) : Int :=
  let full := fun role k => ((roleLevel d role).map fun l => 64 * it.getD l 0 + k).getD k
  let t := ((List.range 6).map fun l =>
    let r := level d l
    if r.role = 4 ∨ r.role = 5 then Int.fdiv ((it.getD l 0 : Int) * w.stride r) 32 else 0).foldl (· + ·) 0
  ((w.opr.geom % 2 ^ 39 + full w.lineRole line * w.opr.srow + full w.posRole (32 * block) / 32 : Nat) : Int) + t

/-- A scratch address relocated into the round ring (R241). -/
def ringReloc (e : Env) (a : Nat) : Nat :=
  if e.c.rring ≤ a ∧ a < e.c.rring + roundBytes e.c then a + e.round % e.c.rdepth * roundBytes e.c else a

/-- A loft address relocated into the arena (R242), or into a half of the state region (R463). -/
def loftReloc (s : State) (e : Env) (it : List Nat) (a : Nat) : Nat :=
  let b := e.c.arenaBase
  let p := e.c.arenaPitch
  let rb := regionBase s
  let rp := regionPitch s
  match batchPos e it with
  | some i =>
    if e.c.arenaSlots ≠ 0 ∧ b ≤ a ∧ a < b + p then
      b + sampleField e i 2 2 * p + (((a - b) / (p / 2) + sampleField e i 4 2) % 2) * (p / 2) + (a - b) % (p / 2)
    else region s e rb rp a
  | none => region s e rb rp a
where
  /-- State-region relocation for a training circuit. -/
  region (s : State) (e : Env) (rb rp a : Nat) : Nat :=
    if isTraining s e.c.circuit ∧ rb ≤ a ∧ a < rb + rp then
      rb + (((a - rb) / (rp / 2) + trainStep s e.c.circuit e.round) % 2) * (rp / 2) + (a - rb) % (rp / 2)
    else a

/-- Detail format L of an iteration of the operation (R174, R478). -/
def lDetail (e : Env) (it : List Nat) : List Byte := detL e.o.desc it

/-- A stall may not write the loft at `a` while SNAP is on (R464): the state region unless it trains, or an extent. -/
def snapBars (s : State) (e : Env) (a : Nat) : Bool :=
  s.snap.st != .off &&
  ((extRanges s).any (fun r => r.1 ≤ a && a < r.2) ||
   (!isTraining s e.c.circuit && regionBase s ≤ a && a < regionBase s + regionPitch s))

/-- One byte's address checked and relocated, in R174's order: region, then scratch window or loft partition. -/
def checkAddr (s : State) (e : Env) (r : OpRec) (it : List Nat) (write : Bool) (a : Int) : Got Nat :=
  if a < r.base ∨ (r.base + 4096 * r.extent : Int) ≤ a then .fault 0x0203 (lDetail e it)
  else
    let a := a.toNat
    if r.space = 2 then
      let a' := loftReloc s e it a
      if !inJob s a' ∨ (write ∧ snapBars s e a') then .fault 0x0404 (detA a' (if write then 1 else 3)) else .ok a'
    else
      let a' := ringReloc e a
      if e.o.d.swinBase ≤ a' ∧ a' < e.o.d.swinBase + e.o.d.swinLen then .ok a' else .fault 0x0202 (lDetail e it)

/-! ## Tiles in bytes (R172; log entry 16) -/

/-- Bytes of one line of 64 elements, of a tile, and of its entry with its scale bytes, rounded up to 256 (R172). -/
def lineBytes (f : Nat) : Nat := 8 * fmtBits f
def tileBytes (f : Nat) : Nat := 64 * lineBytes f + (if isMx f then 128 else 0)
def entryBytes (f : Nat) : Nat := (tileBytes f + 255) / 256 * 256

/-- Byte `b` of line `line` of a tile comes from this address; none where every element it holds is masked. -/
def lineByte (s : State) (e : Env) (w : Walk) (it : List Nat) (write : Bool) (lines poss line b : Nat) : Got (Option Nat) :=
  let bits := fmtBits w.opr.sfmt
  let pos := 8 * b / bits
  if lines ≤ line ∨ poss ≤ pos then .ok none
  else
    let a := if bits < 8 then (elemAddr e.o.d w it line 0).1 + b
      else (elemAddr e.o.d w it line pos).1 + (b % (bits / 8) : Nat)
    (checkAddr s e w.opr it write a).bind fun a => .ok (some a)

/-- The addresses of a tile's bytes: 64 lines, then for an MX format two scale bytes a line. -/
def tilePlan (s : State) (e : Env) (w : Walk) (it : List Nat) (write : Bool) (lines poss : Nat) : Got (List (Option Nat)) :=
  let n := lineBytes w.opr.sfmt
  (gotAll (fun i => lineByte s e w it write lines poss (i / n) (i % n)) (List.range (64 * n))).bind fun els =>
    if isMx w.opr.sfmt then
      (gotAll (fun i =>
        if lines ≤ i / 2 ∨ poss ≤ 32 * (i % 2) then .ok none
        else (checkAddr s e w.opr it write (scaleAddr e.o.d w it (i / 2) (i % 2))).bind fun a => .ok (some a))
        (List.range 128)).bind fun scs => .ok (els ++ scs)
    else .ok els

/-- The value at (line, position) of a tile's bytes in a format (R55, R56). -/
def tileVal (f : Nat) (bs : List Byte) (line pos : Nat) : Val :=
  let b := fmtBits f
  let o := line * lineBytes f
  let x := leAt bs (o + b * pos / 8) ((b * pos % 8 + b + 7) / 8) / 2 ^ (b * pos % 8) % 2 ^ b
  if isMx f then mxValue f x (byteAt bs (64 * lineBytes f + 2 * line + pos / 32)) else decode f x

/-- A tile in values: 64 lines of 64. -/
def tileVals (f : Nat) (bs : List Byte) : List (List Val) :=
  (List.range 64).map fun l => (List.range 64).map fun k => tileVal f bs l k

/-- The bytes that a plan names, masked ones 0, from scratch or from the loft. -/
def planBytes (m : Mem) (plan : List (Option Nat)) : List Byte :=
  plan.map fun a => match a with | some a => memGet m a | none => 0

/-! ## Rounding indices (R268, R269) -/

/-- The rounding index of the element at (line, position) of a tile that an operand record places; `n` is the stall that R269
names for its space, and `t` the tile number. -/
def srIndex (e : Env) (w : Walk) (it : List Nat) (n t line pos : Nat) : Nat :=
  let (a, b) := elemAddr e.o.d w it line pos
  let ab := (8 * a.toNat + b) / 4
  match w.opr.space with
  | 2 => ab
  | 1 => 2 ^ 47 + n * 2 ^ 22 + ab
  | _ => 2 ^ 46 + n * 2 ^ 35 + t * 2 ^ 12 + 64 * line + pos

/-- The random bits of a conversion, drawn only under the stochastic mode. -/
def srDraw (rnd : Nat) (src : RngSrc) (index stage : Nat) : Nat := if rnd = 2 then srBitsOf src index stage else 0

/-! ## Conversion of a tile (R63, R133) -/

/-- A tile converted: its bytes and its counts. -/
structure TileOut where
  bytes : List Byte
  satur : Nat := 0
  under : Nat := 0

/-- Element encodings of a line packed, least significant first (R56). -/
def packLine (f : Nat) (xs : List Nat) : List Byte :=
  leBytes (lineBytes f) ((xs.zipIdx.map fun p => p.1 * 2 ^ (fmtBits f * p.2)).foldl (· + ·) 0)

/-- A tile of values converted to a format: valid elements, and for an MX format every column of a block that has a valid
one, masked columns entering as +0 (R133). `r` gives the random bits of an element. -/
def tileTo (f rnd : Nat) (nonsat : Bool) (r : Nat → Nat → Nat) (lines poss : Nat) (vs : List (List Val)) : TileOut :=
  let v := fun l k => if l < lines ∧ k < poss then (vs.getD l []).getD k Val.zero else Val.zero
  if isMx f then
    let blocks := (List.range 128).map fun i =>
      buildBlock f rnd nonsat ((List.range 32).map fun k =>
        (v (i / 2) (32 * (i % 2) + k), r (i / 2) (32 * (i % 2) + k)))
    let lineEls := (List.range 64).map fun l =>
      ((blocks.getD (2 * l) { scale := 0, elems := [] }).elems ++ (blocks.getD (2 * l + 1) { scale := 0, elems := [] }).elems)
    { bytes := lineEls.flatMap (packLine f) ++ blocks.map (fun b => BitVec.ofNat 8 b.scale),
      satur := (blocks.map (·.satur)).sum, under := (blocks.map (·.under)).sum }
  else
    let rows := (List.range 64).map fun l => (List.range 64).map fun k =>
      if r l k = padDraw then convert f 0 false 0 (v l k) else convert f rnd nonsat (r l k) (v l k)
    { bytes := rows.flatMap fun row => packLine f (row.map (·.bits)),
      satur := (rows.map fun row => (row.filter (·.sat)).length).sum }

/-! ## Starting an operation (R161, R163, R168) -/

/-- The tokens of a WAIT mask are set. -/
def tokensSet (x : Stall) (m : W64) : Bool := x.tokens &&& m = m

/-- The descriptor that the stall's program starts next, if its opcode is `op`, its tokens are set, and the stall runs. -/
def startable (s : State) (n op : Nat) : Option (Nat × Stall × Prog × Desc) :=
  match runningStall s n with
  | none => none
  | some (p, x) =>
    match x.prog with
    | none => none
    | some g =>
      if g.next = 0xFFFF then none
      else
        let d := descAt x g.next
        if d.opcode = op && tokensSet x d.wait then some (p, x, g, d) else none

/-- The operation as it starts: its instance count advanced, its dynamic bound from the round, iteration 0 (R163, R168). -/
def freshOp (x : Stall) (g : Prog) (d : Desc) (size : Nat) : OpCtx :=
  let inst := (tget 0 x.inst g.next + 1) % 2 ^ 32
  let o : OpCtx := { desc := g.next, inst := inst, d := d, dynBound := size, it := firstIt }
  let empty := (nest d).any fun l => levelCount o l = 0
  let takes := (takeLevel d).isSome
  { o with walking := !empty, takeWait := takes && !empty }

/-- The stall after an operation starts: its tokens cleared, its count stored, the program moved on (R161, R163). -/
def startedStall (x : Stall) (g : Prog) (d : Desc) (o : OpCtx) : Stall :=
  { x with tokens := x.tokens &&& ~~~d.wait, inst := tset x.inst g.next o.inst,
           prog := some { g with next := d.next, ops := g.ops ++ [o] } }

/-- The dynamic bound of an instance passes BOUND on some level (R168). -/
def dynTooLarge (d : Desc) (size : Nat) : Bool := (List.range 6).any fun l => (level d l).dyn && (level d l).bound < size

/-- An operation of opcode `op` starts in logical stall `n`, then `f` runs with its place in the program. -/
def startOp (n op : Nat) (f : Nat → Nat → State → State) (s : State) : State :=
  match startable s n op with
  | none => s
  | some (p, x, g, d) =>
    let size := roundSize (envOf s n p x {})
    let o := freshOp x g d size
    let s := setStallP s p (startedStall x g d o)
    if dynTooLarge d size then stallFault p 0x0203 (detL o.desc o.it) s
    else f p (g.ops.length) s

/-! ## Completion (R161, R483) -/

/-- The EVENT records of a completed instance (R483). -/
def opEvents (p : Nat) (o : OpCtx) (round : Nat) (s : State) : State :=
  [(0x0301, o.satur), (0x0302, o.under), (0x0303, o.nans)].foldl (fun s c =>
    if c.2 = 0 then s else raiseStall c.1 p (detO o.desc o.inst c.2 round) s) s

/-- A stall's program for a round has ended: the round's stalls record it (R237, R239). -/
def programEnds (n c round : Nat) (s : State) : State :=
  modCirc c (fun x => { x with flight := x.flight.map fun f => if f.num = round then { f with ended := f.ended ++ [n] } else f }) s

/-- Nothing of an operation remains to be done (R161): no iteration, tile or write, and no row that it has open in the ledger (log entry
40). -/
def opFinished (x : Stall) (o : OpCtx) : Bool :=
  !o.walking && o.out = 0 && o.readouts.isEmpty && o.down.isNone &&
  (x.slots.all fun e => e.2.st == .free || e.2.desc ≠ o.desc) &&
  x.ledger.all fun e => e.2.st ≠ 1 || e.2.own ≠ (o.desc, o.inst)

/-- Operation `k` of the program of logical stall `n` completes: SIGNAL is set, its events are recorded, and the program ends
with its last operation (R161, R237, R483). A FENCE completes only as the oldest operation (R162). -/
def operationComplete (n k : Nat) (s : State) : State :=
  match physOf s n with
  | none => s
  | some p =>
    let x := stallP s p
    match x.prog, (opsOf x)[k]? with
    | some g, some o =>
      if stopped s ∨ x.jstop ∨ (s.ctx.st ≠ .run ∧ s.ctx.st ≠ .stopping) ∨ !opFinished x o ∨ o.d.opcode = 0x7F ∧ k ≠ 0 then s
      else
        let ops := g.ops.eraseIdx k
        let ended := ops.isEmpty && g.next = 0xFFFF
        let s := setStallP s p { x with
          tokens := x.tokens ||| o.d.signal, prog := if ended then none else some { g with ops := ops } }
        let s := opEvents p o g.round s
        if ended then programEnds n ((x.loaded.map (·.circuit)).getD 0) g.round s else s
    | _, _ => s

/-- OPERATION_COMPLETE (R161). -/
def execOperationComplete (n k : Nat) (s : State) : Host.Outcome State Fault Refusal := .next (operationComplete n k s)

end Sys2Proof.Machine
end

