-- ==== Sys2Proof/Machine/Tiles.lean ====
section
/-! DEFINITION. Moving tiles: packets and credits (R305, R309 to R316), receive windows, fetching operand tiles into landings
(R141, R172, R173), the window fetch of CONV (R183 to R191), taking iterations (R175, R177) and writing output tiles under the
write-once rule (R181, R313, R338). -/

namespace Sys2Proof.Machine

/-! ## Operations in place -/

/-- The environment of operation `k` of logical stall `n`, served by physical stall `p`. -/
def envAt (s : State) (n p k : Nat) : Env :=
  let x := stallP s p
  envOf s n p x ((opsOf x).getD k {})

/-- Operation `k` of physical stall `p` changed. -/
def putOp (p k : Nat) (f : OpCtx → OpCtx) (s : State) : State :=
  modStallP p (fun x => setOp x k (f ((opsOf x).getD k {}))) s

/-- The stall, route and gate outputs of logical stall `n` are held (R228, R420, R450, R476). -/
def routesHeld (s : State) (n : Nat) : Bool :=
  stopped s || s.ctx.st == .held || s.snap.st == .held ||
  (s.syl.held && (s.syl.heldFull || s.syl.heldStalls.contains n))

/-! ## Paths (R305 to R307) -/

/-- Unit numbers of the hub, a loft controller and a yard's counter unit. -/
def hubUnit : Nat := 0x7E0
def ctlUnit (s : State) (a : Nat) : Nat := 0x800 + controllerOf s a
def ctrUnit (y : Nat) : Nat := 0xA00 + y

/-- An end of a path: its stall position, if it is one, and its barn and mesh node, none for the hub (R306). -/
structure PathEnd where
  stall : Option Nat := none
  place : Option (Nat × Nat) := none

/-- The end that a unit number names (R305, R306). -/
def pathEnd (s : State) (u : Nat) : PathEnd :=
  if u < 1200 then
    match physOf s u with
    | some p => { stall := some p, place := some (barnOf p, p / 32 % 10) }
    | none => {}
  else if 0xA00 ≤ u then { place := some ((u - 0xA00) / 10, u % 10) }
  else if 0x800 ≤ u then { place := some ((u - 0x800) / 8, 40 * ((u - 0x800) % 8) / 32 % 10) }
  else {}

/-- The stall nearest a mesh node: the first of its yard (R477). DESIGN CHOICE among the 32 (log entry 8). -/
def nodeUnit (b l : Nat) : Nat := 320 * b + 32 * l

/-- The nodes that a packet enters in a barn from node `l` to node `m`: along the row, then along the column (R307). -/
def meshHops (b l m : Nat) : List Nat :=
  let c := l % 5
  let d := m % 5
  let cols := if c ≤ d then (List.range (d - c)).map (c + 1 + ·) else (List.range (c - d)).map fun i => c - 1 - i
  cols.map (fun x => nodeUnit b (5 * (l / 5) + x)) ++ (if l / 5 = m / 5 then [] else [nodeUnit b m])

/-- The barns that a packet enters on the ring from barn `b` to barn `c` (R307). -/
def ringVia (b c : Nat) : List Nat :=
  if b = c then []
  else if c = (b + 1) % 4 ∨ c = (b + 3) % 4 then [c]
  else if b % 2 = 0 then [1, c]
  else [2, c]

/-- The hops over ring bridges into the barns of a list, from a node, and where they end: a bridge to the next barn stands at column 4,
row 0, the one to the barn before at column 0, row 0 (R306, R307). -/
def ringHops : List Nat → Nat × Nat → List Nat × (Nat × Nat)
  | [], x => ([], x)
  | c :: r, (b, l) =>
    let up := c = (b + 1) % 4
    let enter := if up then 0 else 4
    let rest := ringHops r (c, enter)
    (meshHops b l (if up then 4 else 0) ++ nodeUnit c enter :: rest.1, rest.2)

/-- The unit nearest each hop of the path from one end to another (R307, R477): the interfaces' own stalls, the mesh nodes, the ring
bridges, and the hub port of a barn. -/
def pathHops (a b : PathEnd) : List Nat :=
  let mid := match a.place, b.place with
    | some x, some y => let r := ringHops (ringVia x.1 y.1) x; r.1 ++ meshHops y.1 r.2.2 y.2
    | some x, none => meshHops x.1 x.2 7 ++ [0x7E0 + x.1]
    | none, some y => (0x7E0 + y.1) :: meshHops y.1 7 y.2
    | none, none => []
  a.stall.toList ++ mid ++ b.stall.toList

/-! ## Packets (R305, R309, R311; log entry 8) -/

/-- Packets of a transfer (R309). -/
def pktCount (bytes : Nat) : Nat := max 1 ((bytes + 495) / 496)

/-- A packet enters the fabric on the path between its units. -/
def inject (cls src dst : Nat) (body : PktBody) (s : State) : State :=
  countPkts cls 1 { s with fab.net := s.fab.net ++
    [{ cls := cls, src := src, dst := dst, hops := pathHops (pathEnd s src) (pathEnd s dst), body := body }] }

/-- A packet between a stall and its own slice takes the vertical link, which is no part of the fabric (R281, R306). -/
def injectOwn (cls src dst : Nat) (body : PktBody) (s : State) : State :=
  { s with fab.net := s.fab.net ++ [{ cls := cls, src := src, dst := dst, body := body }] }

/-- A packet between a stall and the loft, on the fabric unless the slice is the stall's own. -/
def injectLoft (own : Bool) (cls src dst : Nat) (body : PktBody) (s : State) : State :=
  if own then injectOwn cls src dst body s else inject cls src dst body s

/-- A packet to a logical stall: one whose map entry is not valid is not sent and raises FABRIC_UNCORRECTABLE (R305). -/
def injectStall (cls src dst : Nat) (body : PktBody) (s : State) : State :=
  match physOf s dst with
  | some _ => inject cls src dst body s
  | none => raise 0x0501 3 ((physOf s src).getD hubUnit) src (detA dst 6) s

/-- The parts of a transfer of bytes, each with its offset; an empty one is a packet of its own (R309). -/
def partsOf (bs : List Byte) : List (Nat × List Byte) :=
  if bs.isEmpty then [(0, [])] else (chunks 496 bs).zipIdx.map fun c => (496 * c.2, c.1)

/-- A DATA transfer to a window of stall `n`, as consecutive packets (R309). -/
def sendData (src n win key dest tile : Nat) (bs : List Byte) (ack : Option (Nat × Nat × Nat)) (s : State) : State :=
  (partsOf bs).foldl (fun s c =>
    injectStall 3 src n (.data n win src key dest tile c.1 bs.length c.2 ack) s) s

/-- Who serves a loft address for physical stall `p`: its own slice, or a controller over the fabric (R281). -/
def serverOf (s : State) (p a : Nat) : Bool × Nat :=
  if (sliceOf s a).1 = p then (true, ctlUnit s a) else (false, ctlUnit s a)

/-- Cells grouped by the server of their address. -/
def byServer {α : Type} (s : State) (p : Nat) (addr : α → Nat) (cells : List α) : List ((Bool × Nat) × List α) :=
  let tagged := cells.map fun c => (serverOf s p (addr c), c)
  (tagged.map (·.1)).eraseDups.map fun k => (k, (tagged.filter fun c => c.1 = k).map (·.2))

/-- A WRITE transfer of stall `n` to the loft: its parts to every controller that holds bytes of it (R281, R309). -/
def sendWrite (n p desc inst : Nat) (cells : List (Nat × Byte)) (fill : Option FillRef) (s : State) : State :=
  let id := s.fab.xfer
  let s := { s with fab.xfer := id + 1 }
  (byServer s p (·.1) cells).foldl (fun s g =>
    (chunks 496 g.2).foldl (fun s part =>
      injectLoft g.1.1 2 n g.1.2 (.write n desc inst id cells.length part fill) s) s) s

/-- The READs of a landing, one to each server of its bytes; a cell is a position in the tile with its loft address. -/
def sendRead (n p desc inst opnd entry : Nat) (it : List Nat) (cells : List (Nat × Nat)) (s : State) : State :=
  (byServer s p (·.2) cells).foldl (fun s g =>
    injectLoft g.1.1 0 n g.1.2 (.read n desc inst opnd entry it g.2) s) s

/-! ## Credits (R315) -/

/-- A list with item `i` replaced, lengthened with zeros as needed. -/
def setAt (l : List Nat) (i v : Nat) : List Nat := (l ++ List.replicate (i + 1 - l.length) 0).set i v

/-- Credits in use under a key toward destination `dst`. -/
def inUse (x : Stall) (key dst : Nat) : Nat := (tget [] x.used key).getD dst 0

/-- One more credit in use, and one returned. -/
def takeCredits (key dst : Nat) (x : Stall) : Stall :=
  { x with used := tset x.used key (setAt (tget [] x.used key) dst (inUse x key dst + 1)) }
def giveCredit (key dst : Nat) (x : Stall) : Stall :=
  { x with used := tset x.used key (setAt (tget [] x.used key) dst (inUse x key dst - 1)) }

/-- Credit keys: a route; a chain or pair window by the sender's descriptor; READY and rows of a HALO side; a consumer's
ledger entry. -/
def routeKey (r : Nat) : Nat := 100000 + r
def chainKey (d : Nat) : Nat := 64 + d
def pairKey (d : Nat) : Nat := 8192 + d
def haloKey (side : Nat) : Nat := 16384 + side
def readyKey (side : Nat) : Nat := 16386 + side
def ledgerKey (q entry : Nat) : Nat := 200000 + 1024 * q + entry

/-- The descriptors of logical stall `q` in the image of a slot. -/
def descsOf (s : State) (slot q : Nat) : List Desc := descsIn (imgAt s slot) q

/-- The descriptor of a partner stall that matches descriptor `d`: the same place among those that `g` picks there as `d` has
among those that `f` picks here. -/
def matchDesc (mine theirs : List Desc) (d : Nat) (f g : Desc → Bool) : Option Nat :=
  ((theirs.zipIdx.filter fun p => g p.1).map (·.2))[((mine.take d).filter f).length]?

/-- The stages of a list up to END (R131). -/
def stageList (l : List StageRec) : List StageRec := l.takeWhile fun r => r.kind ≠ 0

/-- PARTNER and PWIN (R136). -/
def partnerOf (r : StageRec) : Nat := r.xaddr % 2048
def pwinOf (r : StageRec) : Nat := bits r.xaddr 18 11

/-- The stage of a kind in an epilogue list. -/
def epiStage (d : Desc) (kind : Nat) : Option StageRec := (stageList d.epi).find? fun r => r.kind = kind

/-- The next member of a chain: its stall, its descriptor, and the capacity of its chain window (R98, R315). -/
def chainNext (s : State) (e : Env) : Option (Nat × Nat × Nat) :=
  let q := e.o.d.cnext
  let ds := descsOf s e.slot q
  (matchDesc (descsOf s e.slot e.n) ds e.o.desc (fun d => d.kout && d.cnext = q) (fun d => d.kin && d.cprev = e.n)).map
    fun i => (q, i, (ds.getD i {}).cwinCap)

/-- A descriptor's list has a stage of a kind that names stall `q`. -/
def namesPartner (kind q : Nat) (d : Desc) : Bool := (epiStage d kind).any fun r => partnerOf r = q

/-- The second stall of a pair, for the first: its descriptor and the capacity of its pair window (R144, R145). -/
def pairSecond (s : State) (e : Env) (q : Nat) : Option (Nat × Nat) :=
  let ds := descsOf s e.slot q
  (matchDesc (descsOf s e.slot e.n) ds e.o.desc (namesPartner 9 q) (namesPartner 8 e.n)).map
    fun i => (i, ((epiStage (ds.getD i {}) 8).map pwinOf).getD 0)

/-! ## Which tile of an operand an iteration uses (R173) -/

/-- The operand record and the walk of operand 0 A, 1 B, 3 aux. The aux of a CHAIN is the B operand of its second product,
its columns on the K level and its keys on the N level (R152). The aux tensor of a RESIDUAL has the stage's VFMT (R132). DESIGN CHOICE
where XFMT says otherwise (log entry 38). -/
def opndWalk (d : Desc) (no : Nat) : Walk :=
  match no with
  | 0 => walkA d
  | 1 => walkB d
  | _ =>
    if d.opcode = 3 then { opr := d.x, stride := (·.sx), lineRole := 3, posRole := 2 }
    else match epiStage d 7 with
      | some r => { walkX d with opr := { d.x with sfmt := r.vfmt } }
      | none => walkX d

/-- A level moves an operand: a nonzero stride; for a window, every level but the one its tiles do not depend on (N for A, M
for B, K for aux); for the window fetch of CONV, every level but N, which moves only a pool's tiles (R191, R193). -/
def moves (d : Desc) (no l : Nat) : Bool :=
  let r := level d l
  let w := opndWalk d no
  let k := (roleLevel d 3).isSome
  if w.opr.space = 3 then
    r.role ≠ (match no with | 0 => if k then 2 else 6 | 1 => if k then 1 else 6 | _ => if d.opcode = 3 then 6 else 3)
  else if d.opcode = 2 ∧ no = 0 then r.role ≠ 2 || isPool d
  else w.stride r ≠ 0

/-- The levels from the outermost to the innermost that moves an operand. -/
def keyLevels (d : Desc) (no : Nat) : List Nat := ((walkNest d).reverse.dropWhile fun l => !moves d no l).reverse

/-- The iteration with the levels inside those cleared: what names a landing. -/
def keyOf (d : Desc) (no : Nat) (it : List Nat) : List Nat :=
  (List.range 8).map fun l => if (keyLevels d no).contains l then it.getD l 0 else 0

/-- The landing after `key` in loop order, within one iteration of a TAKE level. -/
def nextKey (o : OpCtx) (no : Nat) (key : List Nat) : Option (List Nat) :=
  stepIt o (((keyLevels o.d no).filter fun l => !(level o.d l).take).reverse) key

/-- The valid lines and positions of an operand's tile. -/
def opndValid (o : OpCtx) (no : Nat) (it : List Nat) : Nat × Nat :=
  let w := opndWalk o.d no
  (validOf o it w.lineRole, validOf o it w.posRole)

/-- The iteration with its K index at the last tile: the one that ends an output tile (R173). -/
def lastKIt (o : OpCtx) (it : List Nat) : List Nat :=
  match roleLevel o.d 3 with
  | some l => it.set l (levelCount o l - 1)
  | none => it

/-! ## Scratch addresses that no operand record names (R174, R241) -/

/-- The relocated address of a scratch byte, if it lies in the operation's scratch window (R174). -/
def scratchAddr (e : Env) (it : List Nat) (a : Nat) : Got Nat :=
  let a' := ringReloc e a
  if e.o.d.swinBase ≤ a' ∧ a' < e.o.d.swinBase + e.o.d.swinLen then .ok a' else .fault 0x0202 (lDetail e it)

/-- The relocated addresses of `n` bytes. -/
def scratchPlan (e : Env) (it : List Nat) (a n : Nat) : Got (List (Option Nat)) :=
  gotAll (fun i => (scratchAddr e it (a + i)).bind fun b => .ok (some b)) (List.range n)

/-- `n` bytes of scratch read at a checked address. -/
def scratchRead (e : Env) (it : List Nat) (a n : Nat) : Got (List Byte) :=
  (scratchPlan e it a n).bind fun plan => .ok (planBytes e.x.scratch plan)

/-! ## The order of use of a window's tiles (R142; log entry 41) -/

/-- The descriptors of a stall's program in its order, by fuel (R237). -/
def progFrom (ds : List Desc) : Nat → Nat → List Desc
  | 0, _ => []
  | f + 1, i => match ds[i]? with | some d => d :: progFrom ds f d.next | none => []

/-- The descriptors of logical stall `q` in the order in which its program runs them. -/
def progDescs (s : State) (slot q : Nat) : List Desc :=
  let img := imgAt s slot
  let ds := descsIn img q
  match stallSec img q with
  | some x => progFrom ds ds.length (stallRec (secBytes img x)).entry
  | none => []

/-- d of a CHAIN, and its tiles (R152). -/
def chainD (o : OpCtx) : Nat := ((roleLevel o.d 3).map fun l => (level o.d l).bound).getD 0
def chainTiles (o : OpCtx) : Nat := (chainD o + 63) / 64

/-- The number of a CHAIN's output tile: its M, BATCH and OUTER indices, then the tile of d (log entry 18). -/
def chainTileNo (o : OpCtx) (it : List Nat) : Nat :=
  let ls := (nest o.d).filter fun l => (level o.d l).role ≠ 2 ∧ (level o.d l).role ≠ 3
  (ls.foldl (fun a l =>
    let n := if (level o.d l).role ≤ 3 then levelCount o l else (level o.d l).bound
    a * n + it.getD l 0) 0) * chainTiles o + roleIdx o it 2

/-- The numbers of an operation's output tiles in the order in which one stall that ran it all would send them: loop order (R181). The
row operations that give one tile a row group keep N at 0; a CHAIN has a tile for every 64 columns of d. -/
def outNumbers (o : OpCtx) : List Nat :=
  let rows := o.d.opcode = 0x11 || o.d.opcode = 0x20
  let ls := (nest o.d).filter fun l => (level o.d l).role ≠ 3 && !(o.d.opcode = 3 && (level o.d l).role = 2)
  let ns := ls.foldl (fun acc l =>
    let r := level o.d l
    let n := if r.role ≤ 3 then levelCount o l else r.bound
    let c := if rows && r.role = 2 then 1 else levelCount o l
    acc.flatMap fun a => (List.range c).map fun i => a * n + i) [0]
  if o.d.opcode = 3 then ns.flatMap fun a => (List.range (chainTiles o)).map fun i => a * chainTiles o + i else ns

/-- What feeds a window: the stalls that may send a tile, and the numbers of the tiles in the order they send them. Stalls that divide an
operation by one work counter feed together (R177). -/
structure Feed where
  ctr : Option (Bool × Nat × Nat)
  srcs : List Nat
  tiles : List Nat

/-- The work counter of a descriptor's TAKE level. -/
def feedCtr (d : Desc) (q : Nat) : Option (Bool × Nat × Nat) :=
  (takeLevel d).map fun l => let r := level d l; (r.hubctr, if r.hubctr then 0 else q / 30, r.ctr)

/-- The routes of the package that fill window `w` of stall `n`, with their indices (R313). -/
def routesInto (s : State) (slot n w : Nat) : List (RouteRec × Nat) :=
  (routesOf (imgAt s slot)).zipIdx.filter fun r => !r.1.group && r.1.window = w && r.1.dsts.contains n

/-- A feed joined to those before it: with the feed of its work counter, else after them. -/
def addFeed (fs : List Feed) (f : Feed) : List Feed :=
  if f.ctr.isSome && fs.any (fun g => g.ctr = f.ctr) then
    fs.map fun g => if g.ctr = f.ctr then { g with srcs := g.srcs ++ f.srcs } else g
  else fs ++ [f]

/-- The feeds of a window, in route order (R142). -/
def feedsOf (s : State) (slot n w size : Nat) : List Feed :=
  (routesInto s slot n w).foldl (fun fs r =>
    let ds := (progDescs s slot r.1.src).filter fun d => d.c.space = 4 && d.c.id = r.2
    addFeed fs { ctr := ds.head?.bind (feedCtr · r.1.src), srcs := [r.1.src],
                 tiles := ds.flatMap fun d => outNumbers { d := d, dynBound := size } }) []

/-- The order of use of a window's tiles in a round: tile by tile, and for each place the feeds in route order. DESIGN CHOICE for a window
that several stalls fill (log entry 41). -/
def winPlan (s : State) (e : Env) (w : Nat) : List (Nat × List Nat) :=
  let fs := feedsOf s e.slot e.n w e.o.dynBound
  (List.range ((fs.map fun f => f.tiles.length).foldl max 0)).flatMap fun j =>
    fs.filterMap fun f => (f.tiles[j]?).map fun t => (t, f.srcs)

/-! ## Receive windows (R141, R142, R315) -/

/-- The format of the tiles in the pair window of a GATE: the FMT of the first stall's PAIR_SEND (R145). -/
def pairFormat (s : State) (e : Env) (q : Nat) : Nat :=
  let ds := descsOf s e.slot q
  match matchDesc (descsOf s e.slot e.n) ds e.o.desc (namesPartner 8 q) (namesPartner 9 e.n) with
  | some i => ((epiStage (ds.getD i {}) 9).map (·.fmt)).getD 0
  | none => 0

/-- Where a window's entries lie: base and entry size. -/
def winPlace (s : State) (e : Env) (w : Nat) : Nat × Nat :=
  if w < 64 then ((windowOf (imgAt s e.slot) e.n w).map fun r => (r.base, r.size)).getD (0, 0)
  else if w < 8192 then (e.o.d.cwinBase, 20480)
  else
    match epiStage e.o.d 8 with
    | some r => (r.vaddr, entryBytes (pairFormat s e (partnerOf r)))
    | none => (0, 0)

/-- The place in the order of use of the tile `ahead` tiles after the next. -/
def winWant (s : State) (e : Env) (w ahead : Nat) : Option (Nat × List Nat) :=
  let plan := winPlan s e w
  plan[(tget 0 e.x.winPos w + ahead) % max 1 plan.length]?

/-- The oldest tile of a window with a number and a sender. -/
def winFind (x : Stall) (w t : Nat) (src : Nat → Bool) : Option WinEntry :=
  (tget [] x.wins w).find? fun f => f.tile = t && src f.src

/-- An operation in progress has still to use tiles of receive window `w`. -/
def usesWindow (x : Stall) (o : OpCtx) (w : Nat) : Bool :=
  let d := o.d
  let names := fun (r : OpRec) => r.space = 3 && r.id = w
  if d.opcode = 0x34 then o.walking && collectWup d = w || o.down.isSome && collectWdn d = w
  else o.walking && (names d.a || names d.b || names d.x) ||
    names d.x && (!o.readouts.isEmpty || x.slots.any fun e => e.2.st != .free && e.2.desc = o.desc)

/-- Operations use a receive window's tiles one after the other, the oldest first (R142). -/
def windowTurn (e : Env) (w : Nat) : Bool :=
  64 ≤ w ||
  ((opsOf e.x).takeWhile fun o => o.desc ≠ e.o.desc || o.inst ≠ e.o.inst).all fun o => !usesWindow e.x o w

/-- The tile of a window that an operation uses `ahead` tiles from now, once it is complete (R141, R142): of a window that gates fill, in
order of arrival, which is the order its user expects (R342); of a window filled within the package, the one that the order of use
names; of a chain or pair window, that of output tile `t`. -/
def winTile (s : State) (e : Env) (w t ahead : Nat) : Option WinEntry :=
  let f := if 64 ≤ w then winFind e.x w t fun _ => true
    else if (routesInto s e.slot e.n w).isEmpty then (tget [] e.x.wins w)[ahead]?
    else (winWant s e w ahead).bind fun q => winFind e.x w q.1 fun n => q.2.contains n
  f.filter fun f => f.left = 0 && windowTurn e w

/-- The credit of a freed entry returns to its sender (R315, R337). -/
def returnCredit (n w : Nat) (e : WinEntry) (s : State) : State :=
  match e.grp with
  | some (g, m) => sendCredit g m n w 1 s
  | none => injectStall 1 n e.src (.credit e.src e.key e.dst) s

/-- The entry that an operation has used is freed, and the place in the order of use moves on. -/
def winFree (n p k w t : Nat) (s : State) : State :=
  let e := envAt s n p k
  match winTile s e w t 0 with
  | none => s
  | some f =>
    let pos := (tget 0 e.x.winPos w + 1) % max 1 (winPlan s e w).length
    returnCredit n w f (modStallP p (fun x =>
      { x with wins := tset x.wins w ((tget [] x.wins w).erase f), winPos := if 64 ≤ w then x.winPos else tset x.winPos w pos }) s)

/-- The bytes of a window's tile. Those of a pair window lie at an address of the descriptor, which is checked (R174). -/
def winBytes (s : State) (e : Env) (it : List Nat) (w t ahead len : Nat) : Got (List Byte) :=
  match winTile s e w t ahead with
  | none => .wait
  | some f =>
    let (b, z) := winPlace s e w
    if 8192 ≤ w then scratchRead e it (b + f.entry * z) len
    else .ok (memRead e.x.scratch (b + f.entry * z) len)

/-- The tiles of a row group that a first pass has left in its window before the one of an iteration (R126, R129). -/
def passAhead (o : OpCtx) (it : List Nat) : Nat :=
  if twoPass o.d && it.getD 6 0 = 0 then
    (((walkNest o.d).dropWhile (· ≠ 6)).drop 1).foldl (fun a l => a * levelCount o l + it.getD l 0) 0
  else 0

/-! ## The window fetch of CONV (R183 to R191) -/

/-- CONV's parameters (R186): per axis x, y, t the kernel, upsampling, stride, dilation, offset and edge bits. -/
structure ConvAxis where
  ext : Nat
  kern : Nat
  up : Bool
  stride : Nat
  dil : Nat
  off : Int

/-- PMODE, PCONST and GSIZE (R186). -/
def convPmode (d : Desc) : Nat := bits (byteAt d.oparam 1) 4 3
def convPconst (d : Desc) : W32 := BitVec.ofNat 32 (leAt d.oparam 8 4)
def convGsize (d : Desc) : Nat := leAt d.oparam 14 2

/-- Axis 0 x, 1 y, 2 t of a CONV (R185, R186). -/
def convAxis (d : Desc) (ax : Nat) : ConvAxis :=
  let b0 := byteAt d.oparam 0
  let b1 := byteAt d.oparam 1
  let f := leAt d.oparam 2 3
  { ext := bits d.a.geom (16 * ax + 15) (16 * ax),
    kern := match ax with | 0 => b0 % 16 | 1 => b0 / 16 | _ => b1 % 8,
    up := b1.testBit (5 + ax), stride := bits f (3 * ax + 2) (3 * ax) + 1, dil := bits f (3 * ax + 11) (3 * ax + 9) + 1,
    off := signed 8 (byteAt d.oparam (5 + ax)) }

/-- Kernel taps of a channel. -/
def convTaps (d : Desc) : Nat := (convAxis d 0).kern * (convAxis d 1).kern * (convAxis d 2).kern

/-- The source index at output index `o` and tap `j`; none for a padding value (R187, R188). -/
def convSource (pmode : Nat) (a : ConvAxis) (o j : Nat) : Option Nat :=
  let e' : Int := if a.up then 2 * a.ext else a.ext
  let pv : Int := o * a.stride - a.off + a.dil * j
  let pv' : Option Int :=
    if 0 ≤ pv ∧ pv < e' then some pv
    else if pmode = 2 then some (if pv < 0 then -pv else 2 * (e' - 1) - pv)
    else if pmode = 3 then some (if pv < 0 then 0 else e' - 1)
    else none
  pv'.map fun v => if a.up then v.toNat / 2 else v.toNat

/-- The output indices x, y, t of line `line` (R184). -/
def convOut (o : OpCtx) (it : List Nat) (line : Nat) : Nat × Nat × Nat :=
  let outer := (nest o.d).filter fun l => (level o.d l).role = 5
  let x := 64 * roleIdx o it 1 + line
  match outer with
  | [y] => (x, it.getD y 0, 0)
  | t :: y :: _ => (x, it.getD y 0, it.getD t 0)
  | [] => (x, 0, 0)

/-- The element offset of channel `c`, tap `tap` at a line; none for a padding value (R183, R184, R187). -/
def convOffset (o : OpCtx) (it : List Nat) (line c tap : Nat) : Option Int :=
  let d := o.d
  let ax := convAxis d
  let kw := (ax 0).kern
  let kh := (ax 1).kern
  let (ox, oy, ot) := convOut o it line
  let src := convSource (convPmode d)
  match src (ax 2) ot (tap / (kw * kh)), src (ax 1) oy (tap / kw % kh), src (ax 0) ox (tap % kw) with
  | some t, some y, some x =>
    let batch := ((List.range 6).map fun l =>
      let r := level d l
      if r.role = 4 then (it.getD l 0 : Int) * r.sa else 0).foldl (· + ·) 0
    some (((c * d.a.srow + (t * (ax 1).ext + y) * (ax 0).ext + x : Nat) : Int) + batch)
  | _, _, _ => none

/-- The channel and tap of position `pos` of an A tile: K runs over channels and taps (R184), but in a pool over the taps of the channel
that the iteration names (R193). -/
def convChan (o : OpCtx) (it : List Nat) (pos : Nat) : Nat × Nat :=
  let k := 64 * roleIdx o it 3 + pos
  if isPool o.d then (64 * roleIdx o it 2 + it.getD 7 0, k) else (k / convTaps o.d, k % convTaps o.d)

/-- The offset of the element at (line, position) of an A tile. -/
def convElem (o : OpCtx) (it : List Nat) (line pos : Nat) : Option Int :=
  let (c, t) := convChan o it pos
  convOffset o it line c t

/-- The value of a padding position (R188, R189). -/
def padVal (d : Desc) : Val := if convPmode d = 1 then val32 (convPconst d) else Val.zero

/-- The padding value converted once to AFMT (R189). -/
def padCvt (d : Desc) : Cvt := convert d.afmt 0 false 0 (padVal d)

/-- The padding places of an A tile: cells 64 × line + position. -/
def padCells (o : OpCtx) (it : List Nat) : List Nat :=
  let (lines, poss) := opndValid o 0 it
  (List.range 4096).filter fun c => c / 64 < lines && c % 64 < poss && (convElem o it (c / 64) (c % 64)).isNone

/-- SATURATED events of a tile's inserted padding values where no prologue converts them (R67, R189). -/
def padSatur (o : OpCtx) (it : List Nat) : Nat :=
  if o.d.opcode = 2 && (stageList o.d.pro).isEmpty && (padCvt o.d).sat then (padCells o it).length else 0

/-- A window tile before its elements arrive: its padding values in AFMT, everything else 0 (R189, R191). -/
def padTile (o : OpCtx) (it : List Nat) : List Byte :=
  let w := fmtBits o.d.afmt / 8
  let pads := padCells o it
  (List.range 4096).flatMap fun c => leBytes w (if pads.contains c then (padCvt o.d).bits else 0)

/-- The addresses of a window tile's bytes, padding and masked elements none (R191). -/
def convPlan (s : State) (e : Env) (it : List Nat) (lines poss : Nat) : Got (List (Option Nat)) :=
  let f := e.o.d.a.sfmt
  let w := fmtBits f / 8
  let n := lineBytes f
  gotAll (fun i =>
    let line := i / n
    let pos := i % n / w
    if lines ≤ line ∨ poss ≤ pos then .ok none
    else
      match convElem e.o it line pos with
      | none => .ok none
      | some off => (checkAddr s e e.o.d.a it false (e.o.d.a.base + off * w + (i % w : Nat))).bind fun a => .ok (some a))
    (List.range (64 * n))

/-! ## The aux operand of a NORM (R126; log entry 20) -/

/-- The columns of a row. -/
def rowCols (o : OpCtx) : Nat := ((roleLevel o.d 2).map fun l => (level o.d l).bound).getD 1

/-- An iteration with its N index replaced. -/
def setN (d : Desc) (it : List Nat) (j : Nat) : List Nat :=
  match roleLevel d 2 with
  | some l => it.set l j
  | none => it

/-- The addresses of γ and then of β for the 64 columns of a tile of a NORM: γ at a column's place in the aux tensor, β as many columns
further on as a row has (log entry 20). -/
def normPlan (s : State) (e : Env) (it : List Nat) : Got (List (Option Nat)) :=
  let x := e.o.d.x
  let w := fmtBits x.sfmt / 8
  let base := elemOffset e.o.d (walkX e.o.d) (setN e.o.d it 0) 0 0
  let sx := (level e.o.d ((roleLevel e.o.d 2).getD 0)).sx
  let cols := rowCols e.o
  gotAll (fun i =>
    let c := 64 * roleIdx e.o it 2 + i / w % 64
    if cols ≤ c then .ok none
    else
      let a : Int := x.base + (base + (c + (if i / w < 64 then 0 else cols) : Nat) * sx) * w + (i % w : Nat)
      (checkAddr s e x it false a).bind fun b => .ok (some b)) (List.range (128 * w))

/-- The addresses of the bytes of an operand's tile. -/
def opndPlan (s : State) (e : Env) (no : Nat) (it : List Nat) : Got (List (Option Nat)) :=
  let (lines, poss) := opndValid e.o no it
  if e.o.d.opcode = 2 ∧ no = 0 then convPlan s e it lines poss
  else if e.o.d.opcode = 0x13 ∧ no = 3 then normPlan s e it
  else tilePlan s e (opndWalk e.o.d no) it false lines poss

/-! ## Rows that NORM_APPLY waits for (R147, R150, R190) -/

/-- LBASE and LSPAN of a LEDGER or NORM_APPLY stage (R136). -/
def lbaseOf (r : StageRec) : Nat := r.xaddr % 1024
def lspanOf (r : StageRec) : Nat := bits r.xaddr 20 10

/-- The ledger entry of row `r` (R147). -/
def ledgerSlot (r : StageRec) (row : Nat) : Nat := lbaseOf r + row % max 1 (lspanOf r)

/-- The NORM_APPLY stage of a descriptor. -/
def normStage (d : Desc) : Option StageRec := (stageList d.pro).find? fun r => r.kind = 0xB

/-- The ledger row of the element at (line, position) of an A tile: its logical row, or its channel group in a CONV. -/
def normRow (o : OpCtx) (it : List Nat) (line pos : Nat) : Nat :=
  if o.d.opcode = 2 then (convChan o it pos).1 / max 1 (convGsize o.d)
  else 64 * roleIdx o it 1 + line

/-- The ledger rows that an A tile needs. -/
def normRows (o : OpCtx) (it : List Nat) : List Nat :=
  let (lines, poss) := opndValid o 0 it
  (if o.d.opcode = 2 then (List.range poss).map fun k => normRow o it 0 k
   else (List.range lines).map fun l => normRow o it l 0).eraseDups

/-- The entry of a row is COMPLETE with ROW = r (R150). -/
def rowReady (x : Stall) (r : StageRec) (row : Nat) : Bool :=
  let l := tget {} x.ledger (ledgerSlot r row)
  l.st = 2 && l.row = row

/-- A tile of iteration `it` must be parked: NORM_APPLY needs a row that is not complete (R150). -/
def mustPark (e : Env) (it : List Nat) : Bool :=
  match normStage e.o.d with
  | some r => !((normRows e.o it).all (rowReady e.x r))
  | none => false

/-! ## Landings (R172, R173, R174) -/

/-- The next iteration to fetch for an operand. -/
def fetchOf (o : OpCtx) : Nat → Option (List Nat)
  | 0 => o.fetchA
  | 1 => o.fetchB
  | _ => o.fetchX

/-- That iteration replaced. -/
def setFetch (no : Nat) (v : Option (List Nat)) (o : OpCtx) : OpCtx :=
  match no with
  | 0 => { o with fetchA := v }
  | 1 => { o with fetchB := v }
  | _ => { o with fetchX := v }

/-- Landings of an operand. -/
def landsOf (o : OpCtx) (no : Nat) : List Landing := o.lands.filter fun l => l.opnd = no

/-- READs that a stall has outstanding; 64 at most (FAB_CLASS_0.OUTSTANDING; log entry 8). Places 6 and 7 are no reads. -/
def readsOut (x : Stall) : Nat :=
  ((opsOf x).flatMap (·.lands)).countP fun l => l.opnd < 6 && (l.st = .reserved || l.st = .dropped)

/-- The fetch unit holds a landing's bytes outside its entry: elements of a window tile that its prologue is to build (R191), the γ and β of
a NORM, and the edge rows of a HALO (log entry 39). -/
def heldRaw (d : Desc) (no : Nat) : Bool :=
  4 ≤ no || d.opcode = 0x13 && no = 3 || d.opcode = 2 && no = 0 && !(stageList d.pro).isEmpty

/-- The format that sizes a landing entry: that of the operand as it is stored, but AFMT for the window fetch of CONV (R172, R191). -/
def landFmt (d : Desc) (no : Nat) : Nat := if d.opcode = 2 ∧ no = 0 then d.afmt else (opndWalk d no).opr.sfmt

/-- The scratch offset of a landing entry (R172), and of its staged result. -/
def landAt (d : Desc) (no entry : Nat) : Nat := (opndWalk d no).opr.landing + entry * entryBytes (landFmt d no)
def stageAt (d : Desc) (entry : Nat) : Nat := landAt d 0 d.a.id + entry * entryBytes d.afmt

/-- Every landing entry of A is held by a tile that must stay parked (R174). -/
def allParked (e : Env) (busy : List Landing) : Bool := busy.all fun l => l.st == .full && mustPark e l.it

/-- A landing begins: its entry holds zeros and padding values until its bytes arrive (R191). -/
def beginLand (p k no : Nat) (key : List Nat) (entry left : Nat) (s : State) : State :=
  let o := (envAt s 0 p k).o
  let tile := if heldRaw o.d no then [] else if o.d.opcode = 2 ∧ no = 0 then padTile o key else zeros (tileBytes (landFmt o.d no))
  let land : Landing := { opnd := no, it := key, entry := entry, st := if left = 0 then .full else .reserved, left := left }
  putOp p k (fun o => { setFetch no (nextKey o no key) o with
      lands := o.lands ++ [land], satur := o.satur + (if no = 0 then padSatur o key else 0) })
    (modStallP p (fun x => { x with scratch := memWrite x.scratch (landAt o.d no entry) tile }) s)

/-- The positions of a plan with their addresses. -/
def planSpots (plan : List (Option Nat)) : List (Nat × Nat) := plan.zipIdx.filterMap fun q => q.1.map fun a => (q.2, a)

/-- A fetch for an operand: the next landing in loop order into a free entry; none where there is nothing to fetch or no room.
With every entry held by a parked tile it is SCRATCH_OVERFLOW (R174). -/
def fetchOne (n p k no : Nat) (s : State) : Option State :=
  let e := envAt s n p k
  let r := (opndWalk e.o.d no).opr
  if r.space ≠ 2 ∨ 64 ≤ readsOut e.x then none
  else
    match fetchOf e.o no with
    | none => none
    | some key =>
      let busy := landsOf e.o no
      match (List.range r.id).find? fun i => busy.all fun l => l.entry ≠ i with
      | none =>
        if no = 0 && allParked e busy then
          some (stallFault p 0x0202 (detL e.o.desc key) (putOp p k (setFetch no none) s))
        else none
      | some ent =>
        match opndPlan s e no key with
        | .wait => none
        | .fault c d => some (stallFault p c d (putOp p k (setFetch no none) s))
        | .ok plan =>
          let spots := planSpots plan
          some (sendRead n p e.o.desc e.o.inst no ent key spots (beginLand p k no key ent spots.length s))

/-- Fetches for an operand while there is room, by fuel. -/
def fetchFuel : Nat → Nat → Nat → Nat → Nat → State → State
  | 0, _, _, _, _, s => s
  | f + 1, n, p, k, no, s =>
    match fetchOne n p k no s with
    | some s' => fetchFuel f n p k no s'
    | none => s

/-- The loop engine fetches ahead for operation `k` (R173), while its stall runs. -/
def fetchPump (n p k : Nat) (s : State) : State :=
  if stallRuns s p then
    [0, 1, 3].foldl (fun s no => fetchFuel ((opndWalk (envAt s n p k).o.d no).opr.id + 1) n p k no s) s
  else s

/-- Every operation of a stall fetches ahead. -/
def fetchAll (n p : Nat) (s : State) : State :=
  (List.range (opsOf (stallP s p)).length).foldl (fun s k => fetchPump n p k s) s

/-! ## Taking iterations (R177) -/

/-- The next iteration of a TAKE level is asked for, unless the job is being pre-empted (R175). -/
def takePump (n p k : Nat) (s : State) : State :=
  let e := envAt s n p k
  match takeLevel e.o.d with
  | some l =>
    if e.o.takeWait && !e.o.takeSent && e.o.down.isNone && stallRuns s p && s.ctx.st == .run then
      let r := level e.o.d l
      inject 0 n (if r.hubctr then hubUnit else ctrUnit (n / 30))
        (.take n e.o.desc e.o.inst r.hubctr r.ctr (levelCount e.o l)) (putOp p k (fun o => { o with takeSent := true }) s)
    else s
  | none => s

/-- The fetches of an operation begin at its iteration; a HALO reads its rows itself. -/
def beginFetch (o : OpCtx) : OpCtx :=
  if o.walking && !o.takeWait && o.d.opcode ≠ 0x33 then
    { o with fetchA := some (keyOf o.d 0 o.it), fetchB := some (keyOf o.d 1 o.it), fetchX := some (keyOf o.d 3 o.it) }
  else o

/-- The downward tiles of a COLLECT begin: those of a reducing kind, on every member but the last (R340). -/
def beginDown (s : State) (o : OpCtx) : OpCtx :=
  let w := groupAt s (collectGroup o.d)
  if o.d.opcode = 0x34 && byteAt o.d.oparam 0 % 16 ≤ 1 && grpSelf w + 1 < grpNmem w && o.walking && !o.takeWait then
    { o with down := some o.it }
  else o

/-- An operation that has just started begins to fetch or to take (R161, R173, R177). -/
def beginOp (n p k : Nat) (s : State) : State := fetchPump n p k (takePump n p k (putOp p k (fun o => beginDown s (beginFetch o)) s))

/-! ## Consumer rows (R151) -/

/-- An entry becomes FREE, and the credit of the partial it accepted returns to its sender (R149, R315). -/
def ledgerFree (n p i : Nat) (s : State) : State :=
  let l := tget {} (stallP s p).ledger i
  let s := modStallP p (fun x => { x with ledger := tdel x.ledger i }) s
  match l.from_ with
  | some (q, _) => injectStall 1 n q (.credit q (ledgerKey n i) 0) s
  | none => s

/-- A level keeps apart rows of one number: BATCH or OUTER, where it moves A's elements (R151; log entry 42). -/
def splitsRows (d : Desc) (l : Nat) : Bool :=
  let r := level d l
  (r.role = 4 || r.role = 5 && d.opcode ≠ 2) && (d.a.space = 3 || r.sa ≠ 0)

/-- The role whose index selects a row: M; in a CONV K, and in a pool N, whose channels make the groups (R190). -/
def rowRole (d : Desc) : Nat := if isPool d then 2 else if d.opcode = 2 then 3 else 1

/-- The last channel of a row group lies in a tile: every row of M ends with its tile; a channel group ends with its last tap (R151, R190). -/
def groupEnds (o : OpCtx) (it : List Nat) (g : Nat) : Bool :=
  let d := o.d
  if d.opcode ≠ 2 then true
  else
    let chans := if isPool d then rowCols o else ((roleLevel d 3).map fun l => (level d l).bound).getD 0 / max 1 (convTaps d)
    let last := min chans ((g + 1) * max 1 (convGsize d)) - 1
    let (_, poss) := opndValid o 0 it
    (List.range poss).any fun k => convChan o it k = (last, convTaps d - 1)

/-- The rows whose last landed tile is that of an iteration (R151): every other level that does not keep rows apart is at its last. A TAKE
level that does not keep them apart leaves its rows to its end. -/
def rowsDone (o : OpCtx) (it : List Nat) : List Nat :=
  let last := (keyLevels o.d 0).all fun l =>
    splitsRows o.d l || (level o.d l).role = rowRole o.d || o.d.opcode = 2 && (l = 7 || (level o.d l).role = 3) ||
    !(level o.d l).take && it.getD l 0 + 1 = levelCount o l
  if last then (normRows o it).filter (groupEnds o it) else []

/-- The rows of an operand over a whole TAKE level (R151). -/
def takeRows (o : OpCtx) : List Nat :=
  if o.d.opcode = 2 then
    let chans := if isPool o.d then rowCols o else ((roleLevel o.d 3).map fun l => (level o.d l).bound).getD 0 / max 1 (convTaps o.d)
    List.range ((chans + max 1 (convGsize o.d) - 1) / max 1 (convGsize o.d))
  else List.range (((roleLevel o.d 1).map fun l => (level o.d l).bound).getD 0)

/-- The ledger entries of rows that are done become FREE (R151). -/
def freeNormRows (n p k : Nat) (rows : List Nat) (s : State) : State :=
  match normStage (envAt s n p k).o.d with
  | some r => rows.foldl (fun s row => if rowReady (stallP s p) r row then ledgerFree n p (ledgerSlot r row) s else s) s
  | none => s

/-- A TAKE level has ended: the rows that its iterations shared are done (R151). -/
def takeEnds (n p k : Nat) (s : State) : State :=
  let o := (envAt s n p k).o
  let s := putOp p k (fun o => { o with walking := false, takeWait := false, takeSent := false }) s
  match takeLevel o.d with
  | some l => if splitsRows o.d l || (level o.d l).role = rowRole o.d then s else freeNormRows n p k (takeRows o) s
  | none => s

/-- The value taken is the iteration that the stall runs next, or the level's end (R177). -/
def taken (n p k v : Nat) (s : State) : State :=
  let e := envAt s n p k
  match takeLevel e.o.d with
  | none => s
  | some l =>
    if v < levelCount e.o l then
      let s := modStallP p (fun x => { x with takeV := v }) s
      fetchPump n p k (putOp p k (fun o =>
        beginDown s (beginFetch { o with it := firstIt.set l v, takeWait := false, takeSent := false })) s)
    else takeEnds n p k s

/-! ## Moving on -/

/-- A landing is let go; one whose bytes are still to arrive keeps its entry until they have. -/
def letGo (no : Nat) (key : List Nat) (o : OpCtx) : OpCtx :=
  { o with lands := (o.lands.filter fun l => !(l.opnd = no && l.it = key && l.st != .reserved)).map fun l =>
      if l.opnd = no ∧ l.it = key then { l with st := .dropped } else l }

/-- An operand's tile is let go once the next iteration uses another (R143, R173, R317). The first pass over a row leaves a window's
tiles to the second. -/
def releaseOpnd (n p k no : Nat) (it : List Nat) (next : Option (List Nat)) (s : State) : State :=
  let e := envAt s n p k
  let d := e.o.d
  let r := (opndWalk d no).opr
  let key := keyOf d no it
  if next.map (keyOf d no) = some key then s
  else
    let s := putOp p k (fun o =>
      { letGo no key o with
        staged := if no = 0 then none else o.staged
        satur := o.satur + (if no = 0 ∧ r.space = 1 then padSatur o it else 0) }) s
    if r.space = 3 && !(twoPass d && it.getD 6 0 = 0) then winFree n p k r.id 0 s else s

/-- Operation `k` moves on to the iteration `next`, or ends its loop; a TAKE level is asked for its next iteration. -/
def advanceTo (n p k : Nat) (opnds : List Nat) (next : Option (List Nat)) (s : State) : State :=
  let o := (envAt s n p k).o
  let s := opnds.foldl (fun s no => releaseOpnd n p k no o.it next s) s
  let s := putOp p k (fun o =>
    match next with
    | some it => { o with it := it }
    | none => if (takeLevel o.d).isSome then { o with takeWait := true } else { o with walking := false }) s
  fetchPump n p k (takePump n p k s)

/-! ## Operand tiles -/

/-- The full landing of an operand's tile at an iteration. -/
def fullLand (e : Env) (no : Nat) (it : List Nat) : Option Landing :=
  (landsOf e.o no).find? fun l => l.it = keyOf e.o.d no it && l.st == .full

/-- The bytes of an operand's tile at an iteration, once they are there: in place in scratch, in a full landing, or in its window (R141,
R142, R173). A tile built by the window fetch is whole with its padding values where no prologue inserts them (R189, R191). -/
def opndBytes (s : State) (e : Env) (no : Nat) (it : List Nat) : Got (List Byte) :=
  let d := e.o.d
  let r := (opndWalk d no).opr
  match r.space with
  | 1 => (opndPlan s e no it).bind fun plan =>
      let bs := planBytes e.x.scratch plan
      if d.opcode = 2 ∧ no = 0 ∧ (stageList d.pro).isEmpty then
        .ok ((bs.zip (padTile e.o it)).map fun b => b.1 ||| b.2)
      else .ok bs
  | 2 =>
    match fullLand e no it with
    | some l =>
      if heldRaw d no then .ok (memRead l.raw 0 (if no = 3 then 16 * fmtBits r.sfmt else tileBytes r.sfmt))
      else .ok (memRead e.x.scratch (landAt d no l.entry) (tileBytes r.sfmt))
    | none => .wait
  | 3 => winBytes s e it r.id 0 (passAhead e.o it) (tileBytes r.sfmt)
  | _ => .ok []

/-- An operand's tile in values. -/
def opndVals (s : State) (e : Env) (no : Nat) (it : List Nat) : Got (List (List Val)) :=
  (opndBytes s e no it).bind fun bs => .ok (tileVals (opndWalk e.o.d no).opr.sfmt bs)

/-- The value at (line, position) of a tile. -/
def atV (t : List (List Val)) (line pos : Nat) : Val := (t.getD line []).getD pos Val.zero

/-- Values read into the lanes (R106). DESIGN CHOICE: a value that FP32 cannot hold, an MX element times its scale or an INT32 of more than 24
bits, is rounded to nearest even, or is infinite, with no event (log entry 54). -/
def lanes (t : List (List Val)) : List (List W32) := t.map fun r => r.map round32

/-- Lane values read exactly. -/
def exact (t : List (List W32)) : List (List Val) := t.map fun r => r.map val32

/-! ## Writing an output tile (R161, R181, R313, R338) -/

/-- The cells that a plan gives a tile's bytes. -/
def planCells (plan : List (Option Nat)) (bs : List Byte) : List (Nat × Byte) :=
  (plan.zip bs).filterMap fun p => p.1.map fun a => (a, p.2)

/-- Positions written: whole blocks of 32 for an MX format (R133). -/
def writtenPoss (f poss : Nat) : Nat := if isMx f then (poss + 31) / 32 * 32 else poss

/-- A fill map entry's answer to a write of instance `n`: the first write of a newer instance, a replay, or an older one
(R181). -/
inductive FillCase where
  | fresh | replay | older
  deriving DecidableEq, Repr

/-- The case of a fill map entry (R181). -/
def fillCase (ent inst : Nat) : FillCase :=
  let tag := ent % 2 ^ 32
  let d := (inst + 2 ^ 32 - tag) % 2 ^ 32
  if !ent.testBit 32 ∨ 1 ≤ d ∧ d < 2 ^ 31 then .fresh else if d = 0 then .replay else .older

/-- A fill map entry as the device writes it (R181). -/
def fillEntry (inst : Nat) : List Byte := leBytes 8 (inst % 2 ^ 32 + 2 ^ 32)

/-- A tile written to the stall's scratch under the write-once rule (R181). -/
def writeScratch (p fill : Nat) (e : Env) (it : List Nat) (cells : List (Nat × Byte)) (s : State) : Got State :=
  let m := e.x.scratch
  if fill < e.o.d.swinBase ∨ e.o.d.swinBase + e.o.d.swinLen < fill + 8 then .fault 0x0202 (lDetail e it)
  else
    match fillCase (leNat (memRead m fill 8)) e.o.inst with
    | .fresh => .ok (modStallP p (fun x => { x with scratch := memWrite (memCells m cells) fill (fillEntry e.o.inst) }) s)
    | .replay => if cells.all fun c => memGet m c.1 = c.2 then .ok s else .fault 0x0204 (lDetail e it)
    | .older => .fault 0x0204 (lDetail e it)

/-- One more write outstanding, of the 64 that a stall may have (R161, R318). -/
def writesOut (x : Stall) : Nat := ((opsOf x).map (·.out)).sum
def addOut (p k c : Nat) (s : State) : State := putOp p k (fun o => { o with out := o.out + c }) s

/-- A tile sent to the loft as a WRITE (R181, R288). -/
def writeLoft (p k fill : Nat) (e : Env) (it : List Nat) (cells : List (Nat × Byte)) (s : State) : Got State :=
  if !(inJob s fill && inJob s (fill + 7)) then .fault 0x0404 (detA fill 1)
  else if 64 ≤ writesOut e.x then .wait
  else .ok (sendWrite e.n p e.o.desc e.o.inst cells (some { addr := fill, inst := e.o.inst, it := it }) (addOut p k 1 s))

/-- The route record that an output operand names (R169, R313). -/
def routeOf (s : State) (e : Env) : Option RouteRec := (routesOf (imgAt s e.slot))[e.o.d.c.id]?

/-- A tile sent to the destinations of a fabric route, with a credit for every one (R315). -/
def sendFabric (p k t : Nat) (e : Env) (r : RouteRec) (bs : List Byte) (s : State) : Got State :=
  let key := routeKey e.o.d.c.id
  let n := r.dsts.length
  if 64 < writesOut e.x + n ∨ !((List.range n).all fun i => inUse e.x key i < r.credits) then .wait
  else
    .ok (r.dsts.zipIdx.foldl (fun s q =>
      sendData e.n q.1 r.window key q.2 t bs (some (e.n, e.o.desc, e.o.inst)) (modStallP p (takeCredits key q.2) s)) (addOut p k n s))

/-- The packets of a tile sent through the gates to a member (R329, R338). -/
def gateTile (grp member n w entry t : Nat) (bs : List Byte) (ack : Option (Nat × Nat × Nat)) (s : State) : State :=
  let parts := chunks 480 bs
  parts.zipIdx.foldl (fun s c =>
    gateQueue { memberPkt s grp member 1 with
      stall := n, window := w, entry := entry, offset := 30 * c.2, tile := t % 2 ^ 16, payload := c.1 }
      (if c.2 + 1 = parts.length then ack else none) false s) s

/-- The hub's outbound buffer of the gate that the way to a member leaves on has room for a transfer (R318). The spec gives no size of it
(log entry 1); an empty buffer has room. -/
def gateBuffer (s : State) (grp member bytes : Nat) : Bool :=
  let p := memberPkt s grp member 1
  let out := (gateAt s (routeSeg p.routeLo p.routeHi 0).1).out
  routeNseg p.routeHi = 0 || out.isEmpty || (out.map fun q => q.1.payload.length).sum + bytes ≤ Config.gateBuffer

/-- A tile sent on window `w` of this stall to a member, with a window credit (R337). -/
def sendMember (p k t grp member w cap : Nat) (e : Env) (bs : List Byte) (s : State) : Got State :=
  let key := 64 * e.n + w
  if tget 0 s.gate.sendCred key = 0 ∨ 64 ≤ writesOut e.x ∨ routesHeld s e.n ∨ !gateBuffer s grp member bs.length then .wait
  else
    let c := tget 0 s.gate.sendSeq key
    let s := { s with gate.sendCred := tmod 0 s.gate.sendCred key (· - 1),
                      gate.sendSeq := tset s.gate.sendSeq key (c + 1),
                      fab.packets := tmod 0 s.fab.packets 5 fun x => (x + pktCount bs.length) % 2 ^ 32 }
    .ok (gateTile grp member e.n w (c % max 1 cap) t bs (some (e.n, e.o.desc, e.o.inst)) (addOut p k 1 s))

/-- A tile sent on the route of the output operand (R313, R317, R338). -/
def sendRoute (p k t : Nat) (e : Env) (bs : List Byte) (s : State) : Got State :=
  match routeOf s e with
  | none => .wait
  | some r =>
    if routesHeld s e.n then .wait
    else if r.group then
      let g := r.dsts.headD 0
      let w := groupAt s g
      sendMember p k t g ((grpSelf w + grpPeer w) % max 1 (grpNmem w)) r.window r.credits e bs s
    else sendFabric p k t e r bs s

/-- Output tile bytes written to C at an iteration (R161, R181). -/
def writeTile (p k : Nat) (e : Env) (w : Walk) (it : List Nat) (t lines poss : Nat) (bs : List Byte) (s : State) : Got State :=
  match w.opr.space with
  | 4 => sendRoute p k t e bs s
  | 0 | 3 => .ok s
  | sp =>
    (tilePlan s e w it true lines (writtenPoss w.opr.sfmt poss)).bind fun plan =>
      let cells := planCells plan bs
      let fill := e.o.d.fillmap + 8 * t
      if sp = 2 then writeLoft p k fill e it cells s else writeScratch p fill e it cells s

/-- The random bits of the conversion of an output tile's elements at a stage position (R268, R269). -/
def outDraw (s : State) (e : Env) (w : Walk) (it : List Nat) (t rnd stage line pos : Nat) : Nat :=
  srDraw rnd (rngSrc s e it) (srIndex e w it e.n t line pos) stage

/-- A tile of values converted to C's format by the header's modes and written; its events join the instance's counts. -/
def storeVals (p k : Nat) (e : Env) (w : Walk) (it : List Nat) (t lines poss stage nans : Nat) (vs : List (List Val))
    (s : State) : Got State :=
  let d := e.o.d
  let out := tileTo d.cfmt d.rnd d.ovf (outDraw s e w it t d.rnd stage) lines poss vs
  (writeTile p k e w it t lines poss out.bytes s).bind fun s =>
    .ok (putOp p k (fun o => { o with satur := o.satur + out.satur, under := o.under + out.under, nans := o.nans + nans }) s)

end Sys2Proof.Machine
end

