-- ==== Sys2Proof/Machine/Stages.lean ====
section
/-! DEFINITION. Prologue and epilogue stages (R131 to R137), the row ledger (R146 to R151), stall pairs (R144, R145), and
PROLOGUE_RUN and EPILOGUE_RUN (R140, R143). -/

namespace Sys2Proof.Machine

/-- A tile in the lanes: its values, its event counts, the cells (64 × line + position) whose value became NaN from inputs none of
which is NaN (R70), and those whose last result lies beyond the FP32 range (R113). -/
structure LaneTile where
  vals : List (List W32)
  satur : Nat := 0
  nans : List Nat := []
  beyond : List Nat := []

/-- A cell of a tile, 0 beyond it. -/
def laneAt (t : LaneTile) (l k : Nat) : W32 := (t.vals.getD l []).getD k 0

/-- The value at a place as a conversion to a format reads it: a result beyond the FP32 range overflows every target but FP32, to which
nothing is converted (R113, R133; log entry 37). -/
def laneOut (t : LaneTile) (f l k : Nat) : Val :=
  ({ val := laneAt t l k, beyond := f ≠ 0 && t.beyond.contains (64 * l + k) } : FnRes).out

/-- The values of a tile as a conversion to a format reads them. -/
def laneOuts (t : LaneTile) (f : Nat) : List (List Val) :=
  (List.range 64).map fun l => (List.range 64).map fun k => laneOut t f l k

/-- A lane result, NAN_PRODUCED where it is NaN and no input is. -/
def laneRes (y : W32) (xs : List W32) : FnRes := { val := y, made := isNan32 y && !(xs.any isNan32) }

/-! ## Stage vectors (R134, R241) -/

/-- The value at index `i` of a stage's vector, which starts at `base` (R134), relocated and checked as R174 says. -/
def vecAt (e : Env) (it : List Nat) (r : StageRec) (base i : Nat) : Got W32 :=
  let w := fmtBits r.vfmt / 8
  let a := ringReloc e (base + i * w)
  if a < e.o.d.swinBase ∨ e.o.d.swinBase + e.o.d.swinLen < a + w then .fault 0x0202 (lDetail e it)
  else .ok (round32 (decode r.vfmt (leNat (memRead e.x.scratch a w))))

/-- The columns that NORM_APPLY's γ has entries for: K, or the input channels of a CONV, which in a pool are those of N (R190, R193). -/
def normCols (o : OpCtx) : Nat :=
  let b := ((roleLevel o.d 3).map fun l => (level o.d l).bound).getD 0
  if isPool o.d then rowCols o else if o.d.opcode = 2 then b / max 1 (convTaps o.d) else b

/-- One element of NORM_APPLY (R126, R136). -/
def normApply (e : Env) (it : List Nat) (r : StageRec) (row col : Nat) (x : W32) : Got FnRes :=
  let p := tget {} e.x.ledger (ledgerSlot r row)
  let centred := r.func % 2 = 0
  let rr := normRr centred r.imm p
  let st := if centred then statMean p else statMeanSq p
  if r.func / 2 % 2 = 1 then
    (vecAt e it r r.vaddr col).bind fun g =>
      if centred then
        (vecAt e it r (r.vaddr + normCols e.o * (fmtBits r.vfmt / 8)) col).bind fun b =>
          .ok (laneRes (normElem true p rr (some (g, b)) x) [x, st, g, b])
      else .ok (laneRes (normElem false p rr (some (g, 0)) x) [x, st, g])
  else .ok (laneRes (normElem centred p rr none x) [x, st])

/-- One element of a stage, with the value of the aux tensor or the partner's tile at its place (R134). -/
def stageElem (e : Env) (it : List Nat) (r : StageRec) (other : W32) (row col : Nat) (x : W32) : Got FnRes :=
  match r.kind with
  | 1 => (vecAt e it r r.vaddr col).bind fun v => .ok (laneRes (fadd x v) [x, v])
  | 2 => (vecAt e it r r.vaddr row).bind fun v => .ok (laneRes (fadd x v) [x, v])
  | 3 => .ok (laneRes (fmul x r.imm) [x, r.imm])
  | 4 => (vecAt e it r r.vaddr col).bind fun v => .ok (laneRes (fmul x v) [x, v])
  | 5 => (vecAt e it r r.vaddr row).bind fun v => .ok (laneRes (fmul x v) [x, v])
  | 6 => .ok (actFn r.func x)
  | 7 => .ok (laneRes (fadd x other) [x, other])
  | 8 => .ok (laneRes (fmul x other) [x, other])
  | 0xB => normApply e it r row col x
  | _ => .ok { val := x }

/-- Where a stage list runs: the operation, its iteration, its valid elements, the logical row and column of a place, which
places hold inserted padding, and the random bits of a stage's conversion. -/
structure StageEnv where
  e : Env
  it : List Nat
  lines : Nat
  poss : Nat
  row : Nat → Nat → Nat
  col : Nat → Nat → Nat
  skip : Nat → Nat → Bool
  draw : Nat → Nat → Nat → Nat → Nat

/-- A stage computed on every valid element of a tile. -/
def stageTile (g : StageEnv) (r : StageRec) (other : List (List Val)) (t : LaneTile) : Got LaneTile :=
  (gotAll (fun l => gotAll (fun k =>
      let x := (t.vals.getD l []).getD k 0
      if g.lines ≤ l ∨ g.poss ≤ k ∨ g.skip l k then .ok { val := x }
      else stageElem g.e g.it r (round32 (atV other l k)) (g.row l k) (g.col l k) x) (List.range 64)) (List.range 64)).bind
    fun rows =>
      let cells := fun (f : FnRes → Bool) => (List.range 4096).filter fun c => f ((rows.getD (c / 64) []).getD (c % 64) { val := 0 })
      .ok { t with vals := rows.map fun row => row.map (·.val), nans := (t.nans ++ cells (·.made)).eraseDups,
                   beyond := cells (·.beyond) }

/-- A stage's conversion to its FMT, read back into the lanes; FP32 converts nothing (R133). -/
def stageConvert (g : StageEnv) (r : StageRec) (stage : Nat) (t : LaneTile) : LaneTile :=
  if r.fmt = 0 then t
  else
    let cs := (List.range 64).map fun l => (List.range 64).map fun k =>
      convert r.fmt r.rnd r.ovf (g.draw r.rnd stage l k) (laneOut t r.fmt l k)
    let valid := (List.range 4096).filter fun c => c / 64 < g.lines && c % 64 < g.poss && !g.skip (c / 64) (c % 64)
    { t with
      beyond := []
      vals := cs.map fun row => row.map fun c => round32 (decode r.fmt c.bits)
      satur := t.satur + (valid.filter fun c => ((cs.getD (c / 64) []).getD (c % 64) { bits := 0 }).sat).length }

/-! ## The row ledger (R146 to R151) -/

/-- NEXT of a LEDGER stage (R136). -/
def ledgerNext (r : StageRec) : Nat := bits r.xaddr 31 21

/-! Operations of a row divided among stalls are matched by place: the LEDGER descriptors of one stall with those of the other, in table
order (log entry 40). -/

/-- A descriptor has a LEDGER stage. -/
def hasLedger (d : Desc) : Bool := (epiStage d 0xA).isSome

/-- The LEDGER descriptor of stall `q` of image `b` that matches descriptor `d` of stall `n`, with its index (R149). -/
def ledgerMate (b : List Byte) (n d q : Nat) : Option (Nat × Desc) :=
  let ds := descsIn b q
  (matchDesc (descsIn b n) ds d hasLedger hasLedger).map fun i => (i, ds.getD i {})

/-- The stall whose fold of a row goes on in descriptor `d` of stall `n`: its LEDGER names `n` as NEXT (R149). -/
def ledgerPred (b : List Byte) (n d : Nat) : Option (Nat × Nat × Desc) :=
  (stallSet b).findSome? fun q =>
    if q = n then none
    else
      match ledgerMate b n d q with
      | some (i, x) => if (epiStage x 0xA).any fun r => ledgerNext r = n then some (q, i, x) else none
      | none => none

/-- The N bound of a descriptor: the columns that its stall adds to a row. -/
def colsOf (d : Desc) : Nat := ((roleLevel d 2).map fun l => (level d l).bound).getD 1

/-- The first column of a row that descriptor `d` of stall `n` computes: those before it belong to the stalls before it in the fold, by
fuel (R119, R146). -/
def ledgerBase (b : List Byte) : Nat → Nat → Nat → Nat
  | 0, _, _ => 0
  | f + 1, n, d =>
    match ledgerPred b n d with
    | some (q, i, x) => ledgerBase b f q i + colsOf x
    | none => 0

/-- The first column of this operation's range. -/
def baseCol (s : State) (e : Env) : Nat :=
  let b := imgAt s e.slot
  ledgerBase b (stallSet b).length e.n e.o.desc

/-- A descriptor normalises tiles of window `w` by ledger statistics. -/
def normsWindow (w : Nat) (d : Desc) : Bool := d.a.space = 3 && d.a.id = w && (normStage d).isSome

/-- Where a completed partial goes: the ledgers of the stalls of the operation's route, in the entry of the NORM_APPLY that reads the
route's window (R149, R313). -/
def ledgerConsumers (s : State) (e : Env) (row : Nat) : List (Nat × Nat) :=
  if e.o.d.c.space ≠ 4 then []
  else
    match routeOf s e with
    | some r => r.dsts.filterMap fun q =>
        let ds := descsOf s e.slot q
        let mate := (matchDesc (descsOf s e.slot e.n) ds e.o.desc (fun d => hasLedger d && d.c.space = 4 && d.c.id = e.o.d.c.id)
          (normsWindow r.window)).map fun i => ds.getD i {}
        ((mate.or (ds.find? (normsWindow r.window))).bind normStage).map fun st => (q, ledgerSlot st row)
    | none => []

/-- A partial folded into an open entry, and then the held partials that follow it, by fuel (R148). -/
def foldHeld : Nat → Nat → Stall → Stall
  | 0, _, x => x
  | f + 1, i, x =>
    let l := tget {} x.ledger i
    match x.held.find? fun h => h.entry = i && h.row = l.row && h.part.own = l.own && h.col = l.nextCol with
    | some h =>
      foldHeld f i { x with
        ledger := tset x.ledger i { combinePart l h.part with nextCol := l.nextCol + h.ncols }
        held := x.held.erase h }
    | none => x

/-- An entry whose row has passed the last column of this stall's range: handed to NEXT, or COMPLETE and due to its
consumers, with the row's events (R124, R149). -/
def ledgerEnd (n p k i : Nat) (r : StageRec) (s : State) : State :=
  let e := envAt s n p k
  let l := tget {} e.x.ledger i
  let q := ledgerNext r
  let put := fun (l : Ledger) (s : State) => modStallP p (fun x => { x with ledger := tset x.ledger i l }) s
  if q ≠ 0x7FF then
    match (ledgerMate (imgAt s e.slot) n e.o.desc q).bind fun m => epiStage m.2 0xA with
    | some st => put { l with todo := [(q, ledgerSlot st l.row)] } s
    | none => ledgerFree n p i s
  else
    let todo := ledgerConsumers s e l.row
    let s := putOp p k (fun o => { o with nans := o.nans + rowEvents l }) s
    if todo.isEmpty then ledgerFree n p i s else put { l with st := 2, todo := todo } s

/-- An open entry has taken in columns: the held partials that follow are folded, and the row ends here once its columns are all in (R148,
R149). -/
def ledgerFolded (n p k i : Nat) (r : StageRec) (s : State) : State :=
  let s := modStallP p (fun x => foldHeld x.held.length i x) s
  let e := envAt s n p k
  if baseCol s e + colsOf e.o.d ≤ (tget {} (stallP s p).ledger i).nextCol then ledgerEnd n p k i r s else s

/-- One row of a tile meets its ledger entry (R147, R148): it waits while another row, or the row of another instance, has the entry
(log entry 40); its partial is folded at NEXT_COL, held while a column before it is missing, and discarded as a replay below it. DESIGN CHOICE: the number of a
row is 64 × its M index + its line: the BATCH and OUTER indices are no part of it (log entry 40). -/
def ledgerRow (n p k : Nat) (r : StageRec) (it : List Nat) (row poss : Nat) (vals : List W32) (s : State) : Got State :=
  let e := envAt s n p k
  let i := ledgerSlot r row
  let old := tget {} e.x.ledger i
  let own := (e.o.desc, e.o.inst)
  if old.st ≠ 0 && (old.row ≠ row || old.own ≠ own) then .wait
  else
    let l := if old.st = 0 then { st := 1, row := row, own := own } else old
    let col := baseCol s e + 64 * roleIdx e.o it 2
    let part := { tilePart (vals.take poss) with own := own }
    if col < l.nextCol then .ok s
    else if l.nextCol < col then
      .ok (modStallP p (fun x => { x with
        ledger := tset x.ledger i l
        held := x.held ++ [{ entry := i, row := row, col := col, ncols := poss, part := part }] }) s)
    else
      .ok (ledgerFolded n p k i r (modStallP p (fun x =>
        { x with ledger := tset x.ledger i { combinePart l part with nextCol := l.nextCol + poss } }) s))

/-- A row that a LEDGER stage folds: the stage, the row's number and its values. -/
structure LedgerItem where
  r : StageRec
  row : Nat
  vals : List W32

/-- Rows folded in order until one must wait: how many were folded, and whether all were (R147). -/
def ledgerGo (n p k : Nat) (it : List Nat) (poss : Nat) : List LedgerItem → Nat → State → Got (State × Nat × Bool)
  | [], c, s => .ok (s, c, true)
  | x :: rest, c, s =>
    match ledgerRow n p k x.r it x.row poss x.vals s with
    | .wait => .ok (s, c, false)
    | .fault code d => .fault code d
    | .ok s => ledgerGo n p k it poss rest (c + 1) s

/-- The due partials of entry `i` are sent once there is a credit for the FREE entry of every consumer (R149, R315). -/
def ledgerSend (n p i : Nat) (s : State) : State :=
  let x := stallP s p
  let l := tget {} x.ledger i
  let out := { l with todo := [], await := 0, from_ := some (n, i) }
  if l.todo.isEmpty || routesHeld s n || l.todo.any (fun c => 0 < inUse x (ledgerKey c.1 c.2) 0) then s
  else
    let s := modStallP p (fun x => { x with ledger := tset x.ledger i { l with todo := [], await := l.await + l.todo.length } }) s
    l.todo.foldl (fun s c =>
      let slot := (x.loaded.map (·.slot)).getD 0
      let next := ((descsOf s slot n).getD l.own.1 {} |> (epiStage · 0xA)).any fun r => ledgerNext r = c.1
      let mate := if next then (ledgerMate (imgAt s slot) n l.own.1 c.1).map (·.1) else none
      injectStall 3 n c.1 (.ledger c.1 c.2 (mate.getD 0) out (!next)) (modStallP p (takeCredits (ledgerKey c.1 c.2) 0) s)) s

/-- Every due partial that has its credits is sent (R149). -/
def ledgerPump (n p : Nat) (s : State) : State := ((stallP s p).ledger.map (·.1)).foldl (fun s i => ledgerSend n p i s) s

/-! ## The prologue (R143, R150, R151, R189, R190) -/

/-- The tile number of an A prologue: its M and K indices in nesting order (R269). -/
def proTile (o : OpCtx) (it : List Nat) : Nat :=
  ((nest o.d).filter fun l => (level o.d l).role = 1 ∨ (level o.d l).role = 3).foldl (fun a l =>
    a * levelCount o l + it.getD l 0) 0

/-- The rounding index of an A element in a prologue (R269), by its stored place. -/
def proIndex (e : Env) (it : List Nat) (line pos : Nat) : Nat :=
  if e.o.d.opcode = 2 then
    let a := (e.o.d.a.base + (convElem e.o it line pos).getD 0 * (fmtBits e.o.d.a.sfmt / 8 : Nat)).toNat
    if e.o.d.a.space = 2 then 2 * a else 2 ^ 47 + e.n * 2 ^ 22 + 2 * a
  else srIndex e (walkA e.o.d) it e.n (proTile e.o it) line pos

/-- Where a prologue list runs on the A tile of an iteration (R131, R190). -/
def proEnv (s : State) (e : Env) (it : List Nat) : StageEnv :=
  let (lines, poss) := opndValid e.o 0 it
  let conv := e.o.d.opcode = 2
  { e := e, it := it, lines := lines, poss := poss,
    row := fun l k => normRow e.o it l k,
    col := fun _ k => if conv then (convChan e.o it k).1 else 64 * roleIdx e.o it 3 + k,
    skip := fun l k => conv && (convElem e.o it l k).isNone,
    draw := fun rnd stage l k => srDraw rnd (rngSrc s e it) (proIndex e it l k) stage }

/-- A prologue's staged result: its bytes in AFMT with their counts, and the lines where NaN was produced. -/
structure ProOut where
  out : TileOut
  nan : List Nat

/-- A list of stages run in order, each but the last converted to its FMT. -/
def proStages (g : StageEnv) : List (StageRec × Nat) → LaneTile → Got LaneTile
  | [], t => .ok t
  | (r, i) :: rest, t =>
    (stageTile g r [] t).bind fun t => if rest.isEmpty then .ok t else proStages g rest (stageConvert g r i t)

/-- The prologue list on an A tile: the last stage converts to AFMT, with padding inserted (R133, R189). -/
def proRun (s : State) (e : Env) (it : List Nat) : Got ProOut :=
  let g := proEnv s e it
  let st := stageList e.o.d.pro
  (opndVals s e 0 it).bind fun vs =>
    (proStages g st.zipIdx { vals := lanes vs }).bind fun t =>
      match st.getLast? with
      | none => .wait
      | some r =>
        let v := (List.range 64).map fun l => (List.range 64).map fun k =>
          if g.skip l k then padVal e.o.d else laneOut t e.o.d.afmt l k
        let out := tileTo e.o.d.afmt r.rnd r.ovf
          (fun l k => if g.skip l k then padDraw else g.draw r.rnd (st.length - 1) l k) g.lines g.poss v
        .ok { out := { out with satur := out.satur + t.satur }, nan := (t.nans.map (· / 64)).eraseDups }

/-- The staged result of the A tile of iteration `it` is written (R143): to the staging area for a landing; for an A in SCRATCH or WINDOW,
whose record places no staging area (R169), beside the operation (log entry 39). -/
def proStore (n p k : Nat) (it : List Nat) (entry : Option Nat) (r : ProOut) (s : State) : State :=
  let d := (envAt s n p k).o.d
  let s := putOp p k (fun o =>
    { o with
      satur := o.satur + r.out.satur
      under := o.under + r.out.under
      lands := o.lands.map fun l => if l.opnd = 0 ∧ l.it = it ∧ entry = some l.entry then { l with st := .staged, nan := r.nan } else l
      staged := if entry.isNone then some { it := it, bytes := r.out.bytes, nan := r.nan } else o.staged }) s
  let s := match entry with
    | some i => modStallP p (fun x => { x with scratch := memWrite x.scratch (stageAt d i) r.out.bytes }) s
    | none => s
  freeNormRows n p k (rowsDone (envAt s n p k).o it) s

/-- The A tiles of an operation that await their prologue, oldest landing first: iteration and landing entry. -/
def proWaiting (o : OpCtx) : List (List Nat × Option Nat) :=
  if (stageList o.d.pro).isEmpty ∨ !o.walking ∨ o.takeWait then []
  else if o.d.a.space = 2 then ((landsOf o 0).filter fun l => l.st == .full).map fun l => (l.it, some l.entry)
  else if o.staged.isSome then []
  else [(keyOf o.d 0 o.it, none)]

/-- The prologue of the first waiting tile of operation `k` whose rows are complete (R140, R150). -/
def proOne (n p k : Nat) (s : State) : Got State :=
  let e := envAt s n p k
  match (proWaiting e.o).find? fun w => !mustPark e w.1 with
  | none => .wait
  | some w => (proRun s e w.1).bind fun r => .ok (proStore n p k w.1 w.2 r s)

/-- A step of a stall's operation: nothing while it waits, a fault that stops the stall, or the next state. -/
def settle (p : Nat) (s : State) : Got State → State
  | .wait => s
  | .fault c d => stallFault p c d s
  | .ok s' => s'

/-- The first operation of a stall, oldest first, for which `f` does not wait. -/
def firstOp (s : State) (p : Nat) (f : Nat → Got State) : Got State :=
  (List.range (opsOf (stallP s p)).length).foldl (fun g k => match g with | .wait => f k | g => g) .wait

/-- A step of a stall's operation that reads its memories: what SEC-DED found is counted and recorded where the step is taken (R19). -/
def settleSram (p : Nat) (sram : Secded) (s : State) (g : Got State) : State :=
  match g with
  | .wait => s
  | g => sramUsed p sram (settle p s g)

/-- `f` for the running stall of logical number `n`. -/
def onStall (n : Nat) (sram : Secded) (s : State) (f : Nat → Got State) : State :=
  match runningStall s n with
  | some (p, _) => settleSram p sram s (f p)
  | none => s

/-! ## The epilogue (R131, R133, R134, R144, R145) -/

/-- Where an epilogue list runs on an output tile. -/
def epiEnv (s : State) (e : Env) (w : Walk) (it : List Nat) (t lines poss : Nat) : StageEnv :=
  { e := e, it := it, lines := lines, poss := poss,
    row := fun l _ => 64 * roleIdx e.o it 1 + l, col := fun _ k => 64 * roleIdx e.o it 2 + k, skip := fun _ _ => false,
    draw := fun rnd stage l k => outDraw s e w it t rnd stage l k }

/-- The bytes that a plan names, read at once from scratch or from the loft; a poisoned loft word is LOFT_UNCORRECTABLE
(R291). -/
def readPlan (s : State) (e : Env) (space : Nat) (plan : List (Option Nat)) : Got (List Byte) :=
  if space = 2 then
    match (plan.filterMap id).find? fun a => poisonedWord s (wordOf a) with
    | some a => .fault 0x0402 (detA (wordOf a) 3)
    | none => .ok (planBytes s.loft.mem plan)
  else .ok (planBytes e.x.scratch plan)

/-- The aux tensor at the places of a CHAIN's score tile: its aux record read by the M and N levels (R134; log entry 18). -/
def chainAux (s : State) (e : Env) (it : List Nat) (r : StageRec) : Got (List (List Val)) :=
  let w : Walk := { walkX e.o.d with opr := { e.o.d.x with sfmt := r.vfmt } }
  (tilePlan s e w it false (validOf e.o it 1) (validOf e.o it 2)).bind fun plan =>
    (readPlan s e e.o.d.x.space plan).bind fun bs => .ok (tileVals r.vfmt bs)

/-- The tile that a stage reads beside its input: the aux tensor's, or the partner's of output tile `t` (R134, R145). -/
def otherTile (s : State) (e : Env) (it : List Nat) (t : Nat) (r : StageRec) : Got (List (List Val)) :=
  if r.kind = 7 then (if e.o.d.opcode = 3 then chainAux s e it r else opndVals s e 3 (lastKIt e.o it))
  else if r.kind = 8 then
    let f := pairFormat s e (partnerOf r)
    (winBytes s e it (pairKey e.o.desc) t 0 (tileBytes f)).bind fun bs => .ok (tileVals f bs)
  else .ok []

/-- Stages in order; stage `i` has position 4 + i (R133, R268). `all`: every stage's conversion is made here, else the last is left to the
tile's store. What each LEDGER stage takes in is kept beside the tile (R134). -/
def epiStages (s : State) (g : StageEnv) (t : Nat) (all : Bool) :
    List (StageRec × Nat) → LaneTile × List LedgerItem → Got (LaneTile × List LedgerItem)
  | [], st => .ok st
  | (r, i) :: rest, st =>
    (otherTile s g.e g.it t r).bind fun other =>
      (stageTile g r other st.1).bind fun x =>
        let items := if r.kind = 0xA then
            (List.range g.lines).map fun l => { r := r, row := g.row l 0, vals := st.1.vals.getD l [] : LedgerItem }
          else []
        let x := if rest.isEmpty && !all then x else stageConvert g r (4 + i) x
        epiStages s g t all rest (x, st.2 ++ items)

/-- A pair tile sent to the second stall's window (R145). -/
def pairSend (p k t : Nat) (e : Env) (r : StageRec) (bs : List Byte) (s : State) : Got State :=
  let q := partnerOf r
  match pairSecond s e q with
  | none => .wait
  | some (i, cap) =>
    let key := pairKey e.o.desc
    if routesHeld s e.n ∨ cap ≤ inUse (stallP s p) key 0 ∨ 64 ≤ writesOut e.x then .wait
    else
      .ok (sendData e.n q (pairKey i) key 0 t bs (some (e.n, e.o.desc, e.o.inst))
        (modStallP p (takeCredits key 0) (addOut p k 1 s)))

/-- The valid cells of a list. -/
def validCells (lines poss : Nat) (cs : List Nat) : List Nat := cs.filter fun c => c / 64 < lines && c % 64 < poss

/-- The last stage converts to its FMT, and the tile goes to C or to the partner; the instance's counts advance (R70, R133). -/
def epiOut (p k t : Nat) (g : StageEnv) (w : Walk) (r : StageRec) (stage : Nat) (x : LaneTile) (s : State) : Got State :=
  let out := tileTo r.fmt r.rnd r.ovf (g.draw r.rnd stage) g.lines g.poss (laneOuts x r.fmt)
  (if r.kind = 9 then pairSend p k t g.e r out.bytes s
   else writeTile p k g.e w g.it t g.lines g.poss out.bytes s).bind fun s =>
    .ok (putOp p k (fun o => { o with
      satur := o.satur + x.satur + out.satur
      under := o.under + out.under
      nans := o.nans + (validCells g.lines g.poss x.nans).length }) s)

/-- The rows that a tile's LEDGER stages have still to fold meet the ledger; then `f` runs once they all have. A tile that must wait in
between keeps what it has folded (R147). The answer says whether `f` has run. -/
def afterLedger (n p k : Nat) (g : StageEnv) (items : List LedgerItem) (s : State) (f : State → Got State) : Got (State × Bool) :=
  (ledgerGo n p k g.it g.poss (items.drop g.e.o.led) 0 s).bind fun q =>
    let s := putOp p k (fun o => { o with led := o.led + q.2.1 }) q.1
    let part : Got (State × Bool) := if q.2.1 = 0 then .wait else .ok (s, false)
    if q.2.2 then
      match f s with
      | .wait => part
      | .fault c d => .fault c d
      | .ok s => .ok (putOp p k (fun o => { o with led := 0 }) s, true)
    else part

/-- The pair entry of a tile is freed once its GATE has consumed it (R145). -/
def freePair (n p k t : Nat) (st : List StageRec) (s : State) : State :=
  if st.any fun r => r.kind = 8 then winFree n p k (pairKey (envAt s n p k).o.desc) t s else s

/-- An epilogue list, or the header's conversion where it is empty, on one output tile (R131, R133). -/
def epiTile (n p k : Nat) (w : Walk) (it : List Nat) (t lines poss : Nat) (st : List StageRec) (base : Nat)
    (vs : List (List Val)) (nan : List Nat) (s : State) : Got (State × Bool) :=
  let e := envAt s n p k
  let g := epiEnv s e w it t lines poss
  match st.getLast? with
  | none => (storeVals p k e w it t lines poss 8 (validCells lines poss nan).length vs s).bind fun s => .ok (s, true)
  | some r =>
    (epiStages s g t false (st.zipIdx base) ({ vals := lanes vs, nans := nan }, [])).bind fun x =>
      afterLedger n p k g x.2 s fun s =>
        (epiOut p k t { g with e := envAt s n p k } w r (4 + base + (st.length - 1)) x.1 s).bind fun s =>
          .ok (freePair n p k t st s)

/-- The tile of an output iteration through the whole epilogue list to C, its aux tile let go, and the row partials that
follow it sent (R134, R149, R312). The answer says whether the tile is done. -/
def epilogue (n p k : Nat) (it : List Nat) (vs : List (List Val)) (nan : List Nat) (s : State) : Got (State × Bool) :=
  let o := (envAt s n p k).o
  (epiTile n p k (walkC o.d) it (tileNumber o it) (validOf o it 1) (validOf o it 2) (stageList o.d.epi) 0 vs nan s).bind
    fun q =>
      if q.2 then
        .ok (ledgerPump n p (fetchPump n p k (releaseOpnd n p k 3 (lastKIt o it) (nextIt o (lastKIt o it)) q.1)), true)
      else .ok q

end Sys2Proof.Machine
end

