-- ==== Sys2Proof/Machine/Array.lean ====
section
/-! DEFINITION. The matrix array: MATMUL, CONV and CHAIN, the matrix instruction (R82 to R100), slots and their readout, chain
transfers, pooling (R193), and the CHAIN's soft maximum (R152 to R156). -/

namespace Sys2Proof.Machine

/-! ## One matrix instruction (R84 to R91) -/

/-- A descriptor whose iterations are matrix instructions: MATMUL, a CONV that is no pool, CHAIN. -/
def isMatrix (d : Desc) : Bool := d.opcode = 1 || (d.opcode = 2 && !isPool d) || d.opcode = 3

/-- The pair takes the block sum of R73 and 256 beats: BF16 or FP16 (R89, R91). -/
def halfPair (af bf : Nat) : Bool := af = 1 || af = 2 || bf = 1 || bf = 2

/-- One cell: the valid blocks folded in ascending order, and whether NaN was produced (R84, R87). -/
def foldCell (half : Bool) (a b : Nat → Val) (kValid : Nat) (acc : Acc) : Acc × Bool :=
  [0, 1].foldl (fun c blk =>
    let ks := ((List.range 32).map (32 * blk + ·)).filter (· < kValid)
    if ks.isEmpty then c
    else
      let r := foldAcc c.1 (blockSum half (ks.map fun k => (a k, b k)))
      (r.1, c.2 || r.2)) (acc, false)

/-- One matrix instruction over a slot's 4,096 values: lines beyond M or N valid are driven with +0 (R84, R86). -/
def matrixInstr (half : Bool) (a b : List (List Val)) (mv nv kv : Nat) (acc : List Acc) : List (Acc × Bool) :=
  (List.range 4096).map fun c =>
    let i := c / 64
    let j := c % 64
    foldCell half (fun k => if i < mv then atV a i k else Val.zero) (fun k => if j < nv then atV b j k else Val.zero) kv
      (acc.getD c 0)

/-! ## Operands of an instruction -/

/-- The A tile of an iteration with the lines whose prologue produced NaN: the landed tile, or the staged result (R143, R189). -/
def aTile (s : State) (e : Env) : Got (List (List Val) × List Nat) :=
  let d := e.o.d
  let it := e.o.it
  let key := keyOf d 0 it
  if (stageList d.pro).isEmpty then (opndVals s e 0 it).bind fun vs => .ok (vs, [])
  else if d.a.space = 2 then
    match (landsOf e.o 0).find? fun l => l.it = key && l.st == .staged with
    | some l => .ok (tileVals d.afmt (memRead e.x.scratch (stageAt d l.entry) (tileBytes d.afmt)), l.nan)
    | none => .wait
  else
    match e.o.staged with
    | some t => if t.it = key then .ok (tileVals d.afmt t.bytes, t.nan) else .wait
    | none => .wait

/-! ## Slots (R93 to R96) -/

/-- Slot `i` of a stall. -/
def slotOf (x : Stall) (i : Nat) : AccSlot := tget {} x.slots i

/-- The slot that holds the partial accumulation of an output tile of an operation. -/
def heldSlot (x : Stall) (desc : Nat) (it : List Nat) : Option Nat :=
  (List.range 16).find? fun i =>
    let a := slotOf x i
    (a.st == .live || a.st == .poisoned) && a.desc = desc && a.it = it

/-- A FREE slot for a tile that starts: none while one is in READOUT or SENDING, ACC_OVERFLOW when every slot is LIVE or
POISONED (R95, R174). DESIGN CHOICE: the lowest-numbered FREE slot (log entry 36). -/
def freeSlot (e : Env) : Got Nat :=
  match (List.range 16).find? fun i => (slotOf e.x i).st == .free with
  | some i => .ok i
  | none =>
    if (List.range 16).all fun i => (slotOf e.x i).st == .live || (slotOf e.x i).st == .poisoned then
      .fault 0x0201 (lDetail e e.o.it)
    else .wait

/-- A chain tile's values: five little-endian bytes each (R98). -/
def chainVals (bs : List Byte) : List Acc := (List.range 4096).map fun i => BitVec.ofNat 40 (leAt bs (5 * i) 5)

/-- A slot as the bytes of a chain transfer (R98). -/
def chainBytes (vs : List Acc) : List Byte := (List.range 4096).flatMap fun i => leBytes 5 (vs.getD i 0).toNat

/-- The slot and start value of the instruction of an iteration, and whether it is CHAIN_IN (R84, R95, R97). -/
def startSlot (s : State) (e : Env) : Got (Nat × AccSlot × Bool) :=
  let out := outTile e.o.d e.o.it
  if roleIdx e.o e.o.it 3 = 0 then
    (freeSlot e).bind fun i =>
      let fresh : AccSlot := { st := .live, vals := List.replicate 4096 0, desc := e.o.desc, it := out }
      if e.o.d.kin then
        (winBytes s e e.o.it (chainKey e.o.desc) (tileNumber e.o out) 0 20480).bind fun bs => .ok (i, { fresh with vals := chainVals bs }, true)
      else .ok (i, fresh, false)
  else
    match heldSlot e.x e.o.desc out with
    | some i => .ok (i, slotOf e.x i, false)
    | none => .wait

/-- The instruction is the last of its output tile in this stall. -/
def lastK (o : OpCtx) (it : List Nat) : Bool :=
  match roleLevel o.d 3 with
  | some l => it.getD l 0 + 1 = levelCount o l
  | none => true

/-- A slot after an instruction: its values, its NaN cells, and its next state (R88, R93). -/
def slotAfter (o : OpCtx) (a : AccSlot) (vals : List (Acc × Bool)) (rows : List Nat) (uncorr : Bool) : AccSlot :=
  let made := (List.range 4096).filter fun c => (vals.getD c (0, false)).2 || rows.contains (c / 64)
  { a with
    vals := vals.map (·.1)
    nan := (a.nan ++ made).eraseDups
    st := if uncorr || a.st == .poisoned then .poisoned
          else if lastK o o.it then (if o.d.kout then .sending else .readout) else .live }

/-! ## Issue (R84, R88, R90, R94) -/

/-- The instruction is the second of an MXFP4 pair with the one issued last (R90). -/
def pairsWithLast (x : Stall) (o : OpCtx) : Bool :=
  o.d.afmt = 9 && o.d.bfmt = 9 && x.lastDesc = o.desc &&
  (match roleLevel o.d 3 with
   | some l => 0 < o.it.getD l 0 && x.lastIt = o.it.set l (o.it.getD l 0 - 1)
   | none => false)

/-- Beats of an instruction (R35, R90, R91). -/
def instrBeats (x : Stall) (o : OpCtx) : Nat :=
  if halfPair o.d.afmt o.d.bfmt then 256 else if pairsWithLast x o then 0 else 64

/-- A stall's beat count advanced (R36). -/
def addBeats (b : Nat) (x : Stall) : Stall := { x with beats := (x.beats + b) % 2 ^ 64 }

/-- The stall after an instruction of an operation: its slot, its beats, and what the next may pair with. -/
def issuedStall (i : Nat) (a : AccSlot) (o : OpCtx) (x : Stall) : Stall :=
  let paired := pairsWithLast x o
  let x := addBeats (instrBeats x o) x
  { x with
    slots := tset x.slots i a
    readQ := if a.st == .readout then x.readQ ++ [i] else x.readQ
    sendQ := if a.st == .sending then x.sendQ ++ [i] else x.sendQ
    lastDesc := if paired then 0xFFFF else o.desc
    lastIt := o.it }

/-- The operands that an instruction may let go: A and B, and, before the last K tile, an aux tile that the loop has fetched for that
tile (R173). -/
def instrOpnds (o : OpCtx) : List Nat :=
  if o.d.opcode ≠ 3 && o.d.x.space = 2 && !lastK o o.it then [0, 1, 3] else [0, 1]

/-- The next matrix instruction of operation `k` (R84, R88). -/
def issueOne (n p k : Nat) (uncorr : Bool) (s : State) : Got State :=
  let e := envAt s n p k
  let o := e.o
  if !isMatrix o.d ∨ !o.walking ∨ o.takeWait then .wait
  else
    (aTile s e).bind fun a =>
      (opndVals s e 1 o.it).bind fun b =>
        (startSlot s e).bind fun st =>
          let vals := matrixInstr (halfPair o.d.afmt o.d.bfmt) a.1 b (validOf o o.it 1) (validOf o o.it 2)
            (validOf o o.it 3) st.2.1.vals
          let s := modStallP p (issuedStall st.1 (slotAfter o st.2.1 vals a.2 uncorr) o) s
          let s := if st.2.2 then winFree n p k (chainKey o.desc) (tileNumber o (outTile o.d o.it)) s else s
          .ok (advanceTo n p k (instrOpnds o) (nextIt o o.it) s)

/-- The loop engine issues a matrix instruction (R84). -/
def matrixIssue (n : Nat) (sram : Secded) (s : State) : State :=
  onStall n sram s fun p => firstOp s p fun k => issueOne n p k sram.uncorr s

/-- MATRIX_INSTRUCTION_ISSUE (R84). -/
def execMatrixInstructionIssue (n : Nat) (sram : Secded) (s : State) : Host.Outcome State Fault Refusal :=
  .next (matrixIssue n sram s)

/-! ## Readout and chain transfers (R79, R80, R96, R98) -/

/-- Readout is INT32: INT8 × INT8 (R80). -/
def intPair (d : Desc) : Bool := d.afmt = 0xB && d.bfmt = 0xB

/-- A cell read out (R79, R80). -/
def readCell (d : Desc) (a : Acc) : Cvt := if intPair d then readInt a else readFloat d.ovf a

/-- The read-out values exactly: INT32 or FP32. -/
def readExact (d : Desc) (vs : List W32) : List (List Val) :=
  (List.range 64).map fun i => (List.range 64).map fun j => decode (if intPair d then 0xC else 0) (vs.getD (64 * i + j) 0).toNat

/-- The place of the operation of a descriptor in a stall's program. -/
def opOfDesc (x : Stall) (desc : Nat) : Option Nat := (findOp x fun o => o.desc = desc).map (·.1)

/-- A slot whose read met an uncorrectable word of accumulator memory (R19): POISONED, never read out or sent (R88, R93). -/
def poisonSlot (p i : Nat) (s : State) : State :=
  modStallP p (fun x => { x with slots := tset x.slots i { slotOf x i with st := .poisoned }, readQ := x.readQ.erase i,
                                 sendQ := x.sendQ.erase i }) s

/-- The read-out tile of a slot and its SATURATED events (R79). -/
def slotTileOut (o : OpCtx) (a : AccSlot) (slot : Nat) : ReadTile × Nat :=
  let cs := (List.range 4096).map fun c => readCell o.d (a.vals.getD c 0)
  let valid := (List.range 4096).filter fun c => c / 64 < validOf o a.it 1 && c % 64 < validOf o a.it 2
  ({ it := a.it, vals := cs.map fun c => BitVec.ofNat 32 c.bits, nan := a.nan, slot := some slot },
   (valid.filter fun c => (cs.getD c { bits := 0 }).sat).length)

/-- The oldest slot in READOUT is read to the vector engine (R79, R96, R140). DEDUCED: it stays in READOUT until its epilogue, which consumes
the rows as they are read, is done with it (R93, R96, R140; log entry 36). -/
def readoutSlot (p i : Nat) (uncorr : Bool) (s : State) : Got State :=
  let x := stallP s p
  let a := slotOf x i
  match opOfDesc x a.desc with
  | none => .wait
  | some k =>
    if a.st ≠ .readout ∨ x.readQ.head? ≠ some i then .wait
    else if uncorr then .ok (poisonSlot p i s)
    else
      let o := (opsOf x).getD k {}
      let t := slotTileOut o a i
      .ok (putOp p k (fun o => { o with readouts := o.readouts ++ [t.1], satur := o.satur + t.2 })
        (setStallP s p { x with readQ := x.readQ.erase i, outQ := x.outQ ++ [(o.desc, o.inst)] }))

/-- SLOT_READOUT (R96): a readout of issued work goes on while the stall is stopping (R436). -/
def execSlotReadout (at_ : OnStall) (slot : Nat) (s : State) : Host.Outcome State Fault Refusal :=
  .next (onStall at_.stall at_.sram s fun p => readoutSlot p slot at_.sram.uncorr s)

/-- The oldest slot in SENDING goes to the next chain member's window, unrounded, with a credit (R98, R99, R315); the instance counts
the elements that became NaN in it (R70). -/
def sendSlot (n p i : Nat) (uncorr : Bool) (s : State) : Got State :=
  let x := stallP s p
  let a := slotOf x i
  match opOfDesc x a.desc with
  | none => .wait
  | some k =>
    let e := envAt s n p k
    let o := e.o
    if a.st ≠ .sending ∨ x.sendQ.head? ≠ some i then .wait
    else if uncorr then .ok (poisonSlot p i s)
    else
      match chainNext s e with
      | none => .wait
      | some (q, j, cap) =>
        let key := chainKey o.desc
        if routesHeld s n ∨ cap ≤ inUse x key 0 ∨ 64 ≤ writesOut x then .wait
        else
          let x := takeCredits key 0 { x with slots := tdel x.slots i, sendQ := x.sendQ.erase i }
          let nans := (validCells (validOf o a.it 1) (validOf o a.it 2) a.nan).length
          .ok (sendData n q (chainKey j) key 0 (tileNumber o a.it) (chainBytes a.vals) (some (n, o.desc, o.inst))
            (putOp p k (fun o => { o with nans := o.nans + nans }) (addOut p k 1 (setStallP s p x))))

/-- CHAIN_OUT (R98). -/
def execChainOut (at_ : OnStall) (slot : Nat) (s : State) : Host.Outcome State Fault Refusal :=
  .next (onStall at_.stall at_.sram s fun p => sendSlot at_.stall p slot at_.sram.uncorr s)

/-! ## CHAIN (R152 to R155) -/

/-- The stages of a CHAIN before SOFTMAX_CHAIN, that stage with its position, and the stages after it. -/
def chainSplit (d : Desc) : List StageRec × Option StageRec × List StageRec :=
  let l := stageList d.epi
  (l.takeWhile fun r => r.kind ≠ 0xC, l.find? fun r => r.kind = 0xC, (l.dropWhile fun r => r.kind ≠ 0xC).drop 1)

/-- OBUF of a SOFTMAX_CHAIN: a scratch offset (R136). -/
def obufOf (r : StageRec) : Nat := bits r.xaddr 20 10 * 1024

/-- The running output: 64 rows of d FP32 values from OBUF, in the scratch window (R174; log entry 18). -/
def oPlan (e : Env) (it : List Nat) (r : StageRec) : Got (List (Option Nat)) := scratchPlan e it (obufOf r) (256 * chainD e.o)
def oVal (o : OpCtx) (bs : List Byte) (row col : Nat) : W32 := BitVec.ofNat 32 (leAt bs (4 * (row * chainD o + col)) 4)

/-- A CHAIN row's running state: m and s, and whether it has held NaN (N, bit 0; log entry 18). -/
structure ChainRow where
  m : W32
  s : W32
  nan : Bool

/-- Row `i` before a key tile; empty before the first (R153). -/
def chainRow (e : Env) (r : StageRec) (first : Bool) (i : Nat) : ChainRow :=
  let l := tget {} e.x.ledger (lbaseOf r + i)
  if first then { m := ninf32, s := 0, nan := false } else { m := l.max, s := l.sum, nan := l.n % 2 = 1 }

/-- Row `i` after a key tile's scores (R153). -/
def chainFold (c : ChainRow) (xs : List W32) : ChainRow :=
  let t := softCombine (c.m, c.s) (softTile xs)
  { m := t.1, s := t.2, nan := c.nan || xs.any isNan32 }

/-- α of a row, and the P value of a score (R153). -/
def chainAlpha (old new : W32) : W32 := if old = ninf32 then 0 else fexp (fsub old new)
def chainP (m x : W32) : W32 := if x = ninf32 then 0 else fexp (fsub x m)

/-- The V tiles of a key tile, one for each tile of d. -/
def vTiles (s : State) (e : Env) (it : List Nat) : Got (List (List (List Val))) :=
  gotAll (fun t => opndVals s e 3 (it.set ((roleLevel e.o.d 3).getD 0) t)) (List.range (chainTiles e.o))

/-- u of one tile of d: P times V from zero, read out to FP32 (R153). -/
def chainU (o : OpCtx) (r : StageRec) (pv v : List (List Val)) (lines keys : Nat) : List (Cvt × Bool) :=
  (matrixInstr (halfPair r.fmt o.d.xfmt) pv v lines 64 keys (List.replicate 4096 0)).map fun c => (readFloat o.d.ovf c.1, c.2)

/-- The final output of a row's element: o × rc, or the special rows' values (R153, R154). -/
def chainY (c : ChainRow) (rc o : W32) : W32 :=
  if c.nan ∨ c.m = inf32 then nan32 else if c.m = ninf32 then 0 else fmul o rc

/-- A special row of a CHAIN: its own rule counts its events (R70, R154). -/
def chainSpecial (c : ChainRow) : Bool := c.nan || c.m = inf32 || c.m = ninf32

/-- The read-out tiles of a finished query tile, one for each tile of d. -/
def chainFinals (o : OpCtx) (it : List Nat) (rows : List ChainRow) (ov : List (List W32)) (nans : List Nat) : List ReadTile :=
  (List.range (chainTiles o)).map fun t =>
    { it := it.set ((roleLevel o.d 2).getD 0) t, fin := true,
      vals := (List.range 4096).map fun c =>
        let row := rows.getD (c / 64) { m := 0, s := 0, nan := false }
        chainY row (fdiv one32 row.s) ((ov.getD (c / 64) []).getD (64 * t + c % 64) 0),
      nan := ((List.range 4096).filter fun c =>
        nans.contains (4096 * t + c) && !chainSpecial (rows.getD (c / 64) { m := 0, s := 0, nan := false })) }

/-- The key tile is the last of its query tile. -/
def lastKey (o : OpCtx) (it : List Nat) : Bool :=
  match roleLevel o.d 2 with
  | some l => it.getD l 0 + 1 = levelCount o l
  | none => true

/-- What a key tile leaves: the rows, the running output, the cells of it that became NaN, and the counts. -/
structure ChainOut where
  rows : List ChainRow
  ov : List (List W32)
  nans : List Nat
  satur : Nat
  under : Nat

/-- The soft maximum's step on a score tile, the second product of P in its stored form, and the running output (R153). `o0` are the bytes
of the running output. -/
def chainMath (e : Env) (it : List Nat) (r : StageRec) (x : LaneTile) (pv : TileOut) (new : List ChainRow) (old : List ChainRow)
    (vs : List (List (List Val))) (o0 : List Byte) : ChainOut :=
  let o := e.o
  let lines := validOf o it 1
  let keys := validOf o it 2
  let first := roleIdx o it 2 = 0
  let row := fun (rs : List ChainRow) i => rs.getD i { m := 0, s := 0, nan := false }
  let us := vs.map fun v => chainU o r (tileVals r.fmt pv.bytes) v lines keys
  let uOf := fun i c => (us.getD (c / 64) []).getD (64 * i + c % 64) ({ bits := 0 }, false)
  let alpha := fun i => chainAlpha (row old i).m (row new i).m
  let oOld := fun i c => if first then 0 else oVal o o0 i c
  let ov := (List.range 64).map fun i => (List.range (chainD o)).map fun c =>
    fma (oOld i c) (alpha i) (BitVec.ofNat 32 (uOf i c).1.bits)
  let made := (List.range (64 * chainD o)).filter fun q =>
    let i := q / chainD o
    let c := q % chainD o
    (uOf i c).2 || (isNan32 ((ov.getD i []).getD c 0) &&
      !isNan32 (oOld i c) && !isNan32 (alpha i) && !isNan32 (BitVec.ofNat 32 (uOf i c).1.bits))
  { rows := new, ov := ov,
    nans := ((if first then [] else o.chainNan) ++
      made.map fun q => 4096 * (q % chainD o / 64) + 64 * (q / chainD o) + q % chainD o % 64).eraseDups
    satur := x.satur + pv.satur +
      ((List.range (lines * chainD o)).filter fun q => (uOf (q / chainD o) (q % chainD o)).1.sat).length
    under := pv.under }

/-- The stall and the operation after a key tile: P staged at VADDR, o at OBUF, the rows in the ledger, the beats of the second product,
which no MXFP4 pair spans (R90); after the last key tile, the final tiles (R153). -/
def chainPut (n p k : Nat) (e : Env) (it : List Nat) (r : StageRec) (pv : List (Nat × Byte)) (oCells : List (Nat × Byte)) (c : ChainOut)
    (s : State) : State :=
  let o := e.o
  let last := lastKey o it
  let lines := validOf o it 1
  let inf := if last then ((c.rows.take lines).filter fun c => !c.nan && c.m = inf32).length else 0
  let fin := if last then chainFinals o it c.rows c.ov c.nans else []
  let led := c.rows.zipIdx.foldl (fun t q => tset t (lbaseOf r + q.2)
    { st := 1, n := b2n q.1.nan, max := q.1.m, sum := q.1.s, row := 64 * roleIdx o it 1 + q.2 }) (stallP s p).ledger
  let led := if last then (List.range 64).foldl (fun t i => tdel t (lbaseOf r + i)) led else led
  let beats := (if halfPair r.fmt o.d.xfmt then 256 else 64) * chainTiles o
  let s := modStallP p (fun x => addBeats beats { x with
    scratch := memCells (memCells x.scratch pv) oCells, ledger := led, lastDesc := 0xFFFF,
    outQ := fin.map (fun _ => (o.desc, o.inst)) ++ x.outQ.erase (o.desc, o.inst) }) s
  let s := putOp p k (fun o => { o with
    readouts := fin ++ o.readouts.drop 1, chainNan := if last then [] else c.nans
    satur := o.satur + c.satur, under := o.under + c.under, nans := o.nans + inf }) s
  let s := (List.range (chainTiles o)).foldl (fun s t =>
    releaseOpnd n p k 3 (it.set ((roleLevel o.d 3).getD 0) t) none s) s
  fetchPump n p k s

/-- The tile's second product met an uncorrectable word (R88): its slot is POISONED, and the tile goes no further. -/
def chainPoisoned (x : Stall) (o : OpCtx) (it : List Nat) : Bool :=
  x.slots.any fun e => e.2.st == .poisoned && e.2.desc = o.desc && e.2.it = it

/-- One score tile of a CHAIN: the stages before SOFTMAX_CHAIN, the soft maximum's step, P, the second product and the running output
(R153); after the last key tile, its final tiles. -/
def chainStep (n p k : Nat) (rt : ReadTile) (uncorr : Bool) (s : State) : Got (State × Bool) :=
  let e := envAt s n p k
  let o := e.o
  let it := rt.it
  let t := tileNumber o it
  let lines := validOf o it 1
  let keys := validOf o it 2
  let g := epiEnv s e (walkC o.d) it t lines keys
  let (pre, sm, _) := chainSplit o.d
  match sm with
  | none => .wait
  | some r =>
    if chainPoisoned e.x o it then .wait
    else
      (epiStages s g t true pre.zipIdx ({ vals := lanes (readExact o.d rt.vals), nans := [] }, [])).bind fun x =>
        (vTiles s e it).bind fun vs => (freeSlot e).bind fun i => (oPlan e it r).bind fun oP =>
          let xr := fun i => (x.1.vals.getD i []).take keys
          let old := (List.range 64).map (chainRow e r (roleIdx o it 2 = 0))
          let new := old.zipIdx.map fun c => if c.2 < lines then chainFold c.1 (xr c.2) else c.1
          let pv := tileTo r.fmt r.rnd r.ovf (g.draw r.rnd (4 + pre.length)) lines keys
            ((List.range 64).map fun i =>
              (xr i).map fun v => val32 (chainP ((new.getD i { m := 0, s := 0, nan := false }).m) v))
          (scratchPlan e it r.vaddr pv.bytes.length).bind fun pP =>
            afterLedger n p k g x.2 s fun s =>
              if uncorr then
                .ok (modStallP p (fun x => { x with slots := tset x.slots i { st := .poisoned, desc := o.desc, it := it } }) s)
              else
                let c := chainMath e it r x.1 pv new old vs (planBytes e.x.scratch oP)
                .ok (freePair n p k t pre (chainPut n p k e it r (planCells pP pv.bytes)
                  (planCells oP (c.ov.flatMap fun row => row.flatMap fun v => leBytes 4 v.toNat)) c s))

/-- The oldest read-out tile of an operation is done: it leaves, and its slot becomes FREE, its contents 0 (R93). DESIGN CHOICE: the contents of a
FREE slot (log entry 36). -/
def tileDone (p k : Nat) (rt : ReadTile) (s : State) : State :=
  let o := (opsOf (stallP s p)).getD k {}
  putOp p k (fun o => { o with readouts := o.readouts.drop 1 })
    (modStallP p (fun x => { x with
      slots := match rt.slot with | some i => tdel x.slots i | none => x.slots
      outQ := x.outQ.erase (o.desc, o.inst) }) s)

/-- One final tile of a CHAIN through the stages after SOFTMAX_CHAIN to C (R152, R153). DESIGN CHOICE: with no stage after it, the
header's RND, OVF and CFMT convert y, as an empty list's readout (log entry 38). -/
def chainFinal (n p k : Nat) (rt : ReadTile) (s : State) : Got (State × Bool) :=
  let o := (envAt s n p k).o
  let (pre, _, post) := chainSplit o.d
  epiTile n p k (walkC o.d) rt.it (chainTileNo o rt.it) (validOf o rt.it 1) 64 post (pre.length + 1)
    (exact ((List.range 64).map fun i => (List.range 64).map fun j => rt.vals.getD (64 * i + j) 0)) rt.nan s

/-! ## EPILOGUE_RUN and PROLOGUE_RUN (R140, R143) -/

/-- The epilogue of the oldest read-out tile of operation `k`. -/
def epilogueOne (n p k : Nat) (uncorr : Bool) (s : State) : Got State :=
  let o := (envAt s n p k).o
  match o.readouts with
  | [] => .wait
  | t :: _ =>
    if t.fin then (chainFinal n p k t s).bind fun q => .ok (if q.2 then ledgerPump n p (tileDone p k t q.1) else q.1)
    else if o.d.opcode = 3 then
      (chainStep n p k t uncorr s).bind fun q =>
        let free := fun (s : State) => match t.slot with
          | some i => modStallP p (fun x => { x with slots := tdel x.slots i }) s
          | none => s
        .ok (if q.2 then ledgerPump n p (free q.1) else q.1)
    else
      (epilogue n p k t.it (readExact o.d t.vals) t.nan s).bind fun q => .ok (if q.2 then tileDone p k t q.1 else q.1)

/-- The operations whose tiles were read out, oldest tile first (R140). -/
def outOps (x : Stall) : List Nat :=
  (x.outQ.eraseDups).filterMap fun q => (findOp x fun o => o.desc = q.1 && o.inst = q.2).map (·.1)

/-- The epilogue of the oldest tile read out that does not wait (R140). -/
def epilogueStep (n p : Nat) (uncorr : Bool) (s : State) : Got State :=
  (outOps (stallP s p)).foldl (fun g k => match g with | .wait => epilogueOne n p k uncorr s | g => g) .wait

/-- The vector engine has no epilogue ready (R140). -/
def epilogueIdle (n p : Nat) (s : State) : Bool := match epilogueStep n p false s with | .wait => true | _ => false

/-- The prologue of the oldest landed tile that may run (R140, R143). -/
def prologueStep (n p : Nat) (s : State) : Got State := firstOp s p fun k => proOne n p k s

/-- The vector engine has neither an epilogue nor a prologue ready (R140). -/
def stagesIdle (n p : Nat) (s : State) : Bool :=
  epilogueIdle n p s && match prologueStep n p s with | .wait => true | _ => false

/-- The vector engine runs the epilogue of the oldest tile read out (R140). -/
def epilogueRun (n : Nat) (sram : Secded) (s : State) : State := onStall n sram s fun p => epilogueStep n p sram.uncorr s

/-- EPILOGUE_RUN (R140). -/
def execEpilogueRun (at_ : OnStall) (s : State) : Host.Outcome State Fault Refusal := .next (epilogueRun at_.stall at_.sram s)

/-- The prologue runs on a usable landed A tile, when no epilogue is ready (R140, R143). -/
def prologueRun (n : Nat) (sram : Secded) (s : State) : State :=
  onStall n sram s fun p => if epilogueIdle n p s then prologueStep n p s else .wait

/-- PROLOGUE_RUN (R143). -/
def execPrologueRun (at_ : OnStall) (s : State) : Host.Outcome State Fault Refusal := .next (prologueRun at_.stall at_.sram s)

/-! ## Pooling (R193) -/

/-- One tap of a pool folded in: maximum, or sum (R193). -/
def poolStep (mx : Bool) (r : FnRes) (x : W32) : FnRes :=
  if mx then { r with val := fmax r.val x }
  else
    let y := laneRes (fadd r.val x) [r.val, x]
    { y with made := y.made || r.made }

/-- The taps of one landed tile folded into the element of line `l` and the tile's channel; after the last, an average is multiplied by
the reciprocal of the count (R193). -/
def poolElem (o : OpCtx) (xs : List W32) (l : Nat) : FnRes :=
  let mx := convPool o.d = 1
  let first := roleIdx o o.it 3 = 0
  let r := (xs.take (validOf o o.it 3)).foldl (poolStep mx)
    { val := if first then (if mx then ninf32 else 0) else o.pool.getD (64 * l + o.it.getD 7 0) 0 }
  if mx || roleIdx o o.it 3 + 1 < ((roleLevel o.d 3).map (levelCount o)).getD 1 then r
  else
    let c := round32 (ratio false 1 (convTaps o.d) 0)
    let y := laneRes (fmul r.val c) [r.val, c]
    { y with made := y.made || r.made }

/-- A pool's folds after the landed A tile of its channel, and the cells that became NaN (R70, R193). -/
def poolFold (o : OpCtx) (a : List (List W32)) (nan : List Nat) : List W32 × List Nat :=
  let ch := o.it.getD 7 0
  let rs := (List.range (validOf o o.it 1)).map fun l => poolElem o (a.getD l []) l
  (rs.zipIdx.foldl (fun acc r => acc.set (64 * r.2 + ch) r.1.val) (if o.pool.isEmpty then List.replicate 4096 0 else o.pool),
   (o.poolNan ++ ((rs.zipIdx.filter fun r => r.1.made || nan.contains r.2).map fun r => 64 * r.2 + ch)).eraseDups)

/-- The landed tile is the last of a pool's output tile. -/
def poolLast (o : OpCtx) : Bool := lastK o o.it && o.it.getD 7 0 + 1 = validOf o o.it 2

/-- One landed A tile of a pool, the taps of one channel at 64 positions; the last of an output tile sends it through its epilogue list
(R191, R193; log entry 17). -/
def poolOne (n p k : Nat) (s : State) : Got State :=
  let e := envAt s n p k
  let o := e.o
  if !isPool o.d ∨ !o.walking ∨ o.takeWait then .wait
  else
    (aTile s e).bind fun a =>
      let r := poolFold o (lanes a.1) a.2
      let on := fun pool nan (s : State) =>
        advanceTo n p k [0] (nextIt o o.it) (putOp p k (fun o => { o with pool := pool, poolNan := nan }) s)
      if poolLast o then
        (epilogue n p k o.it (exact (chunks 64 r.1)) r.2 s).bind fun q => .ok (if q.2 then on [] [] q.1 else q.1)
      else .ok (on r.1 r.2 s)

/-! ## MATMUL, CONV, CHAIN start (R161, R163) -/

/-- A MATMUL starts (R84, R161). -/
def matmulStart (n : Nat) (s : State) : State := startOp n 1 (beginOp n) s

/-- MATMUL (R84). -/
def execMatmul (n : Nat) (s : State) : Host.Outcome State Fault Refusal := .next (matmulStart n s)

/-- A CONV: the next tile of a pool that runs, else the start of the next CONV (R184, R193). -/
def convRun (n : Nat) (s : State) : State :=
  match runningStall s n with
  | none => s
  | some (p, _) =>
    match (if stagesIdle n p s then firstOp s p fun k => poolOne n p k s else .wait) with
    | .wait => startOp n 2 (beginOp n) s
    | g => settle p s g

/-- CONV (R184). -/
def execConv (n : Nat) (s : State) : Host.Outcome State Fault Refusal := .next (convRun n s)

/-- A CHAIN starts (R153, R161). -/
def chainStart (n : Nat) (s : State) : State := startOp n 3 (beginOp n) s

/-- CHAIN (R153). -/
def execChain (n : Nat) (s : State) : Host.Outcome State Fault Refusal := .next (chainStart n s)

end Sys2Proof.Machine
end

