-- ==== Sys2Proof/Machine/Hash.lean ====
section
/-! DEFINITION. The two standard checks that spec/ names and does not define: SHA-256 (R209, R428, R434, R445) and CRC-32C
(R372, R392). PRESUMED: FIPS 180-4 and the Castagnoli polynomial (log entry 9). -/

namespace Sys2Proof.Machine

/-! ## CRC-32C -/

/-- One bit of the reflected CRC. -/
def crcBit (c : Nat) : Nat := if c % 2 = 1 then (c / 2) ^^^ 0x82F63B78 else c / 2

/-- One byte of the reflected CRC. -/
def crcByte (c : Nat) (b : Byte) : Nat :=
  crcBit (crcBit (crcBit (crcBit (crcBit (crcBit (crcBit (crcBit (c ^^^ b.toNat))))))))

/-- CRC-32C of a string of bytes. -/
def crc32c (bs : List Byte) : Nat := (bs.foldl crcByte 0xFFFFFFFF) ^^^ 0xFFFFFFFF

/-! ## SHA-256 -/

/-- The first 64 primes; a number below 361 is prime when no number from 2 to 17 divides it properly. -/
def shaPrimes : List Nat := ((List.range 310).map (· + 2)).filter fun n => (List.range 16).all fun d => n = d + 2 || n % (d + 2) ≠ 0

/-- The integer `e`-th root of `n`, built from its bits below `i` upon `r`. -/
def rootBits (e n : Nat) : Nat → Nat → Nat
  | 0, r => r
  | i + 1, r => rootBits e n i (if (r + 2 ^ i) ^ e ≤ n then r + 2 ^ i else r)

/-- The first 32 bits of the fractional part of the `e`-th root of `p`. -/
def rootFrac (e p : Nat) : W32 := BitVec.ofNat 32 (rootBits e (p * 2 ^ (32 * e)) 40 0)

/-- The initial hash value: the square roots of the first eight primes. -/
def shaInit : List W32 := (shaPrimes.take 8).map (rootFrac 2)

/-- The round constants: the cube roots of the first 64 primes. -/
def shaK : List W32 := shaPrimes.map (rootFrac 3)

/-- The big-endian word of four bytes. -/
def beWord (bs : List Byte) : W32 := BitVec.ofNat 32 (bs.foldl (fun a b => a * 256 + b.toNat) 0)

/-- `n` bytes of a number, most significant first. -/
def beBytes (n x : Nat) : List Byte := (leBytes n x).reverse

/-- The message schedule extended by one word. -/
def shaNext (w : List W32) (t : Nat) : List W32 :=
  let x := fun i => w.getD (t - i) 0
  let s0 := (x 15).rotateRight 7 ^^^ (x 15).rotateRight 18 ^^^ (x 15 >>> 3)
  let s1 := (x 2).rotateRight 17 ^^^ (x 2).rotateRight 19 ^^^ (x 2 >>> 10)
  w ++ [x 16 + s0 + x 7 + s1]

/-- One round over the eight working variables. -/
def shaRound (v : List W32) (kw : W32) : List W32 :=
  match v with
  | [a, b, c, d, e, f, g, h] =>
    let s1 := e.rotateRight 6 ^^^ e.rotateRight 11 ^^^ e.rotateRight 25
    let ch := (e &&& f) ^^^ (~~~e &&& g)
    let t1 := h + s1 + ch + kw
    let s0 := a.rotateRight 2 ^^^ a.rotateRight 13 ^^^ a.rotateRight 22
    let maj := (a &&& b) ^^^ (a &&& c) ^^^ (b &&& c)
    [t1 + s0 + maj, a, b, c, d + t1, e, f, g]
  | v => v

/-- One 64-byte block. -/
def shaBlock (h : List W32) (block : List Byte) : List W32 :=
  let w := (List.range' 16 48).foldl shaNext ((chunks 4 block).map beWord)
  let v := ((shaK.zip w).map fun p => p.1 + p.2).foldl shaRound h
  (h.zip v).map fun p => p.1 + p.2

/-- The padded message. -/
def shaPad (bs : List Byte) : List Byte :=
  let n := bs.length
  bs ++ [0x80] ++ zeros ((119 - n % 64) % 64) ++ beBytes 8 (8 * n)

/-- SHA-256 of a string of bytes, 32 bytes. -/
def sha256 (bs : List Byte) : List Byte :=
  ((chunks 64 (shaPad bs)).foldl shaBlock shaInit).flatMap fun w => beBytes 4 w.toNat

end Sys2Proof.Machine
end

