-- ==== Sys2Proof/Machine/Power.lean ====
section
/-! DEFINITION. The board's pins and resets (R29, R386, R515), the power states and yard gating (R407 to R416), sensors and
the thermal trip (R418 to R421). -/

namespace Sys2Proof.Machine

/-! ## Reset and pins (R29, R386, R495, R515) -/

/-- Fuses that an interrupted SVN_COMMIT leaves burned: some of those it had to burn, how many is not stated (R430; log
entry 1). -/
def burnedAtReset (s : State) : Nat × State :=
  match s.sec.run, s.sec.fw with
  | some (.svnCommit, _), some fw =>
    let fused := min 64 (Config.svnFused % 65 + s.sec.svnBurned)
    let (k, s) := takeFree s
    (s.sec.svnBurned + k % (fw.svn - fused + 1), s)
  | _, _ => (s.sec.svnBurned, s)

/-- An assertion of RESET_N (R29, R386): every register and memory returns to its reset state; the pins, the security fuses
and the queue of commands are outside the device's reset. -/
def resetState (s : State) : State :=
  let (burned, s) := burnedAtReset s
  { State.reset with
    pending := s.pending, free := s.free, pins := s.pins,
    sec := { ({} : SecBlk) with svnBurned := burned, epochsBurned := s.sec.epochsBurned } }

/-- RESET_N goes low (R29). -/
def resetAssert (s : State) : State := resetState { s with pins.resetN := false }

/-- RESET_N_ASSERT (R29). -/
def execResetNAssert (s : State) : Host.Outcome State Fault Refusal := .next (resetAssert s)

/-- The hub boot starts once RESET_N is released with PWRGD_AUX high (R386, R513). -/
def bootStart (s : State) : State :=
  if s.pins.resetN && s.pins.pwrgdAux then { s with dev.booting := true } else s

/-- RESET_N_RELEASE (R513). -/
def execResetNRelease (s : State) : Host.Outcome State Fault Refusal :=
  .next (if s.pins.resetN then s else bootStart { s with pins.resetN := true })

/-- PWRGD_AUX_RISE (R515). -/
def execPwrgdAuxRise (s : State) : Host.Outcome State Fault Refusal :=
  .next (if s.pins.pwrgdAux then s else bootStart { s with pins.pwrgdAux := true })

/-- PWRGD_AUX_FALL (R515): with RESET_N high it acts as an assertion of RESET_N. -/
def execPwrgdAuxFall (s : State) : Host.Outcome State Fault Refusal :=
  .next (if s.pins.resetN then resetState { s with pins.pwrgdAux := false } else { s with pins.pwrgdAux := false })

/-- PWRGD_CORE_RISE (R515): judged when a power command starts (R410). -/
def execPwrgdCoreRise (s : State) : Host.Outcome State Fault Refusal := .next { s with pins.pwrgdCore := true }

/-- HUB_BOOT_DONE (R388): the phase becomes BOOTED with the host link up on its four lowest wavelengths (R371), or
HUB_SELFTEST_FAIL is raised. -/
def hubBootEnds (ok : Bool) (s : State) : State :=
  if !s.dev.booting then s
  else
    let s := { s with dev.booting := false }
    if ok then
      modEngine 12 (fun e => { e with locked := 31, active := [0, 1, 2, 3], spare := some 4 })
        { s with bring.phase := .booted, host.up := true }
    else raiseHub 0x0A04 detN s

/-- HUB_BOOT_DONE (R388). -/
def execHubBootDone (ok : Bool) (s : State) : Host.Outcome State Fault Refusal := .next (hubBootEnds ok s)

/-! ## Supplies and sensors (R418 to R420) -/

/-- SUPPLY_RANGE (R419): raised once until reset; the device stops as for a thermal trip. -/
def supplyFault (which mv : Nat) (s : State) : State :=
  let s := { deviceStop s with pwr.tripped := true }
  if s.pwr.supplyLogged then s
  else raise 0x0702 8 which 0x7FF (detU which mv 0) { s with pwr.supplyLogged := true }

/-- THERMAL_TRIP (R420): the device stops, TRIPPED is set, and the record is raised once until reset. -/
def thermalTrip (die : Nat) (temp : Int) (s : State) : State :=
  let s := { deviceStop s with pwr.tripped := true }
  if s.pwr.thermalLogged then s
  else raise 0x0701 8 die 0x7FF (detU die (twos 32 temp) 0) { s with pwr.thermalLogged := true }

/-- PWRGD_CORE_FALL (R419, R515): while a barn is powered it raises SUPPLY_RANGE; in STANDBY or AUX it does nothing, and during a
transition it is judged when the next command starts. -/
def coreFall (s : State) : State :=
  let s' := { s with pins.pwrgdCore := false }
  if s.pins.pwrgdCore && barnsOn s then supplyFault 4 s.pwr.vcore s' else s'

/-- PWRGD_CORE_FALL (R419). -/
def execPwrgdCoreFall (s : State) : Host.Outcome State Fault Refusal := .next (coreFall s)

/-- The dies that are read: the hub, and the barns while powered (R418). -/
def poweredDies (s : State) : List Nat := if barnsOn s then [0, 1, 2, 3, 4] else [4]

/-- The first powered die at 115 °C or more (R420); readings are in units of 1/8 °C. -/
def hotDie (s : State) (temps : List Int) : Option Nat := (poweredDies s).find? fun d => 920 ≤ temps.getD d 0

/-- The first powered barn whose VCORE reads below 0.60 V or above 0.87 V (R419). -/
def badBarn (s : State) (vcore : List Nat) : Option Nat :=
  if barnsOn s then [0, 1, 2, 3].find? fun b => vcore.getD b 0 < 600 || 870 < vcore.getD b 0 else none

/-- The device takes its dies' sensor readings: thermal trip, then the VCORE range check (R418 to R420). -/
def sensorsRead (temps : List Int) (vcore : List Nat) (s : State) : State :=
  if !smbLive s then s
  else
    let s := match hotDie s temps with
      | some d => thermalTrip d (temps.getD d 0) s
      | none => s
    match badBarn s vcore with
    | some b => supplyFault b (vcore.getD b 0) s
    | none => s
where
  /-- The auxiliary supply is good and RESET_N is released. -/
  smbLive (s : State) : Bool := s.pins.resetN && s.pins.pwrgdAux

/-- SENSOR_SAMPLE (R418). -/
def execSensorSample (temps : List Int) (vcore : List Nat) (s : State) : Host.Outcome State Fault Refusal :=
  .next (sensorsRead temps vcore s)

/-- An average of 2^20 hub beats ends: PWR_MEAS, PWR_TEMP, HOT and VMISMATCH (R418). -/
def averageEnds (power : Nat) (temps : List Int) (vcore : List Nat) (s : State) : State :=
  if !(s.pins.resetN && s.pins.pwrgdAux) then s
  else
    let on := barnsOn s
    let ts := (List.range 5).map fun d => if d = 4 ∨ on then temps.getD d 0 else 0
    { s with
      pwr.power := power % 2 ^ 16
      pwr.vcore := if on then (vcore.take 4).foldl min (vcore.getD 0 0) else 0
      pwr.temps := ts
      pwr.updates := (s.pwr.updates + 1) % 2 ^ 32
      pwr.hot := ts.any fun t => 840 < t
      pwr.vmismatch := on && (vcore.take 4).any fun v => s.pwr.vset + 25 < v || v + 25 < s.pwr.vset }

/-- MEAS_AVERAGE (R418). -/
def execMeasAverage (power : Nat) (temps : List Int) (vcore : List Nat) (s : State) : Host.Outcome State Fault Refusal :=
  .next (averageEnds power temps vcore s)

/-! ## What a transition loses (R408, R409, R411, R496) -/

/-- A stall loses its scratch, slots, ledgers, tokens and instance counts with its yard's power (R408); its beat count
(R36) and its window's registers (R496) stay. -/
def clearStall (x : Stall) : Stall :=
  { ({} : Stall) with beats := x.beats, range := x.range, wrefused := x.wrefused, uncorr := x.uncorr,
                          space := x.space, offset := x.offset }

/-- The stalls of the yards in a mask lose their contents (R408). -/
def clearYards (mask : BitVec 40) (s : State) : State :=
  { s with stalls := s.stalls.map fun e => if mask.getLsbD (yardOf e.1) then (e.1, clearStall e.2) else e }

/-- What the target state loses, from the moment the transition starts (R409): stalls, counters and the fabric with the
barns and the hub die; every loft byte and the model cache on the way to AUX (R296, R408). -/
def losesAtStart (target : PState) (s : State) : State :=
  match target with
  | .idle => s
  | .standby =>
    { s with stalls := s.stalls.map (fun e => (e.1, clearStall e.2)), hubCtr := [], yardCtr := [], fab.net := [] }
  | .aux =>
    { s with stalls := s.stalls.map (fun e => (e.1, clearStall e.2)), hubCtr := [], yardCtr := [], fab.net := [],
             loft.mem := [], loft.poison := [] }

/-- The SYL block on entry to AUX: its policy and keys stay (R496). -/
def sylAtAux (x : SylBlk) : SylBlk :=
  { ({} : SylBlk) with lock := x.lock, require := x.require, keyv := x.keyv, keys := x.keys }

/-- The BRING block on entry to AUX: PHASE reads FW_OK, or stays REFUSED with REFUSAL (R411). -/
def bringAtAux (x : BringBlk) : BringBlk :=
  { ({} : BringBlk) with phase := if x.phase == .refused then .refused else .fwOk, refusal := x.refusal, ended := x.ended }

/-- Entry to AUX (R411, R496): the registers of SYL but for its policy and keys, of ROLL, RNG, LOFT, FAB, GATE, VID, CTX and
SNAP return to reset, and every bring-up result ends: the phase reads FW_OK, or stays REFUSED with REFUSAL. -/
def auxEntry (s : State) : State :=
  { s with
    syl := sylAtAux s.syl
    roll := {}
    rng := {}
    loft := {}
    fab := {}
    gate := { ({} : GateBlk) with engines := s.gate.engines.filter fun e => e.1 = 12 }
    vid := {}
    ctx := {}
    snap := { ({} : SnapBlk) with lost := s.snap.lost }
    pwr.yardOn := 0
    pwr.gating := 0
    pwr.ungating := 0
    pwr.waitingY := 0
    pwr.pendY := 0
    bring := bringAtAux s.bring }

/-! ## Commands (R409 to R414) -/

/-- PWR_CMD's OP of a state command. -/
def stateOp : PState → Nat
  | .aux => 1
  | .standby => 2
  | .idle => 3

/-- A power command fails its preconditions: RESULT is STATE, and POWER_COMMAND_REFUSED is logged (R410, R412). -/
def powerRefused (op tag : Nat) (s : State) : State :=
  raise 0x0703 8 4 0x7FF (detU op (pstateCode s) 0) { s with pwr.tag := tag, pwr.result := 2 }

/-- What STANDBY and AUX need: nothing live that they unpower (R410). -/
def quiet (s : State) : Bool :=
  !(s.gate.gates.any fun e => e.2.en) && s.vid.streams.all (fun e => e.2.st == .closed) &&
  s.syl.load.isNone && s.loft.zero.isNone && s.ctx.preempt.isNone && s.ctx.vac.isNone &&
  residentCount s = 0 && s.roll.entries.all (fun e => e.2.st == .free) && s.ctx.st == .run &&
  (s.snap.st == .off || s.snap.st == .armed)

/-- A state command meets its preconditions (R409, R410); after a trip AUX needs none (R421). -/
def stateAllowed (target : PState) (s : State) : Bool :=
  match target with
  | .idle => (s.pwr.st == .aux || s.pwr.st == .standby) && s.pins.pwrgdCore && !s.pwr.tripped
  | .standby => pstateCode s = 3 && quiet s && !s.pwr.tripped
  | .aux => s.pwr.tripped || ((pstateCode s = 3 || pstateCode s = 2) && quiet s)

/-- After a trip or a SUPPLY_RANGE, AUX discards every yard's move and every queued request as it starts (R421). -/
def dropMoves (s : State) : State :=
  if s.pwr.tripped then
    { s with pwr.pend := none, pwr.yardsQueued := none, pwr.gating := 0, pwr.ungating := 0, pwr.waitingY := 0, pwr.pendY := 0 }
  else s

/-- A transition starts: what its target loses is lost at once (R409). -/
def startState (target : PState) (s : State) : State := { losesAtStart target (dropMoves s) with pwr.moving := some target }

/-- Some yard is gating, ungating or waiting to ungate (R412). -/
def yardsMoving (s : State) : Bool := (s.pwr.gating ||| s.pwr.ungating ||| s.pwr.waitingY) ≠ 0

/-- AUX, STANDBY or IDLE written to PWR_CMD (R409 to R412, R421). -/
def stateCommand (target : PState) (tag : Nat) (s : State) : State :=
  if unitStopped s 8 4 then s
  else
  let ok := fun (s : State) => { s with pwr.tag := tag, pwr.result := 0 }
  if s.pwr.tripped ∧ target ≠ .aux then powerRefused (stateOp target) tag s
  else
    match s.pwr.moving with
    | some m => if m = target then ok { s with pwr.pend := none } else ok { s with pwr.pend := some (target, tag) }
    | none =>
      if yardsMoving s ∧ target ≠ .idle ∧ ¬ s.pwr.tripped then ok { s with pwr.pend := some (target, tag) }
      else if stateAllowed target s then ok (startState target s)
      else powerRefused (stateOp target) tag s

/-- PWR_AUX (R409). -/
def execPwrAux (view : View) (tag : Nat) (s : State) : Host.Outcome State Fault Refusal :=
  .next (regWrite view pwrBase (stateCommand .aux (tag % 256)) s)

/-- PWR_STANDBY (R409). -/
def execPwrStandby (view : View) (tag : Nat) (s : State) : Host.Outcome State Fault Refusal :=
  .next (regWrite view pwrBase (stateCommand .standby (tag % 256)) s)

/-- PWR_IDLE (R409). -/
def execPwrIdle (view : View) (tag : Nat) (s : State) : Host.Outcome State Fault Refusal :=
  .next (regWrite view pwrBase (stateCommand .idle (tag % 256)) s)

/-- A yard may be gated: no stall of it serves a resident image, and no BRING command runs on one (R414). -/
def yardFree (s : State) (y : Nat) : Bool :=
  !((residentStalls s).any fun n => (physOf s n).any fun p => yardOf p = y) &&
  (match s.bring.run with
   | some (.selftest, _) => !(s.bring.wave.any fun p => yardOf p = y)
   | some (.fwBcast, _) => false
   | _ => true)

/-- The mask of the yards for which `f` holds. -/
def yardMask (f : Nat → Bool) : BitVec 40 := BitVec.ofNat 40 (maskOf ((List.range 40).filter f))

/-- The yards waiting to ungate start in ascending number, at most one of each barn ungating at a time (R413). -/
def startUngates (s : State) : State :=
  let next := yardMask fun y =>
    s.pwr.waitingY.getLsbD y &&
    !((List.range 10).any fun i => s.pwr.ungating.getLsbD (y / 10 * 10 + i)) &&
    !((List.range (y % 10)).any fun i => s.pwr.waitingY.getLsbD (y / 10 * 10 + i))
  { s with pwr.ungating := s.pwr.ungating ||| next, pwr.waitingY := s.pwr.waitingY &&& ~~~next }

/-- YARDS as it starts (R413, R414): yards to gate are gated at once; yards to ungate wait their turn; a yard in motion
holds the request, or drops it when the motion already reaches it (R412). -/
def startYards (set : BitVec 40) (tag : Nat) (s : State) : State :=
  let moving := s.pwr.gating ||| s.pwr.ungating ||| s.pwr.waitingY
  let toGate := s.pwr.yardOn &&& ~~~set &&& ~~~moving
  let toUngate := set &&& ~~~s.pwr.yardOn &&& ~~~moving
  let reached := (s.pwr.gating &&& ~~~set) ||| ((s.pwr.ungating ||| s.pwr.waitingY) &&& set)
  if ¬ barnsOn s ∨ s.pwr.tripped ∨ ((List.range 40).any fun y => toGate.getLsbD y && !yardFree s y) then
    powerRefused 4 tag s
  else
    let s := clearYards toGate s
    startUngates { s with
      pwr.gating := s.pwr.gating ||| toGate
      pwr.waitingY := s.pwr.waitingY ||| toUngate
      pwr.pendY := (s.pwr.pendY &&& ~~~reached) ||| (moving &&& ~~~reached)
      pwr.pendTarget := (s.pwr.pendTarget &&& ~~~moving) ||| (set &&& moving)
      pwr.pendTag := tag }

/-- YARDS written to PWR_CMD: while a state transition runs it is queued yard by yard (R412). -/
def yardsCommand (tag : Nat) (s : State) : State :=
  if unitStopped s 8 4 then s
  else
  let s := { s with pwr.tag := tag, pwr.result := 0 }
  if s.pwr.moving.isSome ∧ ¬ s.pwr.tripped then
    { s with pwr.yardsQueued := some tag, pwr.pendTarget := s.pwr.yardSet, pwr.pendY := s.pwr.yardSet ^^^ s.pwr.yardOn }
  else startYards s.pwr.yardSet tag s

/-- PWR_YARDS (R413). -/
def execPwrYards (view : View) (tag : Nat) (s : State) : Host.Outcome State Fault Refusal :=
  .next (regWrite view pwrBase (yardsCommand (tag % 256)) s)

/-- A queued state request starts, its preconditions checked now (R412). -/
def startPending (s : State) : State :=
  match s.pwr.pend with
  | some (t, tag) =>
    let s := { s with pwr.pend := none }
    if stateAllowed t s then startState t s else powerRefused (stateOp t) tag s
  | none => s

/-- A YARDS queued behind a state transition starts once no transition runs (R412). -/
def startQueuedYards (s : State) : State :=
  match s.pwr.yardsQueued, s.pwr.moving with
  | some tag, none =>
    startYards s.pwr.pendTarget tag { s with pwr.yardsQueued := none, pwr.pendY := 0 }
  | _, _ => s

/-- An AUX, STANDBY or IDLE transition completes: the state takes effect, then a pending state request starts, then a
queued YARDS (R409, R411, R412). -/
def transitionDone (s : State) : State :=
  match s.pwr.moving with
  | none => s
  | some t =>
    let s := { s with pwr.st := t, pwr.moving := none }
    let s := match t with
      | .aux => auxEntry s
      | _ => s
    startQueuedYards (startPending s)

/-- POWER_TRANSITION_DONE (R409). -/
def execPowerTransitionDone (s : State) : Host.Outcome State Fault Refusal := .next (transitionDone s)

/-- The bit of yard `y`. -/
def yardBit (y : Nat) : BitVec 40 := 1#40 <<< y

/-- The request that yard `y` holds starts once its motion ends, its preconditions checked now (R412, R414). -/
def startPendingYard (y : Nat) (s : State) : State :=
  if !s.pwr.pendY.getLsbD y then s
  else
    let b := yardBit y
    let want := s.pwr.pendTarget.getLsbD y
    let s := { s with pwr.pendY := s.pwr.pendY &&& ~~~b }
    if want = s.pwr.yardOn.getLsbD y then s
    else if ¬ barnsOn s ∨ s.pwr.tripped ∨ (¬ want ∧ ¬ yardFree s y) then powerRefused 4 s.pwr.pendTag s
    else if want then startUngates { s with pwr.waitingY := s.pwr.waitingY ||| b }
    else { clearYards b s with pwr.gating := s.pwr.gating ||| b }

/-- Once every yard has finished moving, a pending state request starts (R412). -/
def afterYard (s : State) : State := if yardsMoving s then s else startPending s

/-- Yard `y` completes its gating (R413). -/
def gateDone (y : Nat) (s : State) : State :=
  if !s.pwr.gating.getLsbD y then s
  else
    let b := yardBit y
    afterYard (startPendingYard y
      { s with pwr.gating := s.pwr.gating &&& ~~~b, pwr.yardOn := s.pwr.yardOn &&& ~~~b })

/-- YARD_GATE_DONE (R413). -/
def execYardGateDone (y : Nat) (s : State) : Host.Outcome State Fault Refusal := .next (gateDone y s)

/-- Yard `y` completes ungating with its memories zeroed, and the next yard of its barn starts (R413). -/
def ungateDone (y : Nat) (s : State) : State :=
  if !s.pwr.ungating.getLsbD y then s
  else
    let b := yardBit y
    let s := clearYards b { s with pwr.ungating := s.pwr.ungating &&& ~~~b, pwr.yardOn := s.pwr.yardOn ||| b }
    afterYard (startPendingYard y (startUngates s))

/-- YARD_UNGATE_DONE (R413). -/
def execYardUngateDone (y : Nat) (s : State) : Host.Outcome State Fault Refusal := .next (ungateDone y s)

end Sys2Proof.Machine
end

