-- ==== Sys2Proof/Machine/BringUp.lean ====
section
/-! DEFINITION. Bring-up and defect hiding (R388 to R406) and errors in drill mode (R27). -/

namespace Sys2Proof.Machine

/-! ## The command engine (R391) -/

/-- A BRING command completes with a result. -/
def bringDone (tag result : Nat) (s : State) : State := { s with bring.tag := tag, bring.result := result }

/-- PHASE's code (R391). -/
def phaseCode : Phase → Nat
  | .reset => 0 | .booted => 1 | .fwOk => 2 | .fused => 3 | .testing => 4 | .reconciled => 5 | .broadcast => 6
  | .main => 7 | .loftOk => 8 | .qualified => 9 | .ready => 10 | .drillReturn => 11 | .refused => 15

/-- A BRING command is written (R388 to R391): dropped with OVERRUN while one runs; STATE in a phase that does not accept
it, in REFUSED, and after a DEVICE-class fault; else `f` runs. A bring-up engine that an error in drill mode stopped does nothing (R27). -/
def bringCmd (tag : Nat) (accept : State → Bool) (f : State → State) (s : State) : State :=
  if unitStopped s 9 0 then s
  else if s.bring.run.isSome then { s with bring.overrun := true }
  else if s.bring.ended ∨ s.bring.phase == .refused ∨ !accept s then bringDone tag 2 s
  else f s

/-- The BRING command that runs; none goes on once an error in drill mode has stopped the bring-up engine (R27). -/
def bringRun (s : State) : Option (BringOp × Nat) := if unitStopped s 9 0 then none else s.bring.run

/-- Every gate goes OFF and stays so (R389). -/
def gatesOff (s : State) : State :=
  { s with gate.gates := s.gate.gates.map fun e => (e.1, { e.2 with en := false, st := .off, keep := false }) }

/-- A HOLD-class fault of bring-up refuses the device (R389): phase REFUSED with the code, the command's result FAULT. -/
def refuse (code tag : Nat) (detail : List Byte) (s : State) : State :=
  let s := raise code 9 0 0x7FF detail s
  gatesOff (bringDone tag 4 { s with bring.phase := .refused, bring.refusal := code, bring.run := none })

/-- One DEFECT_DISAGREE: raised and counted, saturating (R397, R403). -/
def disagree (sel v : Nat) (s : State) : State :=
  raise 0x0A02 9 0 0x7FF (detU sel v 0) { s with bring.disagree := sat 16 (s.bring.disagree + 1) }

/-! ## FUSE_READ (R392, R393) -/

/-- A fuse map copy passes its CRC. -/
def fuseCrcOk (c : List Byte) : Bool := crc32c (slice c 0 21548) = leAt c 21548 4

/-- Stall entry `p` of a fuse map copy. -/
def fuseStall (c : List Byte) (p : Nat) : Nat := leAt c (16 + 4 * p) 4
/-- Loft entry `i` of a fuse map copy. -/
def fuseLoft (c : List Byte) (i : Nat) : Nat := leAt c (5136 + 4 * i) 4
/-- The used loft entries of a copy. -/
def fuseCount (c : List Byte) : Nat := leAt c 4 2

/-- A spare field names a row or column, or none (R391, R392). -/
def spareField (v : Nat) : Bool := v < 66 || v = 0x7F

/-- The chosen copy is well formed (R392). -/
def fuseMapOk (c : List Byte) : Bool :=
  byteAt c 0 = 0x46 && byteAt c 1 = 0x4D && byteAt c 2 = 1 && fuseCount c ≤ 4096 &&
  ((List.range 4096).all fun i => i < fuseCount c || fuseLoft c i = 0) &&
  ((List.range 1280).all fun p => [0, 7, 14, 21].all fun o => spareField (bits (fuseStall c p) (o + 6) o))

/-- The steering and the retired mark of every stall (R393). -/
def fusePst (c : List Byte) (t : Table Pst) : Table Pst :=
  (List.range 1280).foldl (fun t p =>
    let w := fuseStall c p
    tmod {} t p fun x => { x with rs0 := bits w 6 0, rs1 := bits w 13 7, cs0 := bits w 20 14, cs1 := bits w 27 21,
                                  fuseBad := w.testBit 28, retired := w.testBit 28 }) t

/-- The retired exposed pages, as barn, slice, page (R392). -/
def fusePages (c : List Byte) : List (Nat × Nat × Nat) :=
  (List.range (fuseCount c)).map fun i =>
    let w := fuseLoft c i
    (bits w 31 30, bits w 29 21, bits w 15 0)

/-- The fuse map applied (R393). -/
def fuseApply (c : List Byte) (s : State) : State :=
  { s with
    bring.pst := fusePst c s.bring.pst
    bring.fuseRemap := fusePages c
    bring.opt := (List.range 14).foldl (fun t e =>
      tmod {} t e fun o => { o with fuseBad := leAt c (21520 + 2 * e) 2 % 512 }) s.bring.opt
    bring.phase := .fused }

/-- FUSE_READ (R392): copy A if its CRC passes, else copy B. -/
def fuseRead (tag : Nat) (a b : List Byte) : State → State :=
  bringCmd tag (fun s => s.bring.phase == .fwOk) fun s =>
    let c := if fuseCrcOk a then a else b
    if fuseCrcOk c && fuseMapOk c then bringDone tag 0 (fuseApply c s)
    else refuse 0x0A03 tag detN s

/-- BRING_FUSE_READ (R392). -/
def execBringFuseRead (view : View) (tag : Nat) (copyA copyB : List Byte) (s : State) :
    Host.Outcome State Fault Refusal :=
  .next (regWrite view bringBase (fuseRead (tag % 256) copyA copyB) s)

/-! ## SELFTEST (R394 to R396) -/

/-- The stalls marked in BRING_WAVE_w. -/
def markedStalls (s : State) : List Nat :=
  (List.range 1280).filter fun p => (tget 0 s.bring.waves (p / 64)).getLsbD (p % 64)

/-- The wave limits (R394). -/
def waveInvalid (w : List Nat) : Bool :=
  w.isEmpty || 80 < w.length || [0, 1, 2, 3].any fun b => 20 < (w.filter fun p => barnOf p = b).length

/-- SELFTEST (R394). -/
def selftest (tag : Nat) : State → State :=
  bringCmd tag (fun s => s.bring.phase == .fused || s.bring.phase == .testing) fun s =>
    let w := markedStalls s
    if waveInvalid w then bringDone tag 5 s
    else if w.any fun p => !yardUp s (yardOf p) || (pstAt s p).test ≠ .untested then bringDone tag 2 s
    else
      { s with
        bring.run := some (.selftest, tag)
        bring.wave := w
        bring.pst := w.foldl (fun t p => tmod {} t p fun x => { x with test := .running }) s.bring.pst }

/-- BRING_SELFTEST (R394). -/
def execBringSelftest (view : View) (tag : Nat) (s : State) : Host.Outcome State Fault Refusal :=
  .next (regWrite view bringBase (selftest (tag % 256)) s)

/-- TEST's value of a reported result (R395). -/
def testOf : TestResult → TestState
  | .pass => .pass
  | .failArray => .failArray
  | .failMemory => .failMemory
  | .failVector => .failVector
  | .failOther => .failOther

/-- The wave completes once no stall of it is RUNNING (R394). -/
def waveEnds (s : State) : State :=
  match bringRun s with
  | some (.selftest, tag) =>
    if s.bring.wave.any fun p => (pstAt s p).test == .running then s
    else bringDone tag 0 { s with bring.run := none, bring.wave := [], bring.phase := .testing }
  | _ => s

/-- Stall `p` of the running wave reports (R395); a stall stopped by a drill-mode error sends nothing (R27). -/
def stallReport (p : Nat) (r : TestResult) (s : State) : State :=
  match bringRun s with
  | some (.selftest, _) =>
    if (pstAt s p).test == .running ∧ !(pstAt s p).drillStop then
      waveEnds { s with bring.pst := tmod {} s.bring.pst p fun x => { x with test := testOf r } }
    else s
  | _ => s

/-- SELFTEST_STALL_REPORT (R395). -/
def execSelftestStallReport (p : Nat) (r : TestResult) (s : State) : Host.Outcome State Fault Refusal :=
  .next (stallReport p r s)

/-- ABORT (R396): the running wave completes at once, and every stall still RUNNING is FAIL_OTHER. -/
def bringAbort (tag : Nat) (s : State) : State :=
  match bringRun s with
  | some (.selftest, _) =>
    bringDone tag 0 { s with
      bring.run := none, bring.wave := [], bring.phase := .testing
      bring.pst := s.bring.pst.map fun e =>
        (e.1, if e.2.test == .running then { e.2 with test := .failOther } else e.2) }
  | some _ => { s with bring.overrun := true }
  | none => if unitStopped s 9 0 then s else bringDone tag 2 s

/-- BRING_ABORT (R396). -/
def execBringAbort (view : View) (tag : Nat) (s : State) : Host.Outcome State Fault Refusal :=
  .next (regWrite view bringBase (bringAbort (tag % 256)) s)

/-! ## The logical map (R14, R397, R398) -/

/-- Physical stall `p` is healthy: not retired. -/
def healthy (t : Table Pst) (p : Nat) : Bool := !(tget {} t p).retired

/-- The home position of logical stall `n` (R14). -/
def homeOf (n : Nat) : Nat := 32 * (n / 30) + n % 30

/-- The positions R14 tries for logical stall `n`, in order: home; positions 30 and 31 of the same yard; the spare positions
of the barn, lowest first. -/
def candidates (n : Nat) : List Nat :=
  let y := n / 30
  let b := n / 300
  [homeOf n, 32 * y + 30, 32 * y + 31] ++ (List.range 10).flatMap fun i => [32 * (10 * b + i) + 30, 32 * (10 * b + i) + 31]

/-- The physical stall R14 chooses for logical stall `n` among the healthy stalls not in use. -/
def place (t : Table Pst) (used : List Nat) (n : Nat) : Option Nat :=
  (candidates n).find? fun p => healthy t p && !used.contains p

/-- The logical map: logical stalls in ascending order (R398). -/
def buildMap (t : Table Pst) : List (Nat × Nat) :=
  (List.range 1200).foldl (fun m n =>
    match place t (m.map (·.2)) n with
    | some p => m ++ [(n, p)]
    | none => m) []

/-- LOGICAL written from a map of logical to physical stalls. -/
def setMap (m : List (Nat × Nat)) (t : Table Pst) : Table Pst :=
  m.foldl (fun t e => tmod {} t e.2 fun x => { x with logical := some e.1 }) t

/-- A test failed (R397). -/
def testFailed : TestState → Bool
  | .failArray | .failMemory | .failVector | .failOther | .failFw => true
  | _ => false

/-- R397's outcome for one stall: retired by fuse or by its test. -/
def reconciled (x : Pst) : Pst := { x with retired := x.fuseBad || testFailed x.test }

/-- R397's table counts a DEFECT_DISAGREE for the stall. -/
def disagrees (x : Pst) : Bool := if x.fuseBad then x.test == .pass else testFailed x.test

/-- RECONCILE (R397, R398). -/
def reconcile (tag : Nat) : State → State :=
  bringCmd tag (fun s => s.bring.phase == .testing && (List.range 1280).all fun p =>
      (pstAt s p).fuseBad || (pstAt s p).test ≠ .untested) fun s =>
    let t := (List.range 1280).foldl (fun t p => tmod {} t p reconciled) s.bring.pst
    let short := [0, 1, 2, 3].find? fun b =>
      ((List.range 320).filter fun i => healthy t (320 * b + i)).length < 300
    let s' := ((List.range 1280).filter fun p => disagrees (pstAt s p)).foldl (fun s p => disagree 0 p s) s
    match short with
    | some b => refuse 0x0A01 tag (detU b 0xFF 0) { s' with bring.pst := t }
    | none => bringDone tag 0 { s' with bring.pst := setMap (buildMap t) t, bring.phase := .reconciled }

/-- BRING_RECONCILE (R397). -/
def execBringReconcile (view : View) (tag : Nat) (s : State) : Host.Outcome State Fault Refusal :=
  .next (regWrite view bringBase (reconcile (tag % 256)) s)

/-! ## FW_BCAST (R399) -/

/-- FW_BCAST (R399) is accepted in RECONCILED, and in DRILL_RETURN (R405). -/
def fwBcast (tag : Nat) : State → State :=
  bringCmd tag (fun s => s.bring.phase == .reconciled || s.bring.phase == .drillReturn) fun s =>
    { s with bring.run := some (.fwBcast, tag) }

/-- BRING_FW_BCAST (R399). -/
def execBringFwBcast (view : View) (tag : Nat) (s : State) : Host.Outcome State Fault Refusal :=
  .next (regWrite view bringBase (fwBcast (tag % 256)) s)

/-- How often the firmware digest of physical stall `p` fails: of the check after the broadcast and of those after the
three repairs. -/
def failsOf (fs : List (Nat × Nat)) (p : Nat) : Nat := min 4 (((fs.find? fun x => x.1 = p).map (·.2)).getD 0)

/-- The FW_STALL_DIGEST records of stall `p`, one per failed check in a span of repair numbers (R399); a stopped stall sends none (R27). -/
def digestFails (lo hi : Nat) (fs : List (Nat × Nat)) (s : State) (p : Nat) : State :=
  if (pstAt s p).drillStop then s
  else ((List.range (failsOf fs p)).filter fun k => lo ≤ k && k < hi).foldl (fun s k => raiseStall 0x0604 p (detU k 0 0) s) s

/-- A stall retired by the broadcast (R399). -/
def retireFw (x : Pst) : Pst := { x with test := .failFw, retired := true, logical := none }

/-- Logical stall `n` is moved by R14 until its new stall holds the image; a new stall that fails all three repairs is
retired in turn. False when the barn has no healthy stall left (R399). By fuel. -/
def moveStall : Nat → List (Nat × Nat) → Nat → State → State × Bool
  | 0, _, _, s => (s, false)
  | f + 1, fs, n, s =>
    let used := (s.bring.pst.filter fun e => e.2.logical.isSome).map (·.1)
    match place s.bring.pst used n with
    | none => (s, false)
    | some q =>
      let s := digestFails 0 4 fs { s with bring.pst := tmod {} s.bring.pst q fun x => { x with logical := some n } } q
      if failsOf fs q < 4 then
        ({ s with bring.pst := tmod {} s.bring.pst q fun x => { x with fw := !x.drillStop } }, true)
      else moveStall f fs n { s with bring.pst := tmod {} s.bring.pst q retireFw }

/-- The moves of the logical stalls in `ns`, in ascending order; on exhaustion, the barn that ran out. -/
def moveAll (fs : List (Nat × Nat)) : List Nat → State → State × Option Nat
  | [], s => (s, none)
  | n :: r, s =>
    match moveStall 320 fs n s with
    | (s, true) => moveAll fs r s
    | (s, false) => (s, some (n / 300))

/-- FW_BCAST finishes (R399): digest failures are reported, after the broadcast and then stall by stall as the hub repairs them; stalls that fail three repairs are retired and
their logical stalls moved. In DRILL_RETURN no stall is retired, and MAIN is barred until reset (R405). DEDUCED: a stall that an error in
drill mode has stopped takes no part, and keeps the firmware it holds (R27; log entry 52). -/
def bcastEnds (fs : List (Nat × Nat)) (s : State) : State :=
  match bringRun s with
  | some (.fwBcast, tag) =>
    let serving := (s.bring.pst.filter fun e => e.2.logical.isSome && !e.2.drillStop).map (·.1)
    let s := { s with bring.run := none }
    let s1 := serving.foldl (digestFails 1 4 fs) (serving.foldl (digestFails 0 1 fs) s)
    let bad := serving.filter fun p => 4 ≤ failsOf fs p
    let s2 := { s1 with bring.pst := serving.foldl (fun t p =>
      tmod {} t p fun x => { x with fw := failsOf fs p < 4 }) s1.bring.pst }
    if s.bring.phase == .drillReturn then
      bringDone tag 0 (if bad.isEmpty then s2 else { s2 with bring.drillFail := true })
    else
      let ns := (bad.map fun p => logOf s p).mergeSort
      let s3 := { s2 with bring.pst := bad.foldl (fun t p => tmod {} t p retireFw) s2.bring.pst }
      match moveAll fs ns s3 with
      | (s4, none) => bringDone tag 0 { s4 with bring.phase := .broadcast }
      | (s4, some b) => refuse 0x0A01 tag (detU b 0xFF 0) s4
  | _ => s

/-- FW_BCAST_DONE (R399). -/
def execFwBcastDone (failures : List (Nat × Nat)) (s : State) : Host.Outcome State Fault Refusal :=
  .next (bcastEnds failures s)

/-! ## MAIN, LOFT_TEST, LINK_QUAL, READY, DRILL (R400 to R406) -/

/-- The map entries installed in every network interface (R304). -/
def installMap (s : State) : State :=
  { s with
    fab.lmap := (List.range 1200).filterMap fun n => (physOf s n).map fun p => (n, 0x8000 + p)
    fab.mapped := true }

/-- MAIN (R400, R405). -/
def toMain (tag : Nat) : State → State :=
  bringCmd tag (fun s => s.bring.phase == .broadcast || (s.bring.phase == .drillReturn && !s.bring.drillFail)) fun s =>
    let back := s.bring.phase == .drillReturn
    let s := installMap { s with bring.main := true, bring.drill := false }
    bringDone tag 0 { s with bring.phase := if back then .ready else .main, bring.ready := back }

/-- BRING_MAIN (R400). -/
def execBringMain (view : View) (tag : Nat) (s : State) : Host.Outcome State Fault Refusal :=
  .next (regWrite view bringBase (toMain (tag % 256)) s)

/-- LOFT_TEST (R401, R405): once after each reset or entry to AUX, with the loft powered. -/
def loftTest (tag : Nat) : State → State :=
  bringCmd tag (fun s => s.bring.phase == .main && !s.bring.loftTested && !s.bring.wasReady && barnsOn s) fun s =>
    { s with bring.run := some (.loftTest, tag) }

/-- BRING_LOFT_TEST (R401). -/
def execBringLoftTest (view : View) (tag : Nat) (s : State) : Host.Outcome State Fault Refusal :=
  .next (regWrite view bringBase (loftTest (tag % 256)) s)

/-- The controller of a slice, 8 × barn + ⌊slice/40⌋ (R298). -/
def ctrlOf (barn slice : Nat) : Nat := 8 * barn + slice / 40

/-- The first controller whose remaps need more than the spare pages that passed (R298, R401). -/
def exhausted (remaps spares : List (Nat × Nat × Nat)) : Option Nat :=
  (List.range 32).find? fun c =>
    131072 - (spares.filter fun x => ctrlOf x.1 x.2.1 = c).length <
      (remaps.filter fun x => ctrlOf x.1 x.2.1 = c).length

/-- LOFT_TEST finishes (R401): failing spare pages are never used, failing exposed pages are remapped, and on success every
exposed word is zero with no poison. Pages are named by barn, slice and page. -/
def loftTestEnds (pages spares : List (Nat × Nat × Nat)) (s : State) : State :=
  match s.bring.run with
  | some (.loftTest, tag) =>
    let s := { s with bring.run := none }
    let new := pages.filter fun x => !s.bring.fuseRemap.contains x
    match exhausted (s.bring.fuseRemap ++ new) spares with
    | some c => refuse 0x0A01 tag (detU (c / 8) (c % 8) 0) s
    | none =>
      bringDone tag 0 { s with
        bring.volRemap := new, bring.spareBad := spares, bring.loftTested := true, bring.phase := .loftOk
        loft.mem := [], loft.poison := [] }
  | _ => s

/-- LOFT_TEST_DONE (R401). -/
def execLoftTestDone (pages spares : List (Nat × Nat × Nat)) (s : State) : Host.Outcome State Fault Refusal :=
  .next (loftTestEnds pages spares s)

/-- The gates that ARG selects (R391): GATES is bits 11:0 of ARG. -/
def qualGates (arg : Nat) : List Nat := setBits 12 arg

/-- LINK_QUAL (R402): in LOFT_OK or QUALIFIED; in READY for gates alone, each with EN = 0; INVALID when nothing is
selected. -/
def linkQual (tag arg : Nat) : State → State :=
  bringCmd tag (fun s => s.bring.phase == .loftOk || s.bring.phase == .qualified ||
      (s.bring.phase == .ready && bits arg 14 12 = 0 && (qualGates arg).all fun g => !(gateAt s g).en)) fun s =>
    if bits arg 14 0 = 0 then bringDone tag 5 s
    else { s with bring.run := some (.linkQual arg, tag) }

/-- BRING_LINK_QUAL (R402). -/
def execBringLinkQual (view : View) (tag : Nat) (arg : Nat) (s : State) : Host.Outcome State Fault Refusal :=
  .next (regWrite view bringBase (linkQual (tag % 256) arg) s)

/-- The measurements of one optical engine recorded in BRING_OPT_e; one on which no wavelength locks stays UNQUALIFIED; a
fuse-bad wavelength that passes counts one DEFECT_DISAGREE (R403). -/
def recordEngine (q : EngineQual) (s : State) : State :=
  let e := q.engine
  let all := 2 ^ lanesOf e - 1
  let old := optAt s e
  if !q.lit then { s with bring.opt := tset s.bring.opt e { old with tested := 0, fail := 0, txfail := 0, worst := 0 } }
  else
    let new := { old with tested := all, fail := q.failMask % (all + 1), txfail := q.txfailMask % (all + 1),
                          worst := sat 32 q.worst }
    let s := { s with bring.opt := tset s.bring.opt e new }
    ((List.range (lanesOf e)).filter fun w => old.fuseBad.testBit w && !q.failMask.testBit w).foldl
      (fun s w => disagree 1 (16 * e + w) s) s

/-- The lowest wavelength of an engine that is not good, 0xF when every one is (R404). -/
def worstLane (s : State) (e : Nat) : Nat :=
  ((List.range (lanesOf e)).find? fun w => !(goodLanes s e).contains w).getD 0xF

/-- An engine fails qualification: too few good wavelengths (R404); an unlit gate is left UNQUALIFIED without a fault. -/
def engineFails (s : State) (q : EngineQual) : Bool :=
  decide ((goodLanes s q.engine).length < activeLanes q.engine) && (q.lit || decide (12 ≤ q.engine))

/-- LINK_QUALIFY_FAIL of one part (R404). -/
def qualFail (gate wl : Nat) (s : State) : State := raise 0x0506 9 0 0x7FF (detG gate wl 0 0x7FF) s

/-- The host engine's four lowest good wavelengths become active (R403). -/
def hostLanes (s : State) : State :=
  let good := goodLanes s 12
  modEngine 12 (fun e => { e with active := good.take 4, spare := good[4]?, spared := (good.take 4).contains 4 }) s

/-- LINK_QUAL finishes (R402 to R404): the selected parts' measurements are recorded whatever the result; failing parts
raise LINK_QUALIFY_FAIL; an internal, host or store failure refuses the device. -/
def qualEnds (r : LinkResults) (s : State) : State :=
  match s.bring.run with
  | some (.linkQual arg, tag) =>
    let s := { s with bring.run := none }
    let sel := qualGates arg ++ (if arg.testBit 13 then [12] else []) ++ (if arg.testBit 14 then [13] else [])
    let qs := r.engines.filter fun q => sel.contains q.engine
    let s := qs.foldl (fun s q => recordEngine q s) s
    let internal := arg.testBit 12
    let s := if internal then
        { s with bring.intDone := true, bring.ringFail := r.ringFail % 256, bring.hubFail := r.hubFail % 256,
                 bring.vlinkFail := r.vlinkFail }
      else s
    let bad := qs.filter fun q => engineFails s q
    let intBad := internal ∧ (r.ringFail % 256 ≠ 0 ∨ r.hubFail % 256 ≠ 0 ∨ r.vlinkFail ≠ [])
    let s := bad.foldl (fun s q => qualFail q.engine (worstLane s q.engine) s) s
    let s := if intBad then qualFail 0xFF 0xF s else s
    let passed := fun e => qs.any fun q => q.engine = e && !engineFails s q
    let s := { s with
      bring.intPass := s.bring.intPass || (internal && !decide intBad)
      bring.hostPass := s.bring.hostPass || passed 12
      bring.storePass := s.bring.storePass || passed 13
      snap.link := s.snap.link || (passed 13 && !s.snap.lost) }
    let s := if passed 12 then hostLanes s else s
    if intBad ∨ bad.any fun q => 12 ≤ q.engine then
      gatesOff (bringDone tag 4 { s with bring.phase := .refused, bring.refusal := 0x0506 })
    else
      let up := s.bring.phase == .loftOk && s.bring.intPass && s.bring.hostPass && s.bring.storePass
      bringDone tag (if bad.isEmpty then 0 else 4) { s with bring.phase := if up then .qualified else s.bring.phase }
  | _ => s

/-- LINK_QUAL_DONE (R404). -/
def execLinkQualDone (results : LinkResults) (s : State) : Host.Outcome State Fault Refusal := .next (qualEnds results s)

/-- What READY confirms (R516's heading): every logical stall mapped with verified firmware, the loft tested, the internal
links, the host engine and the store engine qualified. -/
def readyConfirms (s : State) : Bool :=
  ((List.range 1200).all fun n => (physOf s n).any fun p => (pstAt s p).fw) && s.bring.loftTested && s.bring.intPass &&
  s.bring.hostPass && s.bring.storePass

/-- READY (R388, R516). -/
def bringReady (tag : Nat) : State → State :=
  bringCmd tag (fun s => s.bring.phase == .qualified && readyConfirms s) fun s =>
    bringDone tag 0 { s with bring.ready := true, bring.wasReady := true, bring.phase := .ready }

/-- BRING_READY (R516). -/
def execBringReady (view : View) (tag : Nat) (s : State) : Host.Outcome State Fault Refusal :=
  .next (regWrite view bringBase (bringReady (tag % 256)) s)

/-- DRILL (R405): in READY; BUSY unless the device is in IDLE, unowned and unloaded. -/
def drill (tag : Nat) : State → State :=
  bringCmd tag (fun s => s.bring.phase == .ready) fun s =>
    if pstateCode s = 3 ∧ s.pwr.moving.isNone ∧ !s.sec.owned ∧ residentCount s = 0 then
      bringDone tag 0 { s with bring.ready := false, bring.main := false, bring.drill := true,
                               bring.phase := .drillReturn }
    else bringDone tag 1 s

/-- BRING_DRILL (R405). -/
def execBringDrill (view : View) (tag : Nat) (s : State) : Host.Outcome State Fault Refusal :=
  .next (regWrite view bringBase (drill (tag % 256)) s)

/-- UNIT_RESET (R406): clears the drill-mode stop of a physical stall; a stall number out of range is INVALID (R391). -/
def unitReset (tag p : Nat) : State → State :=
  bringCmd tag (fun s => s.bring.drill) fun s =>
    if 1280 ≤ p then bringDone tag 5 s
    else bringDone tag 0 { s with bring.pst := tmod {} s.bring.pst p fun x => { x with drillStop := false } }

/-- BRING_UNIT_RESET (R406). -/
def execBringUnitReset (view : View) (tag : Nat) (p : Nat) (s : State) : Host.Outcome State Fault Refusal :=
  .next (regWrite view bringBase (unitReset (tag % 256) p) s)

/-! ## Errors in drill mode (R27) -/

/-- The codes whose DETAIL is an address (R488). -/
def addressCodes : List Nat := [0x0401, 0x0402, 0x0403, 0x0404, 0x0501]

/-- A unit has stopped on an error in drill mode (R27). -/
def unitDown (s : State) (source unit : Nat) : Bool :=
  if source = 0 then (pstAt s unit).drillStop else unitStopped s source unit

/-- A unit that detects an error in drill mode sends its record and stops until UNIT_RESET or reset; a corrected word and a
firmware digest failure stop no unit, and one that has stopped does nothing more (R27). -/
def drillError (source unit code addr : Nat) (s : State) : State :=
  if !s.bring.drill || unitDown s source unit then s
  else
    let det := if addressCodes.contains code then detA addr 0 else detN
    let lst := if source = 0 then logOf s unit else 0x7FF
    let s := raise code source unit lst det s
    if code = 0x0604 ∨ code = 0x0401 then s
    else if source = 0 then
      { s with bring.pst := tmod {} s.bring.pst unit fun x => { x with drillStop := true } }
    else { s with bring.stopUnits := s.bring.stopUnits ++ [(source, unit)] }

/-- DRILL_UNIT_ERROR (R27). -/
def execDrillUnitError (source unit code addr : Nat) (s : State) : Host.Outcome State Fault Refusal :=
  .next (drillError source unit code addr s)

end Sys2Proof.Machine
end

