-- ==== Sys2Proof/Machine/Vector.lean ====
section
/-! DEFINITION. The vector operations: ELEMWISE (R131), ROWSTAT, SOFTMAX and NORM (R117 to R130), DRAW (R275 to R278), NOISE
(R271 to R273), MOVE (R162), STEP and GUIDE (R246, R247), FENCE (R162). -/

namespace Sys2Proof.Machine

/-- A command for a vector operation of an opcode: the next tile of one in progress that does not wait, once no epilogue and no prologue
is ready (R140); else the start of the next such operation (R161, R163). -/
def vectorRun (n op : Nat) (sram : Secded) (init : Nat → Nat → State → State) (f : Nat → Nat → Env → State → Got State) (s : State) :
    State :=
  match runningStall s n with
  | none => s
  | some (p, _) =>
    let step := if stagesIdle n p s then firstOp s p fun k =>
        let e := envAt s n p k
        if e.o.d.opcode = op && e.o.walking && !e.o.takeWait then f p k e s else .wait
      else .wait
    match step with
    | .wait => startOp n op init s
    | g => settleSram p sram s g

/-- A lane result on every valid element of a tile, and the cells where NaN was produced. -/
def laneMap (lines poss : Nat) (f : Nat → Nat → FnRes) : List (List W32) × List Nat :=
  let rs := (List.range 64).map fun l => (List.range 64).map fun k =>
    if l < lines ∧ k < poss then f l k else { val := 0 }
  (rs.map fun r => r.map (·.val), (List.range 4096).filter fun c => ((rs.getD (c / 64) []).getD (c % 64) { val := 0 }).made)

/-- Lane values stored to C by the header's conversion at a stage position, and the operation's next tile. -/
def storeLanes (n p k stage : Nat) (e : Env) (opnds : List Nat) (r : List (List W32) × List Nat) (s : State) : Got State :=
  let o := e.o
  (storeVals p k e (walkC o.d) o.it (tileNumber o o.it) (validOf o o.it 1) (validOf o o.it 2) stage r.2.length (exact r.1) s).bind
    fun s => .ok (advanceTo n p k opnds (nextTile o o.it) s)

/-! ## ELEMWISE (R131) -/

/-- One tile of an ELEMWISE. -/
def elemwiseTile (n p k : Nat) (e : Env) (s : State) : Got State :=
  (opndVals s e 0 e.o.it).bind fun vs =>
    (epilogue n p k e.o.it vs [] s).bind fun q => .ok (if q.2 then advanceTo n p k [0] (nextTile e.o e.o.it) q.1 else q.1)

/-- ELEMWISE (R131). -/
def execElemwise (at_ : OnStall) (s : State) : Host.Outcome State Fault Refusal :=
  .next (vectorRun at_.stall 0x10 at_.sram (beginOp at_.stall) (elemwiseTile at_.stall) s)

/-! ## Tile copies: MOVE, SEND, RECV (R162, R317) -/

/-- One tile copied from A to C, converted unless the formats are equal; stage position 9 (R268; log entry 19). -/
def copyTile (n p k : Nat) (e : Env) (s : State) : Got State :=
  let o := e.o
  if o.d.afmt = o.d.cfmt then
    (opndBytes s e 0 o.it).bind fun bs =>
      (writeTile p k e (walkC o.d) o.it (tileNumber o o.it) (validOf o o.it 1) (validOf o o.it 2) bs s).bind fun s =>
        .ok (advanceTo n p k [0] (nextTile o o.it) s)
  else
    (opndVals s e 0 o.it).bind fun vs =>
      (storeVals p k e (walkC o.d) o.it (tileNumber o o.it) (validOf o o.it 1) (validOf o o.it 2) 9 0 vs s).bind fun s =>
        .ok (advanceTo n p k [0] (nextTile o o.it) s)

/-- MOVE (R162). -/
def execMove (at_ : OnStall) (s : State) : Host.Outcome State Fault Refusal := .next (vectorRun at_.stall 0x30 at_.sram (beginOp at_.stall) (copyTile at_.stall) s)

/-- SEND (R317). -/
def execSend (at_ : OnStall) (s : State) : Host.Outcome State Fault Refusal := .next (vectorRun at_.stall 0x31 at_.sram (beginOp at_.stall) (copyTile at_.stall) s)

/-- RECV (R317). -/
def execRecv (at_ : OnStall) (s : State) : Host.Outcome State Fault Refusal := .next (vectorRun at_.stall 0x32 at_.sram (beginOp at_.stall) (copyTile at_.stall) s)

/-! ## GUIDE and STEP (R246, R247) -/

/-- A field of the sample row of an iteration's batch position, as FP32. -/
def rowField (e : Env) (it : List Nat) (off : Nat) : W32 := BitVec.ofNat 32 (sampleField e ((batchPos e it).getD 0) off 4)

/-- One element of GUIDE (R246). -/
def guideElem (g c u : W32) : FnRes := laneRes (fma g (fsub c u) u) [g, c, u]

/-- One tile of GUIDE. -/
def guideTile (n p k : Nat) (e : Env) (s : State) : Got State :=
  let o := e.o
  (opndVals s e 0 o.it).bind fun a => (opndVals s e 1 o.it).bind fun b =>
    storeLanes n p k 10 e [0, 1] (laneMap (validOf o o.it 1) (validOf o o.it 2) fun l c =>
      guideElem (rowField e o.it 24) (round32 (atV a l c)) (round32 (atV b l c))) s

/-- GUIDE (R246). -/
def execGuide (at_ : OnStall) (s : State) : Host.Outcome State Fault Refusal := .next (vectorRun at_.stall 0x41 at_.sram (beginOp at_.stall) (guideTile at_.stall) s)

/-- The term of a STEP, left out when its coefficient is ±0 (R247). -/
def stepTerm (c v : W32) (y : FnRes) : FnRes :=
  if (val32 c).isZero then y
  else
    let r := laneRes (fma c v y.val) [c, v, y.val]
    { r with made := r.made || y.made }

/-- One element of STEP: C_X, C_D, C_H and C_Z with x, d, h and z (R247). -/
def stepElem (cx cd ch cz x d h z : W32) (zdraw : Bool) : FnRes :=
  let y := stepTerm ch h (stepTerm cd d (laneRes (fmul cx x) [cx, x]))
  if zdraw then stepTerm cz z y else y

/-- An element index modulo 2⁴⁸ (R272). -/
def elemIndex (base : Nat) (e : Env) (it : List Nat) (line pos : Nat) : Nat :=
  twos 48 (base + elemOffset e.o.d (walkC e.o.d) it line pos)

/-- One tile of STEP; z is NOISE's normal value of purpose 1 (R247, R273). -/
def stepTile (n p k : Nat) (e : Env) (s : State) : Got State :=
  let o := e.o
  let f := rowField e o.it
  let zdraw := byteAt o.d.oparam 0 % 2 = 1
  let src := rngSrc s e o.it
  (opndVals s e 0 o.it).bind fun a => (opndVals s e 1 o.it).bind fun b => (opndVals s e 3 o.it).bind fun h =>
    storeLanes n p k 10 e [0, 1, 3] (laneMap (validOf o o.it 1) (validOf o o.it 2) fun l c =>
      stepElem (f 28) (f 32) (f 36) (f 40) (round32 (atV a l c)) (round32 (atV b l c)) (round32 (atV h l c))
        (if zdraw then normalZ src 0x10000 (elemIndex 0 e o.it l c) else 0) zdraw) s

/-- STEP (R247). -/
def execStepOp (at_ : OnStall) (s : State) : Host.Outcome State Fault Refusal := .next (vectorRun at_.stall 0x40 at_.sram (beginOp at_.stall) (stepTile at_.stall) s)

/-! ## NOISE (R271 to R273) -/

/-- FORM, and the stream of PURPOSE and SUB (R264, R271). -/
def noiseForm (d : Desc) : Nat := byteAt d.oparam 0 % 4
def noiseStream (d : Desc) : Nat := bits (byteAt d.oparam 0) 4 2 * 2 ^ 16 + leAt d.oparam 2 2
/-- P0, P1 and EBASE (R271). -/
def noiseP0 (d : Desc) : W32 := BitVec.ofNat 32 (leAt d.oparam 4 4)
def noiseP1 (d : Desc) : W32 := BitVec.ofNat 32 (leAt d.oparam 8 4)
def noiseBase (d : Desc) : Nat := leAt d.oparam 12 4

/-- Q of DROPOUT: q × 2²⁴ rounded to nearest even (R272). -/
def dropQ (q : W32) : Nat := (toIntFmt 32 0 0 ((val32 q).scale 24)).bits

/-- One element of NOISE (R272). -/
def noiseElem (d : Desc) (src : RngSrc) (e : Nat) (x : W32) : Val × Bool :=
  let w := noiseWord src (noiseStream d) e
  match noiseForm d with
  | 0 => (val32 (fma (noiseP0 d) (normalZ src (noiseStream d) e) (noiseP1 d)), false)
  | 1 => (val32 (fma (uniform w) (fsub (noiseP1 d) (noiseP0 d)) (noiseP0 d)), false)
  | 2 =>
    if w.toNat / 256 < dropQ (noiseP0 d) then
      let r := laneRes (fmul x (fdiv one32 (noiseP0 d))) [x]
      (val32 r.val, r.made)
    else (.fin (x.getLsbD 31) 0 0, false)
  | _ => (decode 0xC w.toNat, false)

/-- One tile of NOISE. -/
def noiseTile (n p k : Nat) (e : Env) (s : State) : Got State :=
  let o := e.o
  let src := rngSrc s e o.it
  let mv := validOf o o.it 1
  let nv := validOf o o.it 2
  (opndVals s e 0 o.it).bind fun a =>
    let rs := (List.range 64).map fun l => (List.range 64).map fun c =>
      if l < mv ∧ c < nv then noiseElem o.d src (elemIndex (noiseBase o.d) e o.it l c) (round32 (atV a l c))
      else (Val.zero, false)
    let nans := (rs.map fun r => (r.filter (·.2)).length).sum
    (storeVals p k e (walkC o.d) o.it (tileNumber o o.it) mv nv 10 nans (rs.map fun r => r.map (·.1)) s).bind fun s =>
      .ok (advanceTo n p k [0] (nextTile o o.it) s)

/-- NOISE (R272). -/
def execNoise (at_ : OnStall) (s : State) : Host.Outcome State Fault Refusal := .next (vectorRun at_.stall 0x21 at_.sram (beginOp at_.stall) (noiseTile at_.stall) s)

/-! ## Rows (R117, R119; log entry 17) -/

/-- The row group of an iteration: the iteration at the first tile of its first pass. -/
def rowGroup (d : Desc) (it : List Nat) : List Nat := (setN d it 0).set 6 0

/-- The partials that the tiles of a row group have left, one a row. -/
def rowsKept (o : OpCtx) (it : List Nat) (start : Ledger) : List Ledger :=
  ((o.rows.find? fun r => r.1 = rowGroup o.d it).map (·.2)).getD (List.replicate 64 start)

/-- The partials of a row group replaced, or dropped once its last tile is done. -/
def keepRows (l : Option (List Ledger)) (it : List Nat) (o : OpCtx) : OpCtx :=
  let rest := o.rows.filter fun r => r.1 ≠ rowGroup o.d it
  { o with rows := match l with | some l => (rowGroup o.d it, l) :: rest | none => rest }

/-- A tile folded into the partials of its rows: `f` takes in the valid columns of a row in ascending order (R119). -/
def foldTile (o : OpCtx) (start : Ledger) (f : Ledger → List W32 → Ledger) (vs : List (List W32)) : List Ledger :=
  (rowsKept o o.it start).zipIdx.map fun r => f r.1 ((vs.getD r.2 []).take (validOf o o.it 2))

/-- The tile of an iteration is the last of its rows. -/
def lastCol (o : OpCtx) : Bool := lastKey o o.it

/-! ## ROWSTAT (R119 to R124) -/

/-- The statistics of R121 in its order: max, sum, mean, variance, L2 norm, RMS. -/
def rowStats (p : Ledger) : List W32 :=
  if rowNan p then List.replicate 6 nan32
  else [p.max, p.sum, statMean p, statVar p, fsqrt p.sq, fsqrt (statMeanSq p)]

/-- One tile of a ROWSTAT; the last of a row group gives its six columns, their order free (log entry 20). -/
def rowstatTile (n p k : Nat) (e : Env) (s : State) : Got State :=
  let o := e.o
  let mv := validOf o o.it 1
  let out := setN o.d o.it 0
  (opndVals s e 0 o.it).bind fun vs =>
    let ps := foldTile o {} (fun l xs => combinePart l (tilePart xs)) (lanes vs)
    let on := fun l (s : State) => advanceTo n p k [0] (nextTile o o.it) (putOp p k (keepRows l o.it) s)
    if lastCol o then
      let stats := ps.map fun q => (List.range 64).map fun c =>
        if c < 6 then val32 ((rowStats q).getD (Config.rowstatColumn o.d.oparam c % 6) 0) else Val.zero
      (storeVals p k e (walkC o.d) out (tileNumber o out) mv 6 8 ((ps.take mv).map rowEvents).sum stats s).bind fun s =>
        .ok (on none s)
    else .ok (on (some ps) s)

/-- ROWSTAT (R119). -/
def execRowstat (at_ : OnStall) (s : State) : Host.Outcome State Fault Refusal :=
  .next (vectorRun at_.stall 0x11 at_.sram (beginOp at_.stall) (rowstatTile at_.stall) s)

/-! ## SOFTMAX and NORM: two passes (R126 to R130) -/

/-- The first pass is over: the operation goes on with the second, or, after a restore, at the iteration it was stopped in, its landings
fetched from there (log entry 17). -/
def passOver (o : OpCtx) (b : List Nat) : OpCtx :=
  { o with it := b, back := none, fetchA := some (keyOf o.d 0 b), fetchX := some (keyOf o.d 3 b),
           lands := (o.lands.filter fun l => l.st == .reserved || l.st == .dropped).map fun l => { l with st := .dropped } }

/-- The first pass on one tile (R119, R128). -/
def firstPass (n p k : Nat) (e : Env) (start : Ledger) (f : Ledger → List W32 → Ledger) (s : State) : Got State :=
  let o := e.o
  (opndVals s e 0 o.it).bind fun vs =>
    let s := putOp p k (keepRows (some (foldTile o start f (lanes vs))) o.it) s
    let next := nextTile o o.it
    match o.back with
    | some b =>
      if next.any fun it => it.getD 6 0 = 1 then .ok (fetchPump n p k (putOp p k (passOver · b) s))
      else .ok (advanceTo n p k [0, 3] next s)
    | none => .ok (advanceTo n p k [0, 3] next s)

/-- The second pass on one tile: `g` on each element with its row's partial (R126, R129). `ev` counts a row's own events, once. -/
def secondPass (n p k : Nat) (e : Env) (ev : Ledger → Nat) (g : Ledger → Nat → W32 → FnRes) (s : State) : Got State :=
  let o := e.o
  let mv := validOf o o.it 1
  let nv := validOf o o.it 2
  let rows := rowsKept o o.it {}
  (opndVals s e 0 o.it).bind fun vs =>
    let r := laneMap mv nv fun l c => g (rows.getD l {}) c (round32 (atV vs l c))
    let own := if roleIdx o o.it 2 = 0 then ((rows.take mv).map ev).sum else 0
    (storeVals p k e (walkC o.d) o.it (tileNumber o o.it) mv nv 8 (r.2.length + own) (exact r.1) s).bind fun s =>
      .ok (advanceTo n p k [0, 3] (nextTile o o.it)
        (if lastCol o then putOp p k (keepRows none o.it) s else s))

/-- A row of SOFTMAX before its first tile: the empty partial, and in N its kind: 1 NaN, 2 +∞, 3 nothing but −∞ so far (R128, R130). -/
def softStart : Ledger := { n := 3, max := ninf32 }

/-- The first pass of SOFTMAX on a tile row (R128, R130). -/
def softFirst (l : Ledger) (xs : List W32) : Ledger :=
  let t := softCombine (l.max, l.sum) (softTile xs)
  let kind :=
    if l.n = 1 ∨ xs.any isNan32 then 1
    else if l.n = 2 ∨ xs.any (fun x => x = inf32) then 2
    else if xs.all fun x => x = ninf32 then l.n
    else 0
  { n := kind, max := t.1, sum := t.2 }

/-- The second pass of SOFTMAX on an element (R129, R130). -/
def softSecond (l : Ledger) (x : W32) : FnRes :=
  if l.n = 1 ∨ l.n = 2 then { val := nan32 }
  else if l.n = 3 ∨ x = ninf32 then { val := 0 }
  else { val := fmul (fexp (fsub x l.max)) (fdiv one32 l.sum) }

/-- One tile of SOFTMAX in one of its passes. -/
def softmaxTile (n p k : Nat) (e : Env) (s : State) : Got State :=
  if e.o.it.getD 6 0 = 0 then firstPass n p k e softStart softFirst s
  else secondPass n p k e (fun l => if l.n = 2 then 1 else 0) (fun l _ x => softSecond l x) s

/-- SOFTMAX (R128). -/
def execSoftmax (at_ : OnStall) (s : State) : Host.Outcome State Fault Refusal :=
  .next (vectorRun at_.stall 0x12 at_.sram (beginOp at_.stall) (softmaxTile at_.stall) s)

/-- γ and β of the columns of a tile of a NORM, where its aux operand has a space (R126). DESIGN CHOICE: in a window γ is line 0 and β
line 1 of a tile (log entry 20). -/
def normGammaBeta (s : State) (e : Env) (it : List Nat) : Got (List (Option (W32 × W32))) :=
  let x := e.o.d.x
  if x.space = 0 then .ok (List.replicate 64 none)
  else
    (opndBytes s e 3 it).bind fun bs =>
      let w := fmtBits x.sfmt / 8
      let at_ := fun line k =>
        if x.space = 3 then round32 (tileVal x.sfmt bs line k) else round32 (decode x.sfmt (leAt bs ((64 * line + k) * w) w))
      .ok ((List.range 64).map fun k => some (at_ 0 k, if Config.normCentred e.o.d.oparam then at_ 1 k else 0))

/-- One element of a NORM, NAN_PRODUCED where no input and no statistic is NaN (R126, R127). -/
def normOut (centred : Bool) (eps : W32) (l : Ledger) (gb : Option (W32 × W32)) (x : W32) : FnRes :=
  let st := if centred then statMean l else statMeanSq l
  laneRes (normElem centred l (normRr centred eps l) gb x)
    ([x, st] ++ match gb with | some (g, b) => [g, b] | none => [])

/-- One tile of NORM in one of its passes. -/
def normTile (n p k : Nat) (e : Env) (s : State) : Got State :=
  let centred := Config.normCentred e.o.d.oparam
  let eps := Config.normEps e.o.d.oparam
  if e.o.it.getD 6 0 = 0 then firstPass n p k e {} (fun l xs => combinePart l (tilePart xs)) s
  else
    (normGammaBeta s e e.o.it).bind fun gb =>
      secondPass n p k e rowEvents (fun l c x => normOut centred eps l (gb.getD c none) x) s

/-- NORM (R126). -/
def execNorm (at_ : OnStall) (s : State) : Host.Outcome State Fault Refusal :=
  .next (vectorRun at_.stall 0x13 at_.sram (beginOp at_.stall) (normTile at_.stall) s)

/-! ## DRAW (R275 to R277) -/

/-- TEMP, TOPP, TOPK, SUB and EBASE (R275). -/
def drawTemp (d : Desc) : W32 := BitVec.ofNat 32 (leAt d.oparam 0 4)
def drawTopp (d : Desc) : W32 := BitVec.ofNat 32 (leAt d.oparam 4 4)
def drawTopk (d : Desc) : Nat := leAt d.oparam 8 2
def drawSub (d : Desc) : Nat := leAt d.oparam 10 2
def drawBase (d : Desc) : Nat := leAt d.oparam 12 4

/-- The scores of a row under the temperature (R276 step 1). -/
def drawScores (d : Desc) (xs : List W32) : List W32 :=
  if (val32 (drawTemp d)).isZero then xs else xs.map fun x => fmul x (fdiv one32 (drawTemp d))

/-- A score and its column go before another (R276 step 2). -/
def drawBefore (a b : W32 × Nat) : Bool :=
  if (val32 b.1).lt (val32 a.1) then true else if (val32 a.1).lt (val32 b.1) then false else a.2 ≤ b.2

/-- What the scan of a row holds: its candidates in order, and flags: bit 0 a score is NaN, bit 1 a scaled score is +∞, bit 2 a scaled
score became NaN (R276, R277). -/
abbrev DrawRow := List (W32 × Nat) × Nat

/-- A tile row scanned: its scores join the candidates, the first TOPK of which stay (R276 steps 1 and 2, R278). -/
def drawScan (d : Desc) (col : Nat) (r : DrawRow) (xs : List W32) : DrawRow :=
  let ss := drawScores d xs
  let flags := b2n (xs.any isNan32) ||| 2 * b2n (ss.any fun x => x = inf32) ||| 4 * b2n (ss.any isNan32)
  let new := (ss.zipIdx.filter fun p => p.1 ≠ ninf32 && !isNan32 p.1).map fun p => (p.1, col + p.2)
  (((r.1 ++ new).mergeSort drawBefore).take (drawTopk d), r.2 ||| flags)

/-- The cumulative weights of candidates (R276 step 3). -/
def drawWeights (m : W32) : W32 → List (W32 × Nat) → List W32
  | _, [] => []
  | c, p :: r => let c' := fadd c (fexp (fsub p.1 m)); c' :: drawWeights m c' r

/-- The column drawn with the random 24 bits `u` (R276 steps 4 and 5). -/
def drawPick (d : Desc) (u : Nat) (cs : List (W32 × Nat)) : Nat :=
  match cs with
  | [] => 0
  | c0 :: _ =>
    if (val32 (drawTemp d)).isZero then c0.2
    else
      let ws := drawWeights c0.1 0 cs
      let pt := fmul (drawTopp d) (ws.getLast?.getD 0)
      let n := (ws.findIdx? fun w => !(val32 w).lt (val32 pt)).getD 0 + 1
      let cut := (val32 (ws.getD (n - 1) 0)).mul (.fin false u (-24))
      let j := (ws.findIdx? fun w => cut.lt (val32 w)).getD 0
      (cs.getD j c0).2

/-- A row's result and its NAN_PRODUCED count (R276, R277). DESIGN CHOICE: a scaled score that became NaN in a row without NaN or +∞ makes
it a row that holds a NaN score (log entry 38). -/
def drawRow (d : Desc) (u : Nat) (r : DrawRow) : Int × Nat :=
  if r.2.testBit 0 then (-1, 0)
  else if r.2.testBit 1 then (-1, 1)
  else if r.2.testBit 2 then (-1, 0)
  else
    match r.1 with
    | [] => (-1, 0)
    | cs => (drawPick d u cs, 0)

/-- One scanned tile of a DRAW (R278). After the last of its rows, index 6 of the iteration says that their final stages run. -/
def drawScanTile (n p k : Nat) (e : Env) (s : State) : Got State :=
  let o := e.o
  (opndVals s e 0 o.it).bind fun vs =>
    let rows := if o.cands.isEmpty then List.replicate 64 ([], 0) else o.cands
    let cs := rows.zipIdx.map fun r =>
      drawScan o.d (64 * roleIdx o o.it 2) r.1 (((lanes vs).getD r.2 []).take (validOf o o.it 2))
    let s := putOp p k (fun o => { o with cands := cs }) s
    if lastCol o then .ok (putOp p k (fun q => { q with it := o.it.set 6 1 }) (releaseOpnd n p k 0 o.it (nextTile o o.it) s))
    else .ok (advanceTo n p k [0] (nextTile o o.it) s)

/-- The final stage of one row of a DRAW (R276 steps 3 to 5, R278); after the last, the rows' results are written. -/
def drawFinal (n p k : Nat) (e : Env) (s : State) : Got State :=
  let o := e.o
  let mv := validOf o o.it 1
  let out := rowGroup o.d o.it
  let l := o.drawn.length
  let u := ((rngBlock (rngSrc s e out) (0x50000 + drawSub o.d) (elemIndex (drawBase o.d) e out l 0) 0).getD 0 0).toNat / 256
  let rs := o.drawn ++ [drawRow o.d u (o.cands.getD l ([], 0))]
  if l + 1 < mv then .ok (putOp p k (fun o => { o with drawn := rs }) s)
  else
    (storeVals p k e (walkC o.d) out (tileNumber o out) mv 1 8 (rs.map (·.2)).sum (rs.map fun r => [ofInt r.1 0]) s).bind fun s =>
      .ok (advanceTo n p k [] ((nextTile o o.it).map (·.set 6 0)) (putOp p k (fun o => { o with cands := [], drawn := [] }) s))

/-- One step of a DRAW: a scanned tile, or a row's final stage. -/
def drawTile (n p k : Nat) (e : Env) (s : State) : Got State :=
  if e.o.it.getD 6 0 = 0 then drawScanTile n p k e s else drawFinal n p k e s

/-- DRAW (R276). -/
def execDraw (at_ : OnStall) (s : State) : Host.Outcome State Fault Refusal :=
  .next (vectorRun at_.stall 0x20 at_.sram (beginOp at_.stall) (drawTile at_.stall) s)

/-! ## FENCE (R162) -/

/-- FENCE (R162): it starts, and completes once it is the oldest operation of its stall. -/
def execFence (n : Nat) (s : State) : Host.Outcome State Fault Refusal :=
  .next (startOp n 0x7F (fun p k s => putOp p k (fun o => { o with walking := false }) s) s)

end Sys2Proof.Machine
end

