-- ==== Sys2Proof/Machine/Exchange.lean ====
section
/-! DEFINITION. The exchanges between stalls and devices: HALO (R195 to R199) and COLLECT (R339 to R341). -/

namespace Sys2Proof.Machine

/-! ## HALO (R196 to R199) -/

/-- AXIS, HLO, HHI, PREV, NEXT and CCOUNT (R196). -/
def haloAxis (d : Desc) : Nat := byteAt d.oparam 0 % 4
def haloLo (d : Desc) : Nat := byteAt d.oparam 1
def haloHi (d : Desc) : Nat := byteAt d.oparam 2
def haloChannels (d : Desc) : Nat := leAt d.oparam 8 2
/-- The neighbour on side 0 low or 1 high (R196). -/
def haloNext (d : Desc) (side : Nat) : Nat := leAt d.oparam (4 + 2 * side) 2 % 2048

/-- The extents of a band tensor: x, y, t (R185). -/
def bandExt (d : Desc) (ax : Nat) : Nat := bits d.a.geom (16 * ax + 15) (16 * ax)

/-- The element offsets of the rows [lo, hi) of the band along its axis, channels outermost (R183). -/
def slab (d : Desc) (lo hi : Nat) : List Nat :=
  let rng := fun ax => if ax = haloAxis d then (List.range (hi - lo)).map (lo + ·) else List.range (bandExt d ax)
  (List.range (haloChannels d)).flatMap fun c => (rng 2).flatMap fun t => (rng 1).flatMap fun y => (rng 0).map fun x =>
    c * d.a.srow + (t * bandExt d 1 + y) * bandExt d 0 + x

/-- The addresses of a slab's bytes, checked (R174, R300). -/
def slabPlan (s : State) (e : Env) (write : Bool) (lo hi : Nat) : Got (List (Option Nat)) :=
  let w := fmtBits e.o.d.a.sfmt / 8
  gotAll (fun q => (checkAddr s e e.o.d.a e.o.it write (e.o.d.a.base + (q.1 * w + q.2 : Nat))).bind fun a => .ok (some a))
    ((slab e.o.d lo hi).flatMap fun o => (List.range w).map fun i => (o, i))

/-- The neighbour's HALO that names this stall back on the same axis, with its index (R197). -/
def haloPeer (s : State) (e : Env) (side : Nat) : Option (Nat × Desc) :=
  let q := haloNext e.o.d side
  let ds := descsOf s e.slot q
  (matchDesc (descsOf s e.slot e.n) ds e.o.desc
    (fun d => d.opcode = 0x33 && haloAxis d = haloAxis e.o.d && haloNext d side = q)
    (fun d => d.opcode = 0x33 && haloAxis d = haloAxis e.o.d && haloNext d (1 - side) = e.n)).map fun i => (i, ds.getD i {})

/-- The rows that a side's neighbour holds as its halo: the first or last interior rows (R195). -/
def edgeRows (d peer : Desc) (side : Nat) : Nat × Nat :=
  let hi := bandExt d (haloAxis d) - haloHi d
  if side = 0 then (haloLo d, haloLo d + haloHi peer) else (hi - haloLo peer, hi)

/-- The own halo rows of a side (R195). -/
def haloRows (d : Desc) (side : Nat) : Nat × Nat :=
  let n := bandExt d (haloAxis d)
  if side = 0 then (0, haloLo d) else (n - haloHi d, n)

/-- The four bits of a side: READY_SENT, READY_SEEN, ROWS_SENT, ROWS_IN (R199). -/
def haloBit (x : Stall) (side b : Nat) : Bool := x.haloBits.getLsbD (4 * side + b)
def setHalo (side b : Nat) (x : Stall) : Stall := { x with haloBits := x.haloBits ||| BitVec.ofNat 8 (1 <<< (4 * side + b)) }

/-- Step 1 of a side: READY with this operation's count, to the neighbour's HALO that matches it (R198). -/
def haloReady (n p k side : Nat) (s : State) : State :=
  let e := envAt s n p k
  if haloBit e.x side 0 || 0 < inUse e.x (readyKey side) 0 || routesHeld s n then s
  else
    match haloPeer s e side with
    | none => s
    | some peer =>
      injectStall 3 n (haloNext e.o.d side) (.ready (haloNext e.o.d side) (1 - side) peer.1 e.o.inst)
        (modStallP p (fun x => setHalo side 0 (takeCredits (readyKey side) 0 x)) s)

/-- The READYs held for a side of this HALO: one with an equal count is seen, older ones are discarded, and their credits return (R198). -/
def haloSee (n p k side : Nat) (s : State) : State :=
  let e := envAt s n p k
  let mine := e.x.haloReady.filter fun r =>
    r.1 = side && r.2.1 = e.o.desc && (e.o.inst + 2 ^ 32 - r.2.2) % 2 ^ 32 < 2 ^ 31
  mine.foldl (fun s r =>
    let s := modStallP p (fun x =>
      let x := { x with haloReady := x.haloReady.erase r }
      if r.2.2 = e.o.inst then setHalo side 1 x else x) s
    let q := haloNext e.o.d side
    injectStall 1 n q (.credit q (readyKey (1 - side)) 0) s) s

/-- The place of a side's edge rows, or of the rows that come in, among an operation's landings (log entry 39). -/
def edgeOpnd (side : Nat) : Nat := 4 + side
def inOpnd (side : Nat) : Nat := 6 + side

/-- A landing of a HALO. -/
def haloLand (o : OpCtx) (no : Nat) : Option Landing := (landsOf o no).head?

/-- Step 2 of a side: its edge rows to the neighbour whose READY has been seen (R198). Rows in the loft are read over the fabric
first (R281). -/
def haloSend (n p k side : Nat) (s : State) : Got State :=
  let e := envAt s n p k
  if !haloBit e.x side 1 || haloBit e.x side 2 || 0 < inUse e.x (haloKey side) 0 || routesHeld s n || decide (64 ≤ writesOut e.x) then
    .ok s
  else
    match haloPeer s e side with
    | none => .ok s
    | some (_, peer) =>
      let rows := edgeRows e.o.d peer side
      (slabPlan s e false rows.1 rows.2).bind fun plan =>
        let q := haloNext e.o.d side
        let send := fun (bs : List Byte) =>
          sendData n q (haloKey (1 - side)) (haloKey side) 0 e.o.inst bs (some (n, e.o.desc, e.o.inst))
            (modStallP p (fun x => setHalo side 2 (takeCredits (haloKey side) 0 x)) (addOut p k 1 s))
        if e.o.d.a.space ≠ 2 then .ok (send (planBytes e.x.scratch plan))
        else
          match haloLand e.o (edgeOpnd side) with
          | none =>
            let spots := planSpots plan
            let land : Landing :=
              { opnd := edgeOpnd side, it := firstIt, entry := 0, st := if spots.isEmpty then .full else .reserved, left := spots.length }
            if 64 ≤ readsOut e.x then .ok s
            else .ok (sendRead n p e.o.desc e.o.inst (edgeOpnd side) 0 firstIt spots
              (putOp p k (fun o => { o with lands := o.lands ++ [land] }) s))
          | some l =>
            if l.st == .full then .ok (putOp p k (letGo (edgeOpnd side) firstIt) (send (memRead l.raw 0 plan.length))) else .ok s

/-- The sides that have a neighbour. -/
def haloSides (d : Desc) : List Nat := [0, 1].filter fun side => haloNext d side ≠ 0x7FF

/-- A HALO does what each side allows; it ends its walk when every side is done (R198). -/
def haloPump (n p k : Nat) (s : State) : Got State :=
  let d := (envAt s n p k).o.d
  ((haloSides d).foldl (fun (g : Got State) side =>
      g.bind fun s => haloSend n p k side (haloSee n p k side (haloReady n p k side s)))
    (Got.ok s)).bind fun s =>
      let x := stallP s p
      if (haloSides d).all fun side => haloBit x side 2 && haloBit x side 3 then
        .ok (putOp p k (fun o => { o with walking := false }) s)
      else .ok s

/-- The running HALO of a stall. -/
def runningHalo (x : Stall) : Option Nat := (findOp x fun o => o.d.opcode = 0x33 && o.walking).map (·.1)

/-- A HALO: the running one goes on; else the next starts, once every earlier operation has completed (R198). -/
def haloRun (n : Nat) (sram : Secded) (s : State) : State :=
  match runningStall s n with
  | none => s
  | some (p, x) =>
    match runningHalo x with
    | some k => settleSram p sram s (haloPump n p k s)
    | none =>
      if (opsOf x).isEmpty then
        startOp n 0x33 (fun p k s => settleSram p sram s (haloPump n p k (modStallP p (fun x => { x with haloBits := 0 }) s))) s
      else s

/-- HALO (R198). -/
def execHalo (at_ : OnStall) (s : State) : Host.Outcome State Fault Refusal := .next (haloRun at_.stall at_.sram s)

/-- Halo rows that have arrived are written into the own halo area (R198). -/
def haloWrite (n p k side : Nat) (bs : List Byte) (s : State) : Got State :=
  let e := envAt s n p k
  let rows := haloRows e.o.d side
  (slabPlan s e true rows.1 rows.2).bind fun plan =>
    let cells := planCells plan bs
    let s := modStallP p (setHalo side 3) s
    if e.o.d.a.space ≠ 2 then .ok (modStallP p (fun x => { x with scratch := memCells x.scratch cells }) s)
    else if cells.isEmpty then .ok s
    else .ok (sendWrite n p e.o.desc e.o.inst cells none (addOut p k 1 s))

/-! ## COLLECT (R339 to R341) -/

/-- KIND, ROP and ROOT (R339). -/
def collectKind (d : Desc) : Nat := byteAt d.oparam 0 % 16
def collectRop (d : Desc) : Nat := byteAt d.oparam 0 / 16
def collectRoot (d : Desc) : Nat := leAt d.oparam 4 2 % 2048

/-- The partial format (R339). -/
def partialFmt (d : Desc) : Nat := if d.afmt = 0xB ∨ d.afmt = 0xC then 0xC else 0

/-- The integer of an exact INT32 value. -/
def valInt (v : Val) : Int := (intOf v).getD 0

/-- ⊕ on two partials: the value, whether it saturated, whether NaN was produced (R340). -/
def collectOp (d : Desc) (a b : Val) : Val × Bool × Bool :=
  if partialFmt d = 0xC then
    match collectRop d with
    | 0 => let c := toIntFmt 32 0 0 (ofInt (valInt a + valInt b) 0); (decode 0xC c.bits, c.sat, false)
    | 1 => (if valInt a < valInt b then b else a, false, false)
    | _ => (if valInt b < valInt a then b else a, false, false)
  else
    let x := round32 a
    let y := round32 b
    let r := match collectRop d with | 0 => fadd x y | 1 => fmax x y | _ => fmin x y
    (val32 r, false, (laneRes r [x, y]).made)

/-- A tile of partials: its values and its counts. -/
structure CollectTile where
  vals : List (List Val)
  satur : Nat := 0
  nans : Nat := 0

/-- ⊕ on two tiles. -/
def collectTiles (d : Desc) (lines poss : Nat) (a b : List (List Val)) : CollectTile :=
  let rs := (List.range 64).map fun l => (List.range 64).map fun k =>
    if l < lines ∧ k < poss then collectOp d (atV a l k) (atV b l k) else (Val.zero, false, false)
  { vals := rs.map fun r => r.map (·.1), satur := (rs.map fun r => (r.filter (·.2.1)).length).sum,
    nans := (rs.map fun r => (r.filter (·.2.2)).length).sum }

/-- A tile sent on a window of this stall to a member of the COLLECT's group (R337, R340). -/
def collectSend (p k t member w : Nat) (e : Env) (bs : List Byte) (s : State) : Got State :=
  let cap := ((windowOf (imgAt s e.slot) e.n w).map (·.cap)).getD 1
  sendMember p k t (collectGroup e.o.d) member w cap e bs s

/-- A partial tile's bytes. -/
def partialBytes (d : Desc) (lines poss : Nat) (vs : List (List Val)) : List Byte :=
  (tileTo (partialFmt d) 0 false (fun _ _ => 0) lines poss vs).bytes

/-- A result of a COLLECT in C's format: written here if `here`, and sent on to `next` on window `w`. -/
def collectGive (p k t : Nat) (e : Env) (it : List Nat) (here : Bool) (next : Option Nat) (w : Nat) (bs : List Byte) (s : State) :
    Got State :=
  let o := e.o
  (if here then writeTile p k e (walkC o.d) it t (validOf o it 1) (validOf o it 2) bs s else .ok s).bind fun s =>
    match next with
    | some m => collectSend p k t m w { e with x := stallP s p } bs s
    | none => .ok s

/-- The counts of a COLLECT's step join the instance's. -/
def collectCount (p k satur under nans : Nat) (s : State) : State :=
  putOp p k (fun o => { o with satur := o.satur + satur, under := o.under + under, nans := o.nans + nans }) s

/-- The reducing kinds, upward: member 0 starts the partial, each member folds its own tile in, and the last converts (R340). -/
def reduceUp (n p k : Nat) (e : Env) (s : State) : Got State :=
  let o := e.o
  let d := o.d
  let w := groupAt s (collectGroup d)
  let self := grpSelf w
  let nm := grpNmem w
  let t := tileNumber o o.it
  let lines := validOf o o.it 1
  let poss := validOf o o.it 2
  (opndVals s e 0 o.it).bind fun a =>
    if self = 0 then collectSend p k t (succMember nm self) (collectWup d) e (partialBytes d lines poss a) s
    else
      (winBytes s e o.it (collectWup d) 0 0 (tileBytes (partialFmt d))).bind fun bs =>
        let r := collectTiles d lines poss (tileVals (partialFmt d) bs) a
        let s := collectCount p k r.satur 0 r.nans (winFree n p k (collectWup d) 0 s)
        let e := { e with x := stallP s p }
        if self + 1 < nm then
          collectSend p k t (succMember nm self) (collectWup d) e (partialBytes d lines poss r.vals) s
        else
          let y := tileTo d.cfmt d.rnd d.ovf (outDraw s e (walkC d) o.it t d.rnd 9) lines poss r.vals
          let owner := if collectKind d = 1 then t % nm else self
          let send := collectKind d = 0 ∨ owner ≠ self
          (collectGive p k t e o.it (owner = self) (if send then some (predMember nm self) else none) (collectWdn d) y.bytes s).bind
            fun s => .ok (collectCount p k y.satur y.under 0 s)

/-- The copying kinds: the owner or the root writes its tile and sends it on; each receiver writes it and passes it on up to
the member before the first (R340). -/
def copyUp (n p k : Nat) (e : Env) (s : State) : Got State :=
  let o := e.o
  let d := o.d
  let w := groupAt s (collectGroup d)
  let self := grpSelf w
  let nm := grpNmem w
  let t := tileNumber o o.it
  let first := if collectKind d = 2 then t % nm else collectRoot d
  let next := succMember nm self
  if self = first then
    (opndBytes s e 0 o.it).bind fun bs => collectGive p k t e o.it true (some next) (collectWup d) bs s
  else
    (winBytes s e o.it (collectWup d) 0 0 (tileBytes d.cfmt)).bind fun bs =>
      let s := winFree n p k (collectWup d) 0 s
      collectGive p k t { e with x := stallP s p } o.it true (if next = first then none else some next) (collectWup d) bs s

/-- The next tile of a COLLECT upward. -/
def collectUp (n p k : Nat) (e : Env) (s : State) : Got State :=
  (if collectKind e.o.d ≤ 1 then reduceUp n p k e s else copyUp n p k e s).bind fun s =>
    .ok (advanceTo n p k [0] (nextTile e.o e.o.it) s)

/-- The next tile of a COLLECT downward: the result written here, passed to the predecessor, or both (R340). -/
def collectDown (n p k : Nat) (e : Env) (s : State) : Got State :=
  let o := e.o
  let d := o.d
  match o.down with
  | none => .wait
  | some it =>
    let w := groupAt s (collectGroup d)
    let self := grpSelf w
    let t := tileNumber o it
    let owner := t % max 1 (grpNmem w)
    let reduceScatter := collectKind d = 1
    let move := fun (s : State) => takePump n p k (putOp p k (fun o => { o with down := nextTile o it }) s)
    if reduceScatter ∧ self < owner then .ok (move s)
    else
      (winBytes s e it (collectWdn d) 0 0 (tileBytes d.cfmt)).bind fun bs =>
        let s := winFree n p k (collectWdn d) 0 s
        let here := !reduceScatter || decide (owner = self)
        let next := if self = 0 ∨ reduceScatter ∧ owner = self then none else some (self - 1)
        (collectGive p k t { e with x := stallP s p } it here next (collectWdn d) bs s).bind fun s => .ok (move s)

/-- A COLLECT: its next tile downward, or upward, else the start of the next one (R339, R340). -/
def collectRun (n : Nat) (down : Bool) (sram : Secded) (s : State) : State :=
  if down then
    onStall n sram s fun p => firstOp s p fun k =>
      let e := envAt s n p k
      if e.o.d.opcode = 0x34 then collectDown n p k e s else .wait
  else vectorRun n 0x34 sram (beginOp n) (collectUp n) s

/-- COLLECT (R340). -/
def execCollect (at_ : OnStall) (down : Bool) (s : State) : Host.Outcome State Fault Refusal := .next (collectRun at_.stall down at_.sram s)

end Sys2Proof.Machine
end

