-- ==== Sys2Proof/Machine/Fabric.lean ====
section
/-! DEFINITION. What the fabric delivers (R288, R305 to R318): the loft controllers' reads and writes under the write-once rule
(R181, R287 to R292), work counters (R177), windows (R141, R315, R316, R342), credits, ledger partials (R149) and READY (R198). -/

namespace Sys2Proof.Machine

/-! ## Packets in flight (R310, R312) -/

/-- The packet at place `k`, unless an earlier one of its class goes from the same source to the same destination (R312). -/
def netAt (s : State) (k : Nat) : Option Packet :=
  match s.fab.net[k]? with
  | some q => if (s.fab.net.take k).any (fun r => r.cls = q.cls && r.src = q.src && r.dst = q.dst) then none else some q
  | none => none

/-- The packet at place `k` leaves the fabric. -/
def dropPkt (k : Nat) (s : State) : State := { s with fab.net := s.fab.net.eraseIdx k }

/-- The address and access that a dropped packet's record names (R478; log entry 8). -/
def pktAddr (q : Packet) : Nat × Nat :=
  match q.body with
  | .read _ _ _ _ _ _ cs => ((cs.map (·.2)).headD 0, 0)
  | .write _ _ _ _ _ cs _ => ((cs.map (·.1)).headD 0, 1)
  | _ => (q.dst, 6)

/-- The payload bytes of a packet, and its flits with its header (R309). -/
def pktPayload (q : Packet) : Nat :=
  match q.body with
  | .rdata _ _ _ _ _ _ cs _ => cs.length
  | .write _ _ _ _ _ cs _ => cs.length
  | .data _ _ _ _ _ _ _ _ bs _ => bs.length
  | .ledger .. => 32
  | _ => 0
def pktFlits (q : Packet) : Nat := (16 + pktPayload q + 127) / 128

/-- Flit `flit` of packet `k` fails its check on hop `hop` of its path: it is sent again, or after seven failed retries the hop drops the
packet (R310) and names the stall or hub port nearest it (R477). In drill mode nothing is sent again (R27). -/
def flitRetry (k flit hop : Nat) (s : State) : State :=
  match s.fab.net[k]? with
  | none => s
  | some q =>
    if pktFlits q ≤ flit then s
    else
      match q.hops[hop]? with
      | none => s
      | some unit =>
        let key := 8 * hop + flit
        if tget 0 q.fails key < 7 && !s.bring.drill then
          { s with fab.net := s.fab.net.set k { q with fails := tmod 0 q.fails key (· + 1) }
                   fab.retries := sat 32 (s.fab.retries + 1) }
        else
          let (a, acc) := pktAddr q
          let s := { dropPkt k s with fab.dropped := sat 16 (s.fab.dropped + 1) }
          raise 0x0501 3 unit (if q.src < 1200 then q.src else 0x7FF) (detA a acc) s

/-- FLIT_RETRY (R310). -/
def execFlitRetry (at_ : FlitAt) (s : State) : Host.Outcome State Fault Refusal := .next (flitRetry at_.packet at_.flit at_.hop s)

/-! ## Reads of the loft (R141, R173, R288 to R291) -/

/-- The first poisoned word among some addresses. -/
def poisonIn (s : State) (as : List Nat) : Option Nat := (as.find? fun a => poisonedWord s (wordOf a)).map wordOf

/-- A loft controller answers a READ (R288): corrections and poison first, then RDATA as consecutive packets (R309). -/
def fabRead (k : Nat) (ecc : EccReport) (s : State) : State :=
  match netAt s k with
  | some { src := src, dst := dst, hops := hops, body := .read n desc inst opnd entry it cells, .. } =>
    let ws := cells.map fun c => wordOf c.2
    let s := eccApply ecc (fun w => ws.contains w) 3 (dropPkt k s)
    (chunks 496 cells).foldl (fun s part =>
      injectLoft hops.isEmpty 1 dst src (.rdata n desc inst opnd entry it (part.map fun c => (c.1, memGet s.loft.mem c.2))
        (poisonIn s (part.map (·.2)))) s) s
  | _ => s

/-- FAB_READ (R288). -/
def execFabRead (k : Nat) (ecc : EccReport) (s : State) : Host.Outcome State Fault Refusal := .next (fabRead k ecc s)

/-- An operation instance of physical stall `p`: its place in the program. -/
def opPlace (s : State) (p desc inst : Nat) : Option Nat :=
  (findOp (stallP s p) fun o => o.desc = desc && o.inst = inst).map (·.1)

/-- A landing is the one that a READ reserved. -/
def landIs (opnd entry : Nat) (it : List Nat) (l : Landing) : Bool := l.opnd = opnd && l.entry = entry && l.it = it

/-- A landing once `c` of its bytes have come: with the last it is usable, unless a word of it was poisoned or the loop has let it go
(R141, R291). -/
def landed (c : Nat) (bad : Bool) (l : Landing) : Landing :=
  let left := l.left - c
  { l with left := left, st := if bad && l.st == .reserved then .poisoned else if left = 0 && l.st == .reserved then .full else l.st }

/-- RDATA lands (R141, R173): the tile is usable once all of its bytes have arrived; one with a poisoned word is never used and raises
LOFT_UNCORRECTABLE (R291). -/
def rdataLands (n p k opnd entry : Nat) (it : List Nat) (cells : List (Nat × Byte)) (poisoned : Option Nat) (s : State) : State :=
  let d := (envAt s n p k).o.d
  let raw := heldRaw d opnd
  let s := putOp p k (fun o => { o with
    lands := (o.lands.map fun l =>
      if landIs opnd entry it l then landed cells.length poisoned.isSome { l with raw := if raw then memCells l.raw cells else l.raw }
      else l).filter fun l => !(l.st == .dropped && l.left = 0) }) s
  match poisoned with
  | some w => stallFault p 0x0402 (detA w 3) s
  | none =>
    let at_ := landAt d opnd entry
    let s := if raw then s
      else modStallP p (fun x => { x with scratch := memCells x.scratch (cells.map fun c => (at_ + c.1, c.2)) }) s
    fetchAll n p s

/-- RDATA arrives; an instance that is no longer there leaves it unused. -/
def fabRdata (k : Nat) (s : State) : State :=
  match netAt s k with
  | some { body := .rdata n desc inst opnd entry it cells poisoned, .. } =>
    let s := dropPkt k s
    match physOf s n with
    | none => s
    | some p =>
      match opPlace s p desc inst with
      | some j => rdataLands n p j opnd entry it cells poisoned s
      | none => s
  | _ => s

/-- FAB_RDATA (R173). -/
def execFabRdata (k : Nat) (s : State) : Host.Outcome State Fault Refusal := .next (fabRdata k s)

/-! ## Writes to the loft (R181, R287, R288, R291) -/

/-- Whether cells cover the whole of word `w` (R287, R292). -/
def coversWord (cells : List (Nat × Byte)) (w : Nat) : Bool := (List.range 64).all fun i => cells.any fun c => c.1 = w + i

/-- Cells written to the loft: partial words merged, a poisoned word written in part left and reported to the writer (R291). -/
def mergeCells (n : Nat) (cells : List (Nat × Byte)) (s : State) : State :=
  let bad := blockedWord s cells (coversWord cells)
  let s := loftPut cells (coversWord cells) s
  match bad, physOf s n with
  | some w, some p => stallFault p 0x0402 (detA w 4) s
  | _, _ => s

/-- The words that a write reads: those it covers in part, which it merges (R287), and its fill map entry's; a replay reads
all of its tile to compare it, and a write that is not performed reads no more than the entry (R181, R291). -/
def writeReads (s : State) (ecc : EccReport) (cells : List (Nat × Byte)) (fill : Option FillRef) (w : Nat) : Bool :=
  let hit := cells.any fun c => wordOf c.1 = w
  let part := hit && !coversWord cells w
  match fill with
  | none => part
  | some f =>
    let lost := poisonedWord s (wordOf f.addr) || ecc.uncorrectable.contains (wordOf f.addr)
    wordOf f.addr = w || !lost &&
      match fillCase (leNat (loftRead s f.addr 8)) f.inst with
      | .fresh => part
      | .replay => hit
      | .older => false

/-- TILE_CONFLICT found by a loft controller: the write is not performed and the job stops (R181). -/
def loftConflict (n desc a : Nat) (it : List Nat) (s : State) : State :=
  raise 0x0204 2 (controllerOf s a) n (detL desc it) s

/-- A WRITE takes effect under the write-once rule (R181, R291). -/
def loftWrite (n desc : Nat) (cells : List (Nat × Byte)) (fill : Option FillRef) (s : State) : State :=
  match fill with
  | none => mergeCells n cells s
  | some f =>
    let uncorrectable := fun (w : Nat) (s : State) =>
      match physOf s n with
      | some p => stallFault p 0x0402 (detA w 4) s
      | none => s
    if poisonedWord s (wordOf f.addr) then uncorrectable (wordOf f.addr) s
    else
      match fillCase (leNat (loftRead s f.addr 8)) f.inst with
      | .fresh => mergeCells n (cells ++ cellsAt f.addr (fillEntry f.inst)) s
      | .older => loftConflict n desc f.addr f.it s
      | .replay =>
        match poisonIn s (cells.map (·.1)) with
        | some w => uncorrectable w s
        | none => if cells.all fun c => memGet s.loft.mem c.1 = c.2 then s else loftConflict n desc f.addr f.it s

/-- The cells of a transfer that have reached the loft, with a part of it. -/
def writeParts (s : State) (id total : Nat) (cells : List (Nat × Byte)) : TileWrite :=
  let w := (s.loft.writes.find? fun w => w.id = id).getD { id := id, cells := [], left := total }
  { w with cells := w.cells ++ cells, left := w.left - cells.length }

/-- A loft controller takes a WRITE; with the last part of its transfer the tile is written as a whole and acknowledged (R181, R288; log
entry 8). -/
def fabWrite (k : Nat) (ecc : EccReport) (s : State) : State :=
  match netAt s k with
  | some { src := src, dst := dst, hops := hops, body := .write n desc inst id total part fill, .. } =>
    let w := writeParts s id total part
    let rest := s.loft.writes.filter fun w => w.id ≠ id
    if 0 < w.left then { dropPkt k s with loft.writes := rest ++ [w] }
    else
      let s := { dropPkt k s with loft.writes := rest }
      let s := eccApply ecc (writeReads s ecc w.cells fill) 4 s
      injectLoft hops.isEmpty 1 dst src (.ack n desc inst) (loftWrite n desc w.cells fill s)
  | _ => s

/-- FAB_WRITE (R288). -/
def execFabWrite (k : Nat) (ecc : EccReport) (s : State) : Host.Outcome State Fault Refusal := .next (fabWrite k ecc s)

/-- An ACK arrives (R161), or word that a ledger partial was accepted: the entry is FREE once every consumer has it (R149). -/
def fabAck (k : Nat) (s : State) : State :=
  match netAt s k with
  | some { body := .ack n desc inst, .. } => ackOp n desc inst (dropPkt k s)
  | some { body := .accept n entry, .. } =>
    let s := dropPkt k s
    match physOf s n with
    | none => s
    | some p =>
      let l := tget {} (stallP s p).ledger entry
      if l.todo.isEmpty ∧ l.await ≤ 1 then ledgerFree n p entry s
      else modStallP p (fun x => { x with ledger := tset x.ledger entry { l with await := l.await - 1 } }) s
  | _ => s

/-- FAB_ACK (R161). -/
def execFabAck (k : Nat) (s : State) : Host.Outcome State Fault Refusal := .next (fabAck k s)

/-! ## Work counters (R177) -/

/-- A counter's answer to a take of instance `n` with `t` iterations, and the counter after it (R177). -/
def takeFrom (c : Counter) (n t : Nat) : Nat × Counter :=
  let d := (n + 2 ^ 32 - c.inst) % 2 ^ 32
  let c := if 1 ≤ d ∧ d < 2 ^ 31 then { inst := n, value := 0 } else c
  if n = c.inst then (c.value, { c with value := min (c.value + 1) t }) else (t, c)

/-- A yard's counter unit has worked: its beat count has advanced by an amount that the spec does not state (R36; log entry 1). -/
def yardWorks (y : Nat) (s : State) : State :=
  let (d, s) := takeFree s
  { s with yardBeats := tmod 0 s.yardBeats y fun b => (b + d) % 2 ^ 64 }

/-- A counter serves a take and sends its result; or the result reaches the stall that asked (R177, R311). -/
def fabTake (k : Nat) (s : State) : State :=
  match netAt s k with
  | some { src := src, dst := dst, body := .take n desc inst hub ctr t, .. } =>
    let s := dropPkt k s
    let key := n / 30 * 64 + ctr
    let (v, c) := takeFrom (if hub then tget {} s.hubCtr ctr else tget {} s.yardCtr key) inst t
    let s := if hub then { s with hubCtr := tset s.hubCtr ctr c }
      else yardWorks (n / 30) { s with yardCtr := tset s.yardCtr key c }
    inject 1 dst src (.taken n desc inst v) s
  | some { body := .taken n desc inst v, .. } =>
    let s := dropPkt k s
    match physOf s n with
    | none => s
    | some p =>
      match opPlace s p desc inst with
      | some j => taken n p j v s
      | none => s
  | _ => s

/-- FAB_TAKE (R177). -/
def execFabTake (k : Nat) (s : State) : Host.Outcome State Fault Refusal := .next (fabTake k s)

/-! ## Receive windows (R141, R315, R316, R342) -/

/-- The environment of descriptor `d` of a stall, as it stands before its first iteration. -/
def descEnv (s : State) (n p d : Nat) : Env :=
  let x := stallP s p
  let e := envOf s n p x {}
  { e with o := { desc := d, d := descAt x d, dynBound := roundSize e, it := firstIt } }

/-- The descriptor that a chain or pair window belongs to. -/
def winDesc (w : Nat) : Nat := if w < 8192 then w - 64 else w - 8192

/-- The capacity of a window (R215, R315). -/
def winCap (s : State) (e : Env) (w : Nat) : Nat :=
  if w < 64 then ((windowOf (imgAt s e.slot) e.n w).map (·.cap)).getD 1
  else if w < 8192 then e.o.d.cwinCap
  else ((epiStage e.o.d 8).map pwinOf).getD 1

/-- The descriptors of a stall's program from descriptor `i` on, by fuel (R237). -/
def progIdx (x : Stall) : Nat → Nat → List Nat
  | 0, _ => []
  | f + 1, i => if i < (x.loaded.map (·.dtcount)).getD 0 then i :: progIdx x f (descAt x i).next else []

/-- The operations of a stall in the order in which they use a window: those in progress, the rest of the round's program, and the program
of `rounds` rounds more, each of these before its first iteration. -/
def upcoming (s : State) (n p rounds : Nat) : List OpCtx :=
  let x := stallP s p
  let c := (x.loaded.map (·.dtcount)).getD 0
  let entry := (x.loaded.map (·.entry)).getD 0
  let rest := match x.prog with | some g => progIdx x c g.next | none => []
  opsOf x ++ (rest ++ (List.replicate rounds (progIdx x c entry)).flatten).map fun i => (descEnv s n p i).o

/-- The next `j + 1` tiles of an operand, in loop order, by its landing keys; after the last the loop begins again (R316). -/
def keysFrom (o : OpCtx) (no : Nat) : Nat → List Nat → List (List Nat)
  | 0, key => [key]
  | j + 1, key => key :: keysFrom o no j ((nextKey o no key).getD (keyOf o.d no firstIt))

/-- The places in an order of use at which tiles of a window stand. -/
def placesOf : List (Nat × Nat × List Nat) → List WinEntry → List Nat
  | [], _ => []
  | (j, q) :: rest, fs =>
    match fs.find? fun f => f.tile = q.1 && q.2.contains f.src with
    | some f => j :: placesOf rest (fs.erase f)
    | none => placesOf rest fs

/-- How far ahead the tiles of a receive window are used: a gate window's in order of arrival, another's by the order of use (R142,
R342). -/
def heldPlaces (s : State) (e : Env) (w : Nat) : List Nat :=
  let fs := tget [] e.x.wins w
  if (routesInto s e.slot e.n w).isEmpty then List.range fs.length
  else
    let plan := winPlan s e w
    let pos := tget 0 e.x.winPos w
    placesOf ((plan.drop pos ++ plan.take pos).zipIdx.map fun q => (q.2, q.1)) fs

/-- Every entry of a receive window is held by a tile that must be parked (R150, R316): the iteration that the record names. -/
def parkOverflow (s : State) (n p w cap : Nat) : Option (Nat × List Nat) :=
  let x := stallP s p
  if (tget [] x.wins w).length < cap then none
  else
    match (upcoming s n p 1).find? fun o => o.d.a.space = 3 && o.d.a.id = w && (normStage o.d).isSome && o.walking with
    | none => none
    | some o =>
      let e := { envOf s n p x o with o := o }
      let places := heldPlaces s e w
      let keys := keysFrom o 0 (places.foldl max 0) (keyOf o.d 0 o.it)
      if o.staged.isNone && places.length = cap && places.all fun j => mustPark e (keys.getD j []) then
        some (o.desc, keys.getLastD o.it)
      else none

/-- RECV_WINDOW_OVERFLOW at an arrival (R316). -/
def overflowCheck (n p w cap : Nat) (s : State) : State :=
  match parkOverflow s n p w cap with
  | some (desc, it) => stallFault p 0x0205 (detL desc it) s
  | none => s

/-- The entries of a window that a credit key's tiles take, the first and how many: a route's share lies after those of the routes before
it (R315; log entry 41). -/
def winShare (s : State) (e : Env) (w key cap : Nat) : Nat × Nat :=
  if 64 ≤ w then (0, cap)
  else
    let rs := routesInto s e.slot e.n w
    let before := (rs.takeWhile fun r => routeKey r.2 ≠ key).map (·.1.credits)
    (before.sum, ((rs.find? fun r => routeKey r.2 = key).map (·.1.credits)).getD cap)

/-- The key of the count of tiles that have come into a window from one sender's share. -/
def countKey (w key : Nat) : Nat := if 64 ≤ w then w else w + 65536 * (key + 1)

/-- A part of a tile enters its entry of a receive window: the first that arrives takes the next free entry of the sender's share (R309,
R315), and may overflow the window with parked tiles (R316). The answer says whether the tile is complete. -/
def windowPart (n p w off total : Nat) (bytes : List Byte) (f : WinEntry) (s : State) : State × Bool :=
  let e := descEnv s n p (winDesc w)
  let cap := winCap s e w
  let (b, z) := winPlace s e w
  let write := fun (i : Nat) (x : Stall) => { x with scratch := memWrite x.scratch (b + i * z + off) bytes }
  let held := tget [] e.x.wins w
  match held.find? fun h => 0 < h.left && h.src = f.src && h.key = f.key && h.tile = f.tile with
  | some h =>
    let left := h.left - bytes.length
    (modStallP p (fun x => write h.entry { x with
      wins := tset x.wins w (held.map fun y => if y = h then { h with left := left } else y) }) s, left = 0)
  | none =>
    let (base, size) := winShare s e w f.key cap
    let c := tget 0 e.x.winCount (countKey w f.key)
    let ring := (List.range size).map fun j => base + (c + j) % max 1 size
    let i := (ring.find? fun i => held.all fun h => h.entry ≠ i).getD (base + c % max 1 size)
    let left := total - bytes.length
    (overflowCheck n p w cap (modStallP p (fun x => write i { x with
      wins := tset x.wins w (held ++ [{ f with entry := i, left := left }])
      winCount := tset x.winCount (countKey w f.key) (c + 1) }) s), left = 0)

/-- A part of the halo rows of a side arrives for the running HALO of their count; once whole they are written into its halo area; older ones
are discarded (R198). -/
def haloRowsArrive (n p side inst src off total : Nat) (bytes : List Byte) (s : State) : State :=
  match runningHalo (stallP s p) with
  | none => s
  | some k =>
    let o := (envAt s n p k).o
    if o.inst ≠ inst ∨ haloNext o.d side ≠ src then s
    else
      let l := (haloLand o (inOpnd side)).getD { opnd := inOpnd side, it := firstIt, entry := 0, st := .reserved, left := total }
      let l := { l with raw := memWrite l.raw off bytes, left := l.left - bytes.length }
      let others := fun (o : OpCtx) => o.lands.filter fun q => q.opnd ≠ inOpnd side
      if 0 < l.left then putOp p k (fun o => { o with lands := others o ++ [l] }) s
      else settle p s (haloWrite n p k side (memRead l.raw 0 total) (putOp p k (fun o => { o with lands := others o }) s))

/-- A DATA packet lands: in a window entry, or in a halo area; with the last of its transfer the write is acknowledged (R161), and the credit
of a halo area returns (R315). -/
def fabData (k : Nat) (s : State) : State :=
  match netAt s k with
  | some { body := .data n win from_ key dest tile off total bytes ack, .. } =>
    let s := dropPkt k s
    match physOf s n with
    | none => s
    | some p =>
      let done := fun (s : State) => match ack with
        | some (m, desc, inst) => injectStall 1 n m (.ack m desc inst) s
        | none => s
      if 16384 ≤ win then
        let s := haloRowsArrive n p (win - 16384) tile from_ off total bytes s
        if total ≤ off + bytes.length then done (injectStall 1 n from_ (.credit from_ key 0) s) else s
      else
        let r := windowPart n p win off total bytes { entry := 0, tile := tile, src := from_, key := key, dst := dest } s
        if r.2 then done r.1 else r.1
  | _ => s

/-- FAB_DATA (R315). -/
def execFabData (k : Nat) (s : State) : Host.Outcome State Fault Refusal := .next (fabData k s)

/-- A credit returns to its sender, whose waiting ledger partials may go (R149, R315). -/
def fabCredit (k : Nat) (s : State) : State :=
  match netAt s k with
  | some { body := .credit n key dest, .. } =>
    let s := dropPkt k s
    match physOf s n with
    | some p => ledgerPump n p (modStallP p (giveCredit key dest) s)
    | none => s
  | _ => s

/-- FAB_CREDIT (R315). -/
def execFabCredit (k : Nat) (s : State) : Host.Outcome State Fault Refusal := .next (fabCredit k s)

/-- A partial is accepted into a ledger entry, and its sender learns so (R149). -/
def ledgerAccept (k n p entry : Nat) (l part : Ledger) (s : State) : State :=
  let s := modStallP p (fun x => { x with ledger := tset x.ledger entry { l with todo := [], await := 0, from_ := part.from_ } }) (dropPkt k s)
  match part.from_ with
  | some (q, i) => injectStall 1 n q (.accept q i) s
  | none => s

/-- A partial arrives (R149). A completed one is accepted into a FREE entry, COMPLETE. One that descriptor `desc` of this stall goes on with is
accepted into a FREE entry, or joins the entry in which tiles of its row already wait for it, and what was held is folded (R148). DEDUCED:
NEXT_COL goes on from the sender's, because the columns are the row's (R125, R146; log entry 40). -/
def ledgerArrives (k n p entry desc : Nat) (part : Ledger) (complete : Bool) (s : State) : State :=
  let old := tget {} (stallP s p).ledger entry
  let own := (desc, part.own.2)
  if complete then (if old.st = 0 then ledgerAccept k n p entry { part with st := 2 } part s else s)
  else if old.st = 0 || old.st = 1 && old.n = 0 && old.row = part.row && old.own = own && old.from_.isNone then
    let s := ledgerAccept k n p entry { part with st := 1, own := own } part s
    match opPlace s p own.1 own.2, epiStage (descAt (stallP s p) desc) 0xA with
    | some j, some r => ledgerPump n p (ledgerFolded n p j entry r s)
    | _, _ => s
  else s

/-- A row-ledger partial arrives (R149). -/
def fabLedger (k : Nat) (s : State) : State :=
  match netAt s k with
  | some { body := .ledger n entry desc part complete, .. } =>
    match physOf s n with
    | some p => ledgerArrives k n p entry desc part complete s
    | none => dropPkt k s
  | _ => s

/-- FAB_LEDGER (R149). -/
def execFabLedger (k : Nat) (s : State) : Host.Outcome State Fault Refusal := .next (fabLedger k s)

/-- A READY is held until the HALO that it names has its count; a running one sees it, or discards an older one, at once (R198). -/
def fabReady (k : Nat) (s : State) : State :=
  match netAt s k with
  | some { body := .ready n side desc inst, .. } =>
    let s := dropPkt k s
    match physOf s n with
    | none => s
    | some p =>
      let s := modStallP p (fun x => { x with haloReady := x.haloReady ++ [(side, desc, inst)] }) s
      match runningHalo (stallP s p) with
      | some j => haloSee n p j side s
      | none => s
  | _ => s

/-- FAB_READY (R198). -/
def execFabReady (k : Nat) (s : State) : Host.Outcome State Fault Refusal := .next (fabReady k s)

/-! ## Arrivals from the gates (R329, R342) -/

/-- A COLLECT receives tile `it` on its window `w`: upward every member but the first of a reducing kind, or but the tile's
owner or the root; downward the members that the result passes (R340). -/
def collectTakes (s : State) (o : OpCtx) (w : Nat) (it : List Nat) : Bool :=
  let g := groupAt s (collectGroup o.d)
  let self := grpSelf g
  let nm := grpNmem g
  let t := tileNumber o it
  if w = collectWup o.d then
    match collectKind o.d with
    | 0 | 1 => 0 < self
    | 2 => t % max 1 nm ≠ self
    | _ => collectRoot o.d ≠ self
  else collectKind o.d = 0 ∧ self + 1 < nm ∨ collectKind o.d = 1 ∧ t % max 1 nm ≤ self ∧ self + 1 < nm

/-- The tiles that an operation receives from iteration `it` on, by fuel; `none` where the next ones are not known: a TAKE level's next
iteration is still to be taken. -/
def tilesFrom (o : OpCtx) (takes : List Nat → Bool) : Nat → List Nat → List (Option (Nat × Nat × List Nat))
  | 0, _ => []
  | f + 1, it =>
    (if takes it then [some (o.desc, tileNumber o it, it)] else []) ++
    match nextTile o it with
    | some it' => tilesFrom o takes f it'
    | none => if (takeLevel o.d).isSome then [none] else []

/-- An operation receives tiles of gate window `w`: a RECV, or a COLLECT upward or downward (R340, R342). -/
def receivesOn (w : Nat) (d : Desc) : Bool :=
  d.opcode = 0x32 && d.a.space = 3 && d.a.id = w || d.opcode = 0x34 && (collectWup d = w || collectWdn d = w)

/-- The tiles that an operation has still to receive on gate window `w`. One that waits to take has none that are known. -/
def tilesLeft (s : State) (fuel w : Nat) (o : OpCtx) : List (Option (Nat × Nat × List Nat)) :=
  let down := o.d.opcode = 0x34 && collectWdn o.d = w
  let takes := fun it => o.d.opcode = 0x32 || collectTakes s o w it
  if down && o.inst ≠ 0 then (match o.down with | some it => tilesFrom o takes fuel it | none => [])
  else if !o.walking then []
  else if o.takeWait || (takeLevel o.d).isSome && o.inst = 0 then [none]
  else tilesFrom o takes fuel o.it

/-- The tile that gate window `w` of a stall expects after those it holds: the next that the RECVs and COLLECTs which read the window receive,
in the program's order (R342). -/
def expectedTile (s : State) (n p w : Nat) : Option (Nat × Nat × List Nat) :=
  let j := (tget [] (stallP s p).wins w).length
  let ops := (upcoming s n p (j + 1)).filter fun o => receivesOn w o.d
  let seq := ops.flatMap fun o => tilesLeft s ((j + 2) * (grpNmem (groupAt s (collectGroup o.d)) + 2)) w o
  (seq[j]?.bind id).filter fun _ => (seq.take j).all (·.isSome)

/-- The bytes of a gate packet enter its window entry; the packet that ends a tile, the one shorter than 480 bytes, makes it
usable (R141, R329), and may overflow the window with parked tiles (R316). -/
def gateStore (n p slot : Nat) (q : GatePkt) (s : State) : State :=
  match windowOf (imgAt s slot) n q.window with
  | none => s
  | some r =>
    let i := q.entry % max 1 r.cap
    let s := modStallP p (fun x => { x with scratch := memWrite x.scratch (r.base + i * r.size + 16 * q.offset) q.payload }) s
    if q.payload.length < 480 then
      overflowCheck n p q.window r.cap (modStallP p (fun x => { x with
        wins := tset x.wins q.window (tget [] x.wins q.window ++ [{ entry := i, tile := q.tile, grp := some (q.group, q.member) }]) }) s)
    else s

/-- A DATA packet for this device: counted, and given to its stall's window; a tile other than the one expected is
TILE_CONFLICT on the receiver (R342). -/
def gateDeliver (g : Nat) (q : GatePkt) (s : State) : State :=
  let s := countPkts 4 1 (countRx q.group (popPkt g q s))
  let n := q.stall
  match physOf s n with
  | none => s
  | some p =>
    match (stallP s p).loaded with
    | none => s
    | some l =>
      match expectedTile s n p q.window with
      | some (desc, t, it) =>
        if t % 2 ^ 16 = q.tile then gateStore n p l.slot q s else stallFault p 0x0204 (detL desc it) s
      | none => gateStore n p l.slot q s

/-- GATE_PKT_DATA (R342). -/
def execGatePktData (g : Nat) (s : State) : Host.Outcome State Fault Refusal := .next (withFront g 1 (gateDeliver g) s)

end Sys2Proof.Machine
end

