-- ==== Sys2Proof/Machine/HostLink.lean ====
section
/-! DEFINITION. The host link (R371 to R376), the queue registers (R378, R379), completion records (R382 to R385) and the
SMBus sideband (R387). -/

namespace Sys2Proof.Machine

/-! ## Flits (R372, R373) -/

/-- The acknowledgement of a flit: every flit up to ACK is dropped; on NAK the rest is resent from ACK + 1 and counted in
REPLAYS, saturating (R373), but not in drill mode, where nothing is tried again (R27). -/
def flitAck (ack : Nat) (nak : Bool) (h : HostBlk) : HostBlk :=
  let left := if h.unacked.contains ack then (h.unacked.dropWhile (· ≠ ack)).drop 1 else h.unacked
  { h with unacked := left, replays := if nak then sat 32 (h.replays + left.length) else h.replays }

/-- Credits that a flit returns, by class (R372, R376). -/
def flitCredits (cls count : Nat) (h : HostBlk) : HostBlk :=
  if cls = 0 then { h with posted := h.posted + count }
  else if cls = 1 then { h with nonposted := h.nonposted + count }
  else h

/-- The receiver's part: a flit whose CRC fails is refused; a non-idle flit with SEQ = ACK + 1 is accepted; one further on
is refused, and an older one is a repeat (R373). -/
def flitAccept (idle : Bool) (seq : Nat) (h : HostBlk) : HostBlk :=
  if idle then h
  else if seq = (h.rxAck + 1) % 4096 then { h with rxAck := seq, rxNak := false }
  else if (seq + 4096 - h.rxAck) % 4096 ≤ 2048 ∧ seq ≠ h.rxAck then { h with rxNak := true }
  else h

/-- A flit with its header word and whether its CRC passed (R372, R373). -/
def flitReceive (header : W64) (crcOk : Bool) (s : State) : State :=
  if !s.host.up || unitStopped s 5 12 then s
  else if !crcOk then { s with host.rxNak := true }
  else
    let h := flitAccept (fld header 25 25 = 1) (fld header 11 0) s.host
    let h := flitAck (fld header 23 12) (fld header 24 24 = 1 && !s.bring.drill) h
    let h := flitCredits (fld header 27 26) (fld header 31 28) h
    { s with host := linkPump h.txq [] true true h }

/-- HOST_FLIT_RECEIVE (R373). -/
def execHostFlitReceive (header : W64) (crcOk : Bool) (s : State) : Host.Outcome State Fault Refusal :=
  .next (flitReceive header crcOk s)

/-- The link goes down (R374): HOST_LINK_DOWN is raised, nothing further is sent, RESET_N is awaited. -/
def hostLinkDown (s : State) : State :=
  if !s.host.up then s
  else
    let s := { s with host.up := false, host.down := true, host.txq := [], host.reads := [] }
    raise 0x0505 5 12 0x7FF (detG 12 0xF 0 0x7FF) s

/-- HOST_LINK_TIMEOUT (R374): only while flits are unacknowledged. -/
def execHostLinkTimeout (s : State) : Host.Outcome State Fault Refusal :=
  .next (if s.host.unacked.isEmpty then s else hostLinkDown s)

/-! ## Completions of the device's reads (R376, R429) -/

/-- Read `off` of the firmware image answered: its bytes, or a refusal that ends the fetch (R429). -/
def firmwareArrives (off status : Nat) (data : List Byte) (s : State) : State :=
  if status = 0 then { s with sec.fetched := tset s.sec.fetched off data }
  else { s with sec.fetchBad := true }

/-- The next reads of the firmware image, while fewer than 256 reads are outstanding (R376, R429), by fuel. -/
def firmwarePump : Nat → Nat → State → State
  | 0, _, s => s
  | f + 1, len, s =>
    if s.sec.fetchBad ∨ len ≤ s.sec.fetchNext ∨ 256 ≤ s.host.reads.length then s
    else
      let off := s.sec.fetchNext
      let n := min 4096 (len - off)
      let s := hostRead (s.sec.fwAddr + off) n (.firmware off) s
      firmwarePump f len { s with sec.fetchNext := off + n }

/-- The length of the VERIFY that runs. -/
def verifyLen (s : State) : Nat :=
  match s.sec.run with
  | some (.verify len, _) => len
  | _ => 0

/-- HOST_CPL (R376): a completion of a read of host memory arrives and serves the reader. -/
def hostCplArrives (tag status : Nat) (data : List Byte) (s : State) : State :=
  match s.host.reads.find? fun r => r.tag = tag with
  | none => s
  | some r =>
    let s := { s with host.reads := s.host.reads.filter fun x => x.tag ≠ tag }
    match r.use with
    | .other => s
    | .firmware off => firmwarePump 1 (verifyLen s) (firmwareArrives off status (padTo r.len data) s)

/-- HOST_CPL (R376). -/
def execHostCpl (tag status : Nat) (data : List Byte) (s : State) : Host.Outcome State Fault Refusal :=
  .next (hostCplArrives tag status data s)

/-! ## Queue registers (R378, R379) -/

/-- A write of HOST_DB_q: TAIL at or above the ring size, or to a queue with EN = 0, is ignored with QERR (R379). -/
def doorbell (q : Nat) (value : W64) (s : State) : State :=
  let x := queueAt s q
  let t := fld value 11 0
  if !x.sqEn ∨ 2 ^ x.sqLog2 ≤ t then { s with host.qerr := true }
  else modQueue q (fun x => { x with tail := t }) s

/-- HOST_DB_WRITE (R378). -/
def execHostDbWrite (view : View) (q : Nat) (value : W64) (s : State) : Host.Outcome State Fault Refusal :=
  .next (regWrite view (hostBase + 0x110 + 0x20 * q) (doorbell q value) s)

/-- The records waiting on a queue that becomes disabled are discarded and counted in CQLOST (R384). -/
def discardWaiting (q : Nat) (s : State) : State :=
  let n := (queueAt s q).waiting.length
  modQueue q (fun x => { x with waiting := [] }) { s with host.cqlost := sat 16 (s.host.cqlost + n) }

/-- A write of HOST_SQ_q (R379). -/
def sqWrite (q : Nat) (value : W64) (s : State) : State :=
  let x := queueAt s q
  let base := fld value 63 12 * 4096
  let en := fld value 4 4 = 1
  let log2 := fld value 3 0
  if x.sqEn ∧ (base ≠ x.sqBase ∨ log2 ≠ x.sqLog2) ∨ en ∧ (log2 < 4 ∨ 12 < log2) ∨
     ¬ en ∧ (x.sqHead ≠ x.tail ∨ x.inflight ≠ 0) then { s with host.qerr := true }
  else
    let s := modQueue q (fun x => { x with sqBase := base, sqEn := en, sqLog2 := log2 }) s
    if en then s else discardWaiting q s

/-- A write of HOST_CQ_q (R379). -/
def cqWrite (q : Nat) (value : W64) (s : State) : State :=
  let x := queueAt s q
  let base := fld value 63 12 * 4096
  let log2 := fld value 3 0
  if x.sqEn ∧ (base ≠ x.cqBase ∨ log2 ≠ x.cqLog2) then { s with host.qerr := true }
  else modQueue q (fun x => { x with cqBase := base, cqAlert := fld value 4 4 = 1, cqLog2 := log2 }) s

/-- HOST_QUEUE_CONFIG_WRITE (R379). -/
def execHostQueueConfigWrite (view : View) (q : Nat) (cq : Bool) (value : W64) (s : State) :
    Host.Outcome State Fault Refusal :=
  .next (regWrite view (hostBase + (if cq then 0x108 else 0x100) + 0x20 * q)
    (if cq then cqWrite q value else sqWrite q value) s)

/-! ## Completion records and alerts (R382 to R385) -/

/-- The 64 bytes of a completion record (R382). -/
def cplBytes (q : Nat) (phase : Bool) (r : CplRec) : List Byte :=
  leBytes 4 r.tag ++ leBytes 1 q ++ leBytes 1 r.status ++ leBytes 1 r.kind ++ leBytes 1 (b2n phase) ++ zeros 8 ++
  padTo 48 r.body

/-- The record at the head of a ring's waiting records is written when there is room; a COMPLETION alert goes out when the
ring was empty (R382 to R385). -/
def writeRecord (q : Nat) (s : State) : State :=
  let x := queueAt s q
  match x.waiting with
  | [] => s
  | r :: rest =>
    if !x.sqEn then
      modQueue q (fun x => { x with waiting := rest }) { s with host.cqlost := sat 16 (s.host.cqlost + 1) }
    else
      let nxt := (x.cqTail + 1) % 2 ^ x.cqLog2
      if nxt = x.cqHead then s
      else
        let alert := x.cqAlert && x.cqHead = x.cqTail
        let ts := [HostTxn.write (x.cqBase + 64 * x.cqTail) (cplBytes q x.phase r)] ++
          (if alert then [HostTxn.msg (alertField 1 q 0)] else [])
        modQueue q (fun x => { x with waiting := rest, cqTail := nxt, phase := if nxt = 0 then !x.phase else x.phase })
          (hostSend ts s)

/-- COMPLETION_RECORD_WRITE (R383). -/
def execCompletionRecordWrite (q : Nat) (s : State) : Host.Outcome State Fault Refusal := .next (writeRecord q s)

/-! ## SMBus (R387) -/

/-- SMBus answers in AUX and every higher state (R387): the auxiliary supply is good and RESET_N is released. -/
def smbUp (s : State) : Bool := s.pins.resetN && s.pins.pwrgdAux

/-- An SMBus transaction: not acknowledged with a wrong packet error code or while SMBus is down; else its answer. -/
def smbAnswer (pecOk : Bool) (resp : List Byte) (s : State) : State :=
  if pecOk && smbUp s then { s with smb.acked := true, smb.resp := resp }
  else { s with smb.acked := false, smb.resp := [] }

/-- The fused values of DEV_LOT and DEV_FEAT (R498). -/
def devFeat : W64 :=
  pack [(48, 1200), (40, 64), (32, 64), (24, 16), (16, 1), (8, 1), (0, Config.romver.toNat)]

/-- DEV_ID (R2, R498). -/
def devId : W64 := pack [(48, 0x4842), (32, 0x0002), (24, 0x41), (8, 0x0140), (0, 0x01)]

/-- The 32 bytes of the identity registers (R498). -/
def identityBytes : List Byte :=
  [devId, Config.serial, Config.lot, devFeat].flatMap fun w => leBytes 8 w.toNat

/-- The hottest junction temperature among the powered dies, in units of 1/8 °C (R387, R418). -/
def hottest (s : State) : Int :=
  let hub := s.pwr.temps.getD 4 0
  if barnsOn s then (s.pwr.temps.take 4).foldl max hub else hub

/-- Bits 2:0 STATE, bit 3 MOVING, bit 4 TRIPPED (SMBus command 0x03). -/
def smbPstate (s : State) : Nat := pstateCode s + 8 * b2n s.pwr.moving.isSome + 16 * b2n s.pwr.tripped

/-- SMBus command 0x04 (R387). -/
def smbStatusByte (s : State) : Nat :=
  b2n s.host.up + 2 * b2n s.host.alert + 4 * b2n s.bring.drill + 8 * b2n s.bring.ready + 16 * b2n s.flt.linkLogged

/-- The record FLT_LAST holds, all zero before the first (R487). -/
def lastRecord (s : State) : List Byte :=
  match s.flt.last with
  | some r => recBytes r
  | none => zeros 32

/-- SMB_IDENTITY (R387, R498). -/
def execSmbIdentity (pecOk : Bool) (s : State) : Host.Outcome State Fault Refusal :=
  .next (smbAnswer pecOk identityBytes s)

/-- SMB_TEMPERATURE (R387). -/
def execSmbTemperature (pecOk : Bool) (s : State) : Host.Outcome State Fault Refusal :=
  .next (smbAnswer pecOk (leBytes 2 (twos 16 (hottest s))) s)

/-- SMB_POWER_STATE (R387). -/
def execSmbPowerState (pecOk : Bool) (s : State) : Host.Outcome State Fault Refusal :=
  .next (smbAnswer pecOk (leBytes 1 (smbPstate s)) s)

/-- SMB_STATUS (R387). -/
def execSmbStatus (pecOk : Bool) (s : State) : Host.Outcome State Fault Refusal :=
  .next (smbAnswer pecOk (leBytes 1 (smbStatusByte s)) s)

/-- SMB_POWER (R387). -/
def execSmbPower (pecOk : Bool) (s : State) : Host.Outcome State Fault Refusal :=
  .next (smbAnswer pecOk (leBytes 2 s.pwr.power) s)

/-- SMB_LAST_FAULT (R387, R487). -/
def execSmbLastFault (pecOk : Bool) (s : State) : Host.Outcome State Fault Refusal :=
  .next (smbAnswer pecOk (lastRecord s) s)

/-- SMB_CLEAR_ALERT (R387): clears HOST_STATUS.ALERT. -/
def execSmbClearAlert (pecOk : Bool) (s : State) : Host.Outcome State Fault Refusal :=
  .next (if pecOk && smbUp s then smbAnswer pecOk [] { s with host.alert := false } else smbAnswer pecOk [] s)

end Sys2Proof.Machine
end

