-- ==== Sys2Proof/Machine/Lms.lean ====
section
/-! DEFINITION. Verification of an RFC 8554 LMS signature over LMOTS_SHA256_N32_W8 (R210, R233, R234, R428, R431). PRESUMED: the
procedure and its constants are those of RFC 8554 (log entry 9). -/

namespace Sys2Proof.Machine

/-- What a hash of the scheme is taken over: the key's identifier, a number of 4 bytes, a domain of 2 bytes and the data. -/
def lmsHash (ident : List Byte) (num dom : Nat) (data : List Byte) : List Byte :=
  sha256 (ident ++ beBytes 4 num ++ beBytes 2 dom ++ data)

/-- A Winternitz chain of `k` steps from step `j` on, for digit number `i` of leaf `q`. -/
def otsChain (ident : List Byte) (q i : Nat) : Nat → Nat → List Byte → List Byte
  | 0, _, x => x
  | k + 1, j, x => otsChain ident q i k (j + 1) (lmsHash ident q i (BitVec.ofNat 8 j :: x))

/-- The 34 digits of a message digest: its 32 bytes, and their checksum in two more. -/
def otsDigits (d : List Byte) : List Nat :=
  let ds := d.map (·.toNat)
  ds ++ (beBytes 2 ((ds.map fun a => 255 - a).sum)).map (·.toNat)

/-- The one-time public key that a signature (its randomizer, then 34 chain values) gives for a message. -/
def otsCandidate (ident : List Byte) (q : Nat) (sig msg : List Byte) : List Byte :=
  let digest := lmsHash ident q 0x8181 (slice sig 0 32 ++ msg)
  lmsHash ident q 0x8080 (((otsDigits digest).zipIdx).flatMap fun a =>
    otsChain ident q a.2 (255 - a.1) a.1 (slice sig (32 + 32 * a.2) 32))

/-- The root that a path leads to from a node: `n` is the node's number, its sibling taken from the path at each level. -/
def lmsClimb (ident : List Byte) : List (List Byte) → Nat → List Byte → List Byte
  | [], _, x => x
  | y :: r, n, x => lmsClimb ident r (n / 2) (lmsHash ident (n / 2) 0x8383 (if n % 2 = 1 then y ++ x else x ++ y))

/-- The height of an LMS type, 5 to 9 naming heights 5, 10, 15, 20 and 25 (R210). -/
def lmsHeight (ty : List Byte) : Option Nat :=
  match ty with
  | [0, 0, 0, t] => if 5 ≤ t.toNat ∧ t.toNat ≤ 9 then some (5 * (t.toNat - 4)) else none
  | _ => none

/-- An LMS signature verifies under a 56-byte key: equal types, one leaf of the tree, and the key's root. -/
def lmsVerify (key msg sig : List Byte) : Bool :=
  match lmsHeight (slice key 0 4) with
  | none => false
  | some h =>
    let ident := slice key 8 16
    let q := leNat (slice sig 0 4).reverse
    let leaf := lmsHash ident (2 ^ h + q) 0x8282 (otsCandidate ident q (slice sig 8 1120) msg)
    slice key 4 4 == [0, 0, 0, 4] && slice sig 4 4 == [0, 0, 0, 4] && slice sig 1128 4 == slice key 0 4 &&
    sig.length == 1132 + 32 * h && decide (q < 2 ^ h) &&
    lmsClimb ident ((List.range h).map fun i => slice sig (1132 + 32 * i) 32) (2 ^ h + q) leaf == slice key 24 32

end Sys2Proof.Machine
end

