-- ==== Sys2Proof/Machine/Security.lean ====
section
/-! DEFINITION. The security block: firmware verification, anti-rollback and epoch fuses, attestation, and the job's
ownership (R427 to R434). -/

namespace Sys2Proof.Machine

/-! ## Fuses (R430 to R433) -/

/-- The fused security version: the fuses that read as burned, 0 to 64 (R430). -/
def fusedSvn (s : State) : Nat := min 64 (Config.svnFused % 65 + s.sec.svnBurned)

/-- The epoch fuses burned, 0 to 32,768 (R431). -/
def epochsUsed (s : State) : Nat := min 32768 (Config.epochsFused % 32769 + s.sec.epochsBurned)

/-- EPOCHS_LEFT. -/
def epochsLeft (s : State) : Nat := 32768 - epochsUsed s

/-- LEFT: signatures left in the epoch. -/
def leavesLeft (s : State) : Nat := if s.sec.epoch.isSome then 1048576 - s.sec.leaf else 0

/-- ATTEST_EXHAUSTED with the detail of its cause (R433). -/
def attestExhausted (why : Nat) (s : State) : State := raise 0x0605 7 0 0x7FF (detU why (epochsLeft s) 0) s

/-! ## VERIFY (R428, R429) -/

/-- A SEC_FW_CMD completes. -/
def secDone (tag result : Nat) (s : State) : State :=
  { s with sec.run := none, sec.tag := tag, sec.result := result }

/-- The SEC_FW_CMD that runs; none goes on once an error in drill mode has stopped the security block (R27). -/
def secRun (s : State) : Option (SecOp × Nat) := if unitStopped s 7 0 then none else s.sec.run

/-- A SEC_FW_CMD is written: dropped with OVERRUN while one runs. -/
def secCmd (f : State → State) (s : State) : State :=
  if unitStopped s 7 0 then s
  else if s.sec.run.isSome then { s with sec.overrun := true } else f s

/-- VERIFY of `len` bytes at SEC_FW_ADDR (R429): check 1, then the fetch starts. -/
def verify (tag len : Nat) : State → State :=
  secCmd fun s =>
    if s.bring.phase == .booted || s.bring.phase == .drillReturn then
      firmwarePump 256 len { s with
        sec.run := some (.verify len, tag), sec.fetched := [], sec.fetchNext := 0, sec.fetchBad := false }
    else secDone tag 2 s

/-- SEC_VERIFY (R429). -/
def execSecVerify (view : View) (tag : Nat) (len : Nat) (s : State) : Host.Outcome State Fault Refusal :=
  .next (regWrite view (secBase + 8) (verify (tag % 256) (len % 2 ^ 32)) s)

/-- The image fetched. -/
def fwBytes (s : State) : List Byte := s.sec.fetched.flatMap (·.2)

/-- HUBLEN and STALLLEN of an image (R428). -/
def fwHubLen (b : List Byte) : Nat := leAt b 8 4
def fwStallLen (b : List Byte) : Nat := leAt b 12 4

/-- A part's length is a multiple of 512 from 512 to `hi`. -/
def partLenOk (n hi : Nat) : Bool := n % 512 = 0 && 512 ≤ n && n ≤ hi

/-- Check 2 of R429. -/
def fwHeaderOk (b : List Byte) (len : Nat) : Bool :=
  slice b 0 4 == [0x57, 0x4A, 0x32, 0x46] && leAt b 4 2 = 1 && byteAt b 6 ≤ 64 &&
  partLenOk (fwHubLen b) 4194304 && partLenOk (fwStallLen b) 262144 && len = 1836 + fwHubLen b + fwStallLen b

/-- The firmware digest (R428). -/
def fwDigest (b : List Byte) : List Byte := sha256 (slice b 0 (64 + fwHubLen b + fwStallLen b))

/-- The types of R428 in a signature: LMS_SHA256_M32_H20 (8) with LMOTS_SHA256_N32_W8 (4), big-endian (log entry 9). -/
def fwSigTypes (sig : List Byte) : Bool := slice sig 4 4 == [0, 0, 0, 4] && slice sig 1128 4 == [0, 0, 0, 8]

/-- Check 3 of R429. -/
def fwSignatureOk (b : List Byte) : Bool :=
  let sig := slice b (64 + fwHubLen b + fwStallLen b) 1772
  fwSigTypes sig && lmsVerify (padTo 56 Config.vendorKey) (fwDigest b) sig

/-- A failing image refuses the device (R389, R429). -/
def secRefuse (code tag : Nat) (detail : List Byte) (s : State) : State :=
  let s := raise code 7 0 0x7FF detail s
  gatesOff (secDone tag 4 { s with bring.phase := .refused, bring.refusal := code })

/-- Step 5 of R429: on the first success after reset one epoch fuse is burned; a failed burn may or may not leave the fuse
reading as burned (R432, R433; log entry 1). -/
def takeEpoch (burnOk : Bool) (s : State) : State :=
  if s.sec.stepFive then s
  else
    let e := epochsUsed s
    let s := { s with sec.stepFive := true }
    if 32768 ≤ e then attestExhausted 0 { s with sec.refusedWhy := some 0 }
    else if burnOk then
      { s with sec.epochsBurned := s.sec.epochsBurned + 1, sec.epoch := some e, sec.epochOk := true }
    else
      let (k, s) := takeFree s
      attestExhausted 2 { s with sec.epochsBurned := s.sec.epochsBurned + k % 2, sec.refusedWhy := some 2 }

/-- Steps 5 and 6 of R429: the hub part starts. -/
def fwStart (tag : Nat) (burnOk : Bool) (b : List Byte) (s : State) : State :=
  let s := takeEpoch burnOk s
  let fw : Firmware :=
    { digest := fwDigest b, stallDigest := sha256 (slice b (64 + fwHubLen b) (fwStallLen b)), svn := byteAt b 6,
      build := BitVec.ofNat 64 (leAt b 16 8) }
  secDone tag 0 { s with
    sec.fw := some fw
    bring.phase := if s.bring.phase == .drillReturn then .drillReturn else .fwOk }

/-- The image has arrived, or a part of its fetch was refused, and no fetch is outstanding. -/
def fetchOver (len : Nat) (s : State) : Bool :=
  (s.sec.fetchBad || len ≤ s.sec.fetchNext) && s.host.reads.all fun r => r.use == .other

/-- VERIFY ends (R429). -/
def verifyEnds (burnOk : Bool) (s : State) : State :=
  match secRun s with
  | some (.verify len, tag) =>
    if !fetchOver len s then s
    else if s.sec.fetchBad then secDone tag 5 s
    else
      let b := fwBytes s
      if !fwHeaderOk b len || !fwSignatureOk b then secRefuse 0x0601 tag detN s
      else if byteAt b 6 < fusedSvn s then secRefuse 0x0602 tag (detU (byteAt b 6) (fusedSvn s) 0) s
      else fwStart tag burnOk b s
  | _ => s

/-- VERIFY_DONE (R429). -/
def execVerifyDone (burnOk : Bool) (s : State) : Host.Outcome State Fault Refusal := .next (verifyEnds burnOk s)

/-! ## SVN_COMMIT (R430) -/

/-- SVN of the running image. -/
def runningSvn (s : State) : Nat := (s.sec.fw.map (·.svn)).getD 0

/-- From phase FW_OK onward, but not in REFUSED (R430). -/
def fwOnward (s : State) : Bool := 2 ≤ phaseCode s.bring.phase && s.bring.phase != .refused

/-- SVN_COMMIT (R430): completes at once when the running SVN is not above the fused version. -/
def svnCommit (tag : Nat) : State → State :=
  secCmd fun s =>
    if !fwOnward s then secDone tag 2 s
    else if runningSvn s ≤ fusedSvn s then secDone tag 0 s
    else { s with sec.run := some (.svnCommit, tag) }

/-- SEC_SVN_COMMIT (R430). -/
def execSecSvnCommit (view : View) (tag : Nat) (s : State) : Host.Outcome State Fault Refusal :=
  .next (regWrite view (secBase + 8) (svnCommit (tag % 256)) s)

/-- SVN_COMMIT has burned its fuses: their count equals the running SVN (R430). -/
def svnBurnt (s : State) : State :=
  match secRun s with
  | some (.svnCommit, tag) =>
    secDone tag 0 { s with sec.svnBurned := s.sec.svnBurned + (runningSvn s - fusedSvn s) }
  | _ => s

/-- SVN_COMMIT_DONE (R430). -/
def execSvnCommitDone (s : State) : Host.Outcome State Fault Refusal := .next (svnBurnt s)

/-! ## Attestation (R431 to R434) -/

/-- The lower tree of the epoch is built (R432). -/
def treeBuilt (s : State) : State := if s.sec.epoch.isSome && !unitStopped s 7 0 then { s with sec.tree := true } else s

/-- ID_TREE_BUILT (R432). -/
def execIdTreeBuilt (s : State) : Host.Outcome State Fault Refusal := .next (treeBuilt s)

/-- A SIGN completes, with its record (R434). -/
def signOver (tag result : Nat) (s : State) : State :=
  post .reg { tag := tag, status := result, kind := 0 }
    { s with sec.sign := none, sec.attTag := tag, sec.attResult := result }

/-- Why attestation is refused: 0 fuses spent, 1 leaves spent, 2 burn failed (R433). -/
def signRefusal (s : State) : Option Nat :=
  match s.sec.refusedWhy with
  | some w => some w
  | none => if s.sec.epoch.isSome ∧ 1048576 ≤ s.sec.leaf then some 1 else none

/-- SIGN (R433, R434): its nonce is read at once; a refused address gives INVALID. -/
def sign (view : View) (tag : Nat) (nonce : HostRead) (s : State) : State :=
  if unitStopped s 7 0 then s
  else if s.sec.sign.isSome then { s with sec.attOverrun := true }
  else if phaseCode s.bring.phase < 2 then signOver tag 2 s
  else
    match signRefusal s with
    | some w => signOver tag 4 (attestExhausted w s)
    | none =>
      match nonce with
      | none => signOver tag 5 s
      | some n => { s with sec.sign := some { view := view, tag := tag, addr := s.sec.attAddr, nonce := padTo 32 n } }

/-- SEC_SIGN (R434). -/
def execSecSign (view : View) (tag : Nat) (nonce : HostRead) (s : State) : Host.Outcome State Fault Refusal :=
  .next (regWrite view (secBase + 0x800) (sign view (tag % 256) nonce) s)

/-- A register word as 8 little-endian bytes. -/
def wordBytes (w : W64) : List Byte := leBytes 8 w.toNat

/-- KEYDIGEST, SYLDIGEST and CONFDIGEST (R434). -/
def keyDigest (s : State) : List Byte :=
  sha256 ((List.range 28).flatMap fun i => wordBytes (tget 0 s.syl.keys i))
def sylDigest (s : State) : List Byte := sha256 ((residents s).flatMap fun k => imgDigest (imgAt s k))
def confDigest (s : State) : List Byte :=
  sha256 (([loftMapWord s] ++ (List.range 16).map (fun i => partWord (partAt s i)) ++
    [s.roll.mark.setWidth 64, BitVec.ofNat 64 s.gate.node] ++ (List.range 256).map (groupAt s)).flatMap wordBytes)

/-- The attestation report (R434). -/
def report (s : State) (r : SignRun) : List Byte :=
  let fw := s.sec.fw.getD { digest := zeros 32, stallDigest := [], svn := 0, build := 0 }
  [0x57, 0x4A, 0x32, 0x41] ++ leBytes 2 1 ++ leBytes 1 (b2n (r.view == .priv) + 2 * b2n s.sec.owned) ++
  leBytes 1 (phaseCode s.bring.phase) ++ wordBytes Config.serial ++ leBytes 4 (s.sec.epoch.getD 0) ++
  leBytes 4 s.sec.leaf ++ leBytes 1 fw.svn ++ leBytes 1 (fusedSvn s) ++
  leBytes 1 (b2n s.syl.require + 2 * b2n s.syl.lock + 4 * s.syl.keyv) ++ leBytes 1 (residentCount s) ++
  leBytes 4 s.sec.jobid ++ r.nonce ++ fw.digest ++ keyDigest s ++ sylDigest s ++ confDigest s ++
  wordBytes fw.build ++ zeros 56

/-- An LMS signature of leaf `q` in a tree of type `ty`, its hash values given by `f` (RFC 8554; log entries 7 and 9). -/
def lmsSig (q ty h : Nat) (f : Nat → Byte) : List Byte :=
  beBytes 4 q ++ beBytes 4 4 ++ (List.range 1120).map f ++ beBytes 4 ty ++ (List.range (32 * h)).map fun i => f (1120 + i)

/-- The HSS signature of a report: one signed key, the top tree's signature with leaf `e` of the lower tree's key, that key, and
the lower tree's signature of the report: 3,444 bytes (R431, R434). -/
def hssBytes (s : State) (rep : List Byte) : List Byte :=
  let e := s.sec.epoch.getD 0
  beBytes 4 1 ++ lmsSig e 7 15 (Config.topSign e) ++
  (beBytes 4 8 ++ beBytes 4 4 ++ (List.range 48).map (Config.lowerKey e)) ++
  lmsSig s.sec.leaf 8 20 (Config.lowerSign e s.sec.leaf rep)

/-- A SIGN completes once TREE is set: the report at offset 256, its signature at 512, one leaf spent (R434). -/
def signEnds (s : State) : State :=
  match s.sec.sign with
  | some r =>
    if !s.sec.tree || unitStopped s 7 0 then s
    else
      let rep := report s r
      let ts := hostWrites (r.addr + 256) rep ++ hostWrites (r.addr + 512) (hssBytes s rep)
      signOver r.tag 0 (hostSend ts { s with sec.leaf := s.sec.leaf + 1 })
  | none => s

/-- SIGN_DONE (R434). -/
def execSignDone (s : State) : Host.Outcome State Fault Refusal := .next (signEnds s)

/-! ## Ownership (R427) -/

/-- What GRANT clears of the previous owner (R427). -/
def clearJob (s : State) : State :=
  let s := (List.range 16).foldl (fun s q => discardWaiting q s) s
  { s with
    roll.entries := []
    rng.seed := 0
    rng.base := []
    host.queues := s.host.queues.filter fun e => 16 ≤ e.1
    host.evq := 0
    flt.jlog := {} }

/-- A GRANT is accepted: in BRING phase READY while nothing owns the device (R427). -/
def grantOk (s : State) : Bool := !s.sec.owned && s.bring.phase == .ready

/-- A RELEASE is accepted (R427): nothing resident, every stream CLOSED, no command running, job queues drained. -/
def releaseOk (s : State) : Bool :=
  s.sec.owned && residentCount s = 0 && s.vid.streams.all (fun e => e.2.st == .closed) &&
  s.syl.load.isNone && s.loft.zero.isNone && s.ctx.preempt.isNone && s.ctx.vac.isNone && s.snap.aborting.isNone &&
  (List.range 16).all fun q => (queueAt s q).sqHead = (queueAt s q).tail && (queueAt s q).inflight = 0

/-- SEC_JOB written (R427): a change of OWNED is a GRANT or a RELEASE; a write that changes JOBID alone, or a refused one,
is ignored with JREFUSED. -/
def jobWrite (owned : Bool) (jobid : Nat) (s : State) : State :=
  if owned = s.sec.owned then
    if owned ∧ jobid ≠ s.sec.jobid then { s with sec.jrefused := true }
    else if ¬ owned ∧ jobid ≠ 0 then { s with sec.jrefused := true }
    else s
  else if owned then
    if grantOk s then { clearJob s with sec.owned := true, sec.jobid := jobid } else { s with sec.jrefused := true }
  else if releaseOk s then { s with sec.owned := false, sec.jobid := 0 }
  else { s with sec.jrefused := true }

/-- SEC_JOB_GRANT (R427). -/
def execSecJobGrant (view : View) (jobid : Nat) (s : State) : Host.Outcome State Fault Refusal :=
  .next (regWrite view (secBase + 0x18) (jobWrite true (jobid % 2 ^ 32)) s)

/-- SEC_JOB_RELEASE (R427). -/
def execSecJobRelease (view : View) (jobid : Nat) (s : State) : Host.Outcome State Fault Refusal :=
  .next (regWrite view (secBase + 0x18) (jobWrite false (jobid % 2 ^ 32)) s)

end Sys2Proof.Machine
end

