-- ==== Sys2Proof/Machine/Costs.lean ====
section
/-! DEFINITION. The vector and array beats of a descriptor and its span between pre-emption points (R89 to R91, R110, R126, R129,
R133 to R135, R138, R139, R155, R162, R175, R176, R194, R246, R247, R272, R317, R341). -/

namespace Sys2Proof.Machine

/-- The static count of a level: tiles of 64, or BOUND (R165, R176). -/
def statCount (d : Desc) (l : Nat) : Nat :=
  let r := level d l
  if r.role = 0 then 1 else if r.role ≤ 3 then (r.bound + 63) / 64 else r.bound

/-- The product of the counts of some levels. -/
def countProd (d : Desc) (ls : List Nat) : Nat := (ls.map (statCount d)).foldl (· * ·) 1


/-- BOUND of the level with a role, 0 where there is none. -/
def boundOf (d : Desc) (role : Nat) : Nat := ((roleLevel d role).map fun l => (level d l).bound).getD 0

/-- Output tiles of a descriptor (R182); those of a CHAIN divide d and not the keys (R152; log entry 18). -/
def outTiles (d : Desc) : Nat :=
  if d.opcode = 3 then countProd d ((nest d).filter fun l => (level d l).role ≠ 2 && (level d l).role ≠ 3) * ((boundOf d 3 + 63) / 64)
  else countProd d ((nest d).filter fun l => (level d l).role ≠ 3)

/-- K tiles of a descriptor. -/
def kTiles (d : Desc) : Nat := ((roleLevel d 3).map (statCount d)).getD 0

/-- An operation of the array: MATMUL, CHAIN, or CONV without a pool. -/
def usesArray (d : Desc) : Bool := d.opcode = 1 || d.opcode = 3 || d.opcode = 2 && convPool d = 0

/-! ## Lane-beats (R110, R126, R133 to R135) -/

/-- The cost of an ACT function (R110, R135). -/
def actCost (f : Nat) : Nat :=
  if f ≤ 2 ∨ 5 ≤ f ∧ f ≤ 7 then 2
  else if f ≤ 4 ∨ 8 ≤ f ∧ f ≤ 0xA then 3
  else if f = 0xD then 5
  else if f ≤ 0xF then 4
  else 1

/-- The convert cost of a format (R133). -/
def convCost (fmt : Nat) : Nat := if fmt = 0 then 0 else 1

/-- A stage's cost per element and per row, its conversion included (R126, R133, R134, R155). -/
def stageCost (r : StageRec) : Nat × Nat :=
  match r.kind with
  | 6 => (actCost r.func + convCost r.fmt, 0)
  | 9 => (convCost r.fmt, 0)
  | 0xA => (7 + convCost r.fmt, 9)
  | 0xB => ((if r.func.testBit 0 then 1 else 2) + (if r.func.testBit 1 then 1 else 0) + convCost r.fmt, 4)
  | 0xC => (9, 12)
  | _ => (1 + convCost r.fmt, 0)

/-- Beats that a list costs on a tile, 64 elements of a row at a time: 64 × e + ρ (R138). -/
def listBeats (rs : List StageRec) : Nat := (rs.map fun r => 64 * (stageCost r).1 + (stageCost r).2).sum

/-- The epilogue's beats on a tile; an empty list converts to CFMT (R133). -/
def epiBeats (d : Desc) : Nat :=
  if (stageList d.epi).isEmpty then 64 * convCost d.cfmt else listBeats (stageList d.epi)

/-- The prologue's beats charged to an output tile, times 64 × u, and 64 × u: λ = K / (64 × u) of the list's (R138, R173). -/
def proBeats (d : Desc) : Nat × Nat :=
  (listBeats (stageList d.pro) * boundOf d 3, 64 * countProd d ((nest d).drop (keyLevels d 0).length))

/-- V of an output tile (R138). -/
def vectorBeats (d : Desc) : Nat :=
  let (p, u) := proBeats d
  max 64 (epiBeats d + (p + (u - 1)) / max 1 u)

/-- The vector beats of a tile of an operation that does not use the array (R176). -/
def plainBeats (d : Desc) : Nat :=
  match d.opcode with
  | 2 => 64 * (convTaps d + (if convPool d = 2 then 1 else 0)) + epiBeats d
  | 0x10 => epiBeats d
  | 0x11 => 64 * 7 + 9
  | 0x12 => 64 * 9 + 9 + 2
  | 0x13 => 64 * (7 + (if Config.normCentred d.oparam then 2 else 1) + (if d.x.space = 0 then 0 else 1)) + 9 + 4
  | 0x20 => 192
  | 0x21 => 64 * (match byteAt d.oparam 0 % 4 with | 0 => 15 | 1 => 2 | 2 => 3 | _ => 1)
  | 0x30 => 64
  | 0x31 | 0x32 => if d.afmt = d.cfmt then 0 else 64
  | 0x34 => 64 * (1 + convCost d.cfmt)
  | 0x40 => 64 * (4 + (if byteAt d.oparam 0 % 2 = 1 then 14 else 0))
  | 0x41 => 64 * (2 + convCost d.cfmt)
  | _ => 0

/-! ## Array beats (R89 to R91) -/

/-- Beats of one instruction of a pair of formats. -/
def instBeats (a b : Nat) : Nat := if a = 1 ∨ a = 2 ∨ b = 1 ∨ b = 2 then 256 else 64

/-- B of an output tile (R138): K beats, K/2 where MXFP4 instructions pair because K is the innermost level (R90), 4K for BF16 or FP16. -/
def arrayBeats (d : Desc) : Nat :=
  let k := boundOf d 3
  if d.afmt = 9 ∧ d.bfmt = 9 ∧ (nest d).getLast? = roleLevel d 3 then (k + 1) / 2
  else if instBeats d.afmt d.bfmt = 256 then 4 * k
  else k

/-- The stages of a CHAIN before and after SOFTMAX_CHAIN. -/
def chainBefore (d : Desc) : List StageRec := (stageList d.epi).takeWhile fun r => r.kind ≠ 0xC
def chainAfter (d : Desc) : List StageRec := ((stageList d.epi).dropWhile fun r => r.kind ≠ 0xC).drop 1

/-- A CHAIN's array and vector beats per key tile, and its beats at the end of a query tile (R155). -/
def chainBeats (d : Desc) : Nat × Nat × Nat :=
  let k := boundOf d 3
  let pf := (((stageList d.epi).find? fun r => r.kind = 0xC).map (·.fmt)).getD 0
  let post := if (chainAfter d).isEmpty then 64 * convCost d.cfmt else listBeats (chainAfter d)
  (arrayBeats d + instBeats pf d.xfmt * (k / 64), listBeats (chainBefore d) + 588 + k,
    2 + k + post * (k / 64) + listBeats (stageList d.pro) * kTiles d)

/-! ## The span (R139, R175, R176) -/

/-- A level has a pre-emption point after each of its iterations; in a CHAIN the K level lies inside a key tile and has none (R156). -/
def pointLevel (d : Desc) (l : Nat) : Bool := ((level d l).preempt || (level d l).take) && !(d.opcode = 3 && (level d l).role = 3)

/-- The levels inside the innermost level with a pre-emption point. -/
def insidePoint (d : Desc) : List Nat := ((nest d).reverse.takeWhile fun l => !pointLevel d l).reverse

/-- The beats of one row of a HALO side, a flit a beat at the network interface (R306, R309). DESIGN CHOICE: a row transfer is the transfer of
one row of the band (log entry 23). -/
def rowTransfer (d : Desc) : Nat :=
  let rest := ([0, 1, 2].filter (· ≠ haloAxis d)).map (bandExt d)
  let bytes := haloChannels d * rest.foldl (· * ·) 1 * (fmtBits d.a.sfmt / 8)
  bytes / 496 * 4 + (if bytes % 496 = 0 then 0 else (16 + bytes % 496 + 127) / 128)

/-- The span of a descriptor in beats (R176). Output tiles between points take the beats of R139; where the K level holds the point, only the
instructions of one K tile lie between two (R176's example). A CHAIN ends a query tile after its key tiles (R155). COLLECT has a point after
every tile (R339), DRAW after every tile and every row's final stage (R278), and a HALO's span is one row transfer (R199). -/
def spanOf (d : Desc) : Nat :=
  let inside := insidePoint d
  let t := countProd d (inside.filter fun l => (level d l).role ≠ 3)
  let run := fun b v => t * max b v + min b v
  if d.opcode = 3 then
    let (b, v, tail) := chainBeats d
    run b v + tail * countProd d (inside.filter fun l => (level d l).role ≠ 2 && (level d l).role ≠ 3)
  else if usesArray d then
    if (roleLevel d 3).any fun l => inside.contains l then run (arrayBeats d) (vectorBeats d)
    else t * max (instBeats d.afmt d.bfmt) (vectorBeats d)
  else if d.opcode = 0x33 then rowTransfer d
  else if d.opcode = 0x34 then plainBeats d
  else if d.opcode = 0x20 then max (plainBeats d) (64 + 2 * leAt d.oparam 8 2)
  else t * plainBeats d

end Sys2Proof.Machine
end

