-- ==== Sys2Proof/Machine/DescRules.lean ====
section
/-! DEFINITION. What FINISH checks in an operation descriptor (R223, check 6): each rule as its conditions in order, each with the
byte of the descriptor that it reports (log entry 23). -/

namespace Sys2Proof.Machine

/-- A descriptor under check: the image, its stall and index, the descriptor, the table's length, and its circuit's record. -/
structure DescCheck where
  b : List Byte
  n : Nat
  i : Nat
  raw : List Byte
  d : Desc
  count : Nat
  c : Option CircRec

/-- Conditions, each with the offset reported where it fails. -/
abbrev Conds := List (Bool × Nat)

/-- A condition with its offset. -/
def need (p : Prop) [Decidable p] (off : Nat) : Bool × Nat := (decide p, off)

/-- The offset of the first condition that fails. -/
def firstBad (cs : Conds) : Option Nat := (cs.find? fun c => !c.1).map (·.2)

/-- Offsets of loop record `l`, operand record `i` and stage record `j` of list 0 prologue or 1 epilogue (R159). -/
def loopOff (l : Nat) : Nat := 64 + 32 * l
def opOff (i : Nat) : Nat := 256 + 32 * i
def stageOff (list j : Nat) : Nat := 384 + 64 * list + 16 * j

/-- The four operands with their walks, the format that their SFMT must state and the place of their stride. -/
def operands (d : Desc) : List (Nat × Walk × Nat) :=
  [(0, walkA d, d.afmt), (1, walkB d, d.bfmt), (2, walkC d, d.cfmt), (3, walkX d, d.xfmt)]

/-- The opcodes that have a K level: MATMUL, CONV and CHAIN (R167). -/
def hasK (d : Desc) : Bool := 1 ≤ d.opcode && d.opcode ≤ 3

/-- The levels in use. -/
def usedLevels (d : Desc) : List Nat := (List.range 6).filter fun l => (level d l).role ≠ 0

/-- The two stage lists with their numbers. -/
def stageLists (d : Desc) : List (Nat × List StageRec) := [(0, d.pro), (1, d.epi)]

/-- The records in force of a list: up to END, or through a PAIR_SEND (R131, R134). -/
def inForce : List StageRec → List StageRec
  | [] => []
  | r :: rest => if r.kind = 0 then [] else if r.kind = 9 then [r] else r :: inForce rest

/-- The conditions on a level with a role. -/
def onRole (d : Desc) (role : Nat) (f : Nat → LoopRec → Conds) : Conds :=
  match roleLevel d role with
  | some l => f l (level d l)
  | none => []

/-! ## R212 to R218 -/

/-- R212: NEXT. R215: a WINDOW operand has its window record. R216: a ROUTE operand names a route of this stall. R218: C's fill
map has exactly one record. -/
def rulesSections (k : DescCheck) : Conds :=
  let d := k.d
  [(d.next = 0xFFFF || d.next < k.count, 6)] ++
  ((operands d).filter fun o => o.2.1.opr.space = 3).map (fun o =>
    need (windowOf k.b k.n o.2.1.opr.id).isSome (opOff o.1 + 2)) ++
  (if d.c.space = 4 then [(((routesOf k.b)[d.c.id]?).any fun r => r.src = k.n, opOff 2 + 2)] else []) ++
  (if d.c.space = 1 ∨ d.c.space = 2 then
    [need (((fillMapsOf k.b).filter fun f => f.addr = d.fillmap && f.loft == (d.c.space = 2) &&
        (f.loft || f.stall = k.n)).length = 1) 40]
   else [])

/-! ## R49, R50, R62, R89 -/

/-- The format codes of a descriptor (R49). -/
def rules49 (k : DescCheck) : Conds :=
  let nib := fun o => byteAt k.raw o
  [(nib 1 % 16 < 0xD && nib 1 / 16 < 0xD, 1), (nib 2 % 16 < 0xD && nib 2 / 16 < 0xD, 2)] ++
  ((List.range 4).map fun i => (decide (nib (opOff i + 1) % 16 < 0xD), opOff i + 1)) ++
  (List.range 8).flatMap fun j =>
    [(decide (nib (384 + 16 * j + 2) % 16 < 0xD), 384 + 16 * j + 2),
     (decide (nib (384 + 16 * j + 3) % 16 < 0xD), 384 + 16 * j + 3)]

/-- R50: FP32 and INT32 are never matrix operands. -/
def rules50 (k : DescCheck) : Conds :=
  let ok := fun f => f ≠ 0 && f ≠ 0xC
  [(!hasK k.d || (ok k.d.afmt && ok k.d.bfmt), 1)]

/-- R62: reserved rounding modes. -/
def rules62 (k : DescCheck) : Conds :=
  [need (k.d.rnd ≠ 3) 3] ++ (stageLists k.d).flatMap fun s => s.2.zipIdx.map fun p => (decide (p.1.rnd ≠ 3), stageOff s.1 p.2 + 2)

/-- An allowed pair of matrix formats (R89). -/
def pairOk (a b : Nat) : Bool :=
  let eight := fun f => 3 ≤ f && f ≤ 0xA
  let wide := fun f => f = 1 || f = 2
  let low := fun f => f = 3 || f = 4
  (eight a && eight b) || (a = 0xB && b = 0xB) ||
  ((wide a || wide b) && (wide a || low a) && (wide b || low b))

/-- R89. -/
def rules89 (k : DescCheck) : Conds := [(!hasK k.d || pairOk k.d.afmt k.d.bfmt, 1)]

/-! ## R97, R98, R125 -/

/-- R97: the K tiles of an output tile come in ascending order. -/
def rules97 (k : DescCheck) : Conds := onRole k.d 3 fun l r => [(!r.take, loopOff l + 6)]

/-- The member before or after a descriptor in its chain, if it names one that matches (R98). -/
def chainLink (b : List Byte) (n i : Nat) (back : Bool) : Option (Nat × Nat) :=
  let ds := descsIn b n
  let d := ds.getD i {}
  let q := if back then d.cprev else d.cnext
  let mine := fun (x : Desc) => if back then x.kin && x.cprev = q else x.kout && x.cnext = q
  let theirs := fun (x : Desc) => if back then x.kout && x.cnext = n else x.kin && x.cprev = n
  if mine d then (matchDesc ds (descsIn b q) i mine theirs).map fun j => (q, j) else none

/-- The chain of a descriptor has a first member: following CPREV ends, by fuel. -/
def chainStarts (b : List Byte) : Nat → Nat → Nat → Bool
  | 0, _, _ => false
  | f + 1, n, i =>
    if !((descsIn b n).getD i {}).kin then true
    else
      match chainLink b n i true with
      | some (q, j) => chainStarts b f q j
      | none => false

/-- R98: chain members start and end as their places say, split at multiples of 64, and link to one another. -/
def rules98 (k : DescCheck) : Conds :=
  let d := k.d
  if !hasK d then []
  else
    [(d.kin == (d.cprev ≠ 0x7FF), 4), (d.kout == (d.cnext ≠ 0x7FF), 4)] ++
    (if d.kout then onRole d 3 (fun l r => [need (r.bound % 64 = 0) (loopOff l)]) else []) ++
    (if d.kin then [((chainLink k.b k.n k.i true).isSome && chainStarts k.b 1200 k.n k.i, 8)] else []) ++
    (if d.kout then [((chainLink k.b k.n k.i false).isSome, 8)] else [])

/-- R125: a row holds at most 2^24 − 1 elements, with the columns of the stalls before this one in a fold that LEDGER stages divide. -/
def rules125 (k : DescCheck) : Conds :=
  let short := fun role before => onRole k.d role fun l r => [(decide (before + r.bound < 2 ^ 24), loopOff l)]
  (if [0x11, 0x12, 0x13].contains k.d.opcode then short 2 0 else []) ++
  (if (inForce k.d.epi).any fun r => r.kind = 0xA then short 2 (ledgerBase k.b (stallSet k.b).length k.n k.i) else []) ++
  (if (inForce k.d.pro).any fun r => r.kind = 0xB then short 3 0 else [])

/-! ## R137 with R131 to R136, R144 and R152 -/

/-- A stage kind may stand in list 0 prologue or 1 epilogue (R134). -/
def kindAllowed (d : Desc) (list kind : Nat) : Bool :=
  if list = 0 then (1 ≤ kind && kind ≤ 6) || kind = 0xB
  else (1 ≤ kind && kind ≤ 0xA) || (kind = 0xC && d.opcode = 3)

/-- The FUNC of a stage kind is one of its codes (R135, R136). -/
def funcOk (r : StageRec) : Bool :=
  match r.kind with
  | 6 => 1 ≤ r.func && r.func ≤ 0x12
  | 0xB => r.func ≤ 3
  | _ => r.func = 0

/-- One record in force. -/
def recordRules (d : Desc) (list : Nat) (r : StageRec) (j : Nat) : Conds :=
  let o := stageOff list j
  [(r.kind ≤ 0xC && kindAllowed d list r.kind, o), (funcOk r, o + 1), (!isMx r.vfmt, o + 3)]

/-- The FMT of each record in force (R133): a stage that is not last, the last, and SOFTMAX_CHAIN's own (R152). -/
def fmtRules (d : Desc) (list : Nat) (rs : List StageRec) : Conds :=
  rs.zipIdx.map fun p =>
    let last := p.2 + 1 = rs.length
    let ok := if p.1.kind = 0xC then true
      else if last then p.1.fmt = (if list = 0 then d.afmt else d.cfmt)
      else p.1.fmt ≤ 4
    (ok, stageOff list p.2 + 2)

/-- The records after the end of a list are zero; a list that an opcode does not have is zero whole (R131, R137). -/
def zeroRules (d : Desc) (list : Nat) (rs : List StageRec) : Conds :=
  let has := hasK d || (d.opcode = 0x10 && list = 1)
  let n := if has then (inForce rs).length + (if ((inForce rs).getLast?.map (·.kind)) = some 9 then 0 else 1) else 0
  (rs.zipIdx.drop n).map fun p => (p.1.zero, stageOff list p.2)

/-- Loops of two descriptors of a pair agree (R144). -/
def pairLoops (d e : Desc) : Bool :=
  (roleLevel d 1).map (level d) == (roleLevel e 1).map (level e) && (roleLevel d 2).map (level d) == (roleLevel e 2).map (level e) &&
  (nest d).map (fun l => (level d l).role) == (nest e).map (fun l => (level e l).role)

/-- Two stalls serve one stage of one circuit (R144). -/
def sameStage (b : List Byte) (p q : Nat) : Bool := (stagesOf b).any fun g => g.stalls.contains p && g.stalls.contains q

/-- R144 for a PAIR_SEND (9) or GATE (8) record. -/
def pairRules (k : DescCheck) (r : StageRec) (j : Nat) : Conds :=
  let o := stageOff 1 j
  let q := partnerOf r
  let other := if r.kind = 9 then 8 else 9
  let ds := descsIn k.b q
  let peer := matchDesc (descsIn k.b k.n) ds k.i (namesPartner r.kind q) (namesPartner other k.n)
  [(q ≠ k.n && sameStage k.b k.n q, o + 12),
   (peer.any fun i => pairLoops k.d (ds.getD i {}), o + 12),
   (if r.kind = 9 then pwinOf r = 0
    else 1 ≤ pwinOf r && ((inForce k.d.epi).filter fun x => x.kind = 8).length = 1, o + 12)]

/-- The ledger ranges of a descriptor, with the record that names each (R136, R137). -/
def ledgerRanges (d : Desc) : List (Nat × Nat × Nat) :=
  (((inForce d.pro).zipIdx.filter fun p => p.1.kind = 0xB).map fun p =>
    (lbaseOf p.1, lbaseOf p.1 + lspanOf p.1, stageOff 0 p.2)) ++
  (((inForce d.epi).zipIdx.filter fun p => p.1.kind = 0xA).map fun p =>
    (lbaseOf p.1, lbaseOf p.1 + lspanOf p.1, stageOff 1 p.2)) ++
  (((inForce d.epi).zipIdx.filter fun p => p.1.kind = 0xC).map fun p => (lbaseOf p.1, lbaseOf p.1 + 64, stageOff 1 p.2))

/-- The ledger ranges of two operations of a stall do not overlap, and none passes entry 1,023 (R137). -/
def ledgerRules (k : DescCheck) : Conds :=
  let before := ((descsIn k.b k.n).take k.i).flatMap ledgerRanges
  (ledgerRanges k.d).map fun r =>
    (r.1 < r.2.1 && r.2.1 ≤ 1024 && before.all fun x => !overlaps (r.1, r.2.1) (x.1, x.2.1), r.2.2 + 12)

/-- R152: d, one SOFTMAX_CHAIN with its formats and staging area, and key tiles in order directly outside K. -/
def chainRules (d : Desc) : Conds :=
  if d.opcode ≠ 3 then []
  else
    let k := boundOf d 3
    let sm := (inForce d.epi).zipIdx.filter fun p => p.1.kind = 0xC
    [(k % 64 = 0 && 64 ≤ k && k ≤ 512, loopOff ((roleLevel d 3).getD 0)), need (sm.length = 1) (stageOff 1 0)] ++
    (sm.flatMap fun p =>
      [(pairOk p.1.fmt d.xfmt, stageOff 1 p.2 + 2), need (p.1.vaddr % 4096 = 0) (stageOff 1 p.2 + 8)]) ++
    [(((nest d).reverse.take 2).map (fun l => (level d l).role) == [3, 2] && !(level d ((roleLevel d 2).getD 0)).take, 64)]

/-- R137. -/
def rules137 (k : DescCheck) : Conds :=
  let d := k.d
  ((stageLists d).flatMap fun s =>
    (inForce s.2).zipIdx.flatMap (fun p => recordRules d s.1 p.1 p.2) ++ zeroRules d s.1 s.2 ++ fmtRules d s.1 (inForce s.2)) ++
  (((inForce d.epi).zipIdx.filter fun p => p.1.kind = 8 || p.1.kind = 9).flatMap fun p => pairRules k p.1 p.2) ++
  ledgerRules k ++ chainRules d

/-! ## R160 and R167 -/

/-- The opcodes (R160). -/
def opcodes : List Nat :=
  [0x01, 0x02, 0x03, 0x10, 0x11, 0x12, 0x13, 0x20, 0x21, 0x30, 0x31, 0x32, 0x33, 0x34, 0x40, 0x41, 0x7F]

/-- R160: the opcode, CWIN and MATMUL's OPARAM. -/
def rules160 (k : DescCheck) : Conds :=
  let d := k.d
  [(opcodes.contains d.opcode, 0),
   (if d.kin then 1 ≤ d.cwinCap else leAt k.raw 36 4 = 0, 36),
   (d.opcode ≠ 1 || d.oparam.all (· = 0), 48)]

/-- R167's first rules: records, roles, order, bounds, dynamic bounds. -/
def loopShape (k : DescCheck) : Conds :=
  let d := k.d
  let used := usedLevels d
  ((List.range 6).flatMap fun l => [((level d l).role ≠ 0 || (level d l).zero, loopOff l), (decide ((level d l).role ≤ 5), loopOff l + 4)]) ++
  (used.map fun l => ((level d l).role > 3 || !((List.range l).any fun m => (level d m).role = (level d l).role), loopOff l + 4)) ++
  [(hasK d == (roleLevel d 3).isSome, 64)] ++
  (used.map fun l =>
    (decide ((level d l).order < used.length) && !((List.range l).any fun m => used.contains m && (level d m).order = (level d l).order),
     loopOff l + 5)) ++
  (used.map fun l => (decide ((level d l).bound ≠ 0), loopOff l)) ++
  (used.map fun l => (!(level d l).dyn || 4 ≤ (level d l).role, loopOff l + 6))

/-- R167's rules on strides. -/
def strideRules (k : DescCheck) : Conds :=
  let d := k.d
  let used := usedLevels d
  (used.flatMap fun l =>
    let r := level d l
    [(r.role ≠ 2 || r.sa = 0, loopOff l + 8), (r.role ≠ 1 || r.sb = 0, loopOff l + 14), (r.role ≠ 3 || r.sc = 0, loopOff l + 20)]) ++
  ((operands d).flatMap fun o =>
    let w := o.2.1
    let unit := if o.1 = 2 then 2 else 3
    if (w.opr.space = 1 ∨ w.opr.space = 2) ∧ (fmtBits w.opr.sfmt = 4 ∨ fmtBits w.opr.sfmt = 6) then
      used.map fun l => need (if (level d l).role = unit then w.stride (level d l) = 1 else w.stride (level d l) % 32 = 0)
        (loopOff l + 8 + 6 * o.1)
    else []) ++
  ((operands d).flatMap fun o =>
    if o.2.1.opr.space ≠ 0 ∧ isMx o.2.1.opr.sfmt then
      (used.filter fun l => 4 ≤ (level d l).role).map fun l => need (o.2.1.stride (level d l) % 32 = 0) (loopOff l + 8 + 6 * o.1)
    else [])

/-- Every earlier descriptor of the image that names the counter with the same operation has the same loop table (R167). -/
def counterAgrees (k : DescCheck) (r : LoopRec) : Bool :=
  (imgDescs k.b).all fun x =>
    !(x.1 < k.n && x.2.2.opcode = k.d.opcode &&
      (nest x.2.2).any fun l =>
        let q := level x.2.2 l
        q.take && q.hubctr == r.hubctr && q.ctr = r.ctr && (r.hubctr || x.1 / 30 = k.n / 30)) ||
    x.2.2.loops == k.d.loops

/-- R167's rules on TAKE levels and counters, and the zero strides of WINDOW and ROUTE operands. -/
def takeRules (k : DescCheck) : Conds :=
  let d := k.d
  let takes := (usedLevels d).filter fun l => (level d l).take
  (takes.drop 1).map (fun l => (false, loopOff l + 6)) ++
  (takes.flatMap fun l =>
    let r := level d l
    [(r.order = 0 && r.role ≠ 3, loopOff l + 6), (r.hubctr || r.ctr < 64, loopOff l + 6), (counterAgrees k r, 64)]) ++
  ((operands d).flatMap fun o =>
    if 3 ≤ o.2.1.opr.space then (usedLevels d).map fun l => need (o.2.1.stride (level d l) = 0) (loopOff l + 8 + 6 * o.1) else [])

/-- R167. -/
def rules167 (k : DescCheck) : Conds := loopShape k ++ strideRules k ++ takeRules k

/-! ## R171, R172, R176, R182 -/

/-- R171: stored formats. -/
def rules171 (k : DescCheck) : Conds :=
  ((operands k.d).filter fun o => !(o.1 = 0 && (stageList k.d.pro) ≠ [])).map fun o => need (o.2.1.opr.sfmt = o.2.2) (opOff o.1 + 1)

/-- R172 with R169: everything an operation holds in scratch lies in its scratch window, which lies in scratch. -/
def rules172 (k : DescCheck) : Conds :=
  let d := k.d
  let inside := fun a n => d.swinBase ≤ a && a + n ≤ d.swinBase + d.swinLen
  [(decide (d.swinBase + d.swinLen ≤ 2097152), 28)] ++
  ((operands d).flatMap fun o =>
    let r := o.2.1.opr
    let e := r.id * (entryBytes r.sfmt + (if o.1 = 0 ∧ stageList d.pro ≠ [] then entryBytes d.afmt else 0))
    [(decide (r.space ≤ (if o.1 = 2 then 4 else 3)), opOff o.1)] ++
    (if r.space = 1 then [(inside r.base (4096 * r.extent), opOff o.1 + 8)] else []) ++
    (if r.space = 2 ∧ o.1 ≠ 2 then
      [(2 ≤ r.id && r.id ≤ 255, opOff o.1 + 2), (inside r.landing e, opOff o.1 + 4)] else [])) ++
  (if d.kin then [(inside d.cwinBase (20480 * d.cwinCap), 36)] else [])

/-- R176. -/
def rules176 (k : DescCheck) : Conds := [(decide (spanOf k.d ≤ 16384), 64)]

/-- R182: the fill map lies in C's region, and its record gives it an entry for every output tile. -/
def rules182 (k : DescCheck) : Conds :=
  let d := k.d
  if d.c.space = 1 ∨ d.c.space = 2 then
    [(d.c.base ≤ d.fillmap && d.fillmap + 8 * outTiles d ≤ d.c.base + 4096 * d.c.extent, 40),
     ((fillMapsOf k.b).all fun f =>
        !(f.addr = d.fillmap && f.loft == (d.c.space = 2) && (f.loft || f.stall = k.n)) || outTiles d ≤ f.tiles, 40)]
  else []

/-! ## R192, R194, R197 -/

/-- The number of output positions of a CONV along axis 0 x, 1 y, 2 t (R184). -/
def convOuts (d : Desc) (ax : Nat) : Nat :=
  let outer := (nest d).filter fun l => (level d l).role = 5
  match ax with
  | 0 => boundOf d 1
  | 1 => (level d (outer.getLastD 6)).bound
  | _ => if outer.length = 2 then (level d (outer.headD 6)).bound else 1

/-- The window positions of an axis stay inside where the band goes on, and mirrored and clamped ones inside the tensor (R188, R192). -/
def axisRules (d : Desc) (ax : Nat) : Conds :=
  let a := convAxis d ax
  let e' : Int := if a.up then 2 * a.ext else a.ext
  let lo : Int := -a.off
  let hi : Int := ((convOuts d ax - 1 : Nat) * a.stride : Nat) - a.off + (a.dil * (a.kern - 1) : Nat)
  let edge := fun i => (byteAt d.oparam 12).testBit (2 * ax + i)
  [(decide (0 ≤ lo) || edge 0, 60), (decide (hi < e') || edge 1, 60),
   (convPmode d ≠ 2 || decide (-lo < e' ∧ 0 ≤ 2 * (e' - 1) - hi), 53), (convPmode d ≠ 3 || decide (0 < e'), 53)]

/-- R192. -/
def rules192 (k : DescCheck) : Conds :=
  let d := k.d
  if d.opcode ≠ 2 then []
  else
    let ax := fun i => convAxis d i
    let outer := ((usedLevels d).filter fun l => (level d l).role = 5).length
    [(1 ≤ (ax 0).kern && 1 ≤ (ax 1).kern, 48), (decide (1 ≤ (ax 2).kern), 49), (convPool d ≠ 3, 61)] ++
    onRole d 3 (fun l r => [need (r.bound % max 1 (convTaps d) = 0) (loopOff l)]) ++
    [need (outer = (if (ax 2).ext = 1 ∧ (ax 2).kern = 1 then 1 else 2)) 64] ++
    ((usedLevels d).map fun l => ((level d l).role = 4 || (level d l).sa = 0, loopOff l + 8)) ++
    [((d.a.space = 1 || d.a.space = 2) && !isMx d.a.sfmt && d.a.sfmt ≠ 0xC, opOff 0)] ++
    axisRules d 0 ++ axisRules d 1 ++ axisRules d 2 ++
    [(convGsize d ≠ 0 || !((inForce d.pro).any fun r => r.kind = 2 || r.kind = 5 || r.kind = 0xB), 62)]

/-- R194: the span of a pool. -/
def rules194 (k : DescCheck) : Conds :=
  [(k.d.opcode ≠ 2 || convPool k.d = 0 || decide (plainBeats k.d ≤ 16384), 61)]

/-- R197. -/
def rules197 (k : DescCheck) : Conds :=
  let d := k.d
  if d.opcode ≠ 0x33 then []
  else
    let ax := haloAxis d
    let w := fun side => if side = 0 then haloLo d else haloHi d
    [need (ax ≠ 3) 48] ++ [0, 1].flatMap fun side =>
      let q := haloNext d side
      if q = 0x7FF then [need (w side = 0) (49 + side)]
      else
        let ds := descsIn k.b q
        let peer := (matchDesc (descsIn k.b k.n) ds k.i
          (fun x => x.opcode = 0x33 && haloAxis x = ax && haloNext x side = q)
          (fun x => x.opcode = 0x33 && haloAxis x = ax && haloNext x (1 - side) = k.n)).map fun i => ds.getD i {}
        [(peer.any fun p => haloChannels p = haloChannels d && p.a.sfmt = d.a.sfmt &&
            [0, 1, 2].all fun a => a = ax || bandExt p a = bandExt d a, 52 + 2 * side),
         (peer.any fun p => w side + haloLo p + haloHi p ≤ bandExt p ax, 49 + side)]

/-! ## R243, R270, R274, R275, R339 -/

/-- R243: an operand in the arena. -/
def rules243 (k : DescCheck) : Conds :=
  let d := k.d
  match k.c with
  | none => []
  | some c =>
    let arena := (c.arenaBase, c.arenaBase + c.arenaPitch)
    let hits := (operands d).filter fun o =>
      o.2.1.opr.space = 2 && overlaps arena (o.2.1.opr.base, o.2.1.opr.base + 4096 * o.2.1.opr.extent)
    let dyn := (usedLevels d).filter fun l => (level d l).role = 4 && (level d l).dyn
    if c.arenaSlots = 0 ∨ hits.isEmpty then []
    else
      [need (dyn.length = 1) 64] ++ dyn.flatMap fun l =>
        [(decide (c.batchMax ≤ (level d l).bound), loopOff l)] ++
        hits.map fun o => need (o.2.1.stride (level d l) = 0) (loopOff l + 8 + 6 * o.1)

/-- The stochastic conversions of a descriptor: whether they index by A's place, and the byte that names the mode (R268). The header converts
where no stage follows: with an empty list, and after a SOFTMAX_CHAIN that ends one (R133, R153; log entry 38). -/
def srConversions (d : Desc) : List (Bool × Nat) :=
  ((stageLists d).flatMap fun s => (inForce s.2).zipIdx.filterMap fun p =>
    if p.1.rnd = 2 ∧ p.1.fmt ≠ 0 then some (s.1 == 0, stageOff s.1 p.2 + 2) else none) ++
  (if (((inForce d.epi).getLast?).all fun r => r.kind = 0xC) ∧ d.rnd = 2 ∧ d.cfmt ≠ 0 then [(false, 3)] else [])

/-- R270: under a TAKE level only conversions that loft addresses index; R269's first two cases are those of SPACE LOFT. -/
def rules270 (k : DescCheck) : Conds :=
  let d := k.d
  (srConversions d).flatMap fun x =>
    let space := if x.1 then d.a.space else d.c.space
    let tiles := if x.1 then countProd d ((nest d).filter fun l => (level d l).role = 1 || (level d l).role = 3)
      else max (outTiles d) (countProd d ((nest d).filter fun l => (level d l).role ≠ 3))
    [(!((takeLevel d).isSome && space ≠ 2), x.2), (space = 1 || space = 2 || decide (tiles ≤ 2 ^ 23), x.2)]

/-- C lies in SCRATCH or LOFT. -/
def cStored (d : Desc) : Bool := d.c.space = 1 || d.c.space = 2

/-- R274. -/
def rules274 (k : DescCheck) : Conds :=
  let d := k.d
  if d.opcode = 0x40 then [(byteAt d.oparam 0 % 2 = 0 || cStored d, opOff 2)]
  else if d.opcode ≠ 0x21 then []
  else
    let form := byteAt d.oparam 0 % 4
    let purpose := bits (byteAt d.oparam 0) 4 2
    let p := fun o => BitVec.ofNat 32 (leAt d.oparam o 4)
    [(if form = 2 then purpose = 3 else purpose = 1 || purpose = 4, 48), ((form = 2) == (d.a.space ≠ 0), opOff 0),
     (isFinite32 (p 4), 52), (isFinite32 (p 8), 56),
     (form ≠ 2 || (decide (0 < (p 4).toNat) && decide ((p 4).toNat ≤ 0x3F800000)), 52),
     ((d.cfmt = 0xC) == (form = 3), 2), (cStored d, opOff 2)]

/-- R275. -/
def rules275 (k : DescCheck) : Conds :=
  let d := k.d
  if d.opcode ≠ 0x20 then []
  else
    let w := fun o => leAt d.oparam o 4
    [(isFinite32 (BitVec.ofNat 32 (w 0)) && decide (w 0 < 2 ^ 31), 48),
     (decide (0 < w 4) && decide (w 4 ≤ 0x3F800000), 52),
     (decide (1 ≤ leAt d.oparam 8 2) && decide (leAt d.oparam 8 2 ≤ 1024), 56)] ++
    onRole d 2 (fun l r => [(decide (r.bound ≤ 1048576), loopOff l)]) ++
    [(d.cfmt = 0xC && cStored d, opOff 2)] ++ onRole d 2 (fun l r => [(!r.take, loopOff l + 6)])

/-- A window of a COLLECT: its own CLASS 4 record, named by no route, with entries that hold a tile of the partial
format (R339). -/
def collectWindow (k : DescCheck) (w off : Nat) : Conds :=
  let r := windowOf k.b k.n w
  [(r.any fun x => x.cls = 4, off),
   (!((routesOf k.b).any fun x => x.window = w && (if x.group then x.src = k.n else x.dsts.contains k.n)), off),
   (r.any fun x => tileBytes (partialFmt k.d) ≤ x.size, off)]

/-- R339. -/
def rules339 (k : DescCheck) : Conds :=
  let d := k.d
  if d.opcode ≠ 0x34 then []
  else
    let kind := collectKind d
    [(kind ≤ 3 && collectRop d ≤ 2 && (kind ≤ 1 || collectRop d = 0), 48), (byteAt d.oparam 2 < 64, 50),
     need (byteAt d.oparam 3 < 64) 51, need (collectWup d ≠ collectWdn d) 50] ++
    collectWindow k (collectWup d) 50 ++ collectWindow k (collectWdn d) 51 ++
    [need (if kind ≤ 1 then [0, 1, 2, 0xB, 0xC].contains d.afmt else d.afmt = d.cfmt) 1,
     (d.a.space = 1 || d.a.space = 2, opOff 0), (cStored d, opOff 2)]

/-- Every rule on a descriptor, in the order of R223. -/
def descRules (k : DescCheck) : Option Nat :=
  [rulesSections, rules49, rules50, rules62, rules89, rules97, rules98, rules125, rules137, rules160, rules167, rules171, rules172,
   rules176, rules182, rules192, rules194, rules197, rules243, rules270, rules274, rules275, rules339].findSome? fun f =>
    firstBad (f k)

end Sys2Proof.Machine
end

