-- ==== Sys2Proof/Machine/Finish.lean ====
section
/-! DEFINITION. The image checks of FINISH (R204 to R219, R223, R234, R244, R245, R314, R338, R443): each answers the fault code,
the section and byte offset, and the check that failed (log entry 23). -/

namespace Sys2Proof.Machine

/-- A failing check: the code, the section index (0xFFFF for header, directory and trailer), the offset and the check (R478). -/
structure ImgFault where
  code : Nat
  sec : Nat
  off : Nat
  check : Nat
  deriving DecidableEq, Repr

/-- The first failing condition of a section, as a fault. -/
def secFault (code sec check : Nat) (cs : Conds) : Option ImgFault :=
  (firstBad cs).map fun o => { code := code, sec := sec, off := o, check := check }

/-- Bytes `lo` to `hi − 1` are zero. -/
def zeroBytes (b : List Byte) (lo hi : Nat) : Bool := (slice b lo (hi - lo)).all (· = 0)

/-! ## Checks 1 to 4 -/

/-- Check 1 (R223): the image is complete. -/
def check1 (b : List Byte) : Conds :=
  [need (b.length = imgLength b ∧ 64 ≤ b.length) 8, (slice b (trailerOff b) 4 == [0x57, 0x4A, 0x32, 0x54], 0),
   need (leAt b (trailerOff b + 8) 8 = imgLength b) 8]

/-- Check 2 (R209): the digest. -/
def check2 (b : List Byte) : Conds :=
  [(imgSigLen b + 64 ≤ b.length && sha256 (b.take (trailerOff b - imgSigLen b)) == imgDigest b, 32)]

/-- Key `k`'s 56 bytes (R233). -/
def keyBytes (keys : Table W64) (k : Nat) : List Byte := (List.range 7).flatMap fun w => leBytes 8 (tget 0 keys (7 * k + w)).toNat

/-- The signature verifies (R234): its key slot holds a key, the types are those of R210, and LMS verification succeeds. -/
def sigVerifies (keyv : Nat) (keys : Table W64) (b : List Byte) : Bool :=
  let k := imgKeySlot b
  k < 4 && keyv.testBit k && lmsVerify (keyBytes keys k) (imgDigest b) (imgSignature b)

/-- The geometry record of the WJ2 (R206). -/
def geometry : List Byte :=
  leBytes 2 1200 ++ leBytes 1 64 ++ leBytes 1 64 ++ leBytes 1 64 ++ leBytes 1 16 ++ leBytes 2 1024 ++ leBytes 4 2097152 ++
  leBytes 2 64 ++ leBytes 2 256 ++ leBytes 1 1 ++ leBytes 1 1 ++ zeros 14

/-- Check 4 (R223): MAGIC, VERSION and GEOMETRY. -/
def check4 (b : List Byte) : Conds :=
  [(slice b 0 4 == [0x57, 0x4A, 0x32, 0x53], 0), need (leAt b 4 2 = 1) 4] ++
  (List.range 32).map fun i => need (byteAt b (32 + i) = (geometry.getD i 0).toNat) (32 + i)

/-! ## Check 5: the container (R204, R205, R207, R208, R210) -/

/-- R204: the parts of an image, in their order. Each section starts on a 256-byte boundary and overlaps nothing. -/
def rules204 (b : List Byte) : Conds :=
  let body := trailerOff b - imgSigLen b
  let dir := (imgDirOff b, imgDirOff b + 32 * imgSections b)
  [need (256 ≤ body) 8, (imgDirOff b % 256 = 0 && decide (256 ≤ dir.1) && decide (dir.2 ≤ body), 28)] ++
  (sectionsOf b).map fun x =>
    (x.off % 256 = 0 && decide (dir.2 ≤ x.off) && decide (x.off + x.len ≤ body) &&
      ((sectionsOf b).take x.idx).all fun y => !overlaps (x.off, x.off + x.len) (y.off, y.off + y.len), 32 * x.idx + 8)

/-- R205: the header. -/
def rules205 (b : List Byte) : Conds :=
  [need (byteAt b 6 ≤ 1) 6, need (byteAt b 7 = 0) 7, need (imgLength b < 2 ^ 36) 8,
   (3 ≤ imgSections b && decide (imgSections b ≤ 2048), 24), (zeroBytes b 128 256, 128)]

/-- R207: directory entries. -/
def rules207 (b : List Byte) : Conds :=
  (sectionsOf b).flatMap fun x =>
    let o := imgDirOff b + 32 * x.idx
    [(zeroBytes b (o + 2) (o + 4), 32 * x.idx + 2), need (x.ty = 2 ∨ x.target = 0) (32 * x.idx + 4),
     (zeroBytes b (o + 24) (o + 32), 32 * x.idx + 24)]

/-- The number of sections of a type. -/
def secCount (b : List Byte) (ty : Nat) : Nat := ((sectionsOf b).filter fun x => x.ty = ty).length

/-- R208: section types and how many of each. -/
def rules208 (b : List Byte) : Conds :=
  ((sectionsOf b).map fun x => (decide (1 ≤ x.ty) && decide (x.ty ≤ 10), 32 * x.idx)) ++
  ([1, 3, 4, 8].map fun ty => (decide (secCount b ty = 1), 24)) ++
  ([5, 6, 7, 9].map fun ty => (decide (secCount b ty ≤ 1), 24)) ++
  (((sectionsOf b).filter fun x => x.ty = 2).map fun x =>
    ((stallSet b).contains x.target && !((sectionsOf b).take x.idx).any (fun y => y.ty = 2 && y.target = x.target),
      32 * x.idx + 4)) ++
  [need (secCount b 2 = (stallSet b).length) 24]

/-- R210: the signature block. -/
def rules210 (b : List Byte) : Conds :=
  [need (imgKeySlot b < 4 ∨ imgKeySlot b = 0xFF) 4, ((imgKeySlot b = 0xFF) == (imgSigLen b = 0), 4),
   (imgSigLen b = 0 || [5, 10, 15, 20, 25].any fun h => imgSigLen b = 1132 + 32 * h, 16)]

/-- Check 5. -/
def check5 (b : List Byte) : Conds := rules204 b ++ rules205 b ++ rules207 b ++ rules208 b ++ rules210 b

/-! ## Check 6: the sections -/

/-- A count record: a count in its range, zeros after it, and room for its records. -/
def countRules (d : List Byte) (size lo hi : Nat) : Conds :=
  [(16 ≤ d.length && decide (lo ≤ countOf d) && decide (countOf d ≤ hi), 0), (zeroBytes d 4 16, 4),
   need (16 + size * countOf d ≤ d.length) 0]

/-- The conditions of records, in record order. -/
def eachRecord (d : List Byte) (f : Nat → Conds) : Conds := (List.range (countOf d)).flatMap f

/-- R211. -/
def rulesStallSet (d : List Byte) : Conds := [need (d.length = 150) 0]

/-- R212: the stall record. -/
def rulesStallRec (d : List Byte) (target : Nat) : Conds :=
  let r := stallRec d
  [need (r.stall = target) 0, (1 ≤ r.dtcount && r.dtcount ≤ 4096, 2), need (r.dtbase % 256 = 0) 4, need (r.entry < r.dtcount) 8,
   (zeroBytes d 10 12, 10), (512 ≤ r.imglen && r.imgbase + r.imglen ≤ 2097152, 16), (zeroBytes d 20 64, 20),
   need (d.length = 64 + r.imglen) 16,
   (r.imgbase ≤ r.dtbase && r.dtbase + 512 * r.dtcount ≤ r.imgbase + r.imglen, 4)]

/-- The circuit record that a stall serves. -/
def stallCirc (b : List Byte) (n : Nat) : Option CircRec :=
  ((stagesOf b).find? fun g => g.stalls.contains n).bind fun g => (circuitsOf b).find? fun c => c.circuit = g.circuit

/-- A STALL section: its record, then its descriptors in index order (R212, R223). -/
def stallFaultAt (b : List Byte) (x : Sec) : Option Nat :=
  let d := secBytes b x
  let r := stallRec d
  match firstBad (rulesStallRec d x.target) with
  | some o => some o
  | none =>
    (List.range r.dtcount).findSome? fun i =>
      let o := 64 + r.dtbase - r.imgbase + 512 * i
      let raw := slice d o 512
      (descRules { b := b, n := x.target, i := i, raw := raw, d := descOf raw, count := r.dtcount, c := stallCirc b x.target }).map
        (o + ·)

/-- R213, R214: STAGES. -/
def rulesStages (b d : List Byte) : Conds :=
  let gs := stagesOf b
  let circs := (circuitsOf b).map (·.circuit)
  countRules d 16 0 (2 ^ 32) ++
  (eachRecord d fun i =>
    let o := 16 + 16 * i
    let n := leAt d (o + 4) 2
    let g := gs.getD i { circuit := 0, stage := 0, stalls := [] }
    [need (byteAt d o ≤ 31) o, need (byteAt d (o + 1) = 0) (o + 1), (1 ≤ n && n ≤ 1200, o + 4), (zeroBytes d (o + 6) (o + 8), o + 6),
     need (16 + 16 * countOf d ≤ leAt d (o + 8) 4 ∧ leAt d (o + 8) 4 + 2 * n ≤ d.length) (o + 8), (zeroBytes d (o + 12) (o + 16), o + 12),
     ((g.stalls.zip (g.stalls.drop 1)).all (fun p => p.1 < p.2) && g.stalls.all (fun n => (stallSet b).contains n), o + 8),
     (g.stalls.all fun n => !((gs.take i).any fun h => h.stalls.contains n), o + 8),
     (!((gs.take i).any fun h => h.circuit = g.circuit && h.stage = g.stage), o + 2),
     (g.stage < (gs.filter fun h => h.circuit = g.circuit).length, o + 2), (circs.contains g.circuit, o)]) ++
  [((stallSet b).all fun n => gs.any fun g => g.stalls.contains n, 0)]

/-- Scratch ranges of a stall: its descriptor table and its windows (R215). -/
def stallRanges (b : List Byte) (n : Nat) (wins : List WinRec) : List (Nat × Nat) :=
  (match stallSec b n with
   | some x => let r := stallRec (secBytes b x); [(r.dtbase, r.dtbase + 512 * r.dtcount)]
   | none => []) ++
  (wins.filter fun w => w.stall = n).map fun w => (w.base, w.base + w.size * w.cap)

/-- R214, R244: CIRCUITS. -/
def rulesCircuits (b d : List Byte) : Conds :=
  let tts := countOf (secOfType b 5)
  countRules d 64 1 32 ++
  eachRecord d fun i =>
    let o := 16 + 64 * i
    let c := circRec d i
    let ring := (c.rring, c.rring + c.rdepth * roundBytes c)
    let stalls := circStalls b c.circuit
    let steps := (imgDescs b).any fun x => stalls.contains x.1 && (x.2.2.opcode = 0x40 || x.2.2.opcode = 0x41)
    [need (c.circuit ≤ 31) o, ((stagesOf b).any fun g => g.circuit = c.circuit && g.stage = 0, o),
     (1 ≤ c.batchMax && c.batchMax ≤ 64, o + 1),
     (1 ≤ c.rdepth && c.rdepth ≤ 64, o + 2), (1 ≤ c.roundMin && c.roundMin ≤ c.batchMax, o + 3),
     need (c.stages = ((stagesOf b).filter fun g => g.circuit = c.circuit).length) (o + 4),
     (c.ttCount ≤ 16 && (0 < c.ttCount || !steps), o + 7), (c.rring % 256 = 0 && ring.2 ≤ 2097152, o + 8),
     (zeroBytes d (o + 12) (o + 16), o + 12), need (c.arenaBase % 4096 = 0) (o + 16),
     (c.arenaPitch % 8192 = 0 && (c.arenaPitch = 0) == (c.arenaSlots = 0), o + 24), need (c.arenaSlots ≤ 4096) (o + 32),
     (zeroBytes d (o + 34) (o + 64), o + 34),
     (!((List.range i).any fun j => (circRec d j).circuit = c.circuit), o),
     (stalls.all fun n => (stallRanges b n (windowsOf b)).all fun r => !overlaps ring r, o + 8),
     need (c.ttFirst + c.ttCount ≤ tts) (o + 6)]

/-- R245: TIMETABLES. -/
def rulesTimetables (d : List Byte) : Conds :=
  countRules d 16 1 255 ++
  eachRecord d fun i =>
    let o := 16 + 16 * i
    let rows := leAt d o 2
    let at_ := leAt d (o + 4) 4
    [(1 ≤ rows && rows ≤ 4096, o), (zeroBytes d (o + 2) (o + 4), o + 2), (zeroBytes d (o + 8) (o + 16), o + 8),
     need (at_ + 32 * rows ≤ d.length) (o + 4)] ++
    (List.range rows).flatMap fun r =>
      ((List.range 7).map fun f => (isFinite32 (BitVec.ofNat 32 (leAt d (at_ + 32 * r + 4 * f) 4)), at_ + 32 * r + 4 * f)) ++
      [(zeroBytes d (at_ + 32 * r + 28) (at_ + 32 * r + 32), at_ + 32 * r + 28)]

/-- R215, R311: WINDOWS. -/
def rulesWindows (b d : List Byte) : Conds :=
  countRules d 16 0 (2 ^ 32) ++
  eachRecord d fun i =>
    let o := 16 + 16 * i
    let w := winRec d i
    let earlier := (List.range i).map (winRec d)
    let range := (w.base, w.base + w.size * w.cap)
    [((stallSet b).contains w.stall, o), need (w.window ≤ 63) (o + 2), (w.cls = 3 || w.cls = 4, o + 3), need (w.base % 256 = 0) (o + 4),
     (256 ≤ w.size && w.size ≤ 256 * 129, o + 8), need (1 ≤ w.cap) (o + 10), (zeroBytes d (o + 11) (o + 16), o + 11),
     need (range.2 ≤ 2097152) (o + 4), ((stallRanges b w.stall earlier).all fun r => !overlaps range r, o + 4),
     (!(earlier.any fun v => v.stall = w.stall && v.window = w.window), o + 2)]

/-- The destinations of a route with the class of the window there: itself for a GROUP route (R314, R338). -/
def routeTargets (r : RouteRec) : List (Nat × Nat) := if r.group then [(r.src, 4)] else r.dsts.map fun n => (n, 3)

/-- The tile bytes that a route carries: those of every operation of its source whose C names it (R314). -/
def routeTile (b : List Byte) (i : Nat) (r : RouteRec) : Nat :=
  (((descsIn b r.src).filter fun d => d.c.space = 4 && d.c.id = i).map fun d => tileBytes d.cfmt).foldl max 0

/-- ROUTES: R216, the stalls and windows of the image; then R313's fields with R314 and R338; then R443. -/
def rulesRoutes (b d : List Byte) : Conds :=
  countRules d 32 0 (2 ^ 32) ++
  eachRecord d fun i =>
    let o := 16 + 32 * i
    let r := routeRec d i
    let upTo := (List.range (i + 1)).map (routeRec d)
    [((stallSet b).contains r.src, o)] ++
    (r.dsts.zipIdx.map fun n => (r.group || (stallSet b).contains n.1, o + 8 + 2 * n.2)) ++
    ((routeTargets r).map fun t => ((windowOf b t.1 r.window).isSome, o + 4)) ++
    [(r.cls = 3 || r.cls = 5, o + 2), (byteAt d (o + 3) < 2 && r.group == (r.cls = 5), o + 3),
     need (r.window ≤ 63) (o + 4), need (1 ≤ r.credits) (o + 6), (1 ≤ r.dsts.length && r.dsts.length ≤ (if r.group then 1 else 8), o + 7),
     (if r.group then r.dsts.all (· ≤ 255) else r.dsts.eraseDups.length = r.dsts.length, o + 8),
     (zeroBytes d (o + 24) (o + 32), o + 24)] ++
    ((routeTargets r).map fun t => ((windowOf b t.1 r.window).any fun w => w.cls = t.2, o + 4)) ++
    ((routeTargets r).map fun t => ((windowOf b t.1 r.window).any fun w => routeTile b i r ≤ w.size, o + 4)) ++
    ((routeTargets r).map fun t =>
      (decide (((upTo.filter fun q => q.window = r.window && (routeTargets q).contains t).map (·.credits)).sum ≤
        ((windowOf b t.1 r.window).map (·.cap)).getD 0), o + 6)) ++
    [need ((upTo.filter fun q => q.src = r.src).length ≤ 512) o]

/-- The counters that TAKE levels name: hub counters, and yard counters as yard × 64 + counter (R217). -/
def takenHub (b : List Byte) : List Nat :=
  (imgDescs b).flatMap fun x => ((usedLevels x.2.2).filter fun l => (level x.2.2 l).take && (level x.2.2 l).hubctr).map fun l =>
    (level x.2.2 l).ctr
def takenYard (b : List Byte) : List Nat :=
  (imgDescs b).flatMap fun x => ((usedLevels x.2.2).filter fun l => (level x.2.2 l).take && !(level x.2.2 l).hubctr).map fun l =>
    x.1 / 30 * 64 + (level x.2.2 l).ctr

/-- R217: COUNTERS marks the counters named, and only those. -/
def rulesCounters (b d : List Byte) : Conds :=
  let hub := takenHub b
  let yard := takenYard b
  [need (d.length = 352) 0] ++
  ((List.range 256).map fun i => ((byteAt d (i / 8)).testBit (i % 8) == hub.contains i, i / 8)) ++
  (List.range 2560).map fun i => ((byteAt d (32 + i / 8)).testBit (i % 8) == yard.contains i, 32 + i / 8)

/-- R218: FILLMAPS. -/
def rulesFillMaps (b d : List Byte) : Conds :=
  countRules d 16 0 (2 ^ 32) ++
  eachRecord d fun i =>
    let f := fillRec d i
    [(if f.loft then f.stall = 0 else (stallSet b).contains f.stall, 16 + 16 * i + 12)]

/-- R219: LOFTDATA. -/
def rulesLoftData (d : List Byte) : Conds := [need (16 ≤ d.length) 0]

/-- The first failing byte of a section (R223, check 6). -/
def sectionFault (b : List Byte) (x : Sec) : Option Nat :=
  let d := secBytes b x
  match x.ty with
  | 1 => firstBad (rulesStallSet d)
  | 2 => stallFaultAt b x
  | 3 => firstBad (rulesStages b d)
  | 4 => firstBad (rulesCircuits b d)
  | 5 => firstBad (rulesTimetables d)
  | 6 => firstBad (rulesWindows b d)
  | 7 => firstBad (rulesRoutes b d)
  | 8 => firstBad (rulesCounters b d)
  | 9 => firstBad (rulesFillMaps b d)
  | _ => firstBad (rulesLoftData d)

/-- Check 6: sections in directory order. -/
def check6 (b : List Byte) : Option ImgFault :=
  (sectionsOf b).findSome? fun x => (sectionFault b x).map fun o => { code := 0x0103, sec := x.idx, off := o, check := 6 }

/-- The checks of FINISH on a FILLING slot's bytes, in order (R223). -/
def finishFault (requireSig : Bool) (keyv : Nat) (keys : Table W64) (b : List Byte) : Option ImgFault :=
  (secFault 0x0101 0xFFFF 1 (check1 b)).or <| (secFault 0x0102 0xFFFF 2 (check2 b)).or <|
  (secFault 0x0105 0xFFFF 3 [(!(requireSig || imgSigLen b ≠ 0) || sigVerifies keyv keys b, 4)]).or <|
  (secFault 0x0104 0xFFFF 4 (check4 b)).or <| (secFault 0x0103 0xFFFF 5 (check5 b)).or (check6 b)

end Sys2Proof.Machine
end

