-- ==== Sys2Proof/Machine/Syllabus.lean ====
section
/-! DEFINITION. The SYL block (R201 to R203, R220 to R233): staging, FINISH, loading and unloading, and the policy. -/

namespace Sys2Proof.Machine

/-! ## Completing commands (R221, R382) -/

/-- A command of the stage engine completes. -/
def stageOver (iss : Issuer) (result status : Nat) (body : List Byte) (s : State) : State :=
  postCmd iss status body { s with syl.stageTag := iss.tag % 256, syl.stageResult := result }
def stageDone (iss : Issuer) (result : Nat) (s : State) : State := stageOver iss result result [] s

/-- A command of the load engine completes. -/
def loadOver (iss : Issuer) (result status : Nat) (body : List Byte) (s : State) : State :=
  postCmd iss status body { s with syl.loadTag := iss.tag % 256, syl.loadResult := result }
def loadDone (iss : Issuer) (result : Nat) (s : State) : State := loadOver iss result result [] s

/-- A SYL fault: HOLD-class, named in FAULT_CODE (R223, R225). -/
def sylFault (code slot sec off check : Nat) (s : State) : State :=
  raiseHub code (detS slot sec off check) { s with syl.faultCode := code }

/-- A command of the stage engine runs unless it is barred (R496, R516). -/
def stageCmd (iss : Issuer) (f : State → State) (s : State) : State :=
  match jobBar false s with
  | some b => stageOver iss b.1 b.2 [] s
  | none => f s

/-- A command of the load engine runs unless it is barred (R439, R450, R496, R516), or the engine is active: then it is dropped
with OVERRUN (R221). -/
def loadCmd (busy : Bool) (iss : Issuer) (f : State → State) (s : State) : State :=
  match jobBar busy s with
  | some b => loadOver iss b.1 b.2 [] s
  | none => if s.syl.load.isSome then { s with syl.overrun := true } else f s

/-- Slot `k` replaced. -/
def setSlot (k : Nat) (x : CacheSlot) (s : State) : State := { s with syl.slots := tset s.syl.slots k x }

/-- A slot that no command but its own LOAD or UNLOAD may change: RESIDENT, or being loaded (R201, R224, R225). -/
def pinned (s : State) (k : Nat) : Bool := (slotAt s k).st == .resident || s.syl.load.any fun l => l.slot = k

/-! ## The model cache in the loft (R203, R286, R299; log entry 12) -/

/-- The STALL sections of an image whose directory has been staged: stall, first byte and end (R203). -/
def stallSpans (b : List Byte) : List (Nat × Nat × Nat) :=
  if b.length < 256 ∨ b.length < imgDirOff b + 32 * imgSections b then []
  else ((sectionsOf b).filter fun x => x.ty = 2 && x.target < 1200).map fun x => (x.target, x.off, x.off + x.len)

/-- The stall whose section holds byte `o` of an image. -/
def ownerAt (spans : List (Nat × Nat × Nat)) (o : Nat) : Option Nat :=
  (spans.find? fun x => x.2.1 ≤ o && o < x.2.2).map (·.1)

/-- The end of the bytes from `o` up to `hi` that lie in one image page and belong to one owner. -/
def nextCut (spans : List (Nat × Nat × Nat)) (o hi : Nat) : Nat :=
  (spans.flatMap fun x => [x.2.1, x.2.2]).foldl (fun m c => if o < c ∧ c < m then c else m) (min hi ((o / 4096 + 1) * 4096))

/-- The bytes from `o` up to `hi` of an image as runs of one page and one owner: owner, first byte and length. -/
def ownedRuns (spans : List (Nat × Nat × Nat)) : Nat → Nat → Nat → List (Option Nat × Nat × Nat)
  | 0, _, _ => []
  | f + 1, o, hi =>
    if hi ≤ o then []
    else
      let c := nextCut spans o hi
      (ownerAt spans o, o, c - o) :: ownedRuns spans f c hi

/-- The part of the cache partition that holds an owner's bytes: the cache-local area of its stall (R284, R286), or the CACHE entries
(R299). -/
def cacheRanges (s : State) : Option Nat → List (Nat × Nat)
  | some n =>
    let lo := n / 300 * (80 * 2 ^ 30) + 320 * (interleaved s + jobLocal s) + n % 300 * cacheLocal s
    [(lo, lo + cacheLocal s)]
  | none => partRanges s 2

/-- The lowest page of some ranges that is not in use. -/
def freePage (ranges : List (Nat × Nat)) (used : List Nat) : Option Nat :=
  ranges.findSome? fun r =>
    ((List.range (used.length + 1)).map fun i => r.1 + 4096 * i).find? fun a => a + 4096 ≤ r.2 && !used.contains a

/-- Runs of bytes placed in the cache partition: the pages of the slot after it, and the loft address of each run. DESIGN CHOICE: an image
page takes the lowest free 4 KiB page of its owner's part (log entry 12). -/
def placeRuns (s : State) (others : List Nat) : List (Option Nat × Nat × Nat) → List CachePage →
    Option (List CachePage × List (Nat × Nat × Nat))
  | [], pages => some (pages, [])
  | (own, o, n) :: rest, pages =>
    match pages.find? fun g => g.page = o / 4096 && g.owner = own with
    | some g => (placeRuns s others rest pages).map fun r => (r.1, (g.base + o % 4096, o, n) :: r.2)
    | none =>
      match freePage (cacheRanges s own) (others ++ pages.map (·.base)) with
      | none => none
      | some a =>
        (placeRuns s others rest (pages ++ [{ page := o / 4096, owner := own, base := a }])).map
          fun r => (r.1, (a + o % 4096, o, n) :: r.2)

/-- The place in the loft of the bytes of slot `k` from `off` on, for its bytes `b` with them: none where the partition lacks room
(R203). -/
def cachePlace (s : State) (k off : Nat) (b : List Byte) : Option (List CachePage × List (Nat × Nat × Nat)) :=
  let spans := stallSpans b
  let others := (s.syl.slots.filter fun e => e.1 ≠ k).flatMap fun e => e.2.pages.map (·.base)
  placeRuns s others (ownedRuns spans ((b.length - off) / 4096 + 2 * spans.length + 2) off b.length) (slotAt s k).pages

/-- The loft address of byte `o` of a slot's image. -/
def cachedAt (x : CacheSlot) (spans : List (Nat × Nat × Nat)) (o : Nat) : Option Nat :=
  (x.pages.find? fun g => g.page = o / 4096 && g.owner = ownerAt spans o).map fun g => g.base + o % 4096

/-- The image of a slot as the loft holds it. -/
def cachedImage (s : State) (x : CacheSlot) : List Byte :=
  if x.pages.isEmpty then x.bytes
  else
    let spans := stallSpans x.bytes
    x.bytes.zipIdx.map fun p =>
      match cachedAt x spans p.2 with
      | some a => memGet s.loft.mem a
      | none => p.1

/-- The words of the loft that hold a slot's image. -/
def cachedWords (x : CacheSlot) : List Nat :=
  let spans := stallSpans x.bytes
  (List.range ((x.bytes.length + 63) / 64)).filterMap fun j => (cachedAt x spans (64 * j)).map wordOf

/-! ## STAGE, FINISH, EVICT, ABORT (R222 to R224) -/

/-- STAGE (R222): the bytes are placed in the cache partition (R203) as they arrive. -/
def sylStage (iss : Issuer) (k addr off len : Nat) (data : HostRead) : State → State :=
  stageCmd iss fun s =>
    let x := slotAt s k
    if len = 0 then stageDone iss 5 s
    else if !(x.st == .empty && off = 0 || x.st == .filling && off = x.bytes.length) then stageDone iss 2 s
    else
      match data with
      | none => stageOver iss 5 (refusedAddr iss) (addrBody addr) s
      | some bs =>
        let b := x.bytes ++ padTo len bs
        match cachePlace s k x.bytes.length b with
        | none => stageDone iss 3 s
        | some (pages, runs) =>
          if 256 ≤ b.length ∧ imgLength b < b.length then
            stageDone iss 4 (sylFault 0x0103 k 0xFFFF 8 5 (setSlot k { x with st := .bad } s))
          else
            stageDone iss 0 (setSlot k { x with st := .filling, bytes := b, pages := pages }
              (runs.foldl (fun s r => hubWrite r.1 (slice b r.2.1 r.2.2) s) s))

/-- SYL_STAGE (R222). -/
def execSylStage (view : View) (slot tag : Nat) (data : HostRead) (s : State) : Host.Outcome State Fault Refusal :=
  .next (regWrite view sylBase (sylStage (regIssuer tag) (slot % 64) s.syl.argAddr s.syl.argOff s.syl.argLen data) s)

/-- FINISH (R223). -/
def sylFinish (iss : Issuer) (k : Nat) : State → State :=
  stageCmd iss fun s =>
    let x := slotAt s k
    let f := if x.st == .filling then finishFault s.syl.require s.syl.keyv s.syl.keys x.bytes
      else some { code := 0x0101, sec := 0xFFFF, off := 0, check := 1 }
    match f with
    | none =>
      stageDone iss 0 (setSlot k { x with st := .staged, signed := s.syl.require || imgSigLen x.bytes ≠ 0 } s)
    | some f =>
      stageDone iss 4 (sylFault f.code k f.sec f.off f.check (if pinned s k then s else setSlot k { x with st := .bad } s))

/-- SYL_FINISH (R223). -/
def execSylFinish (view : View) (slot tag : Nat) (s : State) : Host.Outcome State Fault Refusal :=
  .next (regWrite view sylBase (sylFinish (regIssuer tag) (slot % 64)) s)

/-- A slot becomes EMPTY (R224). -/
def emptySlot (k : Nat) (s : State) : State := { s with syl.slots := tdel s.syl.slots k }

/-- EVICT (R224). -/
def sylEvict (iss : Issuer) (k : Nat) : State → State :=
  stageCmd iss fun s =>
    if pinned s k then stageDone iss 1 s
    else
      match (slotAt s k).st with
      | .staged | .bad => stageDone iss 0 (emptySlot k s)
      | _ => stageDone iss 2 s

/-- SYL_EVICT (R224). -/
def execSylEvict (view : View) (slot tag : Nat) (s : State) : Host.Outcome State Fault Refusal :=
  .next (regWrite view sylBase (sylEvict (regIssuer tag) (slot % 64)) s)

/-- ABORT (R224): a STAGE's fetches have landed by the time its command is performed. -/
def sylAbort (iss : Issuer) (k : Nat) : State → State :=
  stageCmd iss fun s =>
    match (slotAt s k).st with
    | .filling | .bad => stageDone iss 0 (emptySlot k s)
    | _ => stageDone iss 2 s

/-- SYL_ABORT (R224). -/
def execSylAbort (view : View) (slot tag : Nat) (s : State) : Host.Outcome State Fault Refusal :=
  .next (regWrite view sylBase (sylAbort (regIssuer tag) (slot % 64)) s)

/-! ## LOAD (R202, R225 to R229) -/

/-- The residency rules (R202, R415). -/
def residencyOk (s : State) (b : List Byte) : Bool :=
  let rs := (residents s).map (imgAt s)
  let circs := (circuitsOf b).map (·.circuit)
  let others := rs.flatMap fun r => (circuitsOf r).map (·.circuit)
  let shared := fun (f : List Byte → List Nat) => rs.any fun r => (f r).any fun x => (f b).contains x
  (imgPartial b || rs.isEmpty) && rs.all imgPartial && decide (rs.length < 32) && decide (circs.length + others.length ≤ 32) &&
  !(circs.any others.contains) && !shared stallSet && !shared hubCounters && !shared yardCounters &&
  (stallSet b).all fun n => (physOf s n).any fun p => yardUp s (yardOf p)

/-- No arena of the image overlaps another (R244), or the reference area of a video stream that is not CLOSED (R352). -/
def arenasOk (s : State) (b : List Byte) : Bool :=
  let mine := arenasOf b
  let others := refAreas s ++ (residents s).flatMap fun k => arenasOf (imgAt s k)
  mine.zipIdx.all fun a => !(others ++ mine.take a.2).any (overlaps a.1)

/-- The members whose routes a group's use needs: successor, predecessor, SELF + PEER and SELF − PEER (R337). -/
def groupPeers (w : W64) : List Nat :=
  let n := grpNmem w
  let k := grpSelf w
  [succMember n k, predMember n k, (k + grpPeer w) % n, (k + n - grpPeer w) % n]

/-- A group's entry and routes serve an image that names it (R337). -/
def groupOk (s : State) (g : Nat) : Bool :=
  let w := groupAt s g
  let route := fun m => routeAt s (grpRbase w + m)
  grpValid w && decide (grpSelf w < grpNmem w) && grpPeer w ≠ 0 && decide (grpPeer w < grpNmem w) &&
  decide (grpRbase w + grpNmem w ≤ 2048) && routeNseg (route (grpSelf w)).2 = 0 &&
  (groupPeers w).all fun m => let (lo, hi) := route m; routeOk lo hi && routeNseg hi ≠ 0

/-- The first LOFT region outside the job's partition: its section and offset (R225). -/
def regionOutside (s : State) (b : List Byte) : Option (Nat × Nat) :=
  (imgRegions b).findSome? fun r =>
    if (firstOutside (jobRanges s) r.2.2.1 r.2.2.2).isSome then some (r.1, r.2.1) else none

/-- Steps 1 to 3 of LOAD: the code, section, offset and check of the first that fails (R225). -/
def loadBar (s : State) (k : Nat) : Option ImgFault :=
  let b := cachedImage s (slotAt s k)
  if (slotAt s k).st != .staged then some { code := 0x0101, sec := 0xFFFF, off := 0, check := 0x11 }
  else if s.syl.require && !sigVerifies s.syl.keyv s.syl.keys b then some { code := 0x0105, sec := 0xFFFF, off := 4, check := 0x12 }
  else if !residencyOk s b || !arenasOk s b || !((imgGroups b).eraseDups.all (groupOk s)) then
    some { code := 0x0103, sec := 0xFFFF, off := 0, check := 0x13 }
  else (regionOutside s b).map fun r => { code := 0x0103, sec := r.1, off := r.2, check := 0x13 }

/-- LOAD: steps 1 to 3, then HELD is set and the load phases run (R225). A load that failed in its phases keeps its held outputs held
beside those of this one (R229). DESIGN CHOICE: steps 1 to 3 take no hub beat, so a LOAD that fails in them reads 0 in SYL_LOAD_BEATS (log
entry 34). -/
def sylLoad (iss : Issuer) (k : Nat) : State → State :=
  loadCmd true iss fun s =>
    match loadBar s k with
    | some f => loadDone iss 4 (sylFault f.code k f.sec f.off f.check { s with syl.loadBeats := 0 })
    | none =>
      let b := cachedImage s (slotAt s k)
      { s with
        syl.load := some { slot := k, issuer := iss, start := s.dev.paceHub }
        syl.held := true
        syl.heldFull := s.syl.failFull || !imgPartial b
        syl.heldStalls := s.syl.failStalls ++ stallSet b }

/-- SYL_LOAD (R225). -/
def execSylLoad (view : View) (slot tag : Nat) (s : State) : Host.Outcome State Fault Refusal :=
  .next (regWrite view sylBase (sylLoad (regIssuer tag) (slot % 64)) s)

/-- The hold of a load ends at its commit (R228). DESIGN CHOICE: what a load that failed before it holds stays held, and HELD stays 1, until
CLEAR (R229; log entry 51). -/
def releaseHold (s : State) : State :=
  { s with syl.held := s.syl.loadFailed, syl.heldFull := s.syl.failFull, syl.heldStalls := s.syl.failStalls }

/-- CLEAR ends every hold (R229). -/
def clearHold (s : State) : State :=
  { s with
    syl.held := false, syl.heldFull := false, syl.heldStalls := [],
    syl.loadFailed := false, syl.failFull := false, syl.failStalls := [] }

/-- A stall at commit (R212, R227): its scratch from the image, everything else of a job at reset. -/
def committedStall (b : List Byte) (k n : Nat) (x : Stall) : Stall :=
  match stallSec b n with
  | none => clearStall x
  | some sec =>
    let d := secBytes b sec
    let r := stallRec d
    { clearStall x with
      scratch := memWrite [] r.imgbase (slice d 64 r.imglen)
      loaded := some { slot := k, circuit := stallCircuit b n, dtbase := r.dtbase, dtcount := r.dtcount, entry := r.entry } }

/-- One fill map zeroed, in scratch or in the loft (R181, R227). -/
def zeroFillMap (f : FillRec) (s : State) : State :=
  if f.loft then loftPut (cellsAt f.addr (zeros (8 * f.tiles))) (wholeIn f.addr (8 * f.tiles)) s
  else
    match physOf s f.stall with
    | some p => modStallP p (fun x => { x with scratch := memZero x.scratch f.addr (f.addr + 8 * f.tiles) }) s
    | none => s

/-- The gate windows of an image and the credits each holds for its sender: stall, window, entries, group and the member that
each end is granted to or by (R337). -/
structure GateWin where
  n : Nat
  w : Nat
  entries : Nat
  grp : Nat
  giveTo : Nat
  deriving DecidableEq, Repr

/-- The gate windows of an image (R337). -/
def gateWins (s : State) (b : List Byte) : List GateWin :=
  let routes : List GateWin := ((routesOf b).filter fun (r : RouteRec) => r.group).map fun (r : RouteRec) =>
    let g := r.dsts.headD 0
    let w := groupAt s g
    { n := r.src, w := r.window, entries := r.credits, grp := g,
      giveTo := (grpSelf w + grpNmem w - grpPeer w) % max 1 (grpNmem w) }
  let collects : List GateWin := ((imgDescs b).filter fun (x : Nat × Nat × Desc) => x.2.2.opcode = 0x34).flatMap
    fun (x : Nat × Nat × Desc) =>
      let g := collectGroup x.2.2
      let w := groupAt s g
      let cap := fun i => ((windowOf b x.1 i).map (·.cap)).getD 0
      [{ n := x.1, w := collectWup x.2.2, entries := cap (collectWup x.2.2), grp := g,
         giveTo := predMember (grpNmem w) (grpSelf w) },
       { n := x.1, w := collectWdn x.2.2, entries := cap (collectWdn x.2.2), grp := g,
         giveTo := succMember (grpNmem w) (grpSelf w) }]
  (routes ++ collects).eraseDups

/-- Each gate window is granted to its sender, and as many credits are expected from this device's own receivers, whose images
are symmetric (R337, R451). -/
def grantWindows (b : List Byte) (s : State) : State :=
  (gateWins s b).foldl (fun s g =>
    let s := { s with gate.expect := tset s.gate.expect (64 * g.n + g.w) g.entries }
    sendCredit g.grp g.giveTo g.n g.w g.entries s) s

/-- The counters that an image marks hold INST = VALUE = 0 (R227). -/
def zeroCounters (b : List Byte) (s : State) : State :=
  { s with hubCtr := (hubCounters b).foldl tdel s.hubCtr, yardCtr := (yardCounters b).foldl tdel s.yardCtr }

/-- What a commit makes live (R225 step 5, R227, R249, R254). -/
def commitImage (k : Nat) (s : State) : State :=
  let b := imgAt s k
  let s := (stallSet b).foldl (fun s n =>
    match physOf s n with
    | some p => modStallP p (committedStall b k n) s
    | none => s) s
  let s := (loftDataOf b).foldl (fun s d => hubWrite d.1 d.2 s) s
  let s := (fillMapsOf b).foldl (fun s f => zeroFillMap f s) s
  let s := zeroCounters b s
  let s := if imgPartial b then s else { s with roll.entries := [] }
  let s := { s with roll.circuits := (circuitsOf b).foldl (fun t (c : CircRec) => tset t c.circuit { st := .stopped }) s.roll.circuits }
  let s := { s with rng.seed0 := s.rng.seed, rng.base0 := s.rng.base }
  grantWindows b (setSlot k { slotAt s k with st := .resident } s)

/-- A pre-emption that waited for the end of a LOAD takes effect (R231, R440). -/
def deferredPreempt (s : State) : State :=
  if s.ctx.preempt.isSome && s.ctx.st == .run then { s with ctx.st := .stopping } else s

/-- The load phases end: the image as the loft holds it commits, or a word of it was uncorrectable and the slot is BAD (R225 to R229, R290,
R291). -/
def loadCommit (ecc : EccReport) (s : State) : State :=
  match s.syl.load with
  | none => s
  | some l =>
    let x := slotAt s l.slot
    let ws := cachedWords x
    let s := eccApply ecc ws.contains 0 s
    let s := { s with syl.load := none, syl.loadBeats := (s.dev.paceHub + 2 ^ 64 - l.start) % 2 ^ 64 }
    if ws.any (poisonedWord s) then
      let s := setSlot l.slot { x with st := .bad }
        { s with syl.loadFailed := true, syl.failFull := s.syl.heldFull, syl.failStalls := s.syl.heldStalls }
      deferredPreempt (loadDone l.issuer 4 (sylFault 0x0102 l.slot 0xFFFF 32 0x14 s))
    else
      let s := setSlot l.slot { x with bytes := cachedImage s x } s
      deferredPreempt (loadDone l.issuer 0 (releaseHold (commitImage l.slot s)))

/-- SYL_LOAD_COMMIT (R227). -/
def execSylLoadCommit (ecc : EccReport) (s : State) : Host.Outcome State Fault Refusal := .next (loadCommit ecc s)

/-! ## UNLOAD and CLEAR (R229, R230) -/

/-- An image may not be unloaded (R230). -/
def unloadBusy (s : State) (b : List Byte) : Bool :=
  let circs := (circuitsOf b).map (·.circuit)
  circs.any (fun c => circBusy (circAt s c)) ||
  (stallSet b).any (fun n => (physOf s n).any fun p => stallBusy (stallP s p)) ||
  s.roll.entries.any fun e => e.2.st != .free && circs.contains e.2.circuit

/-- A stall is freed; its scratch stays as it is (R230). -/
def freedStall (x : Stall) : Stall := { x with loaded := none, prog := none, ring := [], jstop := false, preempted := false }

/-- An image is unloaded: its slot is STAGED, and its stalls, counters and circuits are free; JSTOPPED clears when none is left
resident (R230, R481). -/
def unloadImage (k : Nat) (s : State) : State :=
  let b := imgAt s k
  let s := (stallSet b).foldl (fun s n =>
    match physOf s n with
    | some p => modStallP p freedStall s
    | none => s) s
  let keys := (stallSet b).flatMap fun n => (List.range 64).map fun w => 64 * n + w
  let s := { s with
    roll.circuits := ((circuitsOf b).map (·.circuit)).foldl tdel s.roll.circuits
    gate.sendCred := keys.foldl tdel s.gate.sendCred
    gate.granted := keys.foldl tdel s.gate.granted
    gate.expect := keys.foldl tdel s.gate.expect
    gate.sendSeq := keys.foldl tdel s.gate.sendSeq }
  let s := setSlot k { slotAt s k with st := .staged } s
  if residentCount s = 0 then { s with flt.jstopped := false } else s

/-- UNLOAD (R230). -/
def sylUnload (iss : Issuer) (k : Nat) : State → State :=
  loadCmd true iss fun s =>
    if (slotAt s k).st != .resident then loadDone iss 2 s
    else if unloadBusy s (imgAt s k) then loadDone iss 1 s
    else loadDone iss 0 (unloadImage k s)

/-- SYL_UNLOAD (R230). -/
def execSylUnload (view : View) (slot tag : Nat) (s : State) : Host.Outcome State Fault Refusal :=
  .next (regWrite view sylBase (sylUnload (regIssuer tag) (slot % 64)) s)

/-- CLEAR (R229). -/
def sylClear (iss : Issuer) : State → State :=
  loadCmd false iss fun s => loadDone iss 0 (if s.syl.loadFailed then clearHold s else s)

/-- SYL_CLEAR (R229). -/
def execSylClear (view : View) (_slot tag : Nat) (s : State) : Host.Outcome State Fault Refusal :=
  .next (regWrite view sylBase (sylClear (regIssuer tag)) s)

/-! ## Policy and keys (R232, R233) -/

/-- SYL_POLICY written (R232). -/
def policyWrite (value : W64) (s : State) : State :=
  if s.syl.lock then s
  else { s with syl.lock := fld value 9 9 = 1, syl.require := fld value 8 8 = 1, syl.keyv := fld value 3 0 }

/-- SYL_POLICY_WRITE (R232). -/
def execSylPolicyWrite (view : View) (value : W64) (s : State) : Host.Outcome State Fault Refusal :=
  .next (regWrite view (sylBase + 0x400) (policyWrite value) s)

/-- SYL_KEY_k_w written: ignored under LOCK or while KEYV bit k is 1 (R232, R233). -/
def keyWrite (k w : Nat) (value : W64) (s : State) : State :=
  if s.syl.lock || s.syl.keyv.testBit k then s
  else { s with syl.keys := tset s.syl.keys (7 * k + w) value }

/-- SYL_KEY_WRITE (R233). -/
def execSylKeyWrite (view : View) (k w : Nat) (value : W64) (s : State) : Host.Outcome State Fault Refusal :=
  .next (regWrite view (sylBase + 0x500 + 0x40 * k + 8 * w) (keyWrite k w value) s)

/-- CTX_STATUS.GRANTED (R451). -/
def granted (s : State) : Bool :=
  residentCount s ≠ 0 && s.syl.load.isNone && s.gate.expect.all fun e => e.2 ≤ tget 0 s.gate.granted e.1

end Sys2Proof.Machine
end

