-- ==== Sys2Proof/Machine/Video.lean ====
section
/-! DEFINITION. The video engines (R346 to R370): stream contexts, SUBMIT, key and long-term requests, the start and the
completion of pictures, and CLOSE. What a codec makes of a picture is a constant without a body (log entry 7). -/

namespace Sys2Proof.Machine

/-! ## Streams and commands -/

/-- Stream `k`. -/
def streamAt (s : State) (k : Nat) : Stream := tget {} s.vid.streams k

/-- Stream `k` changed. -/
def modStream (k : Nat) (f : Stream → Stream) (s : State) : State := { s with vid.streams := tmod {} s.vid.streams k f }

/-- Engine `e`. -/
def vidEng (s : State) (e : Nat) : VidEng := tget {} s.vid.engines e

/-- The engine that runs a picture of stream `k`. -/
def runsOn (s : State) (k : Nat) : Option Nat :=
  (List.range 8).find? fun e => (vidEng s e).run.any fun r => r.stream = k

/-- A VID command completes with a result, a record status and a body (R370, R382). -/
def vidOver (iss : Issuer) (result status : Nat) (body : List Byte) (s : State) : State :=
  postCmd iss status body { s with vid.tag := iss.tag % 256, vid.result := result }
def vidDone (iss : Issuer) (result : Nat) (s : State) : State := vidOver iss result result [] s

/-- A CLOSE waits for its running picture: VID_STATUS.ACTIVE (R369, R370). -/
def vidActive (s : State) : Bool := s.vid.streams.any fun e => e.2.closer.isSome

/-- A VID command: barred (R439, R450, R496, R516), dropped with OVERRUN while one runs (R370), or performed. -/
def vidCmd (busy : Bool) (iss : Issuer) (f : State → State) (s : State) : State :=
  if vidActive s then { s with vid.overrun := true }
  else
    match jobBar busy s with
    | some b => vidOver iss b.1 b.2 [] s
    | none => f s

/-! ## OPEN (R346, R347, R350 to R352) -/

/-- A context record's fields (R350). -/
def vidRecord (b : List Byte) : VidCtx :=
  { role := byteAt b 0, codec := byteAt b 1, cls := byteAt b 2, engmask := byteAt b 3, width := leAt b 4 2,
    height := leAt b 6 2, depth := byteAt b 8, input := byteAt b 9, fmt := byteAt b 10, matrix := byteAt b 11,
    primaries := byteAt b 12, transfer := byteAt b 13, range := byteAt b 14, gop := byteAt b 15, keyint := leAt b 16 2,
    rcmode := byteAt b 18, qpmin := byteAt b 19, qpmax := byteAt b 20, qpi := byteAt b 21, level := byteAt b 22,
    rate := leAt b 24 4, peak := leAt b 28 4, cpb := leAt b 32 4, fnum := leAt b 36 2, fden := leAt b 38 2,
    wkey := byteAt b 40, maxpic := leAt b 44 4, refbase := leAt b 48 8, refsize := leAt b 56 8, raw := padTo 128 b }

/-- The maximum picture size of a level in luma samples (R347): H.265's general_level_idc and AV1's seq_level_idx, by those
specifications' tables (PRESUMED; log entry 24). None for a code that names no level up to 6.1. -/
def levelLuma (codec level : Nat) : Option Nat :=
  ((if codec = 0 then
      [(30, 36864), (60, 122880), (63, 245760), (90, 552960), (93, 983040), (120, 2228224), (123, 2228224), (150, 8912896),
       (153, 8912896), (156, 8912896), (180, 35651584), (183, 35651584)]
    else
      [(0, 147456), (1, 278784), (4, 665856), (5, 1065024), (8, 2359296), (9, 2359296), (12, 8912896), (13, 8912896),
       (14, 8912896), (15, 8912896), (16, 35651584), (17, 35651584)]).find? fun x => x.1 = level).map (·.2)

/-- B, the 64 × 64 luma blocks of a picture (R348). -/
def vidBlocks (c : VidCtx) : Nat := (c.width + 63) / 64 * ((c.height + 63) / 64)

/-- NREF, U and NREF × U (R351). -/
def refCount (c : VidCtx) : Nat := if c.codec = 1 then 9 else if c.role = 0 then 7 else 17
def refUnit (c : VidCtx) : Nat :=
  vidBlocks c * 6144 * (if c.depth = 10 then 2 else 1) + (c.width + 15) / 16 * ((c.height + 15) / 16) * 16
def refNeed (c : VidCtx) : Nat := refCount c * refUnit c

/-- The rate-control fields are in range, in a record of either role (R350). DESIGN CHOICE: FNUM and FDEN, for which the table gives no
range, are not 0 in an encode stream, where R360 divides by the one and the other makes every picture's budget 0 (log entry 24). -/
def rateFieldsOk (c : VidCtx) : Bool :=
  let q := if c.codec = 0 then 51 else 255
  c.gop ≤ 1 && c.rcmode ≤ 2 && c.qpmin ≤ q && c.qpmax ≤ q && c.qpi ≤ q && 16 ≤ c.wkey &&
  (c.role = 1 || 1 ≤ c.fnum && 1 ≤ c.fden)

/-- Every field of a context record is in range, and R347 holds (R346, R347, R350). -/
def vidFieldsOk (c : VidCtx) : Bool :=
  c.role ≤ 1 && c.codec ≤ 1 && c.cls ≤ 3 && 1 ≤ c.engmask % 16 && (c.depth = 8 || c.depth = 10) &&
  c.input ≤ 1 - c.role && (if c.input = 1 then c.fmt ≤ 2 else c.fmt = 0) && (c.matrix = 1 || c.matrix = 9) && c.range ≤ 1 &&
  rateFieldsOk c &&
  c.width % 8 = 0 && c.height % 8 = 0 && 64 ≤ c.width && c.width ≤ 8192 && 64 ≤ c.height && c.height ≤ 4352 &&
  (levelLuma c.codec c.level).any fun m => c.width * c.height ≤ m

/-- The ranges of the loft that the snapshot configuration claims while SNAP is on (R352, R460): state region, stage area and
enabled extents. -/
def snapRanges (s : State) : List (Nat × Nat) :=
  (regionBase s, regionBase s + regionPitch s) :: (s.snap.stage * 2 ^ 21, s.snap.stage * 2 ^ 21 + 40 * 2 ^ 20) :: extRanges s

/-- The arenas of the resident images (R244). -/
def residentArenas (s : State) : List (Nat × Nat) := (residents s).flatMap fun k => arenasOf (imgAt s k)

/-- The reference area of a stream may be taken (R351, R352). -/
def refAreaOk (s : State) (c : VidCtx) : Bool :=
  let r := (c.refbase, c.refbase + c.refsize)
  c.refbase % 4096 = 0 && refNeed c ≤ c.refsize && (firstOutside (jobRanges s) r.1 r.2).isNone &&
  !((refAreas s ++ residentArenas s ++ if s.snap.st == .off then [] else snapRanges s).any (overlaps r))

/-- OPEN (R350). -/
def vidOpen (iss : Issuer) (k addr : Nat) (record : HostRead) : State → State :=
  vidCmd true iss fun s =>
    if (streamAt s k).st != .closed then vidDone iss 2 s
    else
      match record with
      | none => vidOver iss 5 (refusedAddr iss) (addrBody addr) s
      | some b =>
        let c := vidRecord b
        if vidFieldsOk c && refAreaOk s c then vidDone iss 0 (modStream k (fun _ => { st := .opened, ctx := c }) s)
        else vidDone iss 5 s

/-- VID_OPEN (R350). -/
def execVidOpen (view : View) (tag : Nat) (stream : Nat) (record : HostRead) (s : State) : Host.Outcome State Fault Refusal :=
  .next (regWrite view vidBase (vidOpen (regIssuer tag) (stream % 64) s.vid.argAddr record) s)

/-! ## SUBMIT (R354) -/

/-- A picture descriptor (R354). -/
def picDesc (via : Via) (b : List Byte) : PicDesc :=
  { src := BitVec.ofNat 64 (leAt b 0 8), dst := BitVec.ofNat 64 (leAt b 8 8), srclen := leAt b 16 4, dstlen := leAt b 20 4,
    rpitch := leAt b 24 4, ppitch := leAt b 28 4, force := (byteAt b 32).testBit 0, tag := leAt b 36 4, via := via,
    raw := padTo 64 b }

/-- SRC and DST name the loft, and the address there. -/
def inLoft (a : W64) : Bool := fld a 63 63 = 1
def loftOf (a : W64) : Nat := fld a 38 0
def hostOf (a : W64) : Nat := fld a 62 0

/-- Bytes of a sample of an encode input, and of YUV (R353). -/
def yuvBytes (c : VidCtx) : Nat := if c.depth = 10 then 2 else 1
def inputBytes (c : VidCtx) : Nat := if c.input = 1 then fmtBits c.fmt / 8 else yuvBytes c

/-- Elements from the start of a picture to the end of its last plane (R353). -/
def yuvSpan (c : VidCtx) (p : PicDesc) : Nat :=
  p.ppitch + p.ppitch / 4 + (c.height / 2 - 1) * (p.rpitch / 2) + c.width / 2
def rgbSpan (c : VidCtx) (p : PicDesc) : Nat := 2 * p.ppitch + (c.height - 1) * p.rpitch + c.width

/-- Bytes that a picture occupies at SRC and at DST. -/
def srcSpan (c : VidCtx) (p : PicDesc) : Nat :=
  if c.role = 1 then p.srclen else (if c.input = 1 then rgbSpan c p else yuvSpan c p) * inputBytes c
def dstSpan (c : VidCtx) (p : PicDesc) : Nat := if c.role = 0 then p.dstlen else yuvSpan c p * yuvBytes c

/-- A descriptor is valid (R354). -/
def picOk (s : State) (c : VidCtx) (p : PicDesc) : Bool :=
  let within := fun (a : W64) n => !inLoft a || (firstOutside (jobRanges s) (loftOf a) (loftOf a + max 1 n)).isNone
  c.width ≤ p.rpitch && p.rpitch % 2 = 0 && p.rpitch * c.height ≤ p.ppitch && p.ppitch % 4 = 0 &&
  (c.role = 1 || 1024 + 3 * vidBlocks c ≤ p.dstlen) && within p.src (srcSpan c p) && within p.dst (dstSpan c p)

/-- Stream `k`'s head picture becomes eligible now, if it has one and none of its pictures runs (R357). -/
def makeEligible (k : Nat) (s : State) : State :=
  if (streamAt s k).queue.isEmpty || (runsOn s k).isSome then s
  else { modStream k (fun x => { x with eligible := s.vid.order }) s with vid.order := s.vid.order + 1 }

/-- SUBMIT (R354). -/
def vidSubmit (iss : Issuer) (k addr : Nat) (record : HostRead) : State → State :=
  vidCmd true iss fun s =>
    let x := streamAt s k
    if x.st == .closed || x.st == .closing then vidDone iss 2 s
    else
      match record with
      | none => vidOver iss 5 (refusedAddr iss) (addrBody addr) s
      | some b =>
        let p := picDesc iss.via b
        if !picOk s x.ctx p then vidDone iss 5 s
        else if 16 ≤ x.queue.length then vidDone iss 1 s
        else
          let s := modStream k (fun x => { x with queue := x.queue ++ [p] }) s
          vidDone iss 0 (if x.queue.isEmpty then makeEligible k s else s)

/-- VID_SUBMIT (R354). -/
def execVidSubmit (view : View) (tag : Nat) (stream : Nat) (record : HostRead) (s : State) : Host.Outcome State Fault Refusal :=
  .next (regWrite view vidBase (vidSubmit (regIssuer tag) (stream % 64) s.vid.argAddr record) s)

/-! ## KEY, LTR_MARK, LTR_USE (R362, R363, R369) -/

/-- A request of an encode stream that is not CLOSED or CLOSING (R369). -/
def encodeCmd (iss : Issuer) (k : Nat) (f : Stream → Option Stream) : State → State :=
  vidCmd false iss fun s =>
    let x := streamAt s k
    if x.st == .closed || x.st == .closing || x.ctx.role = 1 then vidDone iss 2 s
    else
      match f x with
      | some y => vidDone iss 0 (modStream k (fun _ => y) s)
      | none => vidDone iss 2 s

/-- KEY (R362). -/
def vidKey (iss : Issuer) (k : Nat) : State → State := encodeCmd iss k fun x => some { x with keypend := true }

/-- VID_KEY (R362). -/
def execVidKey (view : View) (tag : Nat) (stream : Nat) (s : State) : Host.Outcome State Fault Refusal :=
  .next (regWrite view vidBase (vidKey (regIssuer tag) (stream % 64)) s)

/-- LTR_MARK (R363). -/
def vidLtrMark (iss : Issuer) (k j : Nat) : State → State := encodeCmd iss k fun x => some { x with ltrMark := some j }

/-- VID_LTR_MARK (R363). -/
def execVidLtrMark (view : View) (tag : Nat) (stream slot : Nat) (s : State) : Host.Outcome State Fault Refusal :=
  .next (regWrite view vidBase (vidLtrMark (regIssuer tag) (stream % 64) (slot % 4)) s)

/-- LTR_USE (R363): STATE if the slot is empty. -/
def vidLtrUse (iss : Issuer) (k j : Nat) : State → State :=
  encodeCmd iss k fun x => if (x.ltrSlots.getD j none).isSome then some { x with ltrUse := some j } else none

/-- VID_LTR_USE (R363). -/
def execVidLtrUse (view : View) (tag : Nat) (stream slot : Nat) (s : State) : Host.Outcome State Fault Refusal :=
  .next (regWrite view vidBase (vidLtrUse (regIssuer tag) (stream % 64) (slot % 4)) s)

/-! ## Completion records and CLOSE (R355, R369) -/

/-- A video completion record (R355). -/
def picRecord (p : PicDesc) (stream picno order bytes flags reftag : Nat) : List Byte :=
  leBytes 4 p.tag ++ leBytes 4 picno ++ leBytes 4 order ++ leBytes 4 bytes ++ leBytes 1 flags ++ leBytes 1 stream ++ zeros 2 ++
  leBytes 4 reftag ++ zeros 8

/-- A picture's record goes to the queue of its SUBMIT (R355, R383). -/
def postPicture (p : PicDesc) (stream picno order bytes flags reftag : Nat) (s : State) : State :=
  post p.via { tag := p.tag, status := 0, kind := 3, body := picRecord p stream picno order bytes flags reftag } s

/-- A picture that has not started completes with DISCARDED; it has no number and no order, and the record's are free values (R369; log
entry 1). -/
def discardPicture (stream : Nat) (p : PicDesc) (s : State) : State :=
  let (n, s) := takeFree s
  let (o, s) := takeFree s
  postPicture p stream (n % 2 ^ 32) (o % 2 ^ 32) 0 0x20 0 s

/-- A stream's queue is discarded; it is CLOSED at once, or CLOSING until its running picture completes (R369). -/
def closeStream (k : Nat) (closer : Option Issuer) (s : State) : State :=
  let s := (streamAt s k).queue.foldl (fun s p => discardPicture k p s) s
  if (runsOn s k).isSome then modStream k (fun x => { x with st := .closing, queue := [], closer := closer }) s
  else modStream k (fun x => { x with st := .closed, queue := [] }) s

/-- CLOSE (R369). -/
def vidClose (iss : Issuer) (k : Nat) : State → State :=
  vidCmd false iss fun s =>
    let x := streamAt s k
    if x.st == .closed || x.st == .closing then vidDone iss 2 s
    else if (runsOn s k).isSome then closeStream k (some iss) s
    else vidDone iss 0 (closeStream k none s)

/-- VID_CLOSE (R369). -/
def execVidClose (view : View) (tag : Nat) (stream : Nat) (s : State) : Host.Outcome State Fault Refusal :=
  .next (regWrite view vidBase (vidClose (regIssuer tag) (stream % 64)) s)

/-! ## Starting a picture (R356, R357, R362, R363, R368) -/

/-- Video output is held (R228, R368, R420, R450, R476). -/
def videoHeld (s : State) : Bool :=
  stopped s || s.ctx.st == .held || s.snap.st == .held || (s.syl.held && s.syl.heldFull)

/-- No picture starts: video is held, the job is stopped by a fault or is being pre-empted (R257, R368, R435). -/
def startBarred (s : State) : Bool := videoHeld s || s.ctx.st != .run

/-- Engine `e` may run the stream: 0–3 encode, 4–7 decode, and ENGMASK names it (R350). -/
def mayRun (e : Nat) (x : Stream) : Bool := e / 4 = x.ctx.role && x.ctx.engmask.testBit (e % 4)

/-- The streams with a picture eligible on engine `e` (R357). -/
def eligibleOn (s : State) (e : Nat) : List (Nat × Stream) :=
  s.vid.streams.filter fun x => !x.2.queue.isEmpty && (runsOn s x.1).isNone && mayRun e x.2

/-- A stream's picture goes before another's: higher class, then eligible earlier (R357). -/
def startsBefore (a b : Nat × Stream) : Bool :=
  b.2.ctx.cls < a.2.ctx.cls || (a.2.ctx.cls = b.2.ctx.cls && a.2.eligible ≤ b.2.eligible)

/-- The stream whose picture engine `e` starts. -/
def chosenStream (s : State) (e : Nat) : Option (Nat × Stream) := ((eligibleOn s e).mergeSort startsBefore).head?

/-- The next picture of an encode stream is a key picture (R362). -/
def isKey (x : Stream) (p : PicDesc) : Bool :=
  x.ctx.role = 0 && (x.picno = 0 || (x.ctx.keyint ≠ 0 && x.picno % x.ctx.keyint = 0) || p.force || x.keypend)

/-- The long-term slots after a picture starts (R362, R363). -/
def slotsAfter (x : Stream) (key : Bool) : List (Option Nat) :=
  let l := if key then [none, none, none, none] else x.ltrSlots
  match x.ltrMark with
  | some j => l.set j (some x.picno)
  | none => l

/-- A stream after picture `p` starts. -/
def startedStream (p : PicDesc) (x : Stream) : Stream :=
  let key := isKey x p
  { x with
    queue := x.queue.drop 1
    picno := (x.picno + 1) % 2 ^ 32
    keypend := false
    ltrMark := none
    ltrUse := none
    ltrSlots := slotsAfter x key
    keyAt := if key then x.picno else x.keyAt
    keys := if key then sat 16 (x.keys + 1) else x.keys }

/-- A free engine starts a picture (R356, R357). -/
def pictureStart (e : Nat) (s : State) : State :=
  if startBarred s || (vidEng s e).run.isSome then s
  else
    match chosenStream s e with
    | none => s
    | some (k, x) =>
      match x.queue with
      | [] => s
      | p :: _ =>
        let run : RunPic := { stream := k, pic := p, picno := x.picno, key := isKey x p, ltrMark := x.ltrMark,
                              ltrUse := if isKey x p then none else x.ltrUse }
        modStream k (startedStream p)
          { s with vid.engines := tmod {} s.vid.engines e fun g => { g with run := some run, stream := k } }

/-- PICTURE_START (R357). -/
def execPictureStart (e : Nat) (s : State) : Host.Outcome State Fault Refusal := .next (pictureStart e s)

/-! ## Encode input (R353) -/

/-- The sample at element `i` of a picture's bytes. -/
def rgbSample (c : VidCtx) (b : List Byte) (i : Nat) : W32 :=
  let n := inputBytes c
  let x := round32 (decode c.fmt (leAt b (i * n) n))
  if isNan32 x || Val.lt (val32 x) Val.zero then 0
  else if Val.lt (val32 one32) (val32 x) then one32 else x

/-- The conversion constants: a ratio of ten-thousandths rounded once. -/
def tenK (a : Nat) : W32 := round32 (ratio false a 10000 0)
def recipTenK (a : Nat) : W32 := round32 (ratio false 10000 a 0)
def vidKr (c : VidCtx) : W32 := if c.matrix = 1 then tenK 2126 else tenK 2627
def vidKb (c : VidCtx) : W32 := if c.matrix = 1 then tenK 722 else tenK 593
def vidCbs (c : VidCtx) : W32 := if c.matrix = 1 then recipTenK 18556 else recipTenK 18814
def vidCrs (c : VidCtx) : W32 := if c.matrix = 1 then recipTenK 15748 else recipTenK 14746
/-- Kg = RNE(1 − Kr − Kb), rounded once. -/
def vidKg (c : VidCtx) : W32 := round32 (((val32 one32).add (val32 (vidKr c)).neg).add (val32 (vidKb c)).neg)

/-- Y, Cb and Cr of one pixel of an RGB input (R353). -/
def pixelYcc (c : VidCtx) (p : PicDesc) (b : List Byte) (x y : Nat) : W32 × W32 × W32 :=
  let at_ := fun pl => rgbSample c b (pl * p.ppitch + y * p.rpitch + x)
  let r := at_ 0
  let g := at_ 1
  let bl := at_ 2
  let l := fma (vidKr c) r (fma (vidKg c) g (fmul (vidKb c) bl))
  (l, fmul (fsub bl l) (vidCbs c), fmul (fsub r l) (vidCrs c))

/-- A value scaled, offset, rounded to the nearest even integer and clamped to the depth (R353). -/
def quantise (c : VidCtx) (v : W32) (scale off : Nat) : Nat :=
  match ((val32 v).mul (ofNatV scale)).add (ofNatV off) with
  | .fin false m e => min (2 ^ c.depth - 1) (roundUnits 0 0 0 m e 0)
  | _ => 0

/-- The luma and chroma samples of an RGB input, Y then Cb then Cr (R353). -/
def rgbInput (c : VidCtx) (p : PicDesc) (b : List Byte) : List Nat :=
  let n := 2 ^ (c.depth - 8)
  let (ys, yo, cs, co) := if c.range = 0 then (219 * n, 16 * n, 224 * n, 128 * n)
    else (2 ^ c.depth - 1, 0, 2 ^ c.depth - 1, 2 ^ (c.depth - 1))
  let quarter := round32 (ratio false 1 4 0)
  let chroma := fun (f : W32 × W32 × W32 → W32) => (List.range (c.width / 2 * (c.height / 2))).map fun i =>
    let x := 2 * (i % (c.width / 2))
    let y := 2 * (i / (c.width / 2))
    let v := fun dx dy => f (pixelYcc c p b (x + dx) (y + dy))
    quantise c (fmul (fadd (fadd (v 0 0) (v 1 0)) (fadd (v 0 1) (v 1 1))) quarter) cs co
  ((List.range (c.width * c.height)).map fun i => quantise c (pixelYcc c p b (i % c.width) (i / c.width)).1 ys yo) ++
  chroma (·.2.1) ++ chroma (·.2.2)

/-- The element of each sample of a YUV picture, in the order Y, Cb, Cr (R353). -/
def yuvElems (c : VidCtx) (p : PicDesc) : List Nat :=
  let plane := fun base pitch w h => (List.range (w * h)).map fun i => base + i / w * pitch + i % w
  plane 0 p.rpitch c.width c.height ++ plane p.ppitch (p.rpitch / 2) (c.width / 2) (c.height / 2) ++
  plane (p.ppitch + p.ppitch / 4) (p.rpitch / 2) (c.width / 2) (c.height / 2)

/-- The samples that an encode engine codes (R353). -/
def encodeInput (c : VidCtx) (p : PicDesc) (b : List Byte) : List Nat :=
  if c.input = 1 then rgbInput c p b
  else (yuvElems c p).map fun i => leAt b (i * yuvBytes c) (yuvBytes c) % 2 ^ c.depth

/-! ## Completing a picture (R355, R360 to R367) -/

/-- Bytes written to DST: loft or host memory. -/
def putDst (a : W64) (cells : List (Nat × Byte)) (s : State) : State :=
  if inLoft a then
    let cs := cells.map fun c => (loftOf a + c.1, c.2)
    loftPut cs (fun w => (List.range 64).all fun i => cs.any fun c => c.1 = w + i) (hubPkts 2 1 (loftOf a) cells.length s)
  else hostSend ((runsFrom (hostOf a) (dense cells)).flatMap fun r => hostWrites r.1 r.2) s
where
  /-- The bytes from offset 0 up, absent ones none. -/
  dense (cells : List (Nat × Byte)) : List (Option Byte) :=
    (List.range ((cells.map (·.1 + 1)).foldl max 0)).map fun i => (cells.find? fun c => c.1 = i).map (·.2)

/-- The bytes of SRC: from the loft, or as the host returned them. -/
def srcBytes (s : State) (c : VidCtx) (p : PicDesc) (src : HostRead) : List Byte :=
  if inLoft p.src then loftRead s (loftOf p.src) (srcSpan c p) else padTo (srcSpan c p) (src.getD [])

/-- An engine has read its picture and the stream's reference area (R290, R351). -/
def vidReads (c : VidCtx) (p : PicDesc) (ecc : EccReport) (s : State) : State :=
  let s := hubRead ecc 0 c.refbase (refNeed c) s
  if inLoft p.src then hubRead ecc 0 (loftOf p.src) (srcSpan c p) s else s

/-- The stream's picture stores, as the loft holds them (R351). -/
def refBytes (s : State) (c : VidCtx) : List Byte := loftRead s c.refbase (refNeed c)

/-- The position of a picture in its stream, on which its bits depend beside its content (R43, R44, R359): its number, key, the last key
picture, the long-term slots and requests, and rate control's F and D. -/
def codecPos (x : Stream) (r : RunPic) : List Nat :=
  [r.picno, b2n r.key, x.keyAt, (r.ltrMark.map (· + 1)).getD 0, (r.ltrUse.map (· + 1)).getD 0, x.full, x.debt] ++
  x.ltrSlots.map fun j => (j.map (· + 1)).getD 0

/-- The picture takes a store of the reference area (R351). -/
def storeRef (c : VidCtx) (store : Nat) (byte : Nat → Byte) (s : State) : State :=
  hubWrite (c.refbase + store % refCount c * refUnit c) ((List.range (refUnit c)).map byte) s

/-- A quantity per picture from a rate in kbit/s: A, and PEAK's (R360). -/
def perPicture (c : VidCtx) (rate : Nat) : Nat := rate * 1000 * c.fden / c.fnum

/-- Rate control's budget of a picture: what is paid of D, H and T (R360). -/
structure Budget where
  pay : Nat
  h : Nat
  t : Nat

/-- The budget of a picture (R360). -/
def budgetOf (c : VidCtx) (p : PicDesc) (key : Bool) (f d : Nat) : Budget :=
  let a := perPicture c c.rate
  let base := if key then a * c.wkey / 16 else a
  let pay := min d (base / 2)
  let h := if c.rcmode = 0 then
      min (if c.maxpic = 0 then Config.picLimit c.codec c.level else 8 * 1024 * c.maxpic) (8 * p.dstlen)
    else min (c.cpb * 1000 - f) (8 * p.dstlen)
  { pay := pay, h := h, t := if c.rcmode = 0 then h else min (base - pay) h }

/-- A stream's F and D after a picture of `b` bits (R360). -/
def rateAfter (c : VidCtx) (g : Budget) (b : Nat) (x : Stream) : Stream :=
  let ad := perPicture c (if c.rcmode = 2 then c.peak else c.rate)
  { x with debt := x.debt - g.pay + (b - g.t), full := if c.rcmode = 0 then x.full else x.full + b - ad }

/-- An event of a picture: raised by the engine, counted in its stream. -/
def vidEvent (e code k : Nat) (r : RunPic) (s : State) : State := raise code 6 e 0x7FF (detV k r.picno r.pic.tag) s

/-- ORDER of an encoded picture: PicOrderCntVal, or the display order count. DEDUCED: the encoder does not reorder (R349), so each picture
is shown, and is one after the last; an IDR picture starts PicOrderCntVal again, and an AV1 stream counts its pictures (log entry 53). -/
def encodeOrder (c : VidCtx) (x : Stream) (r : RunPic) : Nat := if c.codec = 0 then (r.picno + 2 ^ 32 - x.keyAt) % 2 ^ 32 else r.picno

/-- An encoded picture completes (R355, R360, R361). -/
def encodeEnds (e : Nat) (r : RunPic) (src : EntryData) (s : State) : State :=
  let x := streamAt s r.stream
  let c := x.ctx
  let s := vidReads c r.pic src.ecc s
  let samples := encodeInput c r.pic (srcBytes s c r.pic src.host)
  let refs := refBytes s c
  let pos := codecPos x r
  let g := budgetOf c r.pic r.key x.full x.debt
  let coded := (Config.codedBytes pos c.raw refs samples).take (g.h / 8)
  let hit := Config.budgetHit pos c.raw refs samples
  let s := storeRef c (Config.refStore pos c.raw refs samples) (Config.refByte pos c.raw refs samples) s
  let s := putDst r.pic.dst (coded.zipIdx.map fun q => (q.2, q.1)) s
  let s := modStream r.stream (fun x => { rateAfter c g (8 * coded.length) x with
    budget := if hit then sat 16 (x.budget + 1) else x.budget }) s
  let s := if hit then vidEvent e 0x0802 r.stream r s else s
  postPicture r.pic r.stream r.picno (encodeOrder c x r) coded.length
    (b2n r.key + 4 * b2n hit + 16 + 64 * b2n r.ltrMark.isSome) 0 s

/-- The cells of a decoded picture at DST (R353, R365). -/
def decodedCells (c : VidCtx) (p : PicDesc) (sample : Nat → Nat) : List (Nat × Byte) :=
  (yuvElems c p).zipIdx.flatMap fun q =>
    (leBytes (yuvBytes c) (sample q.2 % 2 ^ c.depth)).zipIdx.map fun b => (q.1 * yuvBytes c + b.2, b.1)

/-- A decoded unit completes (R365 to R367). A show_existing_frame is of AV1 alone; it writes nothing and names the picture shown. -/
def decodeEnds (e : Nat) (r : RunPic) (src : EntryData) (s : State) : State :=
  let x := streamAt s r.stream
  let c := x.ctx
  let s := vidReads c r.pic src.ecc s
  let unit := (srcBytes s c r.pic src.host).map (·.toNat)
  let refs := refBytes s c
  let pos := codecPos x r
  let key := Config.unitKey pos c.raw refs unit
  let kind := let k := Config.unitKind pos c.raw refs unit % 5; if k = 4 && c.codec = 0 then 0 else k
  let bad := kind = 3 || (x.st == .error && !(key && kind ≠ 3))
  let concealed := !bad && (kind = 1 || kind = 2)
  let errored := bad || kind = 2
  let repeats := kind = 4 && !bad
  let shows := !bad && (repeats || Config.unitShown pos c.raw refs unit)
  let s := if bad || repeats then s
    else
      storeRef c (Config.refStore pos c.raw refs unit) (Config.refByte pos c.raw refs unit)
        (putDst r.pic.dst (decodedCells c r.pic (Config.decodedSample pos c.raw refs unit)) s)
  let refresh := Config.unitRefresh pos c.raw refs unit
  let s := modStream r.stream (fun x =>
    { x with
      st := if x.st == .closing then .closing else if bad then .error else .opened
      tags := if bad || repeats then x.tags
        else (List.range 8).map fun i => if refresh.testBit i then r.pic.tag else x.tags.getD i 0
      concealed := if concealed then sat 16 (x.concealed + 1) else x.concealed
      streamerr := if errored then sat 16 (x.streamerr + 1) else x.streamerr
      keys := if key && !bad then sat 16 (x.keys + 1) else x.keys }) s
  let s := if kind = 1 && !bad then vidEvent e 0x0801 r.stream r s else s
  let s := if errored then vidEvent e 0x0803 r.stream r s else s
  postPicture r.pic r.stream r.picno (Config.unitOrder pos c.raw refs unit % 2 ^ 32) r.pic.srclen
    (b2n (key && !bad) + 2 * b2n concealed + 8 * b2n errored + 16 * b2n shows)
    (if repeats then x.tags.getD (Config.unitSlot pos c.raw refs unit % 8) 0 else 0) s

/-- A stream whose CLOSE waited for its running picture closes (R369). -/
def closeEnds (k : Nat) (s : State) : State :=
  let x := streamAt s k
  if x.st != .closing then s
  else
    let s := modStream k (fun x => { x with st := .closed, closer := none }) s
    match x.closer with
    | some iss => vidDone iss 0 s
    | none => s

/-- The running picture of engine `e` completes; while video is held its writes wait (R228, R355, R368). -/
def pictureComplete (e : Nat) (src : EntryData) (s : State) : State :=
  match (vidEng s e).run with
  | none => s
  | some r =>
    if videoHeld s then s
    else
      let s := if (streamAt s r.stream).ctx.role = 0 then encodeEnds e r src s else decodeEnds e r src s
      let s := { s with vid.engines := tmod {} s.vid.engines e fun g =>
        { g with run := none, pictures := (g.pictures + 1) % 2 ^ 32 } }
      closeEnds r.stream (makeEligible r.stream s)

/-- PICTURE_COMPLETE (R355). -/
def execPictureComplete (e : Nat) (src : EntryData) (s : State) : Host.Outcome State Fault Refusal := .next (pictureComplete e src s)

end Sys2Proof.Machine
end

