-- ==== Sys2Proof/Machine/Satchel.lean ====
section
/-! DEFINITION. The bytes of a satchel and of a snapshot's hub section, and writing them back into place (R442 to R445, R449,
R466, R473). What the layout leaves to the device is in log entries 25 and 27. -/

namespace Sys2Proof.Machine

/-! ## The resident stalls (R211, R442) -/

/-- The logical stalls of the resident images, ascending. -/
def satchelStalls (s : State) : List Nat := (List.range 1200).filter (residentStalls s).contains

/-- STALLSET as a bitmap of 150 bytes (R211). -/
def stallBitmap (ns : List Nat) : List Byte := leBytes 150 (maskOf ns)

/-- SYLDIGEST: the DIGESTs of the resident images in ascending order, digested (R442). -/
def satchelSylDigest (s : State) : List Byte :=
  sha256 ((((residents s).map fun k => imgDigest (imgAt s k)).mergeSort fun a b => leNat a.reverse ≤ leNat b.reverse).flatten)

/-- The digest of the running firmware (R428). -/
def runningDigest (s : State) : List Byte := padTo 32 ((s.sec.fw.map (·.digest)).getD [])

/-! ## Register words of streams -/

/-- Codes of VID_STR_s.STATE. -/
def streamCode : StreamState → Nat
  | .closed => 0 | .opened => 1 | .error => 2 | .closing => 3

/-- VID_STR_s. -/
def vidStrWord (x : Stream) : W64 :=
  pack [(32, x.picno), (16, x.queue.length), (14, x.ctx.cls), (11, b2n x.keypend), (10, x.ctx.codec), (9, x.ctx.role),
        (0, streamCode x.st)]

/-- VID_CNT_s. -/
def vidCntWord (x : Stream) : W64 := pack [(48, x.concealed), (32, x.budget), (16, x.streamerr), (0, x.keys)]

/-! ## The hub section (R442) -/

/-- Codes of ROLL_CIRC_c.STATE. -/
def circCode : CircState → Nat
  | .absent => 0 | .stopped => 1 | .running => 2 | .draining => 3

/-- A circuit record of 64 bytes. -/
def circBytes (s : State) (c : Nat) : List Byte :=
  let x := circAt s c
  leBytes 4 x.next ++ leBytes 4 x.rounds ++ leBytes 1 (circCode x.st) ++ leBytes 1 (b2n x.driven) ++
  leBytes 1 x.flight.length ++ leBytes 1 x.pending.length ++ zeros 4 ++ leBytes 8 s.roll.readyCount ++ zeros 40

/-- A pending worklist in 144 bytes: the header of R253 and 64 indices. -/
def worklistBytes (c : Nat) (w : Worklist) : List Byte :=
  padTo 144 (leBytes 1 c ++ leBytes 1 w.entries.length ++ zeros 2 ++ leBytes 4 w.tag ++ zeros 8 ++ w.entries.flatMap (leBytes 2))

/-- A work counter in 8 bytes. -/
def counterBytes (x : Counter) : List Byte := leBytes 4 x.inst ++ leBytes 4 x.value

/-- The long-term slot map in 16 bytes, and with it the requests that wait, the last key picture and the TAGs in the reference slots (log
entry 25). -/
def slotMapBytes (x : Stream) : List Byte :=
  (x.ltrSlots.flatMap fun j => leBytes 4 (j.getD 0)) ++
  leBytes 1 (maskOf ((List.range 4).filter fun j => (x.ltrSlots.getD j none).isSome)) ++
  leBytes 1 ((x.ltrMark.map (· + 1)).getD 0) ++ leBytes 1 ((x.ltrUse.map (· + 1)).getD 0) ++ zeros 1 ++ leBytes 4 x.keyAt ++
  (List.range 8).flatMap fun i => leBytes 4 (x.tags.getD i 0)

/-- A stream in 2,048 bytes. -/
def streamBytes (x : Stream) : List Byte :=
  padTo 2048 (padTo 256 (padTo 128 x.ctx.raw ++ wordBytes (vidStrWord x) ++ wordBytes (vidCntWord x) ++ leBytes 8 x.full ++
    leBytes 8 x.debt ++ slotMapBytes x) ++ x.queue.flatMap fun p => padTo 64 p.raw)

/-- The hub section: 0x10_0000 bytes (R442). -/
def hubSection (s : State) : List Byte :=
  ((List.range 4096).flatMap fun i => (entryWords (entryAt s i)).flatMap wordBytes) ++
  ((List.range 4096).flatMap fun i => leBytes 8 (entryAt s i).order) ++
  ((List.range 32).flatMap (circBytes s)) ++
  ((List.range 32).flatMap fun c => padTo (16 * 144) ((circAt s c).pending.flatMap (worklistBytes c))) ++
  ((List.range 256).flatMap fun i => counterBytes (tget {} s.hubCtr i)) ++
  ((List.range 2560).flatMap fun i => counterBytes (tget {} s.yardCtr i)) ++
  padTo 0x1000 (wordBytes s.rng.seed ++ (List.range 32).flatMap fun c => leBytes 8 (tget 0 s.rng.base c)) ++
  ((List.range 64).flatMap fun k => streamBytes (streamAt s k)) ++ zeros 0x9F000

/-- A table of the entries that differ from the default. -/
def sparse {α : Type} [DecidableEq α] (d : α) (n : Nat) (f : Nat → α) : Table α :=
  (List.range n).filterMap fun i => if f i = d then none else some (i, f i)

/-- Bytes as a register word. -/
def wordAt (b : List Byte) (o : Nat) : W64 := BitVec.ofNat 64 (leAt b o 8)

/-- Codes of STATE in E0 (R249). -/
def sampleState : Nat → SampleState
  | 1 => .ready | 2 => .inflight | 3 => .done | 4 => .paused | _ => .free

/-- Roll entry `i` of a hub section. -/
def entryFrom (b : List Byte) (i : Nat) : RollEntry :=
  let w := fun k => wordAt b (32 * i + 8 * k)
  { entryOfWords (w 0) (w 1) (w 2) (w 3) with
    st := sampleState (fld (w 0) 2 0)
    ppend := fld (w 0) 3 3 = 1
    order := leAt b (0x20000 + 8 * i) 8 }

/-- The circuit state of a code. -/
def circState : Nat → CircState
  | 1 => .stopped | 2 => .running | 3 => .draining | _ => .absent

/-- The pending worklists of circuit `c` in a hub section. -/
def pendingFrom (b : List Byte) (c : Nat) : List Worklist :=
  (List.range (min 16 (byteAt b (0x28000 + 64 * c + 11)))).map fun i =>
    let o := 0x28800 + 144 * (16 * c + i)
    { tag := leAt b (o + 4) 4, via := .reg,
      entries := (List.range (byteAt b (o + 1))).map fun j => leAt b (o + 16 + 2 * j) 2 }

/-- The numbers of the rounds in flight of circuit `c` in a hub section, oldest first. -/
def flightFrom (b : List Byte) (c : Nat) : List Nat :=
  let o := 0x28000 + 64 * c
  let k := byteAt b (o + 10)
  (List.range k).map fun i => (leAt b o 4 + 2 ^ 32 - k + i) % 2 ^ 32

/-- A counter of a hub section. -/
def counterFrom (b : List Byte) (o : Nat) : Counter := { inst := leAt b o 4, value := leAt b (o + 4) 4 }

/-- A stream of a hub section (R442; log entry 25). -/
def streamFrom (b : List Byte) (k : Nat) : Stream :=
  let x := slice b (0x41000 + 2048 * k) 2048
  let w := wordAt x 128
  let n := wordAt x 136
  let st : StreamState := match fld w 2 0 with | 1 => .opened | 2 => .error | 3 => .closing | _ => .closed
  let some_ := fun v => if v = 0 then none else some (v - 1)
  if st = .closed then {}
  else
    { st := st, ctx := vidRecord (slice x 0 128), picno := fld w 63 32, keypend := fld w 11 11 = 1, eligible := k,
      queue := (List.range (fld w 20 16)).map fun i => picDesc .reg (slice x (256 + 64 * i) 64),
      concealed := fld n 63 48, budget := fld n 47 32, streamerr := fld n 31 16, keys := fld n 15 0,
      full := leAt x 144 8, debt := leAt x 152 8,
      ltrSlots := (List.range 4).map fun j => if (byteAt x 176).testBit j then some (leAt x (160 + 4 * j) 4) else none,
      ltrMark := some_ (byteAt x 177), ltrUse := some_ (byteAt x 178), keyAt := leAt x 180 4,
      tags := (List.range 8).map fun i => leAt x (184 + 4 * i) 4 }

/-! ## Stall blocks (R98, R146, R443) -/

/-- A row ledger entry in 32 bytes (R146). -/
def ledgerBytes (l : Ledger) : List Byte :=
  leBytes 3 l.n ++ leBytes 1 l.st ++ leBytes 4 l.max.toNat ++ leBytes 4 l.sum.toNat ++ leBytes 4 l.sq.toNat ++
  leBytes 4 l.mean.toNat ++ leBytes 4 l.m2.toNat ++ leBytes 3 l.nextCol ++ zeros 1 ++ leBytes 4 l.row

/-- A row ledger entry from its 32 bytes (R146). -/
def ledgerFrom (b : List Byte) (o : Nat) : Ledger :=
  let w := fun k => BitVec.ofNat 32 (leAt b (o + k) 4)
  { n := leAt b o 3, st := byteAt b (o + 3) % 4, max := w 4, sum := w 8, sq := w 12, mean := w 16, m2 := w 20,
    nextCol := leAt b (o + 24) 3, row := leAt b (o + 28) 4 }

/-- The levels inside which an operation keeps what no field of a control record holds: the passes and tiles of a row for ROWSTAT, SOFTMAX and
NORM, the columns of a DRAW, the channels and taps of a pool's tile (log entry 17). -/
def rowLevels (d : Desc) : List Nat :=
  if twoPass d then (walkNest d).dropWhile (· ≠ 6)
  else if d.opcode = 0x11 then (walkNest d).dropWhile fun l => (level d l).role ≠ 2
  else if d.opcode = 0x20 then 6 :: (walkNest d).filter fun l => (level d l).role = 2
  else if isPool d then (walkNest d).dropWhile (· ≠ 7)
  else []

/-- The iteration with those levels at their start. -/
def rowStart (d : Desc) (it : List Nat) : List Nat := (rowLevels d).foldl (fun it l => it.set l 0) it

/-- An operation has begun, but done nothing yet; a FENCE does nothing. -/
def untouched (x : Stall) (o : OpCtx) : Bool :=
  o.d.opcode = 0x7F ||
  o.walking && o.it = firstIt && o.takeWait = (takeLevel o.d).isSome && !o.takeSent && o.readouts.isEmpty && o.out = 0 && o.drawn.isEmpty &&
  (o.d.opcode ≠ 0x33 || x.haloBits = 0) && x.slots.all fun e => e.2.st == .free || e.2.desc ≠ o.desc

/-- The operation that a stopped stall is in: the oldest that has done something (log entry 25). -/
def stoppedOp (x : Stall) : Option OpCtx := (findOp x fun o => !untouched x o).map (·.2)

/-- DESC: the operation's descriptor, else the first that has done nothing yet, 0xFFFF at the end of the program (R443). -/
def ctlDesc (x : Stall) : Nat :=
  match stoppedOp x with
  | some o => o.desc
  | none => ((opsOf x).head?.map (·.desc)).getD ((x.prog.map (·.next)).getD 0xFFFF)

/-- The level whose index says that a walk has ended. -/
def endLevel (d : Desc) : Nat := (takeLevel d).getD ((nest d).headD 0)

/-- LOOP: the iteration of each level (R443). DESIGN CHOICE: a row, or a pool's tile, that is not complete is done again from its start;
the TAKE level stands at its count before a take; at the end of a walk the TAKE level, or the outermost, stands beyond its last; every level
stands at 2³² − 1 where the descriptor has not started, and at 0 at the end of the program (log entry 25). -/
def ctlLoop (x : Stall) : List Nat :=
  match stoppedOp x with
  | some o =>
    let l := endLevel o.d
    if o.takeWait then o.it.set l (levelCount o l)
    else if !o.walking then firstIt.set l (levelCount o l + (if (takeLevel o.d).isSome then 1 else 0))
    else if twoPass o.d && o.it.getD 6 0 = 1 then o.it
    else rowStart o.d o.it
  | none => List.replicate 6 (if ctlDesc x = 0xFFFF then 0 else 2 ^ 32 - 1)

/-- STOPKIND: as the stall stopped under pre-emption, else as it stands at the moment of the read: 2 at the end of the program, 1 where
the next operation has not started, 0 in an operation (R443, R501; log entry 25). -/
def ctlKind (x : Stall) : Nat :=
  if x.preempted then x.stopKind
  else if ctlDesc x = 0xFFFF then 2
  else if (stoppedOp x).isNone then 1
  else 0

/-- ROUND: that of the running program; without one, the last that the stall has ended (R443; log entry 25). -/
def ctlRound (s : State) (x : Stall) : Nat :=
  match x.prog with
  | some g => g.round
  | none =>
    let next := x.ring.headD ((x.loaded.map fun l => (circAt s l.circuit).next).getD 0)
    (next + 2 ^ 32 - 1) % 2 ^ 32

/-- SLOTS' code of a slot (R443). DESIGN CHOICE: a complete slot that waits for its epilogue or for a credit is saved as LIVE (log entry
25). -/
def slotCode : SlotSt → Nat
  | .free => 0 | .live | .readout | .sending => 1 | .poisoned => 4

/-- STILE of a slot: the number of its output tile (R443). -/
def slotTile (x : Stall) (a : AccSlot) : Nat :=
  match findOp x fun o => o.desc = a.desc with
  | some (_, o) => tileNumber o a.it
  | none => 0

/-- A landing holds a tile, in its entry. -/
def landFull (o : OpCtx) (l : Landing) : Bool := (l.st == .full || l.st == .staged) && !heldRaw o.d l.opnd

/-- LAND of an operand: the bitmap of full entries and the index of the oldest (R443). An operation that goes on from an earlier iteration
lands its tiles anew. -/
def landBytes (x : Stall) (no : Nat) : List Byte :=
  let ls := ((stoppedOp x).map fun o =>
    if rowStart o.d o.it = o.it then (landsOf o no).filter (landFull o) else []).getD []
  leBytes 32 (maskOf (ls.map (·.entry))) ++ leBytes 4 ((ls.head?.map (·.entry)).getD 0)

/-- WIN of a window: the bitmap of full entries, and in byte 32 the gate credits that the far end has granted for the window and that have not
gone back to it with a tile (R337, R443; log entry 25). -/
def winRecBytes (s : State) (x : Stall) (n w : Nat) : List Byte :=
  padTo 64 (leBytes 32 (maskOf ((tget [] x.wins w).map (·.entry))) ++ leBytes 1 (sat 8 (tget 0 s.gate.sendCred (64 * n + w))))

/-- The routes that logical stall `n` sends on, with their indices. -/
def routesFrom (s : State) (x : Stall) (n : Nat) : List (Nat × RouteRec) :=
  match x.loaded with
  | some l => (((routesOf (imgAt s l.slot)).zipIdx).filter fun p => p.1.src = n).map fun p => (p.2, p.1)
  | none => []

/-- Credits that a stall holds for destination `i` of a route. -/
def heldCredits (s : State) (x : Stall) (n r : Nat) (q : RouteRec) (i : Nat) : Nat :=
  if q.group then tget 0 s.gate.sendCred (64 * n + q.window) else q.credits - inUse x (routeKey r) i

/-- A record of ROUTES (R443). -/
def routeBytes (s : State) (x : Stall) (n : Nat) (p : Nat × RouteRec) : List Byte :=
  let k := p.2.dsts.length
  padTo 16 (leBytes 2 p.1 ++ leBytes 1 k ++ (List.range (min 8 k)).flatMap fun i => leBytes 1 (heldCredits s x n p.1 p.2 i))

/-- The operations that the record leaves to be started anew. -/
def toRestart (x : Stall) : List OpCtx := (opsOf x).filter (untouched x)

/-- TOKENS and INST: those of operations that have done nothing yet stand as before they started (log entry 25). -/
def ctlTokens (x : Stall) : W64 := (toRestart x).foldl (fun t o => t ||| o.d.wait) x.tokens
def ctlInst (x : Stall) (d : Nat) : Nat :=
  let v := tget 0 x.inst d
  if (toRestart x).any fun o => o.desc = d then (v + 2 ^ 32 - 1) % 2 ^ 32 else v

/-- The control record of a stall: 32 KiB (R443). -/
def controlRecord (s : State) (n : Nat) (x : Stall) : List Byte :=
  wordBytes (ctlTokens x) ++ leBytes 2 (ctlDesc x) ++ leBytes 1 (ctlKind x) ++ zeros 1 ++ leBytes 4 (ctlRound s x) ++
  ((List.range 6).flatMap fun l => leBytes 4 ((ctlLoop x).getD l 0)) ++
  ((List.range 16).flatMap fun i => leBytes 1 (slotCode (slotOf x i).st)) ++ zeros 8 ++
  ((List.range 16).flatMap fun i => leBytes 4 (if slotCode (slotOf x i).st = 1 then slotTile x (slotOf x i) else 0)) ++
  leBytes 1 x.haloBits.toNat ++ zeros 7 ++ leBytes 4 x.takeV ++ zeros 4 ++
  landBytes x 0 ++ landBytes x 1 ++ zeros 36 ++ landBytes x 3 ++ zeros (4096 - 288) ++
  ((List.range 4096).flatMap fun d => leBytes 4 (ctlInst x d)) ++
  ((List.range 64).flatMap (winRecBytes s x n)) ++
  padTo 8192 ((routesFrom s x n).flatMap (routeBytes s x n))

/-- A stall block: scratch, accumulator memory, row ledger and control record (R443). -/
def stallBlock (s : State) (n : Nat) : List Byte :=
  let x := ((physOf s n).map (stallP s)).getD {}
  memRead x.scratch 0 0x200000 ++ ((List.range 16).flatMap fun i => chainBytes (slotOf x i).vals) ++
  ((List.range 1024).flatMap fun i => ledgerBytes (tget {} x.ledger i)) ++ controlRecord s n x

/-! ## Writing a stall block into place (R449) -/

/-- Round `a` comes after round `b`, modulo 2³². -/
def roundAfter (a b : Nat) : Bool :=
  let d := (a + 2 ^ 32 - b) % 2 ^ 32
  0 < d && d < 2 ^ 31

/-- The iteration whose output tile has a number (R181). -/
def tileIt (o : OpCtx) (t : Nat) : List Nat :=
  (((nest o.d).filter fun l => (level o.d l).role ≠ 3).reverse.foldl (fun (a : Nat × List Nat) l =>
    let n := max 1 (if (level o.d l).role ≤ 3 then levelCount o l else (level o.d l).bound)
    (a.1 / n, a.2.set l (a.1 % n))) (t, List.replicate 6 0)).2

/-- The landings of an operand from LAND: full entries in ring order from the oldest, for the tiles from the present one on. -/
def landsFrom (o : OpCtx) (c : List Byte) (no at_ : Nat) : List Landing :=
  let cap := max 1 (opndWalk o.d no).opr.id
  let oldest := leAt c (at_ + 32) 4
  let full := ((List.range cap).map fun i => (oldest + i) % cap).filter fun i => (byteAt c (at_ + i / 8)).testBit (i % 8)
  let keys := (List.range full.length).foldl (fun (a : List (List Nat) × Option (List Nat)) _ =>
    match a.2 with
    | some k => (a.1 ++ [k], nextKey o no k)
    | none => a) ([], some (keyOf o.d no o.it))
  (keys.1.zip full).map fun p => { opnd := no, it := p.1, entry := p.2, st := .full }

/-- The fetches of an operand go on after the landings that it holds. -/
def fetchAfter (o : OpCtx) (no : Nat) : Option (List Nat) :=
  match (landsOf o no).getLast? with
  | some l => nextKey o no l.it
  | none => some (keyOf o.d no o.it)

/-- The operation that a control record stopped in: at its iteration, before a take, or with its walk ended. A row in its second pass is read
through once more before the operation goes on (log entry 17). DESIGN CHOICE: its event counts, and the NaN marks of its slots, start again at
0, since the record holds neither (R71, R443; log entry 25). -/
def opFrom (x : Stall) (c : List Byte) (size : Nat) : OpCtx :=
  let desc := leAt c 8 2
  let d := descAt x desc
  let loops := ((List.range 6).map fun l => leAt c (16 + 4 * l) 4) ++ [0, 0]
  let o : OpCtx := { desc := desc, inst := tget 0 x.inst desc, d := d, dynBound := size, it := loops }
  let l := endLevel d
  let c' := levelCount o l
  let takes := (takeLevel d).isSome
  if takes && loops.getD l 0 = c' then { o with it := firstIt, takeWait := true }
  else if c' ≤ loops.getD l 0 then { o with it := firstIt, walking := false }
  else if d.opcode = 0x33 then o
  else if rowStart d loops ≠ loops then beginFetch { o with it := rowStart d loops, back := some (loops.set 6 1) }
  else
    let o := { o with lands := landsFrom o c 0 144 ++ landsFrom o c 1 180 ++ landsFrom o c 3 252 }
    { o with fetchA := fetchAfter o 0, fetchB := fetchAfter o 1, fetchX := fetchAfter o 3 }

/-- The iterations of an operand's tiles from one on, by fuel. -/
def keyRun (o : OpCtx) (no : Nat) : Nat → List Nat → List (List Nat)
  | 0, _ => []
  | f + 1, key => key :: match nextKey o no key with | some k => keyRun o no f k | none => []

/-- The tiles of receive window `w` that an operation frees, up to the iteration of `stop` if it is given. -/
def tilesFreed (o : OpCtx) (w fuel : Nat) (stop : Option (List Nat)) : Nat :=
  (([0, 1, 3].filter fun no => let r := (opndWalk o.d no).opr; r.space = 3 && r.id = w).map fun no =>
    let run := keyRun o no fuel (keyOf o.d no firstIt)
    let run := match stop with | some it => run.takeWhile (· ≠ keyOf o.d no it) | none => run
    run.countP fun k => !(twoPass o.d && k.getD 6 0 = 0)).sum

/-- How many tiles of a receive window the round has used before the position of a control record (log entry 25). -/
def usedBefore (s : State) (n p w desc : Nat) (o : Option OpCtx) : Nat :=
  let x := stallP s p
  let l := x.loaded.getD { slot := 0, circuit := 0, dtbase := 0, dtcount := 0, entry := 0 }
  let e := { envOf s n p x {} with o := { dynBound := (o.map (·.dynBound)).getD 1 } }
  let fuel := 2 * (winPlan s e w).length + 1
  let before := ((progIdx x l.dtcount l.entry).takeWhile (· ≠ desc)).map fun i =>
    tilesFreed { desc := i, d := descAt x i, dynBound := e.o.dynBound, it := firstIt } w fuel none
  before.sum + match o with
    | some o => tilesFreed o w fuel (if o.walking then some o.it else none)
    | none => 0

/-- The full entries of a share of a window from its bitmap, in ring order after the first gap (log entry 25). -/
def winFrom (c : List Byte) (at_ base size : Nat) : List Nat :=
  let full := fun i => (byteAt c (at_ + (base + i) / 8)).testBit ((base + i) % 8)
  let start := ((List.range size).find? fun i => full i && !full ((i + size - 1) % max 1 size)).getD 0
  (((List.range size).map fun i => (start + i) % max 1 size).filter full).map (base + ·)

/-- Entries get the numbers of their tiles by the order of use: at each place, the oldest entry left of a sender that may have sent its
tile. -/
def giveTiles : List (Nat × List Nat) → List (Nat × List WinEntry) → List WinEntry
  | [], _ => []
  | (t, srcs) :: rest, gs =>
    match gs.find? fun g => srcs.contains g.1 && !g.2.isEmpty with
    | some g => (g.2.head?.map fun e => { e with tile := t }).toList ++ giveTiles rest (gs.map fun h => if h = g then (h.1, h.2.drop 1) else h)
    | none => giveTiles rest gs

/-- A receive window restored, with its place in the order of use: the entries of a route's share are its sender's next tiles; those of a gate
window stand in ring order. -/
def winRestored (s : State) (n p w : Nat) (c : List Byte) (desc : Nat) (o : Option OpCtx) (x : Stall) : Stall :=
  let b := imgAt s ((x.loaded.map (·.slot)).getD 0)
  let slot := (x.loaded.map (·.slot)).getD 0
  let cap := ((windowOf b n w).map (·.cap)).getD 0
  let at_ := 20480 + 64 * w
  let rs := routesInto s slot n w
  let put := fun (es : List WinEntry) (x : Stall) => if es.isEmpty then x else { x with wins := tset x.wins w es }
  if rs.isEmpty then
    put ((winFrom c at_ 0 cap).map fun i => { entry := i, tile := 0, grp := ((gateWins s b).find? fun g => g.n = n && g.w = w).map fun g =>
      (g.grp, g.giveTo) }) x
  else
    let e := { envOf s n p x {} with o := { dynBound := (o.map (·.dynBound)).getD 1 } }
    let plan := winPlan s e w
    let pos := usedBefore s n p w desc o % max 1 plan.length
    let groups := rs.map fun r =>
      let sh := winShare s e w (routeKey r.2) cap
      (r.1.src, sh.1, (winFrom c at_ sh.1 sh.2).map fun i =>
        { entry := i, tile := 0, src := r.1.src, key := routeKey r.2, dst := r.1.dsts.idxOf n : WinEntry })
    let x := put (giveTiles (plan.drop pos ++ plan.take pos) (groups.map fun g => (g.1, g.2.2))) x
    { groups.foldl (fun (x : Stall) g => match g.2.2.getLast? with
        | some f => { x with winCount := tset x.winCount (countKey w f.key) (f.entry + 1 - g.2.1) }
        | none => x) x with
      winPos := if pos = 0 then x.winPos else tset x.winPos w pos }

/-- The credits in use that ROUTES leaves. -/
def usedRestored (s : State) (x : Stall) (n : Nat) (c : List Byte) : Table (List Nat) :=
  (routesFrom s x n).zipIdx.foldl (fun t p =>
    if p.1.2.group then t
    else tset t (routeKey p.1.1)
      ((List.range p.1.2.dsts.length).map fun i => p.1.2.credits - byteAt c (24576 + 16 * p.2 + 3 + i))) []

/-- The four bits of each side of a HALO after a restore: a side that is not done sends READY again (R199). -/
def haloRestored (v : BitVec 8) : BitVec 8 :=
  let side := fun i => if v.getLsbD (4 * i + 2) && v.getLsbD (4 * i + 3) then 0#8 else BitVec.ofNat 8 (1 <<< (4 * i))
  v &&& ~~~(side 0 ||| side 1)

/-- One iteration comes before another in the loop order of an operation. -/
def itBefore (d : Desc) (a b : List Nat) : Bool :=
  match (walkNest d).find? fun l => a.getD l 0 ≠ b.getD l 0 with
  | some l => a.getD l 0 < b.getD l 0
  | none => false

/-- A slot of a control record: one whose tile the loop has left behind waits for its readout, or to be sent. -/
def slotRestored (o : OpCtx) (code : Nat) (it : List Nat) (vals : List Acc) : AccSlot :=
  let past := !o.walking || o.takeWait || itBefore o.d (lastKIt o it) o.it
  { st := if code = 4 then .poisoned else if !past then .live else if o.d.kout then .sending else .readout,
    desc := o.desc, it := it, vals := vals }

/-- A stall as its block leaves it (R449). -/
def stallFrom (s : State) (slot n : Nat) (blk : List Byte) (flight : List Nat) (x : Stall) : Stall :=
  let b := imgAt s slot
  let c := slice blk 0x258000 0x8000
  let desc := leAt c 8 2
  let round := leAt c 12 4
  let x := { committedStall b slot n x with
    scratch := memWrite [] 0 (slice blk 0 0x200000)
    ledger := sparse {} 1024 fun i => ledgerFrom blk (0x250000 + 32 * i)
    tokens := wordAt c 0
    inst := sparse 0 4096 fun d => leAt c (4096 + 4 * d) 4
    ring := flight.filter fun r => roundAfter r round
    lastRound := round
    takeV := leAt c 136 4
    haloBits := haloRestored (BitVec.ofNat 8 (byteAt c 128))
    stopKind := byteAt c 10
    preempted := true }
  let started := desc ≠ 0xFFFF && leAt c 16 4 ≠ 2 ^ 32 - 1
  let cr := ((circuitsOf b).find? fun r => r.circuit = stallCircuit b n)
  let size := (cr.map fun r => (memGet x.scratch (r.rring + round % max 1 r.rdepth * roundBytes r + 4)).toNat).getD 0
  let o := opFrom x c size
  let slots := (List.range 16).filterMap fun i =>
    let code := byteAt c (40 + i)
    if code = 0 then none
    else some (i, slotRestored o code (tileIt o (leAt c (64 + 4 * i) 4)) (chainVals (slice blk (0x200000 + 20480 * i) 20480)))
  let order := fun (st : SlotSt) => ((slots.filter fun e => e.2.st == st).mergeSort fun a b => !itBefore o.d b.2.it a.2.it).map (·.1)
  { x with
    slots := slots
    readQ := order .readout
    sendQ := order .sending
    used := usedRestored s x n c
    prog := if desc = 0xFFFF then none
            else if started then some { round := round, next := o.d.next, ops := [o] }
            else some { round := round, next := desc, ops := [] } }

/-- A restored ledger entry: an open one is the row of the LEDGER descriptor in whose range it lies; one that is due to be handed on, or COMPLETE
there, is due again (R149; log entry 40). -/
def ledgerRestored (s : State) (n p i : Nat) (l : Ledger) : Ledger :=
  let x := stallP s p
  let c := (x.loaded.map (·.dtcount)).getD 0
  let holds := fun d => (epiStage (descAt x d) 0xA).any fun r => (i + 1024 - lbaseOf r) % 1024 < lspanOf r
  match (List.range c).find? holds with
  | none => l
  | some d =>
    let e := descEnv s n p d
    let own := (d, tget 0 x.inst d)
    match epiStage e.o.d 0xA with
    | none => l
    | some r =>
      let next := ledgerNext r
      if l.st = 1 && next ≠ 0x7FF && decide (baseCol s e + colsOf e.o.d ≤ l.nextCol) then
        { l with own := own, todo := (((ledgerMate (imgAt s e.slot) n d next).bind fun m => epiStage m.2 0xA).map fun st =>
            (next, ledgerSlot st l.row)).toList }
      else if l.st = 2 then { l with own := own, todo := ledgerConsumers s e l.row }
      else { l with own := own }

/-- What a restored stall's windows and ledger take from its program: the senders and tiles of the window entries, the rows of the ledger. -/
def stallLinked (n p : Nat) (c : List Byte) (s : State) : State :=
  let x := stallP s p
  let o := (opsOf x).head?
  let desc := leAt c 8 2
  let x := (List.range 64).foldl (fun x w => winRestored s n p w c desc o x) x
  setStallP s p { x with ledger := x.ledger.map fun e => (e.1, ledgerRestored s n p e.1 e.2) }

/-- The stall block of each resident stall written into place. -/
def putStalls (blocks : List Byte) (hub : List Byte) (s : State) : State :=
  (satchelStalls s).zipIdx.foldl (fun s p =>
    match physOf s p.1, (residents s).find? fun k => (stallSet (imgAt s k)).contains p.1 with
    | some ph, some k =>
      let blk := slice blocks (0x260000 * p.2) 0x260000
      stallLinked p.1 ph (slice blk 0x258000 0x8000)
        (modStallP ph (stallFrom s k p.1 blk (flightFrom hub (stallCircuit (imgAt s k) p.1))) s)
    | _, _ => s) s

/-- The gate credits held, as the control records give them (R449 step 4). -/
def putGateCredits (blocks : List Byte) (s : State) : State :=
  (satchelStalls s).zipIdx.foldl (fun s p =>
    (List.range 64).foldl (fun s w =>
      let v := byteAt blocks (0x260000 * p.2 + 0x258000 + 20480 + 64 * w + 32)
      if tget 0 s.gate.expect (64 * p.1 + w) = 0 && v = 0 then s
      else { s with gate.sendCred := tset s.gate.sendCred (64 * p.1 + w) v }) s) s

/-! ## Writing a hub section into place (R449, R473) -/

/-- Logical stall `n` of the circuit has ended round `r`. -/
def endedRound (s : State) (r n : Nat) : Bool :=
  match physOf s n with
  | some p =>
    let x := stallP s p
    !(x.ring.contains r) && !(x.prog.any fun g => g.round = r)
  | none => false

/-- A round in flight, its samples read from the round entry in the scratch of a stall of its circuit (R240; log entry 25). -/
def roundFrom (s : State) (slot : Nat) (r : CircRec) (num : Nat) : Round :=
  let ns := circStalls (imgAt s slot) r.circuit
  let m := (((ns.head?.bind (physOf s)).map (stallP s)).getD {}).scratch
  let o := r.rring + num % max 1 r.rdepth * roundBytes r
  { num := num, samples := (List.range (memGet m (o + 4)).toNat).map fun i => leNat (memRead m (o + 64 + 64 * i) 2),
    ended := ns.filter (endedRound s num), work := none }

/-- A circuit of a resident image as a hub section leaves it. -/
def circFrom (s : State) (b : List Byte) (c : Nat) : Circ :=
  let o := 0x28000 + 64 * c
  match circOf s c with
  | none => circAt s c
  | some (slot, r) =>
    { st := circState (byteAt b (o + 8)), next := leAt b o 4, rounds := leAt b (o + 4) 4, driven := byteAt b (o + 9) = 1,
      pending := pendingFrom b c, flight := (flightFrom b c).map (roundFrom s slot r) }

/-- The hub section written into place: roll, circuits, worklists, counters, RNG registers and streams (R442, R449). -/
def putHub (b : List Byte) (s : State) : State :=
  { s with
    roll.entries := sparse {} 4096 (entryFrom b)
    roll.readyCount := leAt b 0x28010 8
    roll.circuits := s.roll.circuits.map fun e => (e.1, circFrom s b e.1)
    hubCtr := sparse {} 256 fun i => counterFrom b (0x3A800 + 8 * i)
    yardCtr := sparse {} 2560 fun i => counterFrom b (0x3B000 + 8 * i)
    rng.seed := wordAt b 0x40000
    rng.base := sparse 0 32 fun c => leAt b (0x40008 + 8 * c) 4
    vid.streams := sparse {} 64 (streamFrom b)
    vid.order := max s.vid.order 64 }

/-! ## The satchel whole (R442, R444, R445) -/

/-- LENGTH of a satchel of `n` stalls, without a loft part. -/
def stallsLength (n : Nat) : Nat := 1052736 + 2490368 * n

/-- The extents of a WHOLE satchel: the enabled JOB entries in ascending BASE (R444). -/
def satchelExtents (s : State) : List (Nat × Nat) := (jobRanges s).mergeSort fun a b => a.1 ≤ b.1

/-- LENGTH of a satchel (R442). -/
def satchelLength (s : State) (whole : Bool) : Nat :=
  stallsLength (satchelStalls s).length +
  if whole then 4096 + ((satchelExtents s).map fun r => r.2 - r.1).sum else 0

/-- The extent table: a count, and BASE and LIMIT in 2 MiB units (R444, R466). -/
def extentTable (es : List (Nat × Nat)) : List Byte :=
  padTo 4096 (leBytes 8 es.length ++ es.flatMap fun r => leBytes 8 (r.1 / 2 ^ 21) ++ leBytes 8 (r.2 / 2 ^ 21))

/-- The extents of an extent table. -/
def extentsFrom (b : List Byte) : List (Nat × Nat) :=
  (List.range (min 16 (leAt b 0 8))).map fun i => (leAt b (8 + 16 * i) 8 * 2 ^ 21, leAt b (16 + 16 * i) 8 * 2 ^ 21)

/-- The header's 512 bytes used, padded to 4,096 (R442). -/
def satchelHeader (s : State) (whole : Bool) (label : W64) : List Byte :=
  padTo 4096 ([0x57, 0x4A, 0x32, 0x43] ++ leBytes 2 1 ++ leBytes 1 (b2n whole) ++ zeros 1 ++
    leBytes 8 (satchelLength s whole) ++ wordBytes label ++ leBytes 4 s.sec.jobid ++ zeros 4 ++ geometry ++
    satchelSylDigest s ++ runningDigest s ++ stallBitmap (satchelStalls s))

/-- The satchel without its trailer's digest. -/
def satchelBody (s : State) (whole : Bool) (label : W64) : List Byte :=
  satchelHeader s whole label ++ hubSection s ++ ((satchelStalls s).flatMap (stallBlock s)) ++
  if whole then extentTable (satchelExtents s) ++ (satchelExtents s).flatMap fun r => loftRead s r.1 (r.2 - r.1) else []

/-- The satchel with its trailer (R445). -/
def satchelBytes (s : State) (whole : Bool) (label : W64) : List Byte :=
  let b := satchelBody s whole label
  b ++ [0x57, 0x4A, 0x32, 0x45] ++ zeros 4 ++ leBytes 8 (satchelLength s whole) ++ zeros 16 ++ sha256 b

/-- Loft extents written from consecutive bytes; whole words clear their poison (R292, R449). -/
def putExtents : List (Nat × Nat) → List Byte → State → State
  | [], _, s => s
  | r :: rest, b, s =>
    let n := r.2 - r.1
    putExtents rest (b.drop n) (hubWrite r.1 (padTo n b) s)

end Sys2Proof.Machine
end

