-- ==== Sys2Proof/Machine/Context.lean ====
section
/-! DEFINITION. The CTX block (R435 to R456): stopping a job, SAVE, RESTORE, RESUME, CLEAR and VACATE, and the end of a ZERO
(R303). -/

namespace Sys2Proof.Machine

/-! ## Commands -/

/-- A CTX command completes with a result, a record status and a body (R382). -/
def ctxOver (iss : Issuer) (result status : Nat) (body : List Byte) (s : State) : State :=
  postCmd iss status body { s with ctx.tag := iss.tag % 256, ctx.result := result }

/-- A CTX command: dropped with OVERRUN while a PREEMPT runs, barred (R496, R516), BUSY while VACATE runs (log entry 28), or
performed. -/
def ctxCmd (iss : Issuer) (f : State → State) (s : State) : State :=
  if s.ctx.preempt.isSome then { s with ctx.overrun := true }
  else
    match unitBar s with
    | some b => ctxOver iss b.1 b.2 [] s
    | none => if s.ctx.vac.isSome then ctxDone iss 1 s else f s

/-! ## PREEMPT (R435, R440) -/

/-- PREEMPT: the job stops, at once or after a LOAD in progress (R435, R440). -/
def ctxPreempt (iss : Issuer) : State → State :=
  ctxCmd iss fun s =>
    if s.ctx.st != .run then ctxDone iss 2 s
    else { s with ctx.preempt := some iss, ctx.st := if s.syl.load.isSome then .run else .stopping }

/-- CTX_PREEMPT (R435). -/
def execCtxPreempt (view : View) (tag : Nat) (s : State) : Host.Outcome State Fault Refusal :=
  .next (regWrite view ctxBase (ctxPreempt (regIssuer tag)) s)

/-! ## A stall stops (R175, R199, R436) -/

/-- A step of an operation would not wait. -/
def Got.goes {α : Type} : Got α → Bool
  | .wait => false
  | _ => true

/-- Operation `k` of a stall has a step that does not wait. -/
def canStep (n p k : Nat) (s : State) : Bool :=
  let e := envAt s n p k
  let tile := e.o.walking && !e.o.takeWait
  (proOne n p k s).goes ||
  match e.o.d.opcode with
  | 1 | 3 => (issueOne n p k false s).goes
  | 2 => (issueOne n p k false s).goes || (poolOne n p k s).goes
  | 0x10 => tile && (elemwiseTile n p k e s).goes
  | 0x11 => tile && (rowstatTile n p k e s).goes
  | 0x12 => tile && (softmaxTile n p k e s).goes
  | 0x13 => tile && (normTile n p k e s).goes
  | 0x20 => tile && (drawTile n p k e s).goes
  | 0x21 => tile && (noiseTile n p k e s).goes
  | 0x30 | 0x31 | 0x32 => tile && (copyTile n p k e s).goes
  | 0x34 => (collectDown n p k e s).goes || (tile && (collectUp n p k e s).goes)
  | 0x40 => tile && (stepTile n p k e s).goes
  | 0x41 => tile && (guideTile n p k e s).goes
  | _ => false

/-- A row, or a pool's tile, is left only where its control record can tell where it stands: at its start, in the second pass, or in a row
that can be read again (log entry 17). -/
def rowPoint (o : OpCtx) : Bool :=
  rowStart o.d o.it = o.it || (o.d.a.space ≠ 3 && if twoPass o.d then o.it.getD 6 0 = 1 else !isPool o.d)

/-- An operation is at a pre-emption point (R175): its walk has ended; it stands before a take that it has not sent; it has done nothing yet;
or an iteration of a PREEMPT level has just been completed, on a TAKE level never the one just taken. A CHAIN's points lie between its key
tiles (R156), a DRAW's and a COLLECT's after every tile (R278, R339), a HALO's where its row transfers are acknowledged (R199). -/
def atPoint (o : OpCtx) : Bool :=
  let ls := (nest o.d).filter fun l => !(level o.d l).take
  let inner := fun ls => (ls : List Nat).all fun l => o.it.getD l 0 = 0
  if o.d.opcode = 0x33 then o.out = 0 && o.lands.all fun l => l.st == .full
  else if o.takeWait then !o.takeSent
  else if !o.walking || o.d.opcode = 0x20 || o.d.opcode = 0x34 then true
  else if inner ls then (takeLevel o.d).isNone && rowStart o.d o.it = o.it
  else
    rowPoint o && !(o.d.opcode = 3 && roleIdx o o.it 3 ≠ 0) &&
    ls.zipIdx.any fun q => (level o.d q.1).preempt && inner (ls.drop (q.2 + 1))

/-- The program's next operation may start. -/
def startsNext (x : Stall) : Bool :=
  x.prog.any fun g => g.next ≠ 0xFFFF && tokensSet x (descAt x g.next).wait

/-- No slot is in READOUT or SENDING and no tile waits for its epilogue (R175, R436). -/
def slotsSettled (x : Stall) : Bool :=
  (x.slots.all fun e => e.2.st != .readout && e.2.st != .sending) && (opsOf x).all fun o => o.readouts.isEmpty

/-- What has left the array waits, for a credit or for a ledger entry (R436), and its slots hold it: every slot in READOUT has been read and its
epilogue waits, and the oldest in SENDING waits. DEDUCED: R436 lets a stall stop at these waits, so that its slots count as waiting and not as
being read or sent (log entry 25). -/
def slotsWait (n p : Nat) (s : State) : Bool :=
  let x := stallP s p
  x.readQ.isEmpty && epilogueIdle n p s && ((opsOf x).all fun o => o.readouts.all fun t => !t.fin) &&
  match x.sendQ.head? with
  | some i => !(sendSlot n p i false s).goes
  | none => true

/-- An operation has nothing left to do and is still to complete. -/
def completesNext (x : Stall) (q : OpCtx × Nat) : Bool := opFinished x q.1 && (q.1.d.opcode ≠ 0x7F || q.2 = 0)

/-- How a stall may stop now: 0 at a pre-emption point, 1 where it waits, 2 at the end of its program (R436, R443). An operation that waits for
a take's result goes on with it (R175). -/
def stopsAs (n p : Nat) (s : State) : Option Nat :=
  let x := stallP s p
  let ops := (opsOf x).zipIdx
  if x.prog.isNone then some 2
  else if (ops.any (completesNext x)) || (opsOf x).any (·.takeSent) then none
  else if slotsSettled x && (opsOf x).all atPoint then some 0
  else if !startsNext x && slotsWait n p s &&
      ops.all fun q => atPoint q.1 || (q.1.d.opcode ≠ 0x33 && !canStep n p q.2 s) then some 1
  else none

/-- A stall under pre-emption stops (R435, R436). -/
def stallPreemptStop (n : Nat) (s : State) : State :=
  if s.ctx.st != .stopping || !(residentStalls s).contains n then s
  else
    match physOf s n with
    | none => s
    | some p =>
      match stopsAs n p s with
      | some k => modStallP p (fun x => { x with preempted := true, stopKind := k }) s
      | none => s

/-- STALL_PREEMPT_STOP (R436). -/
def execStallPreemptStop (n : Nat) (s : State) : Host.Outcome State Fault Refusal := .next (stallPreemptStop n s)

/-! ## STOPPED (R437) -/

/-- A packet is addressed to a window or a ledger of one of the stalls (R437), or brings back a credit or the acceptance of an entry of
one. -/
def toWindow (ns : List Nat) : PktBody → Bool
  | .data n _ _ _ _ _ _ _ _ _ => ns.contains n
  | .ledger n .. => ns.contains n
  | .credit n .. => ns.contains n
  | .accept n _ => ns.contains n
  | _ => false

/-- Every condition of R437 holds. -/
def allStopped (s : State) : Bool :=
  let ns := satchelStalls s
  (ns.all fun n => (physOf s n).all fun p =>
    let x := stallP s p
    x.preempted && writesOut x = 0) &&
  !(s.fab.net.any fun k => toWindow ns k.body) && s.vid.engines.all fun e => e.2.run.isNone

/-- The job is STOPPED and its PREEMPT completes (R437). -/
def ctxStopped (s : State) : State :=
  match s.ctx.st, s.ctx.preempt with
  | .stopping, some iss =>
    if allStopped s then ctxDone iss 0 { s with ctx.st := .stopped, ctx.preempt := none, ctx.saved := false } else s
  | _, _ => s

/-- CTX_STOPPED (R437). -/
def execCtxStopped (s : State) : Host.Outcome State Fault Refusal := .next (ctxStopped s)

/-! ## SAVE (R446, R447) -/

/-- The store module as a source or destination is refused (R446). -/
def storeBars (s : State) (addr len : Nat) : Bool := s.snap.st == .off || s.snap.satlbas * 4096 < addr + len

/-- The last raised record is CTX's (R484). -/
def markCtx (s : State) : State :=
  { s with flt.raised := s.flt.raised.zipIdx.map fun p =>
      if p.2 + 1 = s.flt.raised.length then { p.1 with viaCtx := true } else p.1 }

/-- STORE_ERROR (R459): selector 0 status, 1 timeout, 2 link. -/
def storeError (sel status : Nat) (s : State) : State := raise 0x0904 5 13 0x7FF (detU sel status 0) s

/-- How a SAVE went, as its destination allows: host memory meets no store error, and the store module no refused host address (R447). -/
def saveWent (store : Bool) : SaveOutcome → SaveOutcome
  | .hostRefused => if store then .done [] else .hostRefused
  | .storeError status => if store then .storeError status else .done []
  | o => o

/-- A SAVE ends as its write-out went (R446, R447); a word of the loft part that carries poison is uncorrectable (R291). -/
def saveEnds (iss : Issuer) (addr : Nat) (label : W64) (whole store : Bool) (outcome : SaveOutcome) (s : State) : State :=
  let fails := { s with ctx.saved := false }
  let lost := fun a => ctxDone iss 4 (raise 0x0402 2 (controllerOf s a) 0x7FF (detA (wordOf a) 5) (poisonOne (wordOf a) fails))
  match saveWent store outcome with
  | .hostRefused => ctxDone iss 4 fails
  | .scratchUncorrectable n a =>
    ctxDone iss 4 (match physOf s n with
      | some p => raiseStall 0x0403 p (detA (a % 2 ^ 21) 0) fails
      | none => fails)
  | .loftUncorrectable a => lost a
  | .storeError status => ctxDone iss 4 (storeError 0 status fails)
  | .done corrected =>
    match if whole then (satchelExtents s).findSome? fun r => firstPoison s r.1 (r.2 - r.1) else none with
    | some a => lost a
    | none =>
      let s := (if whole then satchelExtents s else []).foldl (fun s r =>
        hubRead { corrected := corrected, uncorrectable := [] } 0 r.1 (r.2 - r.1) s) s
      let s := if store then s else hostSend (hostWrites addr (satchelBytes s whole label)) s
      ctxDone iss 0 { s with ctx.saved := true }

/-- SAVE (R446, R459). -/
def ctxSave (iss : Issuer) (addr len : Nat) (label : W64) (whole store : Bool) (outcome : SaveOutcome) : State → State :=
  ctxCmd iss fun s =>
    if s.ctx.st != .stopped then ctxDone iss 2 s
    else if len < satchelLength s whole || (store && storeBars s addr (satchelLength s whole)) then ctxDone iss 5 s
    else if store && !s.snap.link then ctxDone iss 4 s
    else saveEnds iss addr label whole store outcome s

/-- CTX_SAVE (R446). -/
def execCtxSave (view : View) (tag : Nat) (whole store : Bool) (outcome : SaveOutcome) (s : State) :
    Host.Outcome State Fault Refusal :=
  .next (regWrite view ctxBase (ctxSave (regIssuer tag) s.ctx.argAddr s.ctx.argLen s.ctx.argLabel whole store outcome) s)

/-! ## RESTORE (R448, R449, R450) -/

/-- What R448 asks of the device, whichever record is restored. -/
def restoreReady (s : State) : Bool :=
  s.bring.ready && s.sec.owned && s.ctx.st == .run &&
  (s.roll.circuits.all fun e => e.2.st == .stopped || e.2.st == .absent) &&
  (s.roll.entries.all fun e => e.2.st == .free) &&
  ((satchelStalls s).all fun n => (physOf s n).all fun p => !stallBusy (stallP s p)) &&
  (s.vid.streams.all fun e => e.2.st == .closed) && granted s

/-- ROLL_DRIVEN.MARK has every bit of a circuit that a hub section marks DRIVEN (R448). -/
def drivenMarked (s : State) (hub : List Byte) : Bool :=
  (List.range 32).all fun c => byteAt hub (0x28000 + 64 * c + 9) = 0 || s.roll.mark.getLsbD c

/-- Step 1: MAGIC, VERSION, LENGTH and KIND (R449). -/
def satchelHead (b : List Byte) (len : Nat) : Bool :=
  slice b 0 4 == [0x57, 0x4A, 0x32, 0x43] && leAt b 4 2 = 1 && leAt b 8 8 = len && byteAt b 6 ≤ 1

/-- Step 2: GEOMETRY, SYLDIGEST and STALLSET (R449). -/
def satchelFits (s : State) (b : List Byte) : Bool :=
  slice b 32 32 == geometry && slice b 64 32 == satchelSylDigest s && slice b 128 150 == stallBitmap (satchelStalls s)

/-- Step 5: the trailer and its digest (R445, R449). -/
def satchelSealed (b : List Byte) (len : Nat) : Bool :=
  let t := slice b (len - 64) 64
  slice t 0 4 == [0x57, 0x4A, 0x32, 0x45] && leAt t 8 8 = len && slice t 32 32 == sha256 (padTo (len - 64) b)

/-- Where the loft part of a satchel starts. -/
def loftPartOff (s : State) : Nat := 0x101000 + 0x260000 * (satchelStalls s).length

/-- The bytes of extents that a refusal leaves undefined (R450, R476; log entry 1). -/
def scrambleExtents (es : List (Nat × Nat)) (s : State) : State :=
  let n := (es.map fun r => r.2 - r.1).sum
  putExtents es ((List.range n).map fun i => BitVec.ofNat 8 (Config.freeNat (s.free + i))) { s with free := s.free + n }

/-- A refusal of RESTORE: the record, STATE = HELD and result FAULT (R449, R450). -/
def restoreRefused (iss : Issuer) (code step : Nat) (store : Bool) (s : State) : State :=
  let s := markCtx (raiseHub code (detP (if store then 3 else 0) 0 step) s)
  ctxDone iss 4 { s with ctx.st := .held }

/-- Steps 1 to 6 of RESTORE on `b`, the bytes read (R449). -/
def restoreSteps (iss : Issuer) (len : Nat) (store : Bool) (b : List Byte) (s : State) : State :=
  if !satchelHead b len then restoreRefused iss 0x0902 1 store s
  else if !satchelFits s b then restoreRefused iss 0x0901 2 store s
  else
    let whole := byteAt b 6 = 1
    let lo := loftPartOff s
    let es := if whole then extentsFrom (slice b lo 4096) else []
    if !(es.all fun r => (firstOutside (jobRanges s) r.1 r.2).isNone) then ctxDone iss 2 s
    else
      let n := (satchelStalls s).length
      let blocks := slice b 0x101000 (0x260000 * n)
      let hub := slice b 0x1000 0x100000
      let s := putExtents es (b.drop (lo + 4096)) (putHub hub (putGateCredits blocks (putStalls blocks hub s)))
      if !satchelSealed b len then restoreRefused iss 0x0902 5 store (scrambleExtents es s)
      else ctxDone iss 0 { s with ctx.st := .stopped, ctx.saved := false, ctx.fwdiff := slice b 96 32 != runningDigest s }

/-- RESTORE (R446, R448, R449, R459, R470). -/
def ctxRestore (iss : Issuer) (addr len : Nat) (store : Bool) (data : HostRead) : State → State :=
  ctxCmd iss fun s =>
    if s.snap.st == .capture || s.snap.st == .drain || !restoreReady s then ctxDone iss 2 s
    else if store && storeBars s addr len then ctxDone iss 5 s
    else if store && !s.snap.link then ctxDone iss 4 s
    else
      match data with
      | none =>
        if store then ctxDone iss 4 (storeError 0 0 s) else ctxOver iss 5 (refusedAddr iss) (addrBody addr) s
      | some bs =>
        let b := padTo len bs
        if drivenMarked s (slice b 0x1000 0x100000) then restoreSteps iss len store b s else ctxDone iss 2 s

/-- CTX_RESTORE (R449). -/
def execCtxRestore (view : View) (tag : Nat) (store : Bool) (data : HostRead) (s : State) : Host.Outcome State Fault Refusal :=
  .next (regWrite view ctxBase (ctxRestore (regIssuer tag) s.ctx.argAddr s.ctx.argLen store data) s)

/-! ## RESUME (R453) -/

/-- A stall goes on from where it stopped: it fetches, and asks for its next iteration. -/
def stallResumes (s : State) (n : Nat) : State :=
  match physOf s n with
  | none => s
  | some p =>
    let s := modStallP p (fun x => { x with preempted := false }) s
    fetchAll n p ((List.range (opsOf (stallP s p)).length).foldl (fun s k => takePump n p k s) s)

/-- RESUME (R453). -/
def ctxResume (iss : Issuer) : State → State :=
  ctxCmd iss fun s =>
    if s.ctx.st != .stopped then ctxDone iss 2 s
    else ctxDone iss 0 ((satchelStalls s).foldl stallResumes { s with ctx.st := .run, ctx.saved := false })

/-- CTX_RESUME (R453). -/
def execCtxResume (view : View) (tag : Nat) (s : State) : Host.Outcome State Fault Refusal :=
  .next (regWrite view ctxBase (ctxResume (regIssuer tag)) s)

/-! ## CLEAR (R450) -/

/-- The stalls of an image as its commit set them (R227). -/
def recommitStalls (k : Nat) (s : State) : State :=
  let b := imgAt s k
  let s := (stallSet b).foldl (fun s n =>
    match physOf s n with
    | some p => modStallP p (committedStall b k n) s
    | none => s) s
  zeroCounters b ((fillMapsOf b).foldl (fun s f => zeroFillMap f s) s)

/-- The stalls of the resident images, the roll, the counters and the RNG registers as the commits left them (R227, R450; log
entry 26). -/
def toCommit (s : State) : State :=
  let s := (residents s).foldl (fun s k => recommitStalls k s) s
  { s with
    roll.entries := []
    roll.circuits := s.roll.circuits.map fun e => (e.1, if e.2.st == .absent then e.2 else { st := .stopped })
    rng.seed := s.rng.seed0
    rng.base := s.rng.base0
    gate.sendCred := s.gate.granted }

/-- CLEAR (R450): accepted in HELD. -/
def ctxClear (iss : Issuer) : State → State :=
  ctxCmd iss fun s =>
    if s.ctx.st != .held then ctxDone iss 2 s else ctxDone iss 0 { toCommit s with ctx.st := .run, ctx.saved := false }

/-- CTX_CLEAR (R450). -/
def execCtxClear (view : View) (tag : Nat) (s : State) : Host.Outcome State Fault Refusal :=
  .next (regWrite view ctxBase (ctxClear (regIssuer tag)) s)

/-! ## VACATE (R454) and the end of a ZERO (R303) -/

/-- A VACATE completes with a result. -/
def vacDone (iss : Issuer) (result status : Nat) (s : State) : State :=
  postCmd iss status [] { s with ctx.vac := none, ctx.vtag := iss.tag % 256, ctx.vresult := result }

/-- Step 5: SAVED clears, STATE = RUN; JSTOPPED clears (R454, R481). -/
def vacEnds (iss : Issuer) (s : State) : State :=
  vacDone iss 0 0 { s with ctx.saved := false, ctx.st := .run, flt.jstopped := false }

/-- A marked entry on which ZERO cannot run is passed over (R303; log entry 28). -/
def vacPasses (s : State) (i : Nat) : Bool :=
  let p := partAt s i
  p.access = 0 || (p.access = 2 && s.syl.slots.any fun e => e.2.st != .empty)

/-- Step 4: ZERO runs on the marked entries in turn. -/
def vacNext (iss : Issuer) : List Nat → State → State
  | [], s => vacEnds iss s
  | i :: rest, s =>
    if s.loft.zero.isSome then { s with ctx.vac := some { issuer := iss, entries := i :: rest } }
    else if vacPasses s i then vacNext iss rest s
    else
      let p := partAt s i
      { s with
        ctx.vac := some { issuer := iss, entries := rest }
        loft.zero := some { entry := i, base := p.base * 2 ^ 21, limit := p.limit * 2 ^ 21, issuer := none } }

/-- A stall ends its program with tokens clear and slots and ledger entries FREE (R454). -/
def endedStall (x : Stall) : Stall :=
  { x with prog := none, ring := [], tokens := 0, slots := [], readQ := [], sendQ := [], ledger := [], held := [], outQ := [] }

/-- Steps 1 to 3: streams closed, execution state discarded, images unloaded (R454). -/
def vacDiscard (s : State) : State :=
  let open_ := (s.vid.streams.filter fun e => e.2.st != .closed).map (·.1)
  let s := open_.foldl (fun s k => closeStream k (streamAt s k).closer s) s
  let s := { s with
    stalls := s.stalls.map fun e => (e.1, endedStall e.2)
    roll.circuits := s.roll.circuits.map fun e =>
      (e.1, if e.2.st == .absent then e.2 else { e.2 with st := .stopped, flight := [], pending := [] })
    roll.entries := s.roll.entries.map fun e => (e.1, { e.2 with st := .free, ppend := false }) }
  (residents s).foldl (fun s k => unloadImage k s) s

/-- VACATE (R454, R470): accepted in RUN, STOPPED or HELD, and not during a capture or a drain. -/
def ctxVacate (iss : Issuer) (zmask : Nat) (s : State) : State :=
  if s.ctx.vac.isSome then { s with ctx.overrun := true }
  else
    match unitBar s with
    | some b => vacDone iss b.1 b.2 s
    | none =>
      if !(s.ctx.st == .run || s.ctx.st == .stopped || s.ctx.st == .held) || s.snap.st == .capture || s.snap.st == .drain then
        vacDone iss 1 1 s
      else vacNext iss (setBits 16 zmask) (vacDiscard s)

/-- CTX_VACATE (R454). -/
def execCtxVacate (view : View) (tag : Nat) (zmask : Nat) (s : State) : Host.Outcome State Fault Refusal :=
  .next (regWrite view (ctxBase + 0x400) (ctxVacate (regIssuer tag) zmask) s)

/-- The last slice has finished its share of a ZERO: the range reads zero, its command completes, and a VACATE goes on with its
next entry (R303, R454). -/
def zeroDone (s : State) : State :=
  match s.loft.zero with
  | none => s
  | some z =>
    let s := loftZeroed z.base z.limit { s with loft.zero := none }
    let s := match z.issuer with
      | some iss => loftDone iss 0 s
      | none => s
    match s.ctx.vac with
    | some v => vacNext v.issuer v.entries s
    | none => s

/-- LOFT_ZERO_DONE (R303). -/
def execLoftZeroDone (s : State) : Host.Outcome State Fault Refusal := .next (zeroDone s)

end Sys2Proof.Machine
end

