-- ==== Sys2Proof/Machine/Snapshot.lean ====
section
/-! DEFINITION. Snapshots, restore and replay (R457 to R476), the store port, and a lane's loss of lock (R322, R328, R374, R459). -/

namespace Sys2Proof.Machine

/-! ## Commands -/

/-- A SNAP command completes with a result, a record status and a body (R382). -/
def snapOver (iss : Issuer) (result status : Nat) (body : List Byte) (s : State) : State :=
  postCmd iss status body { s with snap.tag := iss.tag % 256, snap.result := result }

/-- A SNAP command: dropped with OVERRUN while an ABORT runs, barred (R496, R516), or performed. -/
def snapCmd (iss : Issuer) (f : State → State) (s : State) : State :=
  if s.snap.aborting.isSome then { s with snap.overrun := true }
  else
    match unitBar s with
    | some b => snapOver iss b.1 b.2 [] s
    | none => f s

/-! ## The store region (R460, R461) -/

/-- L, the blocks of a slot. -/
def slotBlocks (s : State) : Nat := (s.snap.lbaCount - 2 - s.snap.satlbas) / 2

/-- The first block of slot `k`. -/
def slotLba (s : State) (k : Nat) : Nat := s.snap.lbaBase + 2 + s.snap.satlbas + k * slotBlocks s

/-- LENGTH of a snapshot of `n` stalls (R466). -/
def snapLength (s : State) (n : Nat) : Nat :=
  0x111000 + 0x8000 * n + 4096 + 4096 + (regionPitch s / 2 + ((extRanges s).map fun r => r.2 - r.1).sum) + 4096

/-- No two of some ranges overlap, and each lies in the exposed loft. -/
def rangesApart : List (Nat × Nat) → Bool
  | [] => true
  | r :: rest => decide (r.1 ≤ r.2) && decide (r.2 ≤ exposed) && !(rest.any (overlaps r)) && rangesApart rest

/-- Step 3 of CONFIG (R460). -/
def storeFits (s : State) (a : StoreAnswers) : Bool :=
  a.nsExists && a.lbads = 12 && s.snap.lbaBase + s.snap.lbaCount ≤ a.nsze && 1 ≤ a.awun && 128 * 1024 ≤ a.mdtsBytes

/-- Step 4 of CONFIG (R352, R460). -/
def regionFits (s : State) : Bool :=
  snapLength s 1200 ≤ 4096 * slotBlocks s && rangesApart (snapRanges s) &&
  !((snapRanges s).any fun r => (refAreas s).any (overlaps r))

/-- A slot record of 64 bytes as the device holds it (R461). -/
def slotFrom (b : List Byte) : SnapSlot :=
  { valid := slice b 0 4 == [0x57, 0x4A, 0x32, 0x44] && byteAt b 4 = 1, seq := leAt b 8 8, step := leAt b 16 4,
    jobid := leAt b 20 4, length := leAt b 24 8, digest := slice b 32 32 }

/-- Snapshot slot `k`. -/
def snapSlot (s : State) (k : Nat) : SnapSlot := tget {} s.snap.slots k

/-- The greatest valid SEQ, 0 without one, and the slot that holds it. -/
def greatestSeq (s : State) : Nat × Nat :=
  let v := fun k => if (snapSlot s k).valid then (snapSlot s k).seq else 0
  if v 0 < v 1 then (v 1, 1) else (v 0, 0)

/-- CONFIG (R460); BUSY in a state other than OFF and ARMED (log entry 29). -/
def snapConfig (iss : Issuer) (a : StoreAnswers) : State → State :=
  snapCmd iss fun s =>
    if s.snap.st != .off && s.snap.st != .armed then snapDone iss 1 s
    else if !s.snap.link then snapDone iss 4 s
    else if a.identifyStatus ≠ 0 then snapDone iss 4 (storeError 0 a.identifyStatus s)
    else if !storeFits s a || !regionFits s then snapDone iss 5 s
    else if a.readStatus ≠ 0 then snapDone iss 4 (storeError 0 a.readStatus s)
    else
      let s := { s with snap.slots := [(0, slotFrom a.record0), (1, slotFrom a.record1)], snap.st := .armed }
      snapDone iss 0 { s with snap.newest := (greatestSeq s).2 }

/-- SNAP_CONFIG (R460). -/
def execSnapConfig (view : View) (tag : Nat) (answers : StoreAnswers) (s : State) : Host.Outcome State Fault Refusal :=
  .next (regWrite view snapBase (snapConfig (regIssuer tag) answers) s)

/-! ## Store commands (R458, R461) -/

/-- Writes of at most 32 blocks from a block up (R458). -/
def blockWrites (lba : Nat) (b : List Byte) : List StoreOp :=
  (chunks (32 * 4096) b).zipIdx.map fun c => .writeBlocks (lba + 32 * c.2) c.1

/-- A slot record's block (R461). -/
def slotRecord (d : Drain) (valid : Bool) (length : Nat) : List Byte :=
  padTo 4096 ([0x57, 0x4A, 0x32, 0x44] ++ leBytes 1 (b2n valid) ++ zeros 3 ++ leBytes 8 d.seq ++ leBytes 4 d.step ++
    leBytes 4 d.jobid ++ leBytes 8 length ++ padTo 32 d.digest)

/-- A flush is outstanding: nothing is issued past it (R461). -/
def flushing (d : Drain) : Bool := d.outstanding.any fun o => o.2 == .flush

/-- The next store commands of a drain are issued, by fuel: at most 64 outstanding, and a Flush only when the writes before it
have completed (R458, R461). -/
def drainPump : Nat → Nat → Drain → Drain × Nat
  | 0, cid, d => (d, cid)
  | f + 1, cid, d =>
    match d.todo with
    | [] => (d, cid)
    | o :: rest =>
      if flushing d || 64 ≤ d.outstanding.length || (o == .flush && !d.outstanding.isEmpty) then (d, cid)
      else drainPump f ((cid + 1) % 2 ^ 16) { d with todo := rest, outstanding := d.outstanding ++ [(cid, o)] }

/-- Store writes are held while the device is stopped or SNAP is HELD (R420, R476). -/
def storePump (s : State) : State :=
  if stopped s || s.snap.st != .drain || !s.snap.link then s
  else
    match s.snap.drain with
    | some d =>
      let r := drainPump 64 s.snap.nextCid d
      { s with snap.drain := some r.1, snap.nextCid := r.2 }
    | none => s

/-! ## TAKE and capture (R467) -/

/-- TAKE (R467): FAULT with the store link down (R459). -/
def snapTake (iss : Issuer) : State → State :=
  snapCmd iss fun s =>
    if s.snap.st != .armed then snapDone iss 1 s
    else if !s.snap.link then snapDone iss 4 s
    else snapDone iss 0 { s with snap.at_ := some (((trainingCircuits s).map (nextStepOf s)).foldl max 0) }

/-- SNAP_TAKE (R467). -/
def execSnapTake (view : View) (tag : Nat) (s : State) : Host.Outcome State Fault Refusal :=
  .next (regWrite view snapBase (snapTake (regIssuer tag)) s)

/-- The groups section: 256 group words, then the routes, LO then HI (R466). -/
def groupSection (s : State) : List Byte :=
  padTo 0x10000 (((List.range 256).flatMap fun g => wordBytes (groupAt s g)) ++
    (List.range 2048).flatMap fun r => wordBytes (routeAt s r).1 ++ wordBytes (routeAt s r).2)

/-- CONF of the header: CIRCMASK and PITCH (R466). -/
def snapConf (s : State) : List Byte := leBytes 4 s.snap.circmask.toNat ++ leBytes 4 s.snap.pitch

/-- The snapshot header (R466). -/
def snapHeader (s : State) (step : Nat) : List Byte :=
  padTo 4096 ([0x57, 0x4A, 0x32, 0x50] ++ leBytes 2 1 ++ zeros 2 ++ leBytes 8 (snapLength s (satchelStalls s).length) ++
    leBytes 4 step ++ leBytes 4 s.sec.jobid ++ snapConf s ++ geometry ++ satchelSylDigest s ++ runningDigest s ++
    stallBitmap (satchelStalls s))

/-- The stage area (R466, R467). -/
def stageBase (s : State) : Nat := s.snap.stage * 2 ^ 21

/-- The extents of a snapshot of a step: the state half first, then the enabled extents in ascending BASE (R466, R468). -/
def snapExtents (s : State) (step : Nat) : List (Nat × Nat) :=
  regionHalf s (step % 2) :: (extRanges s).mergeSort fun a b => a.1 ≤ b.1

/-- The parts that a capture copies to the stage area from +0x1000: hub section, groups, control records, the data-position
record (R466, R467). -/
def capturedParts (s : State) : List Byte :=
  hubSection s ++ groupSection s ++
  ((satchelStalls s).flatMap fun n => controlRecord s n (((physOf s n).map (stallP s)).getD {})) ++
  padTo 4096 (loftRead s (stageBase s) 64)

/-- The snapshot without its trailer (R466). -/
def snapBody (s : State) (step : Nat) : List Byte :=
  snapHeader s step ++ capturedParts s ++ extentTable (snapExtents s step) ++
  (snapExtents s step).flatMap fun r => loftRead s r.1 (r.2 - r.1)

/-- What a drain of a step reads of the loft: the data-position word and the extents (R466). -/
def drainRanges (s : State) (step : Nat) : List (Nat × Nat) := (stageBase s, stageBase s + 64) :: snapExtents s step

/-- The first poisoned word that a drain of a step reads (R470). -/
def drainPoison (s : State) (step : Nat) : Option Nat := (drainRanges s step).findSome? fun r => firstPoison s r.1 (r.2 - r.1)

/-- LOFT_UNCORRECTABLE of a drain: the drain is abandoned (R291, R470). -/
def drainPoisoned (a : Nat) (s : State) : State :=
  snapAbandon (raise 0x0402 2 (controllerOf s a) 0x7FF (detA a 5) s)

/-- Every training circuit stands at the step, with no round in flight. -/
def atStep (s : State) (t : Nat) : Bool :=
  (trainingCircuits s).all fun c => (circAt s c).flight.isEmpty && nextStepOf s c = t

/-- A capture at the step that is due, and the drain that follows it (R467, R468). -/
def snapCapture (s : State) : State :=
  if s.snap.st != .armed || stopped s || s.flt.jstopped then s
  else
    match snapTarget s with
    | none => s
    | some t =>
      if !atStep s t then s
      else
        let k := if (greatestSeq s).1 = 0 then 0 else 1 - (greatestSeq s).2
        let body := snapBody s t
        let d : Drain := { slot := k, seq := (greatestSeq s).1 + 1, step := t, jobid := s.sec.jobid, body := body,
                           todo := [], outstanding := [] }
        let d := { d with todo := .writeBlocks (s.snap.lbaBase + k) (slotRecord d false 0) :: .flush ::
                                  blockWrites (slotLba s k) body }
        let parts := capturedParts s
        let a := stageBase s + 0x1000
        let s := (drainRanges s t).foldl (fun s r => hubPkts 1 0 r.1 (r.2 - r.1) s) (hubWrite a parts s)
        let s := { s with
          snap.st := .drain
          snap.drain := some d
          snap.at_ := none
          snap.slots := tmod {} s.snap.slots k fun x => { x with valid := false }
          snap.measuring := 2
          snap.touched := true }
        match drainPoison s t with
        | some w => drainPoisoned w s
        | none => storePump s

/-- SNAP_CAPTURE (R467). -/
def execSnapCapture (s : State) : Host.Outcome State Fault Refusal := .next (snapCapture s)

/-! ## The loss and the commit (R461, R468, R469) -/

/-- Every training circuit has completed its round of a step. -/
def stepDone (s : State) (t : Nat) : Bool := (trainingCircuits s).all fun c => decide (t < stepReached s c)

/-- The loss: LOSSLEN bytes at stage area + 0x40 (R468, R475). -/
def lossBytes (s : State) : List Byte := loftRead s (stageBase s + 0x40) s.snap.losslen

/-- The trailer of a snapshot without its DIGEST: 4,064 bytes (R466). -/
def snapTrailer (s : State) : List Byte :=
  padTo 4064 ([0x57, 0x4A, 0x32, 0x5A] ++ leBytes 1 s.snap.losslen ++ zeros 3 ++ padTo 64 (lossBytes s))

/-- The hub reads the loss and writes the trailer; what follows it commits the slot (R461, R468). -/
def snapLossRead (s : State) : State :=
  match s.snap.st, s.snap.drain with
  | .drain, some d =>
    if d.lossRead || d.ending || s.snap.aborting.isSome || !stepDone s d.step then s
    else
      match firstPoison s (stageBase s + 0x40) s.snap.losslen with
      | some w => drainPoisoned w s
      | none =>
        let t := snapTrailer s
        let dig := sha256 (d.body ++ t)
        let d := { d with lossRead := true, digest := dig }
        let tail := blockWrites (slotLba s d.slot + d.body.length / 4096) (t ++ dig)
        let rec_ := StoreOp.writeBlocks (s.snap.lbaBase + d.slot) (slotRecord d true (d.body.length + 4096))
        storePump { hubPkts 1 0 (stageBase s + 0x40) s.snap.losslen s with
          snap.drain := some { d with todo := d.todo ++ tail ++ [.flush, rec_, .flush] } }
  | _, _ => s

/-- SNAP_LOSS_READ (R468). -/
def execSnapLossRead (s : State) : Host.Outcome State Fault Refusal := .next (snapLossRead s)

/-- The least I ≥ 2 with 256 × I² ≥ x (R469). -/
def leastInterval (x : Nat) : Nat := max 2 (let r := Nat.sqrt ((x + 255) / 256); if x ≤ 256 * r * r then r else r + 1)

/-- INTERVAL (R469). -/
def snapInterval (s : State) : Nat :=
  if s.snap.override ≠ 0 then max 2 s.snap.override
  else if s.snap.mean ≠ 0 then leastInterval (2 * s.snap.cost * s.snap.mean)
  else 0

/-- NEXT := s + INTERVAL; an INTERVAL of 0 clears NVALID (R468, R469, R475). -/
def scheduleNext (step : Nat) (s : State) : State :=
  let i := snapInterval s
  if i = 0 then { s with snap.nvalid := false } else { s with snap.nvalid := true, snap.nextStep := (step + i) % 2 ^ 32 }

/-- The last Flush has completed: the snapshot commits (R461, R468). -/
def snapCommit (s : State) : State :=
  match s.snap.st, s.snap.drain with
  | .drain, some d =>
    if !d.lossRead || !d.todo.isEmpty || !d.outstanding.isEmpty || s.snap.aborting.isSome then s
    else
      let x : SnapSlot := { valid := true, seq := d.seq, step := d.step, jobid := d.jobid, length := d.body.length + 4096,
                            digest := d.digest }
      scheduleNext d.step { s with
        snap.st := .armed, snap.drain := none, snap.newest := d.slot, snap.slots := tset s.snap.slots d.slot x }
  | _, _ => s

/-- SNAP_COMMIT (R461). -/
def execSnapCommit (s : State) : Host.Outcome State Fault Refusal := .next (snapCommit s)

/-! ## ABORT and the store port's events (R458, R459, R470) -/

/-- ABORT (R470). -/
def snapAbort (iss : Issuer) : State → State :=
  snapCmd iss fun s =>
    if s.snap.st != .drain then snapDone iss 2 s
    else abortDrained { s with snap.aborting := some iss, snap.drain := s.snap.drain.map fun d => { d with todo := [] } }

/-- SNAP_ABORT (R470). -/
def execSnapAbort (view : View) (tag : Nat) (s : State) : Host.Outcome State Fault Refusal :=
  .next (regWrite view snapBase (snapAbort (regIssuer tag)) s)

/-- A store command is outstanding. -/
def storeWaits (s : State) (cid : Nat) : Bool := s.snap.drain.any fun d => d.outstanding.any fun o => o.1 = cid

/-- The words that a drain has read for a store command were corrected, or one of them was uncorrectable (R290, R291, R470). -/
def drainEcc (ecc : EccReport) (s : State) : State × Option Nat :=
  match s.snap.drain with
  | none => (s, none)
  | some d =>
    let reads := fun w => (drainRanges s d.step).any fun r => r.1 ≤ w && w < r.2
    (eccApply ecc reads 5 s, ecc.uncorrectable.find? reads)

/-- A store command completes: with status 0 the next are issued; else STORE_ERROR and the drain is abandoned (R458, R459,
R470), and so is one that met an uncorrectable word. -/
def storeCpl (cid : Nat) (answer : StoreDone) (s : State) : State :=
  if !storeWaits s cid then s
  else
  let (s, bad) := drainEcc answer.ecc s
  if let some a := bad then drainPoisoned a s
  else if answer.status ≠ 0 then snapAbandon (storeError 0 answer.status s)
  else
    let s := { s with snap.drain := s.snap.drain.map fun d => { d with outstanding := d.outstanding.filter fun o => o.1 ≠ cid } }
    abortDrained (storePump s)

/-- STORE_CPL (R458). -/
def execStoreCpl (cid : Nat) (answer : StoreDone) (s : State) : Host.Outcome State Fault Refusal := .next (storeCpl cid answer s)

/-- STORE_COMMAND_TIMEOUT (R459). -/
def execStoreCommandTimeout (cid : Nat) (s : State) : Host.Outcome State Fault Refusal :=
  .next (if storeWaits s cid then snapAbandon (storeError 1 0 s) else s)

/-- The store link goes down (R459): it retrains only at reset; a drain is abandoned. -/
def storeLinkDown (s : State) : State :=
  if !s.snap.link then s
  else
    let s := storeError 2 0 { s with snap.link := false, snap.lost := true }
    if s.snap.drain.isSome then snapAbandon s else s

/-- STORE_LINK_DOWN (R459). -/
def execStoreLinkDown (s : State) : Host.Outcome State Fault Refusal := .next (storeLinkDown s)

/-- A lane loses lock (R322): an active lane of an UP gate retrains onto the spare or goes down (R328); a second lane lost of the
host or store engine, and in drill mode the first (R27), takes its link down (R374, R459). -/
def laneLossOfLock (e w : Nat) (s : State) : State :=
  let x := engineAt s e
  let s := modEngine e (fun x => { x with locked := x.locked &&& (x.locked ^^^ (1 <<< w)) }) s
  if !x.active.contains w then s
  else if e < 12 then gateLaneLost e w s
  else
    match if s.bring.drill then none else spareTakes w (engineAt s e) with
    | some y => modEngine e (fun _ => y) s
    | none => if e = 12 then hostLinkDown s else if e = 13 then storeLinkDown s else s

/-- LANE_LOSS_OF_LOCK (R328). -/
def execLaneLossOfLock (e w : Nat) (s : State) : Host.Outcome State Fault Refusal := .next (laneLossOfLock e w s)

/-! ## GROUPS (R472) -/

/-- Where a SNAP command reads: host memory, or a slot, which needs the region configured and the store link. -/
def snapSourceBar (s : State) (host : Bool) (slot : Nat) : Option Nat :=
  if host then none
  else if s.snap.st == .off || !(snapSlot s slot).valid then some 2
  else if !s.snap.link then some 4
  else none

/-- A read that failed: STORE_ERROR from the store, ADDRESS from the host (R381, R459). -/
def snapReadFails (iss : Issuer) (addr : Nat) (host : Bool) (s : State) : State :=
  if host then snapOver iss 5 (refusedAddr iss) (addrBody addr) s else snapDone iss 4 (storeError 0 0 s)

/-- A group section written into the tables, routes too unless KEEPROUTES (R472). -/
def putGroups (keepRoutes : Bool) (b : List Byte) (s : State) : State :=
  let s := { s with gate.groups := sparse 0 256 fun g => wordAt b (8 * g) &&& groupMask }
  if keepRoutes then s
  else { s with gate.routeLo := sparse 0 2048 fun r => wordAt b (0x800 + 16 * r) &&& routeLoMask
                gate.routeHi := sparse 0 2048 fun r => wordAt b (0x808 + 16 * r) &&& routeHiMask }

/-- GROUPS (R472) on the bytes of a group section. -/
def snapGroups (iss : Issuer) (addr slot : Nat) (host keepRoutes : Bool) (data : HostRead) : State → State :=
  snapCmd iss fun s =>
    if !(namedGroups s).isEmpty then snapDone iss 2 s
    else
      match snapSourceBar s host slot with
      | some r => snapDone iss r s
      | none =>
        match data with
        | none => snapReadFails iss addr host s
        | some b => snapDone iss 0 (putGroups keepRoutes b s)

/-- SNAP_GROUPS (R472). -/
def execSnapGroups (view : View) (tag : Nat) (slot : Nat) (host keepRoutes : Bool) (data : HostRead) (s : State) :
    Host.Outcome State Fault Refusal :=
  .next (regWrite view snapBase (snapGroups (regIssuer tag) s.snap.argAddr (slot % 2) host keepRoutes data) s)

/-! ## RESTORE (R473, R474) -/

/-- SOURCE of a record of RESTORE: host memory, or a slot (R478). -/
def snapSource (host : Bool) (slot : Nat) : Nat := if host then 0 else 1 + slot

/-- Step 1: MAGIC, VERSION and LENGTH (R473). -/
def snapHead (s : State) (host : Bool) (slot : Nat) (b : List Byte) : Bool :=
  slice b 0 4 == [0x57, 0x4A, 0x32, 0x50] && leAt b 4 2 = 1 &&
  (if host then leAt b 8 8 = b.length else leAt b 8 8 = (snapSlot s slot).length)

/-- The extents that a snapshot of this device's stalls names after its state half. -/
def snapTable (s : State) (b : List Byte) : List (Nat × Nat) :=
  (extentsFrom (slice b (0x111000 + 0x8000 * (satchelStalls s).length + 4096) 4096)).drop 1

/-- Step 2: GEOMETRY, SYLDIGEST, STALLSET and CONF, and every extent in the exposed loft (R300, R473). -/
def snapFits (s : State) (b : List Byte) : Bool :=
  satchelFits s b && slice b 24 8 == snapConf s && (snapTable s b).all fun r => decide (r.2 ≤ exposed)

/-- TOKENS, ROUND and INST of a control record, all else as the commit set it (R473). -/
def stallFromRecord (slot n : Nat) (b c : List Byte) (x : Stall) : Stall :=
  { committedStall b slot n x with
    tokens := wordAt c 0, lastRound := leAt c 12 4, inst := sparse 0 4096 fun d => leAt c (4096 + 4 * d) 4 }

/-- The control records written into place (R473). -/
def putRecords (b : List Byte) (s : State) : State :=
  (satchelStalls s).zipIdx.foldl (fun s p =>
    match physOf s p.1, (residents s).find? fun k => (stallSet (imgAt s k)).contains p.1 with
    | some ph, some k => modStallP ph (stallFromRecord k p.1 (imgAt s k) (slice b (0x8000 * p.2) 0x8000)) s
    | _, _ => s) s

/-- The hub section of a snapshot written into place: the streams stay, and no round is in flight (R473; log entry 29). -/
def putSnapHub (b : List Byte) (s : State) : State :=
  let streams := s.vid.streams
  let s := putHub b s
  { s with vid.streams := streams, roll.circuits := s.roll.circuits.map fun e => (e.1, { e.2 with flight := [] }) }

/-- Step 3: the parts written into place; the gate windows are empty, and the credits are those granted at commit (R473). -/
def snapWrite (b : List Byte) (step : Nat) (s : State) : State :=
  let rec_ := 0x111000 + 0x8000 * (satchelStalls s).length
  let es := regionHalf s (step % 2) :: snapTable s b
  let s := putSnapHub (slice b 0x1000 0x100000) (putRecords (b.drop 0x111000) s)
  let s := hubWrite (stageBase s) (padTo 64 (slice b rec_ 64)) s
  let s := { s with gate.sendCred := s.gate.granted }
  putExtents es (b.drop (rec_ + 8192)) s

/-- The position check (R474). -/
def positionOk (s : State) (dstep step : Nat) : Bool :=
  dstep = step &&
  (trainingCircuits s).all fun c => nextStepOf s c = step

/-- A refusal of RESTORE: the record, STATE = HELD and result FAULT (R473, R476). -/
def snapRefused (iss : Issuer) (code src step v : Nat) (s : State) : State :=
  snapDone iss 4 { raiseHub code (detP src step v) s with snap.st := .held }

/-- Steps 1 to 6 of RESTORE on `b`, the bytes read (R473). -/
def snapSteps (iss : Issuer) (host : Bool) (slot : Nat) (b : List Byte) (s : State) : State :=
  let src := snapSource host slot
  let step := leAt b 16 4
  let len := leAt b 8 8
  if !snapHead s host slot b then snapRefused iss 0x0902 src step 1 s
  else if !snapFits s b then snapRefused iss 0x0901 src step 2 s
  else
    let es := (stageBase s, stageBase s + 64) :: regionHalf s (step % 2) :: snapTable s b
    let dstep := leAt b (0x111000 + 0x8000 * (satchelStalls s).length) 4
    let s := snapWrite b step s
    if slice b (len - 32) 32 != sha256 (padTo (len - 32) b) then
      snapRefused iss 0x0902 src step 4 (scrambleExtents es s)
    else if !positionOk s dstep step then snapRefused iss 0x0905 src step dstep (scrambleExtents es s)
    else
      snapDone iss 0 { s with
        snap.st := .replay
        snap.replayStep := step
        snap.source := src
        snap.expectLoss := slice b (len - 4096 + 8) 64
        snap.fwdiff := slice b 96 32 != runningDigest s }

/-- RESTORE (R473). -/
def snapRestore (iss : Issuer) (addr slot : Nat) (host : Bool) (data : HostRead) : State → State :=
  snapCmd iss fun s =>
    if s.snap.st != .armed || !restoreReady s then snapDone iss 2 s
    else if !host && !s.snap.link then snapDone iss 4 s
    else
      match data with
      | none => snapReadFails iss addr host s
      | some b => if drivenMarked s (slice b 0x1000 0x100000) then snapSteps iss host slot b s else snapDone iss 2 s

/-- SNAP_RESTORE (R473). -/
def execSnapRestore (view : View) (tag : Nat) (slot : Nat) (host : Bool) (data : HostRead) (s : State) :
    Host.Outcome State Fault Refusal :=
  .next (regWrite view snapBase (snapRestore (regIssuer tag) s.snap.argAddr (slot % 2) host data) s)

/-! ## Replay and CLEAR (R475, R476) -/

/-- The first byte in which the losses differ. -/
def lossDiffers (s : State) : Option Nat :=
  (List.range s.snap.losslen).find? fun i => (lossBytes s).getD i 0 ≠ s.snap.expectLoss.getD i 0

/-- The replayed step is complete: its loss is compared with the trailer's (R475). DEDUCED: a loss that carries poison is compared with
nothing, and raises LOFT_UNCORRECTABLE (R291; log entry 29). -/
def replayCheck (s : State) : State :=
  if s.snap.st != .replay || !stepDone s s.snap.replayStep then s
  else if let some a := firstPoison s (stageBase s + 0x40) s.snap.losslen then
    raise 0x0402 2 (controllerOf s a) 0x7FF (detA a 0) s
  else
    let s := hubPkts 1 0 (stageBase s + 0x40) s.snap.losslen s
    match lossDiffers s with
    | none => scheduleNext s.snap.replayStep { s with snap.st := .armed }
    | some i =>
      let s := raiseHub 0x0903 (detP s.snap.source s.snap.replayStep i) (abortGroups s)
      { s with snap.st := .held }

/-- REPLAY_CHECK (R475). -/
def execReplayCheck (s : State) : Host.Outcome State Fault Refusal := .next (replayCheck s)

/-- CLEAR (R476): accepted in HELD. -/
def snapClear (iss : Issuer) : State → State :=
  snapCmd iss fun s => if s.snap.st != .held then snapDone iss 2 s else snapDone iss 0 { toCommit s with snap.st := .armed }

/-- SNAP_CLEAR (R476). -/
def execSnapClear (view : View) (tag : Nat) (s : State) : Host.Outcome State Fault Refusal :=
  .next (regWrite view snapBase (snapClear (regIssuer tag)) s)

/-! ## Configuration registers (R465) -/

/-- A configuration write is ignored (R465). -/
def configBars (s : State) : Bool :=
  residentCount s ≠ 0 || (s.snap.st != .off && s.snap.st != .armed)

/-- The register at an offset takes a value. -/
def configSet (off : Nat) (v : W64) (s : State) : State :=
  if off = 0x10 then { s with snap.nsid := fld v 63 32, snap.satlbas := fld v 31 0 }
  else if off = 0x18 then { s with snap.lbaBase := v.toNat }
  else if off = 0x20 then { s with snap.lbaCount := fld v 47 0 }
  else if off = 0x28 then { s with snap.pitch := fld v 49 32, snap.regBase := fld v 17 0 }
  else if off = 0x30 then
    { s with snap.losslen := fld v 62 56, snap.stage := fld v 49 32, snap.circmask := BitVec.ofNat 32 (fld v 31 0) }
  else if 0x100 ≤ off ∧ off < 0x140 ∧ off % 8 = 0 then
    { s with snap.ext := tset s.snap.ext ((off - 0x100) / 8) (v &&& 0x8003FFFF0003FFFF) }
  else s

/-- An offset of R465's registers. -/
def isConfig (off : Nat) : Bool := [0x10, 0x18, 0x20, 0x28, 0x30].contains off || (0x100 ≤ off && off < 0x140 && off % 8 = 0)

/-- A write to a configuration register (R465). -/
def configWrite (off : Nat) (v : W64) (s : State) : State :=
  if !isConfig off then s else if configBars s then { s with snap.crefused := true } else configSet off v s

/-- SNAP_CONFIG_WRITE (R465). -/
def execSnapConfigWrite (view : View) (off : Nat) (value : W64) (s : State) : Host.Outcome State Fault Refusal :=
  .next (regWrite view (snapBase + off) (configWrite off value) s)

end Sys2Proof.Machine
end

