-- ==== Sys2Proof/Machine/Registers.lean ====
section
/-! DEFINITION. The register map (R423 to R426, R489 to R501): what every register reads as, what a write to it does, the stall
windows and their apertures, and the entries of the command queues (R378 to R381). -/

namespace Sys2Proof.Machine

/-! ## Reading DEV, HOST and PWR (R378, R407 to R418, R498) -/

/-- DEV_STATUS; its privileged fields read 0 through the job view (R498). -/
def devStatusWord (v : View) (s : State) : W64 :=
  let p := b2n (v == .priv)
  pack [(32, p * s.flt.seq), (16, p * b2n (s.bring.phase == .refused)), (15, p * b2n s.dev.badacc), (14, b2n s.host.alert),
        (13, b2n (held s)), (12, b2n s.flt.jstopped), (11, b2n s.pwr.tripped), (8, pstateCode s), (6, b2n s.sec.owned),
        (5, b2n s.bring.main), (4, b2n s.bring.ready), (0, p * phaseCode s.bring.phase)]

/-- A number as a register word. -/
def w64 (n : Nat) : W64 := BitVec.ofNat 64 n

/-- The DEV block (R498). -/
def devWord (v : View) (off : Nat) (s : State) : W64 :=
  if off = 0x0 then devId
  else if off = 0x8 then Config.serial
  else if off = 0x10 then Config.lot
  else if off = 0x18 then devFeat
  else if off = 0x20 then devStatusWord v s
  else if off = 0x40 then s.dev.scratch
  else if 0x100 ≤ off ∧ off < 0x120 then w64 (tget 0 s.dev.paceBarn ((off - 0x100) / 8))
  else if off = 0x120 then w64 s.dev.paceHub
  else 0

/-- The registers of command queue `q`: SQ, CQ, DB, PTR (R378). -/
def queueWord (q reg : Nat) (s : State) : W64 :=
  let x := queueAt s q
  match reg with
  | 0 => pack [(12, x.sqBase / 4096), (4, b2n x.sqEn), (0, x.sqLog2)]
  | 1 => pack [(12, x.cqBase / 4096), (4, b2n x.cqAlert), (0, x.cqLog2)]
  | 2 => pack [(0, x.tail)]
  | _ => pack [(32, x.cqHead), (16, x.cqTail), (0, x.sqHead)]

/-- HOST_STATUS (R385). -/
def hostStatusWord (s : State) : W64 :=
  pack [(32, s.host.replays), (16, s.host.cqlost), (4, b2n s.host.qerr), (3, b2n s.host.alert), (2, b2n s.bring.drill),
        (1, b2n (engineAt s 12).spared), (0, b2n s.host.up)]

/-- The HOST block (R378). -/
def hostWord (off : Nat) (s : State) : W64 :=
  if off = 0 then hostStatusWord s
  else if off = 8 then pack [(0, s.host.evq)]
  else if 0x100 ≤ off ∧ off < 0x380 then queueWord ((off - 0x100) / 32) ((off - 0x100) % 32 / 8) s
  else 0

/-- PEND's code of a state request. -/
def pendCode (s : State) : Nat := (s.pwr.pend.map fun p => stateOp p.1).getD 0

/-- PWR_STATUS (R407, R412). -/
def pwrStatusWord (s : State) : W64 :=
  pack [(56, s.pwr.tag), (52, s.pwr.result), (11, b2n s.pwr.vmismatch), (10, b2n s.pwr.hot), (9, b2n s.pwr.tripped),
        (8, b2n s.pwr.moving.isSome), (4, pendCode s), (0, pstateCode s)]

/-- PWR_TEMP (R418): a barn reads 0 while unpowered. -/
def pwrTempWord (s : State) : W64 :=
  let t := fun d => if d = 4 ∨ barnsOn s then twos 12 (s.pwr.temps.getD d 0) else 0
  pack [(48, t 4), (36, t 3), (24, t 2), (12, t 1), (0, t 0)]

/-- The PWR block (R407 to R418). -/
def pwrWord (off : Nat) (s : State) : W64 :=
  if off = 0x8 then pwrStatusWord s
  else if off = 0x10 then s.pwr.yardSet.setWidth 64
  else if off = 0x18 then s.pwr.yardOn.setWidth 64
  else if off = 0x20 then (s.pwr.gating ||| s.pwr.ungating ||| s.pwr.waitingY).setWidth 64
  else if off = 0x28 then s.pwr.pendY.setWidth 64
  else if off = 0x30 then pack [(0, s.pwr.vset)]
  else if off = 0x38 then pack [(48, s.pwr.power), (32, if barnsOn s then s.pwr.vcore else 0), (0, s.pwr.updates)]
  else if off = 0x40 then pwrTempWord s
  else 0

/-! ## Reading BRING and SEC (R391, R427 to R434) -/

/-- BRING_STATUS (R391). -/
def bringStatusWord (s : State) : W64 :=
  pack [(56, s.bring.tag), (52, s.bring.result), (51, b2n s.bring.overrun), (50, b2n s.bring.run.isSome),
        (49, b2n s.bring.ready), (48, b2n s.bring.main), (32, s.bring.refusal), (16, s.bring.disagree),
        (0, phaseCode s.bring.phase)]

/-- The logical map exists (R398, R499). -/
def mapBuilt (s : State) : Bool := 5 ≤ phaseCode s.bring.phase && s.bring.phase != .refused

/-- BRING_BARN_b: stalls retired by test or broadcast, by fuse, and healthy stalls that serve none. -/
def bringBarnWord (b : Nat) (s : State) : W64 :=
  let ps := (List.range 320).map fun i => pstAt s (320 * b + i)
  let free := fun (x : Pst) => !x.retired && x.logical.isNone
  pack [(32, (ps.filter fun x => x.retired && !x.fuseBad).length), (16, (ps.filter (·.fuseBad)).length),
        (0, if mapBuilt s then (ps.filter free).length else 0)]

/-- TEST's code (R391). -/
def testCode : TestState → Nat
  | .untested => 0 | .running => 1 | .pass => 2 | .failArray => 3 | .failMemory => 4 | .failVector => 5 | .failOther => 6
  | .failFw => 7

/-- BRING_PST_p. -/
def pstWord (x : Pst) : W64 :=
  pack [(37, x.cs1), (30, x.cs0), (23, x.rs1), (16, x.rs0), (15, b2n x.fuseBad), (12, testCode x.test), (11, b2n x.retired),
        (0, x.logical.getD 0x7FF)]

/-- BRING_OPT_e: a fuse-bad wavelength reads as failed. -/
def optWord (x : OptQual) : W64 := pack [(32, sat 32 x.worst), (18, x.txfail), (9, x.fail ||| x.fuseBad), (0, x.tested)]

/-- BRING_VLINK_w. -/
def vlinkWord (w : Nat) (s : State) : W64 :=
  w64 (maskOf ((List.range 64).filter fun i => s.bring.vlinkFail.contains (64 * w + i)))

/-- The BRING block (R391). -/
def bringWord (off : Nat) (s : State) : W64 :=
  if off = 0x8 then bringStatusWord s
  else if 0x100 ≤ off ∧ off < 0x120 then bringBarnWord ((off - 0x100) / 8) s
  else if 0x200 ≤ off ∧ off < 0x2A0 then tget 0 s.bring.waves ((off - 0x200) / 8)
  else if 0x300 ≤ off ∧ off < 0x370 then optWord (tget {} s.bring.opt ((off - 0x300) / 8))
  else if off = 0x380 then pack [(40, s.bring.hubFail), (32, s.bring.ringFail), (0, b2n s.bring.intDone)]
  else if 0x400 ≤ off ∧ off < 0x4A0 then vlinkWord ((off - 0x400) / 8) s
  else if 0x2000 ≤ off ∧ off < 0x4800 then pstWord (pstAt s ((off - 0x2000) / 8))
  else 0

/-- SEC_STATUS. -/
def secStatusWord (s : State) : W64 :=
  pack [(56, s.sec.tag), (52, s.sec.result), (51, b2n s.sec.overrun), (50, b2n s.sec.run.isSome), (49, b2n s.sec.fw.isSome),
        (48, b2n s.sec.epochOk), (47, b2n s.sec.jrefused), (32, runningSvn s), (24, fusedSvn s), (0, epochsLeft s)]

/-- SEC_ATT_STATUS. -/
def attStatusWord (s : State) : W64 :=
  pack [(56, s.sec.attTag), (52, s.sec.attResult), (51, b2n s.sec.attOverrun), (50, b2n s.sec.sign.isSome), (49, b2n s.sec.tree),
        (0, leavesLeft s)]

/-- SEC_IDKEY_w: bytes 60 to 63 read 0. -/
def idKeyWord (w : Nat) : W64 :=
  w64 (leAt (beBytes 4 2 ++ beBytes 4 7 ++ beBytes 4 4 ++ (List.range 48).map Config.idKey) (8 * w) 8)

/-- The SEC block. -/
def secWord (off : Nat) (s : State) : W64 :=
  if off = 0 then secStatusWord s
  else if off = 0x10 then w64 s.sec.fwAddr
  else if off = 0x18 then pack [(63, b2n s.sec.owned), (0, s.sec.jobid)]
  else if off = 0x808 then w64 s.sec.attAddr
  else if off = 0x810 then attStatusWord s
  else if 0x840 ≤ off ∧ off < 0x880 then idKeyWord ((off - 0x840) / 8)
  else 0

/-! ## Reading SYL, ROLL, RNG and LOFT (R201, R221, R232, R249 to R255, R267, R293 to R303) -/

/-- SYL_STATUS (R221): a command of the stage engine completes as it is written. -/
def sylStatusWord (s : State) : W64 :=
  pack [(56, s.syl.stageTag), (48, s.syl.loadTag), (40, s.syl.stageResult), (36, s.syl.loadResult), (35, b2n s.syl.overrun),
        (34, b2n s.syl.held), (32, b2n s.syl.load.isSome), (16, s.syl.faultCode), (0, residentCount s)]

/-- STATE's code of a cache slot (R201). -/
def cacheCode : SlotState → Nat
  | .empty => 0 | .filling => 1 | .staged => 2 | .bad => 3 | .resident => 4

/-- SYL_SLOT_s: ID and KIND once the 256-byte header has been staged. -/
def sylSlotWord (x : CacheSlot) : W64 :=
  let head := 256 ≤ x.bytes.length
  pack [(32, if head then imgId x.bytes % 2 ^ 32 else 0), (31, b2n x.signed), (30, b2n (decide head && imgPartial x.bytes)),
        (24, cacheCode x.st), (0, (x.bytes.length + 2 ^ 20 - 1) / 2 ^ 20)]

/-- The SYL block. -/
def sylWord (off : Nat) (s : State) : W64 :=
  if off = 0x8 then w64 s.syl.argAddr
  else if off = 0x10 then w64 s.syl.argOff
  else if off = 0x18 then w64 s.syl.argLen
  else if off = 0x20 then sylStatusWord s
  else if off = 0x28 then w64 s.syl.loadBeats
  else if 0x100 ≤ off ∧ off < 0x300 then sylSlotWord (slotAt s ((off - 0x100) / 8))
  else if off = 0x400 then pack [(9, b2n s.syl.lock), (8, b2n s.syl.require), (0, s.syl.keyv)]
  else if 0x500 ≤ off ∧ off < 0x600 ∧ off % 0x40 < 0x38 then
    tget 0 s.syl.keys (7 * ((off - 0x500) / 0x40) + off % 0x40 / 8)
  else 0

/-- The number of roll entries in a state. -/
def entriesIn (s : State) (st : SampleState) : Nat := (s.roll.entries.filter fun e => e.2.st == st).length

/-- ROLL_STATUS: an entry that is not listed is FREE. -/
def rollStatusWord (s : State) : W64 :=
  pack [(56, s.roll.tag), (52, s.roll.result), (51, b2n s.roll.overrun),
        (32, 4096 - (s.roll.entries.filter fun e => e.2.st != .free).length), (16, entriesIn s .done), (0, entriesIn s .ready)]

/-- ROLL_CIRC_c. -/
def rollCircWord (c : Nat) (s : State) : W64 :=
  let x := circAt s c
  let n := (s.roll.entries.filter fun e => e.2.circuit = c && (e.2.st == .ready || e.2.st == .inflight)).length
  pack [(32, x.rounds), (25, x.flight.length), (20, x.pending.length), (18, circCode x.st), (17, b2n x.driven), (0, n)]

/-- The ROLL block. -/
def rollWord (off : Nat) (s : State) : W64 :=
  if 0x8 ≤ off ∧ off < 0x28 then (entryWords s.roll.regs).getD ((off - 0x8) / 8) 0
  else if off = 0x28 then w64 s.roll.argAddr
  else if off = 0x30 then rollStatusWord s
  else if 0x100 ≤ off ∧ off < 0x200 then rollCircWord ((off - 0x100) / 8) s
  else if off = 0x400 then s.roll.mark.setWidth 64
  else 0

/-- The RNG block (R267). -/
def rngWord (off : Nat) (s : State) : W64 :=
  if off = 0 then s.rng.seed
  else if off = 8 then pack [(8, b2n s.rng.wdrop), (0, 1)]
  else if 0x100 ≤ off ∧ off < 0x200 then w64 (tget 0 s.rng.base ((off - 0x100) / 8))
  else 0

/-- LOFT_STATUS. -/
def loftStatusWord (s : State) : W64 :=
  pack [(36, s.loft.zresult), (28, s.loft.ztag), (27, b2n s.loft.zero.isSome), (26, b2n s.loft.mrefused),
        (25, b2n s.loft.prefused), (0, sat 25 s.loft.poisoned)]

/-- LOFT_ERR_b. -/
def loftErrWord (b : Nat) (s : State) : W64 :=
  pack [(32, sat 32 (tget 0 s.loft.corrected b)),
        (0, ((s.bring.fuseRemap ++ s.bring.volRemap).filter fun x => x.1 = b).length)]

/-- The LOFT block. -/
def loftWord (off : Nat) (s : State) : W64 :=
  if off = 0 then loftMapWord s
  else if off = 8 then loftStatusWord s
  else if 0x20 ≤ off ∧ off < 0x40 then loftErrWord ((off - 0x20) / 8) s
  else if off = 0x40 then pack [(32, passesMin s % 2 ^ 32), (8, b2n s.loft.scrubOn), (0, s.loft.tick)]
  else if 0x100 ≤ off ∧ off < 0x180 then
    match tfind s.loft.plog ((off - 0x100) / 8) with
    | some w => pack [(63, 1), (6, w / 64)]
    | none => 0
  else if 0x200 ≤ off ∧ off < 0x280 then partWord (partAt s ((off - 0x200) / 8))
  else 0

/-! ## Reading FAB, GATE, VID, CTX, SNAP and FLT -/

/-- FAB_CLASS_c (R313). -/
def fabClassWord (c : Nat) (s : State) : W64 :=
  pack [(32, tget 0 s.fab.packets c), (16, 8), (8, 4), (0, if c = 0 ∨ c = 2 then 64 else 0)]

/-- FAB_LMAP_q: the map entries of logical stalls 4q to 4q + 3 (R304). -/
def lmapWord (q : Nat) (s : State) : W64 := pack ((List.range 4).map fun i => (16 * i, tget 0 s.fab.lmap (4 * q + i)))

/-- The FAB block. -/
def fabWord (off : Nat) (s : State) : W64 :=
  if off = 0 then pack [(32, s.fab.retries), (16, s.fab.dropped), (0, b2n s.fab.mapped)]
  else if 0x100 ≤ off ∧ off < 0x130 then fabClassWord ((off - 0x100) / 8) s
  else if 0x1000 ≤ off ∧ off < 0x1960 then lmapWord ((off - 0x1000) / 8) s
  else 0

/-- GATE_STATE's code (R327). -/
def gateCode : GateState → Nat
  | .off => 0 | .train => 1 | .up => 2 | .down => 3

/-- GATE_STATUS. -/
def gateStatusWord (s : State) : W64 :=
  pack [(32, s.gate.aborts), (17, b2n s.gate.rrefused), (16, b2n s.gate.grefused),
        (0, maskOf ((List.range 12).filter fun g => (gateAt s g).st == .up))]

/-- GATE_LANE_MAP_i: the wavelength of each logical lane, and the one in the spare role. -/
def laneMapWord (x : Engine) : W64 := pack ((32, x.spare.getD 0xF) :: x.active.zipIdx.map fun p => (4 * p.2, p.1))

/-- The registers of gate `g`: CTL, STATE, PEER, LANE_MAP. -/
def gateRegWord (g reg : Nat) (s : State) : W64 :=
  let x := gateAt s g
  match reg with
  | 0 => pack [(1, b2n x.retrain), (0, b2n x.en)]
  | 1 => pack [(48, x.replays), (32, x.retrains), (0, gateCode x.st)]
  | 2 => pack [(60, x.pgate), (0, x.pnode)]
  | _ => laneMapWord (engineAt s g)

/-- GATE_LANE_ERR_i_w. -/
def laneErrWord (g w : Nat) (s : State) : W64 :=
  let e := tget (0, 0) (engineAt s g).err w
  pack [(32, e.1), (0, e.2)]

/-- The GATE block. -/
def gateWord (off : Nat) (s : State) : W64 :=
  if off = 0 then gateStatusWord s
  else if off = 8 then w64 s.gate.node
  else if 0x100 ≤ off ∧ off < 0x300 ∧ off % 0x80 < 0x60 then gateRegWord (off % 0x80 / 8) ((off - 0x100) / 0x80) s
  else if 0x400 ≤ off ∧ off < 0x760 then laneErrWord ((off - 0x400) / 0x48) ((off - 0x400) % 0x48 / 8) s
  else if 0x1000 ≤ off ∧ off < 0x1800 then groupAt s ((off - 0x1000) / 8)
  else if 0x1800 ≤ off ∧ off < 0x2000 then
    let u := tget (0, 0) s.gate.guse ((off - 0x1800) / 8)
    pack [(32, u.1), (0, u.2)]
  else if 0x2000 ≤ off ∧ off < 0xA000 then
    let r := routeAt s ((off - 0x2000) / 16)
    if off % 16 = 0 then r.1 else r.2
  else 0

/-- VID_STATUS. -/
def vidStatusWord (s : State) : W64 :=
  pack [(56, s.vid.tag), (52, s.vid.result), (51, b2n s.vid.overrun), (50, b2n (vidActive s)),
        (0, maskOf ((List.range 8).filter fun e => (vidEng s e).run.isSome))]

/-- VID_ENG_e. -/
def vidEngWord (x : VidEng) : W64 := pack [(32, x.pictures), (7, b2n x.run.isSome), (0, x.stream)]

/-- The VID block. -/
def vidWord (off : Nat) (s : State) : W64 :=
  if off = 8 then w64 s.vid.argAddr
  else if off = 0x10 then vidStatusWord s
  else if 0x100 ≤ off ∧ off < 0x140 then vidEngWord (vidEng s ((off - 0x100) / 8))
  else if 0x200 ≤ off ∧ off < 0x400 then vidStrWord (streamAt s ((off - 0x200) / 8))
  else if 0x400 ≤ off ∧ off < 0x600 then vidCntWord (streamAt s ((off - 0x400) / 8))
  else 0

/-- CTX_STATUS.STATE's code. -/
def ctxCode : CtxState → Nat
  | .run => 0 | .stopping => 1 | .stopped => 2 | .saving => 3 | .restoring => 4 | .held => 5

/-- CTX_STATUS. -/
def ctxStatusWord (s : State) : W64 :=
  pack [(56, s.ctx.tag), (52, s.ctx.result), (51, b2n s.ctx.overrun), (50, b2n s.ctx.preempt.isSome), (49, b2n s.ctx.saved),
        (48, b2n s.ctx.fwdiff), (47, b2n (granted s)), (32, s.ctx.vtag), (28, s.ctx.vresult), (27, b2n s.ctx.vac.isSome),
        (0, ctxCode s.ctx.st)]

/-- The CTX block; CTX_SIZE reads 0 while no image is resident. -/
def ctxWord (off : Nat) (s : State) : W64 :=
  if off = 8 then w64 s.ctx.argAddr
  else if off = 0x10 then w64 s.ctx.argLen
  else if off = 0x18 then s.ctx.argLabel
  else if off = 0x20 then ctxStatusWord s
  else if off = 0x28 then (if residentCount s = 0 then 0 else w64 (satchelLength s false))
  else 0

/-- SNAP_STATUS.STATE's code. -/
def snapCode : SnapState → Nat
  | .off => 0 | .armed => 1 | .capture => 2 | .drain => 3 | .restoring => 4 | .replay => 5 | .held => 6

/-- SNAP_STATUS. -/
def snapStatusWord (s : State) : W64 :=
  pack [(56, s.snap.tag), (52, s.snap.result), (51, b2n s.snap.overrun), (50, b2n s.snap.aborting.isSome),
        (49, b2n s.snap.crefused), (48, b2n s.snap.fwdiff), (47, b2n s.snap.link), (46, s.snap.newest), (43, snapCode s.snap.st),
        (42, b2n s.snap.nvalid), (0, s.snap.nextStep)]

/-- SNAP_SLOT_k. -/
def snapSlotWord (x : SnapSlot) : W64 := pack [(63, b2n x.valid), (32, x.seq % 2 ^ 31), (0, x.step)]

/-- The SNAP block. -/
def snapWord (off : Nat) (s : State) : W64 :=
  if off = 0x8 then snapStatusWord s
  else if off = 0x10 then pack [(32, s.snap.nsid), (0, s.snap.satlbas)]
  else if off = 0x18 then w64 s.snap.lbaBase
  else if off = 0x20 then w64 s.snap.lbaCount
  else if off = 0x28 then pack [(32, s.snap.pitch), (0, s.snap.regBase)]
  else if off = 0x30 then pack [(56, s.snap.losslen), (32, s.snap.stage), (0, s.snap.circmask.toNat)]
  else if off = 0x38 then pack [(32, s.snap.override), (0, s.snap.mean)]
  else if off = 0x40 then pack [(24, sat 32 (snapInterval s)), (0, s.snap.cost)]
  else if off = 0x48 ∨ off = 0x50 then snapSlotWord (snapSlot s ((off - 0x48) / 8))
  else if off = 0x58 then w64 s.snap.argAddr
  else if 0x100 ≤ off ∧ off < 0x140 then tget 0 s.snap.ext ((off - 0x100) / 8)
  else 0

/-- FLT_JSTAT and FLT_DSTAT; JSTOPPED stands in the job's only. -/
def fltStatWord (jstopped : Bool) (l : FLog) : W64 :=
  pack [(48, l.loste), (32, l.lost), (22, l.count), (21, b2n l.hrefused), (20, b2n jstopped), (9, l.tail), (0, l.head)]

/-- Word `w` of a log's entry; an entry never written reads 0. -/
def logWord (l : FLog) (i w : Nat) : W64 :=
  match tfind l.entries i with
  | some r => w64 (leAt (recBytes r) (8 * w) 8)
  | none => 0

/-- The FLT block (R484 to R487). -/
def fltWord (off : Nat) (s : State) : W64 :=
  if off = 0 then fltStatWord s.flt.jstopped s.flt.jlog
  else if off = 8 then fltStatWord false s.flt.dlog
  else if 0x20 ≤ off ∧ off < 0x40 then w64 (leAt (lastRecord s) (off - 0x20) 8)
  else if 0x1000 ≤ off ∧ off < 0x5000 then logWord s.flt.jlog ((off - 0x1000) / 32) (off % 32 / 8)
  else if 0x8000 ≤ off ∧ off < 0xC000 then logWord s.flt.dlog ((off - 0x8000) / 32) (off % 32 / 8)
  else 0

/-- prefix_BLOCK (R497). -/
def blockWord (block : Nat) : W64 := pack [(16, block), (0, 1)]

/-- The value of a register of the blocks, through a view; 0 where the offset names none (R490, R493). -/
def regWord (v : View) (addr : Nat) (s : State) : W64 :=
  let block := addr / 0x10000
  let off := addr % 0x10000
  if off = 0xFFF8 then blockWord block
  else
    match block with
    | 0x0 => devWord v off s
    | 0x1 => hostWord off s
    | 0x2 => pwrWord off s
    | 0x3 => bringWord off s
    | 0x4 => secWord off s
    | 0x5 => sylWord off s
    | 0x6 => rollWord off s
    | 0x7 => rngWord off s
    | 0x8 => loftWord off s
    | 0x9 => fabWord off s
    | 0xA => gateWord off s
    | 0xB => vidWord off s
    | 0xC => ctxWord off s
    | 0xD => snapWord off s
    | 0xE => fltWord off s
    | _ => 0

/-! ## Stall windows (R416, R499 to R501) -/

/-- The size of an aperture space (R500). -/
def spaceSize (sp : Nat) : Nat := if sp = 0 then 2097152 else if sp = 1 then 327680 else 32768

/-- The byte offset of aperture word `k` (R499). -/
def aperOffset (x : Stall) (k : Nat) : Nat := 8 * x.offset + 8 * k

/-- The 8 bytes of a space from `o` up (R500). -/
def spaceBytes (s : State) (n : Nat) (x : Stall) (o : Nat) : List Byte :=
  match x.space with
  | 0 => memRead x.scratch o 8
  | 1 => slice (chainBytes (slotOf x (o / 20480)).vals) (o % 20480) 8
  | 2 => slice (ledgerBytes (tget {} x.ledger (o / 32))) (o % 32) 8
  | _ => slice (controlRecord s n x) o 8

/-- An aperture read of word `k` (R500): corrections are counted at the stall (R19). -/
def aperRead (n p k : Nat) (sram : Secded) (s : State) : W64 × State :=
  let s := sramCount p sram s
  let x := stallP s p
  if spaceSize x.space ≤ aperOffset x k then (0, setStallP s p { x with range := true })
  else if sram.uncorr then (0, setStallP s p { x with uncorr := true })
  else (w64 (leNat (spaceBytes s n x (aperOffset x k))), s)

/-- No word of a stall's memories was in error. -/
def noSecded : Secded := { corrected := 0, uncorr := false }

/-- Bytes replaced in a string. -/
def patch (b : List Byte) (o : Nat) (w : List Byte) : List Byte := b.take o ++ w ++ b.drop (o + w.length)

/-- A stall with 8 bytes of a space replaced (R501). -/
def spaceSet (x : Stall) (o : Nat) (w : List Byte) : Stall :=
  match x.space with
  | 0 => { x with scratch := memWrite x.scratch o w }
  | 1 => { x with slots := tmod {} x.slots (o / 20480) fun a =>
      { a with vals := chainVals (patch (chainBytes a.vals) (o % 20480) w) } }
  | 2 => { x with ledger := tmod {} x.ledger (o / 32) fun l => ledgerFrom (patch (ledgerBytes l) (o % 32) w) 0 }
  | _ => x

/-- An aperture write is performed (R501). -/
def aperMay (s : State) (x : Stall) : Bool := x.space != 3 && !stallBusy x && (s.bring.drill || x.loaded.isNone)

/-- An aperture write of word `k` (R500, R501): both a range and a refusal are noted. -/
def aperWrite (p k : Nat) (value : W64) (s : State) : State :=
  let x := stallP s p
  let out := spaceSize x.space ≤ aperOffset x k
  let may := aperMay s x
  let x := { x with range := x.range || decide out, wrefused := x.wrefused || !may }
  setStallP s p (if may && !decide out then spaceSet x (aperOffset x k) (wordBytes value) else x)

/-- The operation that STW_STATE and STW_LOOP show. DEDUCED: the one a stopped stall is saved in, else the oldest that walks its loops, else
the oldest in progress (log entry 50). -/
def shownOp (x : Stall) : Option OpCtx :=
  match if x.preempted then stoppedOp x else none with
  | some o => some o
  | none =>
    match (opsOf x).find? (·.walking) with
    | some o => some o
    | none => (opsOf x).head?

/-- STW_STATE (R499). -/
def stwStateWord (s : State) (p : Nat) (x : Stall) : W64 :=
  let desc := match shownOp x with
    | some o => o.desc
    | none => if x.preempted then ctlDesc x else 0xFFFF
  pack [(32, (x.prog.map (·.round)).getD x.lastRound), (16, desc), (7, b2n (pstAt s p).drillStop), (6, b2n x.jstop),
        (5, b2n x.preempted), (4, b2n (stallBusy x)), (0, b2n x.loaded.isSome)]

/-- STW_ADDR. -/
def stwAddrWord (x : Stall) : W64 :=
  pack [(63, b2n x.range), (62, b2n x.wrefused), (61, b2n x.uncorr), (24, x.space), (3, x.offset)]

/-- Loop levels `lo` to `lo + 3` of the operation shown, saturating. -/
def stwLoopWord (x : Stall) (lo : Nat) : W64 :=
  pack ((List.range 4).map fun i => (16 * i, sat 16 (((shownOp x).map fun o => o.it.getD (lo + i) 0).getD 0)))

/-- SLOT's code of a slot state (R93, R499). -/
def stwSlotCode : SlotSt → Nat
  | .free => 0 | .live => 1 | .readout => 2 | .sending => 3 | .poisoned => 4

/-- STW_SLOTS. -/
def stwSlotsWord (x : Stall) : W64 := pack ((List.range 16).map fun i => (4 * i, stwSlotCode (slotOf x i).st))

/-- The physical stall that a window of the map reaches (R499). -/
def windowStall (s : State) (n : Nat) : Option Nat := if mapBuilt s then physOf s n else none

/-- A window access in main mode travels as a REG request and its answer (R311, R499). -/
def regPackets (s : State) : State :=
  if s.bring.main then
    countPkts 0 1 (countPkts 1 1 s)
  else s

/-- A read of a word of logical stall `n`'s window: a gated yard reads 0 (R416). -/
def stwRead (n off : Nat) (sram : Secded) (s : State) : W64 × State :=
  match windowStall s n with
  | none => (0, s)
  | some p =>
    if !yardUp s (yardOf p) then (0, s)
    else
      let s := regPackets s
      let x := stallP s p
      if off = 0x0 then (stwStateWord s p x, s)
      else if off = 0x8 then (stwAddrWord x, s)
      else if off = 0x10 then (x.tokens, s)
      else if off = 0x18 then (w64 x.beats, s)
      else if off = 0x20 then (stwLoopWord x 0, s)
      else if off = 0x28 then (stwLoopWord x 4 &&& 0xFFFFFFFF, s)
      else if off = 0x30 then (stwSlotsWord x, s)
      else if 0x800 ≤ off ∧ off < 0x1000 then aperRead n p ((off - 0x800) / 8) sram s
      else (0, s)

/-- STW_ADDR written. -/
def stwAddrSet (value : W64) (x : Stall) : Stall :=
  { x with
    range := x.range && fld value 63 63 = 0
    wrefused := x.wrefused && fld value 62 62 = 0
    uncorr := x.uncorr && fld value 61 61 = 0
    space := fld value 25 24
    offset := fld value 20 3 }

/-- A write of a word of logical stall `n`'s window: dropped in a gated yard (R416). -/
def stwWrite (n off : Nat) (value : W64) (s : State) : State :=
  match windowStall s n with
  | none => s
  | some p =>
    if !yardUp s (yardOf p) then s
    else
      let s := regPackets s
      if off = 0x8 then modStallP p (stwAddrSet value) s
      else if 0x800 ≤ off ∧ off < 0x1000 then aperWrite p ((off - 0x800) / 8) value s
      else s

/-! ## Command registers (R220, R251, R303, R391, R409, R465) -/

/-- SYL_CMD; a reserved OP is no command of R516's list: it completes INVALID, here through the stage engine (log entry 30). -/
def sylCommand (iss : Issuer) (op k addr off len : Nat) (data : HostRead) : State → State :=
  match op with
  | 1 => sylStage iss k addr off len data
  | 2 => sylFinish iss k
  | 3 => sylLoad iss k
  | 4 => sylUnload iss k
  | 5 => sylEvict iss k
  | 6 => sylAbort iss k
  | 7 => sylClear iss
  | _ => stageDone iss 5

/-- ROLL_CMD. -/
def rollCommand (iss : Issuer) (op idx addr : Nat) (e : RollEntry) (data : HostRead) : State → State :=
  match op with
  | 1 => rollRead iss idx
  | 2 => rollWrite iss idx e
  | 3 => rollPause iss idx
  | 4 => rollResume iss idx
  | 5 => rollRelease iss idx
  | 6 => rollRun iss (idx % 32)
  | 7 => rollDrain iss (idx % 32)
  | 8 => rollWorklist iss addr data
  | _ => rollDone iss 5

/-- VID_CMD. -/
def vidCommand (iss : Issuer) (op k slot addr : Nat) (data : HostRead) : State → State :=
  match op with
  | 1 => vidOpen iss k addr data
  | 2 => vidSubmit iss k addr data
  | 3 => vidKey iss k
  | 4 => vidLtrMark iss k slot
  | 5 => vidLtrUse iss k slot
  | 6 => vidClose iss k
  | _ => fun s => if vidActive s then { s with vid.overrun := true } else vidDone iss 5 s

/-- LOFT_CMD. -/
def loftCommand (v : View) (iss : Issuer) (op entry : Nat) (s : State) : State :=
  if op = 1 then zero v iss entry s
  else if s.loft.zero.isSome then s
  else loftDone iss 5 s

/-- How a SAVE through a register or a queue went: refused where the host address is (log entry 30). -/
def saveOutcome (data : HostRead) : SaveOutcome := if data.isSome then .done [] else .hostRefused

/-- CTX_CMD. -/
def ctxCommand (iss : Issuer) (op addr len : Nat) (label : W64) (whole store : Bool) (data : HostRead) : State → State :=
  match op with
  | 1 => ctxPreempt iss
  | 2 => ctxSave iss addr len label whole store (saveOutcome data)
  | 3 => ctxRestore iss addr len store data
  | 4 => ctxResume iss
  | 5 => ctxClear iss
  | _ => fun s => if s.ctx.preempt.isSome then { s with ctx.overrun := true } else ctxDone iss 5 s

/-- The store's answers to CONFIG as bytes (log entry 30). -/
def answersOf (b : List Byte) : StoreAnswers :=
  { identifyStatus := leAt b 0 2, nsExists := byteAt b 2 = 1, lbads := byteAt b 3, awun := leAt b 4 2, readStatus := leAt b 6 2,
    nsze := leAt b 8 8, mdtsBytes := leAt b 16 8, record0 := slice b 64 64, record1 := slice b 128 64 }

/-- SNAP_CMD. -/
def snapCommand (iss : Issuer) (op addr slot : Nat) (host keep : Bool) (data : HostRead) : State → State :=
  match op with
  | 1 => snapConfig iss (answersOf (data.getD []))
  | 2 => snapTake iss
  | 3 => snapAbort iss
  | 4 => snapGroups iss addr slot host keep data
  | 5 => snapRestore iss addr slot host data
  | 6 => snapClear iss
  | _ => fun s => if s.snap.aborting.isSome then { s with snap.overrun := true } else snapDone iss 5 s

/-- PWR_CMD. -/
def pwrCommand (op tag : Nat) (s : State) : State :=
  match op with
  | 1 => stateCommand .aux tag s
  | 2 => stateCommand .standby tag s
  | 3 => stateCommand .idle tag s
  | 4 => yardsCommand tag s
  | _ => { s with pwr.tag := tag, pwr.result := 5 }

/-- BRING_CMD; FUSE_READ's copies come as the bytes read (log entry 30). -/
def bringCommand (op tag arg : Nat) (data : HostRead) : State → State :=
  match op with
  | 1 => fuseRead tag (slice (data.getD []) 0 21552) (slice (data.getD []) 21552 21552)
  | 2 => selftest tag
  | 3 => bringAbort tag
  | 4 => reconcile tag
  | 5 => fwBcast tag
  | 6 => toMain tag
  | 7 => loftTest tag
  | 8 => linkQual tag arg
  | 9 => bringReady tag
  | 10 => drill tag
  | 11 => unitReset tag (arg % 2048)
  | _ => bringCmd tag (fun _ => true) (bringDone tag 5)

/-- SEC_FW_CMD. -/
def fwCommand (op tag len : Nat) : State → State :=
  match op with
  | 1 => verify tag len
  | 2 => svnCommit tag
  | _ => secCmd (secDone tag 5)

/-- SEC_ATT_CMD. -/
def attCommand (v : View) (op tag : Nat) (data : HostRead) (s : State) : State :=
  if op = 1 then sign v tag data s
  else if s.sec.sign.isSome then { s with sec.attOverrun := true }
  else signOver tag 5 s

/-- CTX_VACATE. -/
def vacCommand (iss : Issuer) (op zmask : Nat) (s : State) : State :=
  if op = 8 then ctxVacate iss zmask s
  else if s.ctx.vac.isSome then { s with ctx.overrun := true }
  else vacDone iss 5 5 s

/-! ## Writing registers (R8, R490, R494) -/

/-- W1C: a flag that a written 1 clears. -/
def w1c (x : Bool) (value : W64) (i : Nat) : Bool := x && fld value i i = 0

/-- DEV written (R498). -/
def devSet (off : Nat) (w : W64) (s : State) : State :=
  if off = 0x20 then { s with dev.badacc := w1c s.dev.badacc w 15 }
  else if off = 0x40 then { s with dev.scratch := w }
  else s

/-- HOST_PTR_q written: CQHEAD. -/
def ptrWrite (q : Nat) (w : W64) (s : State) : State := modQueue q (fun x => { x with cqHead := fld w 43 32 }) s

/-- HOST written (R378, R379). -/
def hostSet (off : Nat) (w : W64) (s : State) : State :=
  if off = 0 then { s with host.qerr := w1c s.host.qerr w 4, host.alert := w1c s.host.alert w 3 }
  else if off = 8 then { s with host.evq := fld w 3 0 }
  else if 0x100 ≤ off ∧ off < 0x380 then
    let q := (off - 0x100) / 32
    match (off - 0x100) % 32 / 8 with
    | 0 => sqWrite q w s
    | 1 => cqWrite q w s
    | 2 => doorbell q w s
    | _ => ptrWrite q w s
  else s

/-- PWR written; a set point outside 620 to 850 mV is ignored (R417). -/
def pwrSet (off : Nat) (w : W64) (s : State) : State :=
  if off = 0 then pwrCommand (fld w 3 0) (fld w 15 8) s
  else if off = 0x10 then { s with pwr.yardSet := w.setWidth 40 }
  else if off = 0x30 then
    if 620 ≤ fld w 9 0 ∧ fld w 9 0 ≤ 850 then { s with pwr.vset := fld w 9 0 } else s
  else s

/-- BRING written. -/
def bringSet (off : Nat) (w : W64) (data : HostRead) (s : State) : State :=
  if off = 0 then bringCommand (fld w 3 0) (fld w 15 8) (fld w 31 16) data s
  else if off = 8 then { s with bring.overrun := w1c s.bring.overrun w 51 }
  else if 0x200 ≤ off ∧ off < 0x2A0 then { s with bring.waves := tset s.bring.waves ((off - 0x200) / 8) w }
  else s

/-- SEC written. -/
def secSet (v : View) (off : Nat) (w : W64) (data : HostRead) (s : State) : State :=
  if off = 0 then { s with sec.overrun := w1c s.sec.overrun w 51, sec.jrefused := w1c s.sec.jrefused w 47 }
  else if off = 8 then fwCommand (fld w 3 0) (fld w 15 8) (fld w 63 32) s
  else if off = 0x10 then { s with sec.fwAddr := fld w 63 12 * 4096 }
  else if off = 0x18 then jobWrite (fld w 63 63 = 1) (fld w 31 0) s
  else if off = 0x800 then attCommand v (fld w 3 0) (fld w 15 8) data s
  else if off = 0x808 then { s with sec.attAddr := fld w 63 12 * 4096 }
  else if off = 0x810 then { s with sec.attOverrun := w1c s.sec.attOverrun w 51 }
  else s

/-- SYL written (R220, R232, R233). -/
def sylSet (off : Nat) (w : W64) (data : HostRead) (s : State) : State :=
  if off = 0 then
    sylCommand (regIssuer (fld w 23 16)) (fld w 3 0) (fld w 13 8) s.syl.argAddr s.syl.argOff s.syl.argLen data s
  else if off = 0x8 then { s with syl.argAddr := fld w 63 6 * 64 }
  else if off = 0x10 then { s with syl.argOff := fld w 35 0 }
  else if off = 0x18 then { s with syl.argLen := fld w 31 0 }
  else if off = 0x20 then { s with syl.overrun := w1c s.syl.overrun w 35 }
  else if off = 0x400 then policyWrite w s
  else if 0x500 ≤ off ∧ off < 0x600 ∧ off % 0x40 < 0x38 then keyWrite ((off - 0x500) / 0x40) (off % 0x40 / 8) w s
  else s

/-- One of ROLL_E0 to ROLL_E3 replaced; STATE and PPEND are read-only. -/
def entryRegSet (i : Nat) (w : W64) (e : RollEntry) : RollEntry :=
  let ws := (entryWords e).set i w
  { entryOfWords (ws.getD 0 0) (ws.getD 1 0) (ws.getD 2 0) (ws.getD 3 0) with st := e.st, ppend := e.ppend }

/-- ROLL written (R250, R251). -/
def rollSet (off : Nat) (w : W64) (data : HostRead) (s : State) : State :=
  if off = 0 then rollCommand (regIssuer (fld w 47 40)) (fld w 3 0) (fld w 27 16) s.roll.argAddr s.roll.regs data s
  else if 0x8 ≤ off ∧ off < 0x28 then { s with roll.regs := entryRegSet ((off - 0x8) / 8) w s.roll.regs }
  else if off = 0x28 then { s with roll.argAddr := fld w 63 4 * 16 }
  else if off = 0x30 then { s with roll.overrun := w1c s.roll.overrun w 51 }
  else if off = 0x400 then drivenWrite w s
  else s

/-- RNG written (R267). -/
def rngSet (off : Nat) (w : W64) (s : State) : State :=
  if off = 0 then seedWrite w s
  else if off = 8 then { s with rng.wdrop := w1c s.rng.wdrop w 8 }
  else if 0x100 ≤ off ∧ off < 0x200 then baseWrite ((off - 0x100) / 8) w s
  else s

/-- LOFT written; a TICK outside 8 to 20 is ignored (R293). -/
def loftSet (v : View) (off : Nat) (w : W64) (s : State) : State :=
  if off = 0 then loftMapSet w s
  else if off = 8 then { s with loft.mrefused := w1c s.loft.mrefused w 26, loft.prefused := w1c s.loft.prefused w 25 }
  else if off = 0x10 then loftCommand v (regIssuer (fld w 23 16)) (fld w 3 0) (fld w 11 8) s
  else if off = 0x40 then
    let t := fld w 4 0
    { s with loft.scrubOn := fld w 8 8 = 1, loft.tick := if 8 ≤ t ∧ t ≤ 20 then t else s.loft.tick }
  else if 0x100 ≤ off ∧ off < 0x180 then
    if fld w 63 63 = 1 then { s with loft.plog := tdel s.loft.plog ((off - 0x100) / 8) } else s
  else if 0x200 ≤ off ∧ off < 0x280 then loftPartSet ((off - 0x200) / 8) w s
  else s

/-- GATE written (R327, R336). -/
def gateSet (off : Nat) (w : W64) (s : State) : State :=
  if off = 0 then { s with gate.rrefused := w1c s.gate.rrefused w 17, gate.grefused := w1c s.gate.grefused w 16 }
  else if off = 8 then nodeWrite w s
  else if 0x100 ≤ off ∧ off < 0x160 then gateCtlWrite ((off - 0x100) / 8) w s
  else if 0x1000 ≤ off ∧ off < 0x1800 then groupWrite ((off - 0x1000) / 8) w s
  else if 0x2000 ≤ off ∧ off < 0xA000 then routeWrite ((off - 0x2000) / 16) (off % 16 = 8) w s
  else s

/-- VID written. -/
def vidSet (off : Nat) (w : W64) (data : HostRead) (s : State) : State :=
  if off = 0 then vidCommand (regIssuer (fld w 23 16)) (fld w 3 0) (fld w 13 8) (fld w 5 4) s.vid.argAddr data s
  else if off = 8 then { s with vid.argAddr := fld w 63 4 * 16 }
  else if off = 0x10 then { s with vid.overrun := w1c s.vid.overrun w 51 }
  else s

/-- CTX written. -/
def ctxSet (off : Nat) (w : W64) (data : HostRead) (s : State) : State :=
  if off = 0 then
    ctxCommand (regIssuer (fld w 23 16)) (fld w 3 0) s.ctx.argAddr s.ctx.argLen s.ctx.argLabel (fld w 8 8 = 1) (fld w 9 9 = 1)
      data s
  else if off = 0x8 then { s with ctx.argAddr := fld w 63 12 * 4096 }
  else if off = 0x10 then { s with ctx.argLen := fld w 39 0 }
  else if off = 0x18 then { s with ctx.argLabel := w }
  else if off = 0x20 then { s with ctx.overrun := w1c s.ctx.overrun w 51 }
  else if off = 0x400 then vacCommand (regIssuer (fld w 15 8)) (fld w 3 0) (fld w 31 16) s
  else s

/-- SNAP written (R465). -/
def snapSet (off : Nat) (w : W64) (data : HostRead) (s : State) : State :=
  if off = 0 then
    snapCommand (regIssuer (fld w 15 8)) (fld w 3 0) s.snap.argAddr (fld w 4 4) (fld w 5 5 = 1) (fld w 6 6 = 1) data s
  else if off = 8 then { s with snap.overrun := w1c s.snap.overrun w 51, snap.crefused := w1c s.snap.crefused w 49 }
  else if off = 0x38 then { s with snap.override := fld w 63 32, snap.mean := fld w 31 0 }
  else if off = 0x58 then { s with snap.argAddr := fld w 63 12 * 4096 }
  else configWrite off w s

/-- FLT written (R486). -/
def fltSet (off : Nat) (w : W64) (s : State) : State :=
  if off = 0 then fltStatWrite false w s else if off = 8 then fltStatWrite true w s else s

/-- A word written to a register of the blocks: each field acts by its access code (R8, R492). -/
def regSet (v : View) (addr : Nat) (w : W64) (data : HostRead) (s : State) : State :=
  let off := addr % 0x10000
  match addr / 0x10000 with
  | 0x0 => devSet off w s
  | 0x1 => hostSet off w s
  | 0x2 => pwrSet off w s
  | 0x3 => bringSet off w data s
  | 0x4 => secSet v off w data s
  | 0x5 => sylSet off w data s
  | 0x6 => rollSet off w data s
  | 0x7 => rngSet off w s
  | 0x8 => loftSet v off w s
  | 0xA => gateSet off w s
  | 0xB => vidSet off w data s
  | 0xC => ctxSet off w data s
  | 0xD => snapSet off w data s
  | 0xE => fltSet off w s
  | _ => s

/-! ## Accesses (R424, R489 to R493) -/

/-- An address lies in a block or a stall window (R489). -/
def inWindow (addr : Nat) : Bool := addr < 0xF0000 || (0x100000 ≤ addr && addr < 0x5B0000)

/-- An access is well formed (R491). -/
def accessOk (addr len : Nat) : Bool :=
  addr % 8 = 0 && len % 8 = 0 && 8 ≤ len && len ≤ 4096 &&
  addr / 0x10000 = (addr + len - 1) / 0x10000 && (addr < 0x100000 || addr / 0x1000 = (addr + len - 1) / 0x1000)

/-- One word read through a view (R424, R492). -/
def wordRead (v : View) (addr : Nat) (s : State) : W64 × State :=
  if v = .job && !jobReach s addr false then (0, viewViolation addr 0 s)
  else if 0x100000 ≤ addr then stwRead ((addr - 0x100000) / 0x1000) (addr % 0x1000) noSecded s
  else (regWord v addr s, s)

/-- One word written through a view (R424, R492). -/
def wordWrite (v : View) (addr : Nat) (w : W64) (data : HostRead) (s : State) : State :=
  if v = .job && !jobReach s addr true then viewViolation addr 1 s
  else if 0x100000 ≤ addr then stwWrite ((addr - 0x100000) / 0x1000) (addr % 0x1000) w s
  else regSet v addr w data s

/-- The words of a burst read in ascending order (R491). -/
def burstRead (v : View) : Nat → Nat → State → List W64 × State
  | 0, _, s => ([], s)
  | n + 1, addr, s =>
    let r := wordRead v addr s
    let t := burstRead v n (addr + 8) r.2
    (r.1 :: t.1, t.2)

/-- The words of a burst written in ascending order (R491). -/
def burstWrite (v : View) (data : HostRead) : List W64 → Nat → State → State
  | [], _, s => s
  | w :: ws, addr, s => burstWrite v data ws (addr + 8) (wordWrite v addr w data s)

/-- A READ (R375, R490 to R492): its CPL carries LEN bytes, with STATUS = ADDRESS and zeros where nothing is performed. -/
def registerRead (v : View) (tag addr len : Nat) (s : State) : State :=
  if !hubServes s then s
  else if !inWindow addr || !accessOk addr len then
    hostSend [.cpl tag 2 (zeros len)] { s with dev.badacc := true }
  else
    let r := burstRead v (len / 8) addr s
    hostSend [.cpl tag 0 (r.1.flatMap wordBytes)] r.2

/-- REGISTER_READ (R424). -/
def execRegisterRead (view : View) (tag : Nat) (addr len : Nat) (s : State) : Host.Outcome State Fault Refusal :=
  .next (registerRead view tag addr len s)

/-- A WRITE (R375, R490 to R492). -/
def registerWrite (v : View) (addr : Nat) (ws : List W64) (data : HostRead) (s : State) : State :=
  if !hubServes s then s
  else if !inWindow addr || !accessOk addr (8 * ws.length) then { s with dev.badacc := true }
  else burstWrite v data ws addr s

/-- REGISTER_WRITE (R492). -/
def execRegisterWrite (view : View) (addr : Nat) (words : List W64) (data : HostRead) (s : State) :
    Host.Outcome State Fault Refusal :=
  .next (registerWrite view addr words data s)

/-- STW_APERTURE_READ (R500): the word read, in its CPL. -/
def apertureRead (v : View) (tag n k : Nat) (sram : Secded) (s : State) : State :=
  let addr := stwBase n + 0x800 + 8 * (k % 256)
  if !hubServes s then s
  else
    let r := if v = .job && !jobReach s addr false then (0, viewViolation addr 0 s)
      else stwRead n (0x800 + 8 * (k % 256)) sram s
    hostSend [.cpl tag 0 (wordBytes r.1)] r.2

/-- STW_APERTURE_READ (R500). -/
def execStwApertureRead (view : View) (tag : Nat) (n k : Nat) (sram : Secded) (s : State) :
    Host.Outcome State Fault Refusal :=
  .next (apertureRead view tag n k sram s)

/-- STW_APERTURE_WRITE (R501). -/
def execStwApertureWrite (view : View) (n k : Nat) (value : W64) (s : State) : Host.Outcome State Fault Refusal :=
  .next (regWrite view (stwBase n + 0x800 + 8 * (k % 256)) (stwWrite n (0x800 + 8 * (k % 256)) value) s)

/-- FAB_REG (R311, R424): a REG access of the hub reaches the window, as its view allows. -/
def fabReg (v : View) (n off : Nat) (write : Option W64) (s : State) : State :=
  if v = .job && !jobReach s (stwBase n + off) write.isSome then
    viewViolation (stwBase n + off) (b2n write.isSome) s
  else
    match write with
    | some w => stwWrite n off w s
    | none => (stwRead n off noSecded s).2

/-- FAB_REG (R311). -/
def execFabReg (view : View) (n off : Nat) (write : Option W64) (s : State) : Host.Outcome State Fault Refusal :=
  .next (fabReg view n off write s)

/-! ## Command queues (R378 to R381) -/

/-- The queue's next entry waits for a unit that is busy (R378): the engine of its unit runs a command. -/
def unitBusy (unit op : Nat) (s : State) : Bool :=
  match unit with
  | 1 => (op = 3 || op = 4 || op = 7) && s.syl.load.isSome
  | 3 => vidActive s
  | 4 => s.loft.zero.isSome
  | 5 => if op = 8 then s.ctx.vac.isSome else s.ctx.preempt.isSome
  | 6 => s.snap.aborting.isSome
  | _ => false

/-- A queue has an entry to take, and its unit, where the entry has been read, is free (R378). -/
def queueReady (s : State) (q : Nat) : Bool :=
  let x := queueAt s q
  x.sqEn && x.sqHead != x.tail && !(x.blocked.any fun u => unitBusy u.1 u.2 s)

/-- The queues of a group in round-robin order after the last served. -/
def roundRobin (base n last : Nat) : List Nat := (List.range n).map fun i => base + (last - base + 1 + i) % n

/-- The queue that the device serves next: privileged queues before job queues, round-robin in each group (R378). -/
def nextQueue (s : State) : Option Nat :=
  (roundRobin 16 4 s.host.lastPriv ++ roundRobin 0 16 s.host.lastJob).find? (queueReady s)

/-- The queue has been served. -/
def servedQueue (q : Nat) (s : State) : State :=
  if q < 16 then { s with host.lastJob := q } else { s with host.lastPriv := q }

/-- SQHEAD moves past the entry. -/
def advanceHead (q : Nat) (s : State) : State :=
  modQueue q (fun x => { x with sqHead := (x.sqHead + 1) % 2 ^ x.sqLog2, blocked := none }) s

/-- The OP codes of a unit (R380). -/
def opKnown (unit op : Nat) : Bool :=
  match unit with
  | 1 => 1 ≤ op && op ≤ 7
  | 2 => 1 ≤ op && op ≤ 8
  | 3 => 1 ≤ op && op ≤ 6
  | 4 => op = 1
  | 5 => 1 ≤ op && op ≤ 5 || op = 8
  | 6 => 1 ≤ op && op ≤ 6
  | 7 => op = 1 || op = 2
  | _ => false

/-- An entry that completes without effect: its status (R381). -/
def entryBar (q : Nat) (e : List Byte) (s : State) : Option Nat :=
  let unit := byteAt e 0
  let op := byteAt e 1
  if q < 16 ∧ (unit = 6 ∨ unit = 5 ∧ op = 8 ∨ !s.sec.owned) then some 0x10
  else if opKnown unit op && !s.bring.ready then some 0x11
  else if !opKnown unit op || byteAt e 2 ≠ 0 || byteAt e 3 ≠ 0 then some 0x14
  else none

/-- ROLL_E0 to ROLL_E3 of an entry. -/
def entryArgs (e : List Byte) : RollEntry := entryOfWords (wordAt e 32) (wordAt e 40) (wordAt e 48) (wordAt e 56)

/-- A ZERO that names no entry of the map. -/
def zeroOutside (iss : Issuer) (s : State) : State :=
  if s.loft.zero.isSome then s
  else
    match unitBar s with
    | some b => loftBarred iss b s
    | none => loftDone iss 5 s

/-- A unit's command with the arguments of an entry (R380); an argument beyond its field's range is INVALID. -/
def entryCommand (q : Nat) (e : List Byte) (data : HostRead) (s : State) : State :=
  let iss : Issuer := { via := .queue q, tag := leAt e 4 4 }
  let op := byteAt e 1
  let addr := leAt e 16 8
  match byteAt e 0 with
  | 1 =>
    if 64 ≤ byteAt e 8 then (if op = 3 ∨ op = 4 ∨ op = 7 then loadCmd false iss (loadDone iss 5) s else stageCmd iss (stageDone iss 5) s)
    else sylCommand iss op (byteAt e 8) (addr / 64 * 64) (leAt e 24 8) (leAt e 32 4) data s
  | 2 =>
    if 4096 ≤ leAt e 8 2 then rollCmd iss (rollDone iss 5) s
    else rollCommand iss op (leAt e 8 2) (addr / 16 * 16) (entryArgs e) data s
  | 3 =>
    if 64 ≤ byteAt e 8 ∨ 4 ≤ byteAt e 9 then vidCmd false iss (vidDone iss 5) s
    else vidCommand iss op (byteAt e 8) (byteAt e 9) (addr / 16 * 16) data s
  | 4 => if 16 ≤ byteAt e 8 then zeroOutside iss s else loftCommand (queueView q) iss op (byteAt e 8) s
  | 5 =>
    if op = 8 then ctxVacate iss (leAt e 10 2) s
    else ctxCommand iss op (addr / 4096 * 4096) (leAt e 24 8 % 2 ^ 40) (wordAt e 32) (byteAt e 8 % 2 = 1)
      (byteAt e 8 / 2 % 2 = 1) data s
  | 6 => snapCommand iss op (addr / 4096 * 4096) (byteAt e 8 % 2) (byteAt e 8 / 2 % 2 = 1) (byteAt e 8 / 4 % 2 = 1) data s
  | _ => s

/-- An entry taken: it completes without effect (R381), moves bytes (R380), or is a command of its unit. -/
def entryRun (q : Nat) (e : List Byte) (data : HostRead) (ecc : EccReport) (s : State) : State :=
  let iss : Issuer := { via := .queue q, tag := leAt e 4 4 }
  let taken := fun (s : State) => modQueue q (fun x => { x with inflight := x.inflight + 1 }) s
  let vac := byteAt e 0 = 5 ∧ byteAt e 1 = 8
  match entryBar q e s with
  | some st => postCmd iss st [] (taken (if st = 0x10 then viewViolation (unitAddr q (byteAt e 0) vac) 2 s else s))
  | none =>
    let loft := leAt e 24 8 % 2 ^ 39
    if byteAt e 0 = 7 then
      if byteAt e 1 = 1 then copyTo q iss.tag (leAt e 16 8) loft (leAt e 32 4) data ecc s
      else copyFrom q iss.tag (leAt e 16 8) loft (leAt e 32 4) data.isSome ecc s
    else entryCommand q e data (taken s)

/-- QUEUE_ENTRY_TAKE (R378, R381): the entry at the head of the queue that is to be served. An entry whose unit is busy stays at
the head; one that cannot be read completes with ADDRESS. -/
def queueTake (q : Nat) (entry : HostRead) (data : HostRead) (ecc : EccReport) (s : State) : State :=
  if !hubServes s || nextQueue s != some q then s
  else
    let at_ := (queueAt s q).sqBase + 64 * (queueAt s q).sqHead
    match entry with
    | none =>
      post (.queue q) { tag := 0, status := 0x13, kind := 0, body := addrBody at_ } (advanceHead q (servedQueue q s))
    | some b =>
      let e := padTo 64 b
      if (entryBar q e s).isNone && unitBusy (byteAt e 0) (byteAt e 1) s then
        modQueue q (fun x => { x with blocked := some (byteAt e 0, byteAt e 1) }) s
      else entryRun q e data ecc (advanceHead q (servedQueue q s))

/-- QUEUE_ENTRY_TAKE (R378). -/
def execQueueEntryTake (q : Nat) (entry : HostRead) (data : EntryData) (s : State) : Host.Outcome State Fault Refusal :=
  .next (queueTake q entry data.host data.ecc s)

end Sys2Proof.Machine
end

