-- ==== Sys2Proof/Machine/Dispatch.lean ====
section
/-! DEFINITION. The dispatch of a command to its meaning: one arm per constructor of Instr. -/

namespace Sys2Proof.Machine

/-- The effect of a command on everything but the queue. -/
def exec (i : Instr) (s : State) : Host.Outcome State Fault Refusal :=
  match i with
  | .resetNAssert => Sys2Proof.Machine.execResetNAssert s
  | .resetNRelease => Sys2Proof.Machine.execResetNRelease s
  | .pwrgdAuxRise => Sys2Proof.Machine.execPwrgdAuxRise s
  | .pwrgdAuxFall => Sys2Proof.Machine.execPwrgdAuxFall s
  | .pwrgdCoreRise => Sys2Proof.Machine.execPwrgdCoreRise s
  | .pwrgdCoreFall => Sys2Proof.Machine.execPwrgdCoreFall s
  | .sensorSample temps vcore => Sys2Proof.Machine.execSensorSample temps vcore s
  | .measAverage power temps vcore => Sys2Proof.Machine.execMeasAverage power temps vcore s
  | .pwrAux view tag => Sys2Proof.Machine.execPwrAux view tag s
  | .pwrStandby view tag => Sys2Proof.Machine.execPwrStandby view tag s
  | .pwrIdle view tag => Sys2Proof.Machine.execPwrIdle view tag s
  | .pwrYards view tag => Sys2Proof.Machine.execPwrYards view tag s
  | .powerTransitionDone => Sys2Proof.Machine.execPowerTransitionDone s
  | .yardGateDone y => Sys2Proof.Machine.execYardGateDone y s
  | .yardUngateDone y => Sys2Proof.Machine.execYardUngateDone y s
  | .bringFuseRead view tag copyA copyB => Sys2Proof.Machine.execBringFuseRead view tag copyA copyB s
  | .bringSelftest view tag => Sys2Proof.Machine.execBringSelftest view tag s
  | .selftestStallReport p r => Sys2Proof.Machine.execSelftestStallReport p r s
  | .bringAbort view tag => Sys2Proof.Machine.execBringAbort view tag s
  | .bringReconcile view tag => Sys2Proof.Machine.execBringReconcile view tag s
  | .bringFwBcast view tag => Sys2Proof.Machine.execBringFwBcast view tag s
  | .bringMain view tag => Sys2Proof.Machine.execBringMain view tag s
  | .bringLoftTest view tag => Sys2Proof.Machine.execBringLoftTest view tag s
  | .bringLinkQual view tag arg => Sys2Proof.Machine.execBringLinkQual view tag arg s
  | .bringReady view tag => Sys2Proof.Machine.execBringReady view tag s
  | .bringDrill view tag => Sys2Proof.Machine.execBringDrill view tag s
  | .bringUnitReset view tag p => Sys2Proof.Machine.execBringUnitReset view tag p s
  | .drillUnitError source unit code addr => Sys2Proof.Machine.execDrillUnitError source unit code addr s
  | .secVerify view tag len => Sys2Proof.Machine.execSecVerify view tag len s
  | .secSvnCommit view tag => Sys2Proof.Machine.execSecSvnCommit view tag s
  | .idTreeBuilt => Sys2Proof.Machine.execIdTreeBuilt s
  | .secSign view tag nonce => Sys2Proof.Machine.execSecSign view tag nonce s
  | .secJobGrant view jobid => Sys2Proof.Machine.execSecJobGrant view jobid s
  | .secJobRelease view jobid => Sys2Proof.Machine.execSecJobRelease view jobid s
  | .sylStage view slot tag data => Sys2Proof.Machine.execSylStage view slot tag data s
  | .sylFinish view slot tag => Sys2Proof.Machine.execSylFinish view slot tag s
  | .sylLoad view slot tag => Sys2Proof.Machine.execSylLoad view slot tag s
  | .sylLoadCommit ecc => Sys2Proof.Machine.execSylLoadCommit ecc s
  | .sylUnload view slot tag => Sys2Proof.Machine.execSylUnload view slot tag s
  | .sylEvict view slot tag => Sys2Proof.Machine.execSylEvict view slot tag s
  | .sylAbort view slot tag => Sys2Proof.Machine.execSylAbort view slot tag s
  | .sylClear view slot tag => Sys2Proof.Machine.execSylClear view slot tag s
  | .sylPolicyWrite view value => Sys2Proof.Machine.execSylPolicyWrite view value s
  | .sylKeyWrite view k w value => Sys2Proof.Machine.execSylKeyWrite view k w value s
  | .rollRead view tag idx => Sys2Proof.Machine.execRollRead view tag idx s
  | .rollWrite view tag idx => Sys2Proof.Machine.execRollWrite view tag idx s
  | .rollPause view tag idx => Sys2Proof.Machine.execRollPause view tag idx s
  | .rollResume view tag idx => Sys2Proof.Machine.execRollResume view tag idx s
  | .rollRelease view tag idx => Sys2Proof.Machine.execRollRelease view tag idx s
  | .rollRun view tag circuit => Sys2Proof.Machine.execRollRun view tag circuit s
  | .rollDrain view tag circuit => Sys2Proof.Machine.execRollDrain view tag circuit s
  | .rollWorklist view tag record => Sys2Proof.Machine.execRollWorklist view tag record s
  | .rollDrivenWrite view value => Sys2Proof.Machine.execRollDrivenWrite view value s
  | .roundIssue c => Sys2Proof.Machine.execRoundIssue c s
  | .roundComplete c => Sys2Proof.Machine.execRoundComplete c s
  | .programStart n => Sys2Proof.Machine.execProgramStart n s
  | .operationComplete n k => Sys2Proof.Machine.execOperationComplete n k s
  | .matmul n => Sys2Proof.Machine.execMatmul n s
  | .conv n => Sys2Proof.Machine.execConv n s
  | .chain n => Sys2Proof.Machine.execChain n s
  | .elemwise at_ => Sys2Proof.Machine.execElemwise at_ s
  | .rowstat at_ => Sys2Proof.Machine.execRowstat at_ s
  | .softmax at_ => Sys2Proof.Machine.execSoftmax at_ s
  | .norm at_ => Sys2Proof.Machine.execNorm at_ s
  | .draw at_ => Sys2Proof.Machine.execDraw at_ s
  | .noise at_ => Sys2Proof.Machine.execNoise at_ s
  | .move at_ => Sys2Proof.Machine.execMove at_ s
  | .send at_ => Sys2Proof.Machine.execSend at_ s
  | .recv at_ => Sys2Proof.Machine.execRecv at_ s
  | .halo at_ => Sys2Proof.Machine.execHalo at_ s
  | .collect at_ down => Sys2Proof.Machine.execCollect at_ down s
  | .stepOp at_ => Sys2Proof.Machine.execStepOp at_ s
  | .guide at_ => Sys2Proof.Machine.execGuide at_ s
  | .fence n => Sys2Proof.Machine.execFence n s
  | .matrixInstructionIssue n sram => Sys2Proof.Machine.execMatrixInstructionIssue n sram s
  | .slotReadout at_ slot => Sys2Proof.Machine.execSlotReadout at_ slot s
  | .chainOut at_ slot => Sys2Proof.Machine.execChainOut at_ slot s
  | .epilogueRun at_ => Sys2Proof.Machine.execEpilogueRun at_ s
  | .prologueRun at_ => Sys2Proof.Machine.execPrologueRun at_ s
  | .stallPreemptStop n => Sys2Proof.Machine.execStallPreemptStop n s
  | .fabRead k ecc => Sys2Proof.Machine.execFabRead k ecc s
  | .fabWrite k ecc => Sys2Proof.Machine.execFabWrite k ecc s
  | .fabTake k => Sys2Proof.Machine.execFabTake k s
  | .fabData k => Sys2Proof.Machine.execFabData k s
  | .fabAck k => Sys2Proof.Machine.execFabAck k s
  | .fabRdata k => Sys2Proof.Machine.execFabRdata k s
  | .fabCredit k => Sys2Proof.Machine.execFabCredit k s
  | .fabLedger k => Sys2Proof.Machine.execFabLedger k s
  | .fabReady k => Sys2Proof.Machine.execFabReady k s
  | .fabReg view n off write => Sys2Proof.Machine.execFabReg view n off write s
  | .flitRetry at_ => Sys2Proof.Machine.execFlitRetry at_ s
  | .loftScrubTick slice ecc => Sys2Proof.Machine.execLoftScrubTick slice ecc s
  | .loftRefresh slice hot => Sys2Proof.Machine.execLoftRefresh slice hot s
  | .loftMapWrite view value => Sys2Proof.Machine.execLoftMapWrite view value s
  | .loftPartWrite view idx value => Sys2Proof.Machine.execLoftPartWrite view idx value s
  | .loftZero view tag entry => Sys2Proof.Machine.execLoftZero view tag entry s
  | .loftZeroDone => Sys2Proof.Machine.execLoftZeroDone s
  | .laneLock e w => Sys2Proof.Machine.execLaneLock e w s
  | .laneLossOfLock e w => Sys2Proof.Machine.execLaneLossOfLock e w s
  | .gateBerWarn g w corrected => Sys2Proof.Machine.execGateBerWarn g w corrected s
  | .gateEnable view g value => Sys2Proof.Machine.execGateEnable view g value s
  | .gateRetrain view g => Sys2Proof.Machine.execGateRetrain view g s
  | .gateTrainReceive g node pgate proposal farLocks txfail => Sys2Proof.Machine.execGateTrainReceive g node pgate proposal farLocks txfail s
  | .gateTrainDone g => Sys2Proof.Machine.execGateTrainDone g s
  | .gateFrameReceive g bad seq ctrl payload => Sys2Proof.Machine.execGateFrameReceive g bad seq ctrl payload s
  | .gateRepeatOldest g => Sys2Proof.Machine.execGateRepeatOldest g s
  | .gateResendLimit g => Sys2Proof.Machine.execGateResendLimit g s
  | .gateAckTimeout g => Sys2Proof.Machine.execGateAckTimeout g s
  | .gatePktData g => Sys2Proof.Machine.execGatePktData g s
  | .gatePktCredit g => Sys2Proof.Machine.execGatePktCredit g s
  | .gateAbort g => Sys2Proof.Machine.execGateAbort g s
  | .gateNodeWrite view value => Sys2Proof.Machine.execGateNodeWrite view value s
  | .gateGroupWrite view g value => Sys2Proof.Machine.execGateGroupWrite view g value s
  | .gateRouteWrite view r hi value => Sys2Proof.Machine.execGateRouteWrite view r hi value s
  | .vidOpen view tag stream record => Sys2Proof.Machine.execVidOpen view tag stream record s
  | .vidSubmit view tag stream record => Sys2Proof.Machine.execVidSubmit view tag stream record s
  | .vidKey view tag stream => Sys2Proof.Machine.execVidKey view tag stream s
  | .vidLtrMark view tag stream slot => Sys2Proof.Machine.execVidLtrMark view tag stream slot s
  | .vidLtrUse view tag stream slot => Sys2Proof.Machine.execVidLtrUse view tag stream slot s
  | .vidClose view tag stream => Sys2Proof.Machine.execVidClose view tag stream s
  | .pictureStart e => Sys2Proof.Machine.execPictureStart e s
  | .pictureComplete e src => Sys2Proof.Machine.execPictureComplete e src s
  | .hostFlitReceive header crcOk => Sys2Proof.Machine.execHostFlitReceive header crcOk s
  | .hostLinkTimeout => Sys2Proof.Machine.execHostLinkTimeout s
  | .hostCpl tag status data => Sys2Proof.Machine.execHostCpl tag status data s
  | .hostDbWrite view q value => Sys2Proof.Machine.execHostDbWrite view q value s
  | .hostQueueConfigWrite view q cq value => Sys2Proof.Machine.execHostQueueConfigWrite view q cq value s
  | .queueEntryTake q entry data => Sys2Proof.Machine.execQueueEntryTake q entry data s
  | .copyToLoft q tag host loft len data ecc => Sys2Proof.Machine.execCopyToLoft q tag host loft len data ecc s
  | .copyFromLoft q tag host loft len hostOk ecc => Sys2Proof.Machine.execCopyFromLoft q tag host loft len hostOk ecc s
  | .completionRecordWrite q => Sys2Proof.Machine.execCompletionRecordWrite q s
  | .smbIdentity pecOk => Sys2Proof.Machine.execSmbIdentity pecOk s
  | .smbTemperature pecOk => Sys2Proof.Machine.execSmbTemperature pecOk s
  | .smbPowerState pecOk => Sys2Proof.Machine.execSmbPowerState pecOk s
  | .smbStatus pecOk => Sys2Proof.Machine.execSmbStatus pecOk s
  | .smbPower pecOk => Sys2Proof.Machine.execSmbPower pecOk s
  | .smbLastFault pecOk => Sys2Proof.Machine.execSmbLastFault pecOk s
  | .smbClearAlert pecOk => Sys2Proof.Machine.execSmbClearAlert pecOk s
  | .ctxPreempt view tag => Sys2Proof.Machine.execCtxPreempt view tag s
  | .ctxStopped => Sys2Proof.Machine.execCtxStopped s
  | .ctxSave view tag whole store outcome => Sys2Proof.Machine.execCtxSave view tag whole store outcome s
  | .ctxRestore view tag store data => Sys2Proof.Machine.execCtxRestore view tag store data s
  | .ctxResume view tag => Sys2Proof.Machine.execCtxResume view tag s
  | .ctxClear view tag => Sys2Proof.Machine.execCtxClear view tag s
  | .ctxVacate view tag zmask => Sys2Proof.Machine.execCtxVacate view tag zmask s
  | .snapConfig view tag answers => Sys2Proof.Machine.execSnapConfig view tag answers s
  | .snapTake view tag => Sys2Proof.Machine.execSnapTake view tag s
  | .snapCapture => Sys2Proof.Machine.execSnapCapture s
  | .snapLossRead => Sys2Proof.Machine.execSnapLossRead s
  | .snapCommit => Sys2Proof.Machine.execSnapCommit s
  | .snapAbort view tag => Sys2Proof.Machine.execSnapAbort view tag s
  | .snapGroups view tag slot host keepRoutes data => Sys2Proof.Machine.execSnapGroups view tag slot host keepRoutes data s
  | .snapRestore view tag slot host data => Sys2Proof.Machine.execSnapRestore view tag slot host data s
  | .replayCheck => Sys2Proof.Machine.execReplayCheck s
  | .snapClear view tag => Sys2Proof.Machine.execSnapClear view tag s
  | .snapConfigWrite view off value => Sys2Proof.Machine.execSnapConfigWrite view off value s
  | .storeCpl cid answer => Sys2Proof.Machine.execStoreCpl cid answer s
  | .storeCommandTimeout cid => Sys2Proof.Machine.execStoreCommandTimeout cid s
  | .storeLinkDown => Sys2Proof.Machine.execStoreLinkDown s
  | .rngSeedWrite view value => Sys2Proof.Machine.execRngSeedWrite view value s
  | .rngBaseWrite view c value => Sys2Proof.Machine.execRngBaseWrite view c value s
  | .faultRecordCommit idx => Sys2Proof.Machine.execFaultRecordCommit idx s
  | .fltHeadWrite view device value => Sys2Proof.Machine.execFltHeadWrite view device value s
  | .stwApertureRead view tag n k sram => Sys2Proof.Machine.execStwApertureRead view tag n k sram s
  | .stwApertureWrite view n k value => Sys2Proof.Machine.execStwApertureWrite view n k value s
  | .registerWrite view addr words data => Sys2Proof.Machine.execRegisterWrite view addr words data s
  | .registerRead view tag addr len => Sys2Proof.Machine.execRegisterRead view tag addr len s
  | .hubBootDone ok => Sys2Proof.Machine.execHubBootDone ok s
  | .verifyDone burnOk => Sys2Proof.Machine.execVerifyDone burnOk s
  | .svnCommitDone => Sys2Proof.Machine.execSvnCommitDone s
  | .signDone => Sys2Proof.Machine.execSignDone s
  | .fwBcastDone failures => Sys2Proof.Machine.execFwBcastDone failures s
  | .loftTestDone pages spares => Sys2Proof.Machine.execLoftTestDone pages spares s
  | .linkQualDone results => Sys2Proof.Machine.execLinkQualDone results s

end Sys2Proof.Machine
end

