-- ==== Sys2Proof/Safety.lean ====
section
/-! DEFINITION. What a safe run is, and the invariants that the statements speak of. -/

namespace Sys2Proof

open Sys2Proof.Machine

/-- A command runs safely in a state: it ends in a next state, in neither a fault nor a refusal. -/
def Runs (i : Instr) (s : State) : Prop := ∃ t, exec i s = .next t

/-- The host-set fields whose range a rule fixes: at most 8 roll-driven circuits (R250), the core set point (R407's block) and the
scrub tick (R293). -/
def FieldsInRange (s : State) : Prop :=
  (setBits 32 s.roll.mark.toNat).length ≤ 8 ∧ 620 ≤ s.pwr.vset ∧ s.pwr.vset ≤ 850 ∧ 8 ≤ s.loft.tick ∧ s.loft.tick ≤ 20

/-- The loft and the scratch of every stall are in canonical form (log entry 4). -/
def MemoriesCanonical (s : State) : Prop :=
  Memory.wf s.loft.mem = true ∧ ∀ e ∈ s.stalls, Memory.wf e.2.scratch = true

/-- A yard that gates is still on; one that ungates, or waits its turn to, is still off; and no yard does both of these (R413). -/
def YardsConsistent (s : State) : Prop :=
  s.pwr.gating &&& ~~~s.pwr.yardOn = 0 ∧ (s.pwr.ungating ||| s.pwr.waitingY) &&& s.pwr.yardOn = 0 ∧
  s.pwr.ungating &&& s.pwr.waitingY = 0

/-- A register write through a view reaches its register: the link is up (R374), no error in drill mode has stopped the hub controller (R27),
and the view reaches the address (R423, R424). -/
def Reaches (s : State) (v : View) (addr : Nat) : Prop := hubServes s = true ∧ (v = .job → jobReach s addr true = true)

/-- The host reaches a unit of a source: the hub controller serves it, and no error in drill mode has stopped that unit (R27, R374). -/
def Serves (s : State) (source unit : Nat) : Prop := hubServes s = true ∧ unitStopped s source unit = false

/-- State `t` is `u` with the completion record of a register command posted to EVQ (R383), every other queue as it was. -/
def Completed (tag status : Nat) (body : List Byte) (u t : State) : Prop :=
  t = { u with host.queues := t.host.queues } ∧
  ∀ q, queueAt t q =
    if q = u.host.evq then { queueAt u q with waiting := (queueAt u q).waiting ++
      [{ tag := tag % 256, status := status, kind := 0, body := body }] }
    else queueAt u q

/-- State `t` is `u` with the completion record of a queue's command posted to it, and one command fewer incomplete (R379, R383). -/
def QueueCompleted (q tag status : Nat) (body : List Byte) (u t : State) : Prop :=
  t = { u with host.queues := t.host.queues } ∧
  ∀ k, queueAt t k =
    if k = q then { queueAt u q with
      waiting := (queueAt u q).waiting ++ [{ tag := tag, status := status, kind := 0, body := body }],
      inflight := (queueAt u q).inflight - 1 }
    else queueAt u k

/-- The output tile of an iteration lies in scratch, every address of it passes its checks, and its fill map entry takes the write
(R174, R181): `plan` gives each byte's address. -/
def ScratchTarget (s : State) (e : Env) (it : List Nat) (t lines poss : Nat) (plan : List (Option Nat)) : Prop :=
  e.o.d.c.space = 1 ∧ tilePlan s e (walkC e.o.d) it true lines (writtenPoss e.o.d.c.sfmt poss) = .ok plan ∧
  e.o.d.swinBase ≤ e.o.d.fillmap + 8 * t ∧ e.o.d.fillmap + 8 * t + 8 ≤ e.o.d.swinBase + e.o.d.swinLen ∧
  fillCase (leNat (memRead e.x.scratch (e.o.d.fillmap + 8 * t) 8)) e.o.inst = .fresh

/-- A scratch address in no landing entry of an operation: those of A, B and the aux operand, where they are fetched from the loft (R172). -/
def OutsideLandings (d : Desc) (a : Nat) : Prop :=
  ∀ no ∈ [0, 1, 3], (opndWalk d no).opr.space = 2 → a < landAt d no 0 ∨ landAt d no (opndWalk d no).opr.id ≤ a

/-- Scratch `m'` is `m` but for the landing entries of an operation, into which its fetches go ahead (R173): all of it, where no operand
is fetched from the loft. -/
def LandingsOnly (d : Desc) (m m' : Mem) : Prop :=
  (Memory.wf m = true → ∀ a, OutsideLandings d a → memGet m' a = memGet m a) ∧
  ((∀ no ∈ [0, 1, 3], (opndWalk d no).opr.space ≠ 2) → m' = m)

/-- The stall's scratch holds bytes at the planned addresses and its fill map entry, and is otherwise as it was but for landing entries;
every other stall's scratch and the loft are as they were. -/
def StoredBytes (s : State) (p : Nat) (e : Env) (t : Nat) (bytes : List Byte) (plan : List (Option Nat)) (u : State) : Prop :=
  LandingsOnly e.o.d (memWrite (memCells e.x.scratch (planCells plan bytes)) (e.o.d.fillmap + 8 * t) (fillEntry e.o.inst))
    (stallP u p).scratch ∧
  (∀ q, q ≠ p → (stallP u q).scratch = (stallP s q).scratch) ∧ u.loft = s.loft

/-- A tile of a row operation's first pass leaves the partials of its rows and stores nothing (R119, R126, R129). -/
def KeptRows (s : State) (p : Nat) (o : OpCtx) (ps : List Ledger) (u : State) : Prop :=
  rowsKept ((opsOf (stallP u p)).getD 0 {}) o.it {} = ps ∧ LandingsOnly o.d (stallP s p).scratch (stallP u p).scratch ∧
  (∀ q, q ≠ p → (stallP u q).scratch = (stallP s q).scratch) ∧ u.loft = s.loft

/-- A tile's values in C's format, by the header's modes and the random bits of a stage position (R63, R133, R268). -/
def headerBytes (s : State) (e : Env) (it : List Nat) (t lines poss stage : Nat) (vals : List (List Val)) : List Byte :=
  (tileTo e.o.d.cfmt e.o.d.rnd e.o.d.ovf (outDraw s e (walkC e.o.d) it t e.o.d.rnd stage) lines poss vals).bytes

end Sys2Proof
end

