-- ==== Sys2Proof/Certificates/Slice0/Obligations.lean ====
section
/-! DEFINITION. The statements for the provers: what the commands and the whole machine do, rule by rule of spec/. -/

open Sys2Proof Sys2Proof.Machine

/-! ## The queue and every command -/

/-- A step takes the command at the front of the queue and runs it on the state with the queue's rest; on an empty queue the
pace rings tick (log entry 6). -/
def Obligations.StepRunsFrontCommand : Prop :=
  (∀ (c : Instr) (rest : List Instr) (s : State), s.pending = c :: rest → step s = exec c { s with pending := rest }) ∧
  (∀ s : State, s.pending = [] → step s = .next (tick s))

/-- No command of the WJ2 ends in a fault or a refusal, in any state and with any operands, since the spec gives every access and every
event an outcome (R424, R490); and no command's effect reaches the queue of waiting commands. -/
def Obligations.CommandsRunAndLeaveTheQueue : Prop :=
  (∀ (i : Instr) (s : State), ∃ t, exec i s = .next t) ∧
  (∀ (i : Instr) (s t : State), exec i s = .next t → t.pending = s.pending)

/-! ## Reset and pins (R29, R386, R495, R513, R515) -/

/-- What reset leaves, as the Reset columns of the register tables give it (R495): read through the privileged view. -/
def Obligations.ResetRegisterValues : Prop :=
  (∀ b, b < 4 → regWord .priv (0x100 + 8 * b) State.reset = 0) ∧
  regWord .priv (pwrBase + 0x8) State.reset = 1 ∧ regWord .priv (pwrBase + 0x30) State.reset = 750 ∧
  regWord .priv hostBase State.reset = 4 ∧
  (∀ p, p < 1280 → regWord .priv (bringBase + 0x2000 + 8 * p) State.reset = 0xFFFFFFF07FF) ∧
  regWord .priv (rollBase + 0x30) State.reset = 4096 <<< 32 ∧
  (∀ i, i < 16 → regWord .priv (loftBase + 0x200 + 8 * i) State.reset = 0) ∧
  regWord .priv loftBase State.reset = 0x1008 ∧ regWord .priv (loftBase + 0x40) State.reset = 0x10C ∧
  (∀ c, c < 6 → regWord .priv (fabBase + 0x100 + 8 * c) State.reset = 0x80400 + (if c = 0 ∨ c = 2 then 64 else 0)) ∧
  (∀ g, g < 12 → regWord .priv (gateBase + 0x280 + 8 * g) State.reset = 0xF <<< 32) ∧
  regWord .priv (snapBase + 0x30) State.reset = 4 <<< 56 ∧ regWord .priv (snapBase + 0x40) State.reset = 256

/-- A low on RESET_N, or on PWRGD_AUX while RESET_N is high, returns every block to reset and keeps only the pins, the burned fuses and
the queue (R29, R515). The boot starts once RESET_N is released with PWRGD_AUX high; PWRGD_AUX falling in reset and PWRGD_CORE moving
with no barn powered change their pin alone (R386, R513). -/
def Obligations.PinsAndReset : Prop :=
  (∀ s : State, s.sec.run = none →
    exec .resetNAssert s = .next { State.reset with
      pending := s.pending, free := s.free, pins := { s.pins with resetN := false },
      sec := { ({} : SecBlk) with svnBurned := s.sec.svnBurned, epochsBurned := s.sec.epochsBurned } } ∧
    (s.pins.resetN = true → exec .pwrgdAuxFall s = .next { State.reset with
      pending := s.pending, free := s.free, pins := { s.pins with pwrgdAux := false },
      sec := { ({} : SecBlk) with svnBurned := s.sec.svnBurned, epochsBurned := s.sec.epochsBurned } })) ∧
  (∀ s : State,
    (s.pins.resetN = false → exec .resetNRelease s =
      .next { s with pins.resetN := true, dev.booting := s.dev.booting || s.pins.pwrgdAux }) ∧
    (s.pins.pwrgdAux = false → exec .pwrgdAuxRise s =
      .next { s with pins.pwrgdAux := true, dev.booting := s.dev.booting || s.pins.resetN }) ∧
    (s.pins.resetN = false → exec .pwrgdAuxFall s = .next { s with pins.pwrgdAux := false }) ∧
    exec .pwrgdCoreRise s = .next { s with pins.pwrgdCore := true } ∧
    (barnsOn s = false → exec .pwrgdCoreFall s = .next { s with pins.pwrgdCore := false }))

/-- The hub boot ROM ends (R388): BOOTED with the host link up on its four lowest wavelengths, or HUB_SELFTEST_FAIL raised and the
phase kept. -/
def Obligations.HubBootEnds : Prop :=
  ∀ s : State, s.dev.booting = true →
    (∃ t, exec (.hubBootDone true) s = .next t ∧ t.bring.phase = .booted ∧ t.host.up = true ∧ t.dev.booting = false ∧
      (engineAt t 12).active = [0, 1, 2, 3] ∧ t.flt = s.flt ∧ t.stalls = s.stalls ∧ t.loft = s.loft) ∧
    (∃ t, exec (.hubBootDone false) s = .next t ∧ t.bring = s.bring ∧ t.host = s.host ∧ t.dev.booting = false ∧
      ∃ r, t.flt.raised = s.flt.raised ++ [r] ∧ r.code = 0x0A04)

/-! ## Supplies, sensors and power (R407 to R421) -/

/-- PWRGD_CORE falling with the barns powered, and a powered die at 115 °C, stop the device until reset and raise their record once;
readings in range change nothing; an average updates PWR_MEAS, PWR_TEMP, HOT and VMISMATCH, and nothing outside the PWR block (R418 to
R420). -/
def Obligations.SensorsAndStops : Prop :=
  (∀ s : State,
    (s.pins.pwrgdCore = true → barnsOn s = true → s.pwr.supplyLogged = false →
      ∃ t, exec .pwrgdCoreFall s = .next t ∧ t.pwr.tripped = true ∧ t.pwr.stopped = true ∧ t.pins.pwrgdCore = false ∧
        t.loft = s.loft ∧ ∃ r ∈ t.flt.raised, r.code = 0x0702) ∧
    (∀ temps vcore, s.pins.resetN = true → s.pins.pwrgdAux = true → s.pwr.thermalLogged = false → 920 ≤ temps.getD 4 0 →
      ∃ t, exec (.sensorSample temps vcore) s = .next t ∧ t.pwr.tripped = true ∧ t.pwr.stopped = true ∧ t.loft = s.loft ∧
        ∃ r ∈ t.flt.raised, r.code = 0x0701)) ∧
  (∀ (s : State) (temps : List Int) (vcore : List Nat),
    ((∀ d, d < 5 → temps.getD d 0 < 920) → (∀ b, b < 4 → 600 ≤ vcore.getD b 0 ∧ vcore.getD b 0 ≤ 870) →
      exec (.sensorSample temps vcore) s = .next s) ∧
    (∀ power, s.pins.resetN = true → s.pins.pwrgdAux = true → barnsOn s = true → power < 2 ^ 16 → vcore.length = 4 →
      ∃ t, exec (.measAverage power temps vcore) s = .next t ∧ t = { s with pwr := t.pwr } ∧ t.pwr.power = power ∧
        t.pwr.updates = (s.pwr.updates + 1) % 2 ^ 32 ∧ (t.pwr.hot = true ↔ ∃ d, d < 5 ∧ 840 < temps.getD d 0) ∧
        t.pwr.vcore ∈ vcore ∧ (∀ v ∈ vcore, t.pwr.vcore ≤ v) ∧
        (∀ d, d < 5 → t.pwr.temps.getD d 0 = temps.getD d 0) ∧
        (t.pwr.vmismatch = true ↔ ∃ v ∈ vcore, s.pwr.vset + 25 < v ∨ v + 25 < s.pwr.vset) ∧
        t.pwr.vset = s.pwr.vset ∧ t.pwr.yardOn = s.pwr.yardOn))

/-- AUX, STANDBY and IDLE that meet their preconditions start a transition, and what the target state loses is lost at once; one that fails
a precondition has RESULT STATE, raises POWER_COMMAND_REFUSED and changes nothing else; and a transition with nothing queued behind it
completes, entry to AUX ending the results of bring-up but keeping the syllabus policy and keys (R409 to R411, R421, R496). -/
def Obligations.PowerTransitions : Prop :=
  (∀ (s : State) (v : View) (tag : Nat), Serves s 8 4 → v = .priv → s.pwr.moving = none → s.pwr.tripped = false →
    yardsMoving s = false →
    (stateAllowed .idle s = true →
      exec (.pwrIdle v tag) s = .next { s with pwr.moving := some .idle, pwr.tag := tag % 256, pwr.result := 0 }) ∧
    (stateAllowed .standby s = true →
      ∃ t, exec (.pwrStandby v tag) s = .next t ∧ t.pwr = { s.pwr with moving := some .standby, tag := tag % 256, result := 0 } ∧
        t.loft = s.loft ∧ t.syl = s.syl ∧ t.bring = s.bring ∧
        ∀ p, (stallP t p).scratch = [] ∧ (stallP t p).slots = [] ∧ (stallP t p).ledger = [] ∧ (stallP t p).tokens = 0) ∧
    (stateAllowed .aux s = true →
      ∃ t, exec (.pwrAux v tag) s = .next t ∧ t.pwr = { s.pwr with moving := some .aux, tag := tag % 256, result := 0 } ∧
        (∀ a, memGet t.loft.mem a = 0) ∧ t.syl = s.syl ∧ t.bring = s.bring ∧
        ∀ p, (stallP t p).scratch = [] ∧ (stallP t p).slots = [] ∧ (stallP t p).ledger = [] ∧ (stallP t p).tokens = 0)) ∧
  (∀ (s : State) (tag : Nat), Serves s 8 4 → s.pwr.moving = none → yardsMoving s = false →
    (stateAllowed .idle s = false → ∃ r : FRec, r.code = 0x0703 ∧ exec (.pwrIdle .priv tag) s =
      .next { s with pwr.tag := tag % 256, pwr.result := 2, flt.raised := s.flt.raised ++ [r] }) ∧
    (stateAllowed .standby s = false → ∃ r : FRec, r.code = 0x0703 ∧ exec (.pwrStandby .priv tag) s =
      .next { s with pwr.tag := tag % 256, pwr.result := 2, flt.raised := s.flt.raised ++ [r] }) ∧
    (stateAllowed .aux s = false → ∃ r : FRec, r.code = 0x0703 ∧ exec (.pwrAux .priv tag) s =
      .next { s with pwr.tag := tag % 256, pwr.result := 2, flt.raised := s.flt.raised ++ [r] })) ∧
  (∀ s : State, s.pwr.pend = none → s.pwr.yardsQueued = none →
    (s.pwr.moving = some .idle → exec .powerTransitionDone s = .next { s with pwr.st := .idle, pwr.moving := none }) ∧
    (s.pwr.moving = some .standby → exec .powerTransitionDone s = .next { s with pwr.st := .standby, pwr.moving := none }) ∧
    (s.pwr.moving = some .aux → ∃ t, exec .powerTransitionDone s = .next t ∧ t.pwr.st = .aux ∧ t.pwr.moving = none ∧
      t.bring.phase = (if s.bring.phase = .refused then .refused else .fwOk) ∧ t.bring.refusal = s.bring.refusal ∧
      t.bring.ready = false ∧ (∀ p, (pstAt t p).test = .untested ∧ (pstAt t p).logical = none) ∧
      t.syl.lock = s.syl.lock ∧ t.syl.require = s.syl.require ∧ t.syl.keyv = s.syl.keyv ∧ t.syl.keys = s.syl.keys ∧
      t.syl.slots = [] ∧ t.roll = {} ∧ t.rng = {} ∧ t.vid = {} ∧ t.ctx = {} ∧ t.sec = s.sec ∧ t.flt = s.flt ∧ t.dev = s.dev ∧
      t.host = s.host))

/-- YARDS with no yard in motion gates at once every yard to be gated, and ungates at most one of each barn at a time; a yard completes its
move with PWR_YARD_ON following, and an ungated yard's memories read zero (R413, R414). -/
def Obligations.YardMoves : Prop :=
  (∀ (s : State) (tag : Nat), Serves s 8 4 → barnsOn s = true → s.pwr.tripped = false →
    s.pwr.gating = 0 → s.pwr.ungating = 0 → s.pwr.waitingY = 0 → s.pwr.pendY = 0 →
    (∀ y, y < 40 → s.pwr.yardOn.getLsbD y = true → s.pwr.yardSet.getLsbD y = false → yardFree s y = true) →
    ∃ t, exec (.pwrYards .priv tag) s = .next t ∧ t.pwr.result = 0 ∧ t.pwr.tag = tag % 256 ∧
      t.pwr.gating = s.pwr.yardOn &&& ~~~s.pwr.yardSet ∧
      t.pwr.ungating ||| t.pwr.waitingY = s.pwr.yardSet &&& ~~~s.pwr.yardOn ∧ t.pwr.yardOn = s.pwr.yardOn ∧
      (∀ y z, y < 40 → z < 40 → y / 10 = z / 10 → t.pwr.ungating.getLsbD y = true → t.pwr.ungating.getLsbD z = true → y = z) ∧
      t.loft = s.loft ∧ t.host = s.host ∧ t.bring = s.bring) ∧
  (∀ (s : State) (y : Nat), y < 40 → s.pwr.pendY = 0 → s.pwr.pend = none →
    (s.pwr.gating.getLsbD y = true → exec (.yardGateDone y) s =
      .next { s with pwr.gating := s.pwr.gating &&& ~~~yardBit y, pwr.yardOn := s.pwr.yardOn &&& ~~~yardBit y }) ∧
    (s.pwr.ungating.getLsbD y = true → s.pwr.waitingY.getLsbD y = false →
      ∃ t, exec (.yardUngateDone y) s = .next t ∧ t.pwr.yardOn = s.pwr.yardOn ||| yardBit y ∧
      t.pwr.ungating.getLsbD y = false ∧
      (∀ p, yardOf p = y → (stallP t p).scratch = [] ∧ (stallP t p).slots = [] ∧ (stallP t p).ledger = []) ∧
      (∀ p, yardOf p ≠ y → stallP t p = stallP s p) ∧ t.loft = s.loft))

/-! ## Bring-up (R388 to R406) -/

/-- FUSE_READ takes copy A if its CRC passes, and refuses the device if neither copy's does; SELFTEST marks the stalls of its wave RUNNING;
and the last report, or ABORT, ends the wave in phase TESTING (R389, R392, R394 to R396). -/
def Obligations.StallQualification : Prop :=
  (∀ (s : State) (tag : Nat) (a b : List Byte), Serves s 9 0 → s.bring.run = none → s.bring.ended = false →
    (s.bring.phase = .fwOk → fuseCrcOk a = true → fuseMapOk a = true →
      ∃ t, exec (.bringFuseRead .priv tag a b) s = .next t ∧ t.bring.phase = .fused ∧ t.bring.result = 0 ∧
        t.bring.tag = tag % 256 ∧
        (∀ p, p < 1280 → (pstAt t p).rs0 = bits (fuseStall a p) 6 0 ∧ (pstAt t p).rs1 = bits (fuseStall a p) 13 7 ∧
          (pstAt t p).cs0 = bits (fuseStall a p) 20 14 ∧ (pstAt t p).cs1 = bits (fuseStall a p) 27 21 ∧
          (pstAt t p).fuseBad = (fuseStall a p).testBit 28) ∧
        t.flt = s.flt ∧ t.stalls = s.stalls ∧ t.loft = s.loft) ∧
    (s.bring.phase = .fused → waveInvalid (markedStalls s) = false →
      (∀ p ∈ markedStalls s, yardUp s (yardOf p) = true ∧ (pstAt s p).test = .untested) →
      ∃ t, exec (.bringSelftest .priv tag) s = .next t ∧ t.bring.run = some (.selftest, tag % 256) ∧
        (∀ p, (pstAt t p).test = if p ∈ markedStalls s then .running else (pstAt s p).test) ∧ t.bring.phase = .fused ∧
        t.flt = s.flt ∧ t.stalls = s.stalls)) ∧
  (∀ (s : State) (tag : Nat) (a b : List Byte), Serves s 9 0 → s.bring.run = none → s.bring.ended = false →
    s.bring.phase = .fwOk → fuseCrcOk a = false → fuseCrcOk b = false →
    ∃ t, exec (.bringFuseRead .priv tag a b) s = .next t ∧ t.bring.phase = .refused ∧ t.bring.refusal = 0x0A03 ∧
      t.bring.result = 4 ∧ t.bring.pst = s.bring.pst ∧ (∀ g, (gateAt t g).en = false) ∧
      ∃ r, t.flt.raised = s.flt.raised ++ [r] ∧ r.code = 0x0A03) ∧
  (∀ (s : State) (tag ctag p : Nat) (r : TestResult), s.bring.run = some (.selftest, tag) → unitStopped s 9 0 = false →
    ((pstAt s p).test = .running → (pstAt s p).drillStop = false →
      (∀ q ∈ s.bring.wave, q ≠ p → (pstAt s q).test ≠ .running) →
      ∃ t, exec (.selftestStallReport p r) s = .next t ∧ (pstAt t p).test = testOf r ∧
        (∀ q, q ≠ p → pstAt t q = pstAt s q) ∧ t.bring.run = none ∧ t.bring.phase = .testing ∧ t.bring.result = 0 ∧
        t.bring.tag = tag ∧ t.flt = s.flt ∧ t.stalls = s.stalls) ∧
    (Serves s 9 0 →
      ∃ t, exec (.bringAbort .priv ctag) s = .next t ∧ t.bring.run = none ∧ t.bring.phase = .testing ∧ t.bring.result = 0 ∧
        t.bring.tag = ctag % 256 ∧
        (∀ q, (pstAt t q).test = if (pstAt s q).test = .running then .failOther else (pstAt s q).test) ∧
        t.flt = s.flt ∧ t.stalls = s.stalls))

/-- RECONCILE (R397, R398) with every stall tested and none of it failing or fuse-bad: logical stall n is served by its home
position. -/
def Obligations.ReconcileMapsHomes : Prop :=
  ∀ (s : State) (tag : Nat), Serves s 9 0 → s.bring.run = none → s.bring.ended = false → s.bring.phase = .testing →
    (∀ p, (pstAt s p).logical = none) →
    (∀ p, p < 1280 → (pstAt s p).fuseBad = false ∧ (pstAt s p).test = .pass) →
    ∃ t, exec (.bringReconcile .priv tag) s = .next t ∧ t.bring.phase = .reconciled ∧ t.bring.result = 0 ∧
      (∀ n, n < 1200 → (pstAt t (32 * (n / 30) + n % 30)).logical = some n) ∧
      (∀ p, 30 ≤ p % 32 → (pstAt t p).logical = none) ∧ t.bring.disagree = s.bring.disagree ∧ t.flt = s.flt

/-- FW_BCAST, LOFT_TEST and LINK_QUAL start in their phases, and finish without a failure: BROADCAST with every serving stall that no error
in drill mode has stopped holding the image, LOFT_OK with every loft byte zero and no poison, QUALIFIED once the internal links and the host and store engines have passed
(R399, R401, R402, R404). -/
def Obligations.BringUpTasks : Prop :=
  (∀ (s : State) (tag arg : Nat), Serves s 9 0 → s.bring.run = none → s.bring.ended = false →
    (s.bring.phase = .reconciled →
      exec (.bringFwBcast .priv tag) s = .next { s with bring.run := some (.fwBcast, tag % 256) }) ∧
    (s.bring.phase = .main → s.bring.loftTested = false → s.bring.wasReady = false → barnsOn s = true →
      exec (.bringLoftTest .priv tag) s = .next { s with bring.run := some (.loftTest, tag % 256) }) ∧
    (s.bring.phase = .loftOk → bits arg 14 0 ≠ 0 →
      exec (.bringLinkQual .priv tag arg) s = .next { s with bring.run := some (.linkQual arg, tag % 256) })) ∧
  (∀ (s : State) (tag : Nat),
    (s.bring.run = some (.fwBcast, tag) → unitStopped s 9 0 = false → s.bring.phase = .reconciled →
      ∃ t, exec (.fwBcastDone []) s = .next t ∧ t.bring.phase = .broadcast ∧ t.bring.result = 0 ∧ t.bring.run = none ∧
        (∀ p, (pstAt t p).logical = (pstAt s p).logical) ∧
        (∀ p, (pstAt s p).logical ≠ none → (pstAt s p).drillStop = false → (pstAt t p).fw = true) ∧
        (∀ p, (∀ e ∈ s.bring.pst, e.1 = p → e.2.drillStop = true) → pstAt t p = pstAt s p) ∧ t.flt = s.flt) ∧
    (s.bring.run = some (.loftTest, tag) → (exhausted s.bring.fuseRemap []) = none →
      ∃ t, exec (.loftTestDone [] []) s = .next t ∧ t.bring.phase = .loftOk ∧ t.bring.result = 0 ∧ t.bring.run = none ∧
        (∀ a, memGet t.loft.mem a = 0) ∧ t.loft.poison = [] ∧ t.stalls = s.stalls ∧ t.flt = s.flt)) ∧
  (∀ (s : State) (tag : Nat), s.bring.run = some (.linkQual 0x1000, tag) → s.bring.phase = .loftOk → s.bring.hostPass = true →
    s.bring.storePass = true →
    ∃ t, exec (.linkQualDone { engines := [], ringFail := 0, hubFail := 0, vlinkFail := [] }) s = .next t ∧
      t.bring.phase = .qualified ∧ t.bring.intDone = true ∧ t.bring.result = 0 ∧ t.bring.run = none ∧ t.flt = s.flt ∧
      t.gate = s.gate)

/-- MAIN installs the map and leaves drill mode; READY sets READY; DRILL returns an idle, unowned and unloaded device to drill mode. In drill
mode a unit that detects an error sends its record and stops: a stall until UNIT_RESET, any other unit until reset; a corrected word and a
firmware digest failure stop no unit. A unit that has stopped raises nothing more and its commands do nothing, and the gates accept no group
traffic (R24, R27, R400, R405, R406, R516). -/
def Obligations.ModesAndDrill : Prop :=
  (∀ (s : State) (tag p : Nat), Serves s 9 0 → s.bring.run = none → s.bring.ended = false →
    (s.bring.phase = .broadcast →
      ∃ t, exec (.bringMain .priv tag) s = .next t ∧ t.bring.main = true ∧ t.bring.drill = false ∧ t.bring.phase = .main ∧
        t.bring.ready = false ∧ t.fab.mapped = true ∧
        (∀ n, n < 1200 → tget 0 t.fab.lmap n = ((physOf s n).map fun q => 0x8000 + q).getD 0) ∧ t.stalls = s.stalls) ∧
    (s.bring.phase = .qualified → readyConfirms s = true →
      ∃ t, exec (.bringReady .priv tag) s = .next t ∧ t.bring.ready = true ∧ t.bring.phase = .ready ∧ t.bring.result = 0 ∧
        t.stalls = s.stalls ∧ t.loft = s.loft) ∧
    (s.bring.phase = .ready → pstateCode s = 3 → s.pwr.moving = none → s.sec.owned = false → residentCount s = 0 →
      ∃ t, exec (.bringDrill .priv tag) s = .next t ∧ t.bring.ready = false ∧ t.bring.main = false ∧ t.bring.drill = true ∧
        t.bring.phase = .drillReturn ∧ t.bring.result = 0 ∧ t.stalls = s.stalls) ∧
    (s.bring.phase ≠ .refused → s.bring.drill = true → p < 1280 →
      ∃ t, exec (.bringUnitReset .priv tag p) s = .next t ∧ (pstAt t p).drillStop = false ∧
        (∀ q, q ≠ p → pstAt t q = pstAt s q) ∧ t.bring.result = 0 ∧ t.stalls = s.stalls)) ∧
  (∀ (s : State) (source unit code addr : Nat),
    (s.bring.drill = true → unitDown s source unit = false → code ≠ 0x0604 → code ≠ 0x0401 →
      ∃ t, exec (.drillUnitError source unit code addr) s = .next t ∧ unitDown t source unit = true ∧
        (∃ r, t.flt.raised = s.flt.raised ++ [r] ∧ r.code = code ∧ r.source = source ∧ r.unit = unit) ∧
        (∀ x y, x ≠ source ∨ y ≠ unit → unitDown t x y = unitDown s x y) ∧
        (∀ q, (pstAt t q).logical = (pstAt s q).logical ∧ (pstAt t q).test = (pstAt s q).test) ∧
        t.stalls = s.stalls ∧ t.loft = s.loft) ∧
    (s.bring.drill = true → unitDown s source unit = false → code = 0x0604 ∨ code = 0x0401 →
      ∃ t r, exec (.drillUnitError source unit code addr) s = .next t ∧ r.code = code ∧
        t = { s with flt.raised := s.flt.raised ++ [r] }) ∧
    (s.bring.drill = false ∨ unitDown s source unit = true → exec (.drillUnitError source unit code addr) s = .next s)) ∧
  (∀ (s : State) (v : View) (tag n : Nat) (x : W64),
    (unitStopped s 4 0 = true → exec (.rngSeedWrite v x) s = .next s ∧ exec (.rollRun v tag n) s = .next s ∧
      exec (.registerWrite v n [x] none) s = .next s ∧ exec (.registerRead v tag n 8) s = .next s) ∧
    (unitStopped s 9 0 = true → exec (.bringMain .priv tag) s = .next s ∧ exec (.bringAbort .priv tag) s = .next s) ∧
    (unitStopped s 8 4 = true → exec (.pwrIdle .priv tag) s = .next s ∧ exec (.pwrYards .priv tag) s = .next s) ∧
    (unitStopped s 7 0 = true →
      exec (.secVerify .priv tag n) s = .next s ∧ exec (.secSvnCommit .priv tag) s = .next s ∧ exec .signDone s = .next s) ∧
    (s.bring.drill = true →
      exec (.gatePktData n) s = .next s ∧ exec (.gatePktCredit n) s = .next s ∧ exec (.gateAbort n) s = .next s))

/-! ## Firmware, attestation and ownership (R427 to R434) -/

/-- VERIFY starts its fetch in BOOTED, and a verified image at or above the fused version leads to FW_OK, one below it to FW_ROLLBACK and
REFUSED; SVN_COMMIT leaves the fused version at the running one; and the identity tree of a consumed epoch is built (R429, R430, R432). -/
def Obligations.FirmwareAndFuses : Prop :=
  (∀ (s : State) (tag len : Nat), Serves s 7 0 → s.sec.run = none →
    (s.bring.phase = .booted →
      ∃ t, exec (.secVerify .priv tag len) s = .next t ∧ t.sec.run = some (.verify (len % 2 ^ 32), tag % 256) ∧
        t.sec.fetchBad = false ∧ t.bring = s.bring ∧ t.flt = s.flt ∧ t.sec.fw = s.sec.fw ∧
        t.sec.epochsBurned = s.sec.epochsBurned) ∧
    (fwOnward s = true → fusedSvn s < runningSvn s →
      exec (.secSvnCommit .priv tag) s = .next { s with sec.run := some (.svnCommit, tag % 256) }) ∧
    (fwOnward s = true → runningSvn s ≤ fusedSvn s →
      exec (.secSvnCommit .priv tag) s = .next { s with sec.run := none, sec.tag := tag % 256, sec.result := 0 }) ∧
    (s.sec.epoch.isSome = true → exec .idTreeBuilt s = .next { s with sec.tree := true })) ∧
  (∀ (s : State) (tag len : Nat), unitStopped s 7 0 = false →
    (s.sec.run = some (.verify len, tag) → fetchOver len s = true → s.sec.fetchBad = false → fwHeaderOk (fwBytes s) len = true →
      fwSignatureOk (fwBytes s) = true → fusedSvn s ≤ byteAt (fwBytes s) 6 → s.bring.phase = .booted → s.sec.stepFive = false →
      epochsUsed s < 32768 →
      ∃ t, exec (.verifyDone true) s = .next t ∧ t.bring.phase = .fwOk ∧ t.sec.result = 0 ∧ t.sec.run = none ∧
        runningSvn t = byteAt (fwBytes s) 6 ∧ t.sec.epochsBurned = s.sec.epochsBurned + 1 ∧ t.sec.epoch = some (epochsUsed s) ∧
        t.sec.epochOk = true ∧ t.flt = s.flt ∧ t.stalls = s.stalls) ∧
    (s.sec.run = some (.svnCommit, tag) → fusedSvn s ≤ runningSvn s → runningSvn s ≤ 64 →
      ∃ t, exec .svnCommitDone s = .next t ∧ fusedSvn t = runningSvn s ∧ t.sec.run = none ∧ t.sec.result = 0 ∧ t.sec.tag = tag ∧
        t.bring = s.bring ∧ t.flt = s.flt)) ∧
  (∀ (s : State) (tag len : Nat) (burnOk : Bool), unitStopped s 7 0 = false → s.sec.run = some (.verify len, tag) → fetchOver len s = true →
    s.sec.fetchBad = false → fwHeaderOk (fwBytes s) len = true → fwSignatureOk (fwBytes s) = true →
    byteAt (fwBytes s) 6 < fusedSvn s →
    ∃ t, exec (.verifyDone burnOk) s = .next t ∧ t.bring.phase = .refused ∧ t.bring.refusal = 0x0602 ∧ t.sec.fw = s.sec.fw ∧
      t.sec.epochsBurned = s.sec.epochsBurned ∧ t.sec.result = 4 ∧ ∃ r, t.flt.raised = s.flt.raised ++ [r] ∧ r.code = 0x0602)

/-- SIGN reads its nonce and, once TREE is set, writes the report and its signature, spends one leaf and posts its record
(R434). -/
def Obligations.SignWritesReport : Prop :=
  ∀ (s : State) (v : View) (tag : Nat) (nonce : List Byte), Serves s 7 0 →
    (s.sec.sign = none → 2 ≤ phaseCode s.bring.phase → signRefusal s = none →
      exec (.secSign v tag (some nonce)) s = .next { s with
        sec.sign := some { view := v, tag := tag % 256, addr := s.sec.attAddr, nonce := padTo 32 nonce } }) ∧
    (∀ r : SignRun, s.sec.sign = some r → s.sec.tree = true →
      ∃ t, exec .signDone s = .next t ∧ t.sec.leaf = s.sec.leaf + 1 ∧ t.sec.sign = none ∧ t.sec.attTag = r.tag ∧
        t.sec.attResult = 0 ∧ (∃ c ∈ (queueAt t s.host.evq).waiting, c.tag = r.tag ∧ c.status = 0) ∧
        t.bring = s.bring ∧ t.loft = s.loft ∧ t.stalls = s.stalls ∧ t.flt = s.flt)

/-- GRANT clears the previous owner's roll entries, seed, job queues and job log, and sets OWNED and JOBID; RELEASE clears them
(R427). -/
def Obligations.OwnershipChanges : Prop :=
  ∀ (s : State) (jobid : Nat), hubServes s = true → jobid < 2 ^ 32 →
    (grantOk s = true →
      ∃ t, exec (.secJobGrant .priv jobid) s = .next t ∧ t.sec.owned = true ∧ t.sec.jobid = jobid ∧ t.roll.entries = [] ∧
        t.rng.seed = 0 ∧ t.rng.base = [] ∧ t.host.evq = 0 ∧ (∀ q, q < 16 → queueAt t q = {}) ∧
        (∀ q, 16 ≤ q → queueAt t q = queueAt s q) ∧ t.flt.jlog = {} ∧ t.flt.dlog = s.flt.dlog ∧ t.loft = s.loft ∧
        t.stalls = s.stalls ∧ t.syl = s.syl) ∧
    (releaseOk s = true →
      exec (.secJobRelease .priv jobid) s = .next { s with sec.owned := false, sec.jobid := 0 })

/-! ## The syllabus cache (R220 to R233) -/

/-- STAGE appends its bytes to a slot at its fill point and writes them into the cache partition, and has result 3 where the partition lacks
room; FINISH of an image that passes every check makes the slot STAGED; EVICT and ABORT empty a slot (R203, R222 to R224). -/
def Obligations.SyllabusStaging : Prop :=
  ∀ (s : State) (v : View) (slot tag : Nat), Reaches s v sylBase → jobBar false s = none →
    (∀ bs, s.syl.argLen ≠ 0 →
      ((slotAt s (slot % 64)).st = .empty ∧ s.syl.argOff = 0 ∨
        (slotAt s (slot % 64)).st = .filling ∧ s.syl.argOff = (imgAt s (slot % 64)).length) →
      (∀ pages runs, cachePlace s (slot % 64) (imgAt s (slot % 64)).length (imgAt s (slot % 64) ++ padTo s.syl.argLen bs) =
          some (pages, runs) →
        (256 ≤ (imgAt s (slot % 64) ++ padTo s.syl.argLen bs).length →
          (imgAt s (slot % 64) ++ padTo s.syl.argLen bs).length ≤ imgLength (imgAt s (slot % 64) ++ padTo s.syl.argLen bs)) →
        ∃ t, exec (.sylStage v slot tag (some bs)) s = .next t ∧
          Completed tag 0 [] { runs.foldl (fun s r =>
              hubWrite r.1 (slice (imgAt s (slot % 64) ++ padTo s.syl.argLen bs) r.2.1 r.2.2) s) s with
            syl.stageTag := tag % 256
            syl.stageResult := 0
            syl.slots := tset s.syl.slots (slot % 64) { slotAt s (slot % 64) with
              st := .filling, bytes := imgAt s (slot % 64) ++ padTo s.syl.argLen bs, pages := pages } } t ∧
          (Memory.wf s.loft.mem = true → ∀ a,
            (∀ r ∈ runs, a < r.1 ∨
              r.1 + (slice (imgAt s (slot % 64) ++ padTo s.syl.argLen bs) r.2.1 r.2.2).length ≤ a) →
            memGet t.loft.mem a = memGet s.loft.mem a)) ∧
      (cachePlace s (slot % 64) (imgAt s (slot % 64)).length (imgAt s (slot % 64) ++ padTo s.syl.argLen bs) = none →
        ∃ t, exec (.sylStage v slot tag (some bs)) s = .next t ∧
          Completed tag 3 [] { s with syl.stageTag := tag % 256, syl.stageResult := 3 } t)) ∧
    ((slotAt s (slot % 64)).st = .filling →
      finishFault s.syl.require s.syl.keyv s.syl.keys (imgAt s (slot % 64)) = none →
      ∃ t, exec (.sylFinish v slot tag) s = .next t ∧
        Completed tag 0 [] { s with
          syl.stageTag := tag % 256
          syl.stageResult := 0
          syl.slots := tset s.syl.slots (slot % 64) { slotAt s (slot % 64) with
            st := .staged, signed := s.syl.require || imgSigLen (imgAt s (slot % 64)) ≠ 0 } } t) ∧
    (pinned s (slot % 64) = false → (slotAt s (slot % 64)).st = .staged ∨ (slotAt s (slot % 64)).st = .bad →
      ∃ t, exec (.sylEvict v slot tag) s = .next t ∧
        Completed tag 0 [] { s with
          syl.stageTag := tag % 256
          syl.stageResult := 0
          syl.slots := tdel s.syl.slots (slot % 64) } t) ∧
    ((slotAt s (slot % 64)).st = .filling ∨ (slotAt s (slot % 64)).st = .bad →
      ∃ t, exec (.sylAbort v slot tag) s = .next t ∧
        Completed tag 0 [] { s with
          syl.stageTag := tag % 256
          syl.stageResult := 0
          syl.slots := tdel s.syl.slots (slot % 64) } t)

/-- LOAD of a STAGED slot that passes its checks holds outputs, beside those a failed LOAD still holds, and runs its phases; one that ends
well takes the image as the loft holds it, makes its slot RESIDENT, its circuits STOPPED at round 0, its counters zero and its stalls fresh,
and ends its hold; a damaged copy makes the slot BAD and keeps the hold, which CLEAR ends; UNLOAD of an idle image frees its stalls and
circuits (R225 to R230). -/
def Obligations.SyllabusLoads : Prop :=
  (∀ (s : State) (v : View) (slot tag : Nat), Reaches s v sylBase → s.syl.load = none →
    (jobBar true s = none → loadBar s (slot % 64) = none →
      exec (.sylLoad v slot tag) s = .next { s with
        syl.load := some { slot := slot % 64, issuer := regIssuer tag, start := s.dev.paceHub }
        syl.held := true
        syl.heldFull := s.syl.failFull || !imgPartial (cachedImage s (slotAt s (slot % 64)))
        syl.heldStalls := s.syl.failStalls ++ stallSet (cachedImage s (slotAt s (slot % 64))) }) ∧
    (jobBar false s = none → s.syl.loadFailed = true →
      ∃ t, exec (.sylClear v slot tag) s = .next t ∧
        Completed tag 0 [] { s with
          syl.loadTag := tag % 256
          syl.loadResult := 0
          syl.held := false
          syl.heldFull := false
          syl.heldStalls := []
          syl.loadFailed := false
          syl.failFull := false
          syl.failStalls := [] } t)) ∧
  (∀ (s : State) (l : LoadRun), s.syl.load = some l →
    ((∀ w ∈ cachedWords (slotAt s l.slot), poisonedWord s w = false) →
      ∃ t, exec (.sylLoadCommit { corrected := [], uncorrectable := [] }) s = .next t ∧ (slotAt t l.slot).st = .resident ∧
      imgAt t l.slot = cachedImage s (slotAt s l.slot) ∧
      t.syl.held = s.syl.loadFailed ∧ t.syl.heldFull = s.syl.failFull ∧ t.syl.heldStalls = s.syl.failStalls ∧ t.syl.load = none ∧
      t.syl.loadResult = 0 ∧ t.syl.loadTag = l.issuer.tag % 256 ∧
      (∀ r ∈ circuitsOf (imgAt t l.slot), circAt t r.circuit = { st := .stopped }) ∧
      (∀ i ∈ hubCounters (imgAt t l.slot), tget {} t.hubCtr i = {}) ∧
      (∀ i ∈ yardCounters (imgAt t l.slot), tget {} t.yardCtr i = {}) ∧
      (imgPartial (imgAt t l.slot) = false → t.roll.entries = []) ∧
      (∀ n ∈ stallSet (imgAt t l.slot), ∀ p, physOf s n = some p →
        (stallP t p).prog = none ∧ (stallP t p).slots = [] ∧ (stallP t p).tokens = 0 ∧ (stallP t p).ring = []) ∧
      t.flt = s.flt ∧ t.bring = s.bring) ∧
    (∀ bad : List Nat, (∃ w ∈ cachedWords (slotAt s l.slot), poisonedWord s w = true ∨ w ∈ bad) →
      ∃ t, exec (.sylLoadCommit { corrected := [], uncorrectable := bad }) s = .next t ∧ (slotAt t l.slot).st = .bad ∧ t.syl.held = s.syl.held ∧
      t.syl.load = none ∧ t.syl.loadFailed = true ∧ t.syl.failFull = s.syl.heldFull ∧ t.syl.failStalls = s.syl.heldStalls ∧
      t.syl.loadResult = 4 ∧ t.syl.faultCode = 0x0102 ∧ t.stalls = s.stalls ∧ t.loft.mem = s.loft.mem ∧
      t.roll = s.roll ∧ ∃ r, t.flt.raised = s.flt.raised ++ [r] ∧ r.code = 0x0102)) ∧
  (∀ (s : State) (v : View) (slot tag : Nat), Reaches s v sylBase → jobBar true s = none → s.syl.load = none →
    (slotAt s (slot % 64)).st = .resident → unloadBusy s (imgAt s (slot % 64)) = false →
    ∃ t, exec (.sylUnload v slot tag) s = .next t ∧ (slotAt t (slot % 64)).st = .staged ∧
      imgAt t (slot % 64) = imgAt s (slot % 64) ∧ t.syl.loadResult = 0 ∧ t.syl.loadTag = tag % 256 ∧
      (∀ n ∈ stallSet (imgAt s (slot % 64)), ∀ p, physOf s n = some p → (stallP t p).loaded = none ∧ (stallP t p).prog = none) ∧
      (∀ p, (∀ n ∈ stallSet (imgAt s (slot % 64)), physOf s n ≠ some p) → stallP t p = stallP s p) ∧
      (∀ r ∈ circuitsOf (imgAt s (slot % 64)), circAt t r.circuit = {}) ∧
      (∀ p, (stallP t p).scratch = (stallP s p).scratch) ∧ t.loft = s.loft ∧ t.roll.entries = s.roll.entries)

/-- SYL_POLICY and the SYL_KEY registers take a write only while LOCK is clear, a key's registers only while its KEYV bit is clear
(R232, R233). -/
def Obligations.SyllabusPolicyAndKeys : Prop :=
  ∀ (s : State) (k w : Nat) (value : W64), hubServes s = true →
    (s.syl.lock = false → exec (.sylPolicyWrite .priv value) s = .next { s with
      syl.lock := value.getLsbD 9, syl.require := value.getLsbD 8, syl.keyv := (value.extractLsb' 0 4).toNat }) ∧
    (s.syl.lock = true → exec (.sylPolicyWrite .priv value) s = .next s ∧ exec (.sylKeyWrite .priv k w value) s = .next s) ∧
    (s.syl.keyv.testBit k = true → exec (.sylKeyWrite .priv k w value) s = .next s) ∧
    (s.syl.lock = false → s.syl.keyv.testBit k = false → exec (.sylKeyWrite .priv k w value) s =
      .next { s with syl.keys := tset s.syl.keys (7 * k + w) value })

/-! ## The roll and rounds (R236 to R257) -/

/-- READ, WRITE, PAUSE, RESUME and RELEASE of a roll entry in the states that R251 lists. -/
def Obligations.RollEntryCommands : Prop :=
  ∀ (s : State) (v : View) (tag i : Nat), Reaches s v rollBase →
    (unitBar s = none → ∃ t, exec (.rollRead v tag i) s = .next t ∧
      Completed tag 0 (zeros 8 ++ (entryWords (entryAt s (i % 4096))).flatMap fun w => leBytes 8 w.toNat)
        { s with roll.regs := entryAt s (i % 4096), roll.tag := tag % 256, roll.result := 0 } t) ∧
    (jobBar true s = none → (entryAt s (i % 4096)).st = .free ∨ (entryAt s (i % 4096)).st = .done ∨ (entryAt s (i % 4096)).st = .paused →
      entryOk s (i % 4096) s.roll.regs = true → ∃ t, exec (.rollWrite v tag i) s = .next t ∧
        Completed tag 0 [] { s with
          roll.entries := tset s.roll.entries (i % 4096)
            { s.roll.regs with via := .reg, st := .ready, ppend := false, order := s.roll.readyCount }
          roll.readyCount := s.roll.readyCount + 1
          roll.tag := tag % 256
          roll.result := 0 } t) ∧
    (jobBar true s = none → (entryAt s (i % 4096)).st = .ready → ∃ t, exec (.rollPause v tag i) s = .next t ∧
      Completed tag 0 [] { s with
        roll.entries := tset s.roll.entries (i % 4096) { entryAt s (i % 4096) with st := .paused }
        roll.tag := tag % 256
        roll.result := 0 } t) ∧
    (jobBar true s = none → (entryAt s (i % 4096)).st = .inflight → ∃ t, exec (.rollPause v tag i) s = .next t ∧
      Completed tag 0 [] { s with
        roll.entries := tset s.roll.entries (i % 4096) { entryAt s (i % 4096) with ppend := true }
        roll.tag := tag % 256
        roll.result := 0 } t) ∧
    (jobBar true s = none → (entryAt s (i % 4096)).st = .paused → ∃ t, exec (.rollResume v tag i) s = .next t ∧
      Completed tag 0 [] { s with
        roll.entries := tset s.roll.entries (i % 4096)
          { entryAt s (i % 4096) with st := .ready, ppend := false, order := s.roll.readyCount }
        roll.readyCount := s.roll.readyCount + 1
        roll.tag := tag % 256
        roll.result := 0 } t) ∧
    (jobBar true s = none → (entryAt s (i % 4096)).st = .inflight → ∃ t, exec (.rollResume v tag i) s = .next t ∧
      Completed tag 0 [] { s with
        roll.entries := tset s.roll.entries (i % 4096) { entryAt s (i % 4096) with ppend := false }
        roll.tag := tag % 256
        roll.result := 0 } t) ∧
    (jobBar true s = none →
      (entryAt s (i % 4096)).st = .ready ∨ (entryAt s (i % 4096)).st = .paused ∨ (entryAt s (i % 4096)).st = .done →
      ∃ t, exec (.rollRelease v tag i) s = .next t ∧
      Completed tag 0 [] { s with
        roll.entries := tset s.roll.entries (i % 4096) { entryAt s (i % 4096) with st := .free, ppend := false }
        roll.tag := tag % 256
        roll.result := 0 } t) ∧
    (jobBar true s = none → (entryAt s (i % 4096)).st = .inflight → ∃ t, exec (.rollRelease v tag i) s = .next t ∧
      Completed tag 1 [] { s with roll.tag := tag % 256, roll.result := 1 } t)

/-- RUN starts a STOPPED circuit with its ROLL_DRIVEN mark; DRAIN discards the pending worklists and drains what is in flight; WORKLIST
makes its entries INFLIGHT and queues them (R250, R251, R253, R254). -/
def Obligations.RollCircuitCommands : Prop :=
  ∀ (s : State) (v : View) (tag c : Nat), Reaches s v rollBase → jobBar true s = none →
    (s.flt.jstopped = false → (circAt s (c % 32)).st = .stopped → ∃ t, exec (.rollRun v tag c) s = .next t ∧
      Completed tag 0 [] { s with
        roll.circuits := tset s.roll.circuits (c % 32)
          { circAt s (c % 32) with st := .running, driven := s.roll.mark.getLsbD (c % 32) }
        roll.tag := tag % 256
        roll.result := 0 } t) ∧
    ((circAt s (c % 32)).st = .running ∨ (circAt s (c % 32)).st = .draining →
      ∃ t, exec (.rollDrain v tag c) s = .next t ∧ t.roll.result = 0 ∧ t.roll.tag = tag % 256 ∧
        circAt t (c % 32) = { circAt s (c % 32) with
          pending := [], st := if (circAt s (c % 32)).flight = [] then .stopped else .draining } ∧
        (∀ d, d ≠ c % 32 → circAt t d = circAt s d) ∧
        (∀ w ∈ (circAt s (c % 32)).pending, ∀ i ∈ w.entries,
          (entryAt t i).st = .ready ∧ (entryAt t i).step = (entryAt s i).step) ∧
        (∀ i, (∀ w ∈ (circAt s (c % 32)).pending, i ∉ w.entries) → entryAt t i = entryAt s i) ∧
        t.stalls = s.stalls ∧ t.loft = s.loft ∧ t.flt = s.flt) ∧
    (∀ b es, es = ((List.range (byteAt b 1)).map fun i => leAt b (16 + 2 * i) 2) →
      worklistBar s (byteAt b 0) (byteAt b 1) es = none →
      ∃ t, exec (.rollWorklist v tag (some b)) s = .next t ∧ t.roll.result = 0 ∧ t.roll.tag = tag % 256 ∧
        circAt t (byteAt b 0) = { circAt s (byteAt b 0) with
          pending := (circAt s (byteAt b 0)).pending ++ [{ tag := leAt b 4 4, via := .reg, entries := es }] } ∧
        (∀ d, d ≠ byteAt b 0 → circAt t d = circAt s d) ∧
        (∀ i, entryAt t i = if i ∈ es then { entryAt s i with st := .inflight } else entryAt s i) ∧
        t.stalls = s.stalls ∧ t.loft = s.loft ∧ t.flt = s.flt)

/-- ROLL_DRIVEN keeps its marks on a write of more than eight, and takes any other (R250). -/
def Obligations.RollDrivenKeepsEightMarks : Prop :=
  ∀ (s : State) (value : W64), hubServes s = true →
    (8 < (setBits 32 value.toNat).length → exec (.rollDrivenWrite .priv value) s = .next s) ∧
    ((setBits 32 value.toNat).length ≤ 8 →
      exec (.rollDrivenWrite .priv value) s = .next { s with roll.mark := value.setWidth 32 })

/-- A worklist or a selection is issued as a round into every stall of its circuit; the oldest round completes once every stall of the
circuit has ended its program, and each sample's STEP advances and the sample is DONE, PAUSED or READY (R238 to R240, R255). -/
def Obligations.RoundsIssueAndComplete : Prop :=
  (∀ (s : State) (c slot : Nat) (r : CircRec) (es : List Nat), circOf s c = some (slot, r) → (circAt s c).st = .running →
    issueBarred s c = false → (circAt s c).flight.length < r.rdepth →
    ((circAt s c).driven = true → selection s c r = some es) →
    ((circAt s c).driven = false → ∃ w rest, (circAt s c).pending = w :: rest ∧ w.entries = es) →
    ∃ t, exec (.roundIssue c) s = .next t ∧ (circAt t c).next = ((circAt s c).next + 1) % 2 ^ 32 ∧
      (∃ f, (circAt t c).flight = (circAt s c).flight ++ [f] ∧ f.num = (circAt s c).next ∧ f.samples = es ∧ f.ended = []) ∧
      (circAt t c).pending = (if (circAt s c).driven then (circAt s c).pending else (circAt s c).pending.tail) ∧
      (∀ i, entryAt t i = if i ∈ es then { entryAt s i with st := .inflight } else entryAt s i) ∧
      (∀ n ∈ circStalls (imgAt s slot) c, ∀ p, physOf s n = some p →
        (circAt s c).next ∈ (stallP t p).ring ∧
        (Memory.wf (stallP s p).scratch = true →
          memRead (stallP t p).scratch (r.rring + (circAt s c).next % r.rdepth * roundBytes r) (roundBytes r) =
            roundEntry s slot r (circAt s c).next es)) ∧
      t.loft = s.loft ∧ t.flt = s.flt ∧ t.host = s.host) ∧
  (∀ (s : State) (c slot : Nat) (r : CircRec) (f : Round) (rest : List Round), circOf s c = some (slot, r) →
    (circAt s c).flight = f :: rest → (∀ n ∈ circStalls (imgAt s slot) c, n ∈ f.ended) → f.samples.Nodup →
    ∃ t, exec (.roundComplete c) s = .next t ∧ (circAt t c).flight = rest ∧
      (circAt t c).rounds = ((circAt s c).rounds + 1) % 2 ^ 32 ∧
      (∀ i ∈ f.samples, (entryAt t i).step = (entryAt s i).step + 1 ∧
        (entryAt t i).st = (if (entryAt s i).step + 1 = (entryAt s i).nsteps then .done
          else if (entryAt s i).ppend then .paused else .ready) ∧ (entryAt t i).ppend = false) ∧
      (∀ i, i ∉ f.samples → entryAt t i = entryAt s i) ∧ t.stalls = s.stalls ∧ t.loft = s.loft ∧ t.flt = s.flt)

/-! ## Programs and operations (R159 to R182, R237) -/

/-- A stall that runs starts its program at ENTRY for the next round of its ring (R237). An operation with nothing left to do completes: SIGNAL is set, it leaves the program, and with the last one of a program at its end
the round has been run in this stall (R161, R162, R237). -/
def Obligations.OperationsStartAndComplete : Prop :=
  (∀ (s : State) (n p : Nat) (x : Stall) (l : Loaded) (r : Nat) (rest : List Nat), runningStall s n = some (p, x) →
    x.prog = none → x.loaded = some l → x.ring = r :: rest → s.ctx.st = .run →
    exec (.programStart n) s = .next { s with stalls := tset s.stalls p { x with
      prog := some { round := r, next := l.entry, ops := [] }, ring := rest, lastRound := r } }) ∧
  (∀ (s : State) (n k p : Nat) (g : Prog) (o : OpCtx), physOf s n = some p → (stallP s p).prog = some g → g.ops[k]? = some o →
    stopped s = false → (stallP s p).jstop = false → s.ctx.st = .run ∨ s.ctx.st = .stopping →
    opFinished (stallP s p) o = true → (o.d.opcode = 0x7F → k = 0) →
    ∃ t, exec (.operationComplete n k) s = .next t ∧ (stallP t p).tokens = (stallP s p).tokens ||| o.d.signal ∧
      (stallP t p).prog =
        (if g.ops.eraseIdx k = [] ∧ g.next = 0xFFFF then none else some { g with ops := g.ops.eraseIdx k }) ∧
      (g.ops.eraseIdx k = [] → g.next = 0xFFFF → ∀ l, (stallP s p).loaded = some l →
        ∀ f ∈ (circAt t l.circuit).flight, f.num = g.round → n ∈ f.ended) ∧
      (stallP t p).scratch = (stallP s p).scratch ∧ (∀ q, q ≠ p → stallP t q = stallP s q) ∧ t.loft = s.loft)

/-- An operation of each opcode starts (R161, R163): its tokens are consumed, its instance count advances, and the program moves to
NEXT; no other stall, no scratch byte but those of its own landing entries and no loft byte changes. -/
def Obligations.OperationsStart : Prop :=
  ∀ (s : State) (n p op : Nat) (sr : Secded) (c : Instr) (x : Stall) (g : Prog) (d : Desc),
    (op, c) ∈ [(0x01, Instr.matmul n), (0x02, .conv n), (0x03, .chain n), (0x10, .elemwise ⟨n, sr⟩), (0x11, .rowstat ⟨n, sr⟩),
      (0x12, .softmax ⟨n, sr⟩), (0x13, .norm ⟨n, sr⟩), (0x20, .draw ⟨n, sr⟩), (0x21, .noise ⟨n, sr⟩), (0x30, .move ⟨n, sr⟩),
      (0x31, .send ⟨n, sr⟩), (0x32, .recv ⟨n, sr⟩), (0x33, .halo ⟨n, sr⟩), (0x34, .collect ⟨n, sr⟩ false), (0x40, .stepOp ⟨n, sr⟩),
      (0x41, .guide ⟨n, sr⟩), (0x7F, .fence n)] →
    startable s n op = some (p, x, g, d) → (∀ o ∈ g.ops, o.d.opcode ≠ op) → (op = 0x33 → g.ops = []) →
    dynTooLarge d (roundSize (envOf s n p x {})) = false →
    ∃ t, exec c s = .next t ∧ (stallP t p).tokens = x.tokens &&& ~~~d.wait ∧
      tget 0 (stallP t p).inst g.next = (tget 0 x.inst g.next + 1) % 2 ^ 32 ∧
      (∃ g', (stallP t p).prog = some g' ∧ g'.round = g.round ∧ g'.next = d.next ∧
        g'.ops.map (fun o => (o.desc, o.inst)) =
          g.ops.map (fun o => (o.desc, o.inst)) ++ [(g.next, (tget 0 x.inst g.next + 1) % 2 ^ 32)]) ∧
      LandingsOnly d x.scratch (stallP t p).scratch ∧ (∀ q, q ≠ p → stallP t q = stallP s q) ∧ t.loft = s.loft ∧ t.host = s.host

/-- A matrix instruction of the oldest operation folds its products into its slot (R84, R87, R88, R93): the slot holds the folded
values and goes to READOUT or SENDING after the last K, or to POISONED where its reads met an uncorrectable word, which raises
SCRATCH_UNCORRECTABLE (R19); the other slots, the loft, and all scratch but the operation's landing entries keep their contents. -/
def Obligations.MatrixInstructionsFold : Prop :=
  ∀ (s : State) (n p i : Nat) (x : Stall) (o : OpCtx) (rest : List OpCtx) (a : List (List Val) × List Nat) (b : List (List Val))
    (sl : AccSlot) (kin : Bool) (sr : Secded), runningStall s n = some (p, x) → opsOf x = o :: rest → isMatrix o.d = true →
    o.walking = true → o.takeWait = false → aTile s (envAt s n p 0) = .ok a → opndVals s (envAt s n p 0) 1 o.it = .ok b →
    startSlot s (envAt s n p 0) = .ok (i, sl, kin) →
    ∃ t, exec (.matrixInstructionIssue n sr) s = .next t ∧
      (slotOf (stallP t p) i).vals = (matrixInstr (halfPair o.d.afmt o.d.bfmt) a.1 b (validOf o o.it 1) (validOf o o.it 2)
        (validOf o o.it 3) sl.vals).map (·.1) ∧
      (slotOf (stallP t p) i).st = (if sr.uncorr = true ∨ sl.st = .poisoned then .poisoned else if lastK o o.it then
        (if o.d.kout then .sending else .readout) else .live) ∧
      (stallP t p).corrected = x.corrected + sr.corrected ∧ (sr.uncorr = true → ∃ r ∈ t.flt.raised, r.code = 0x0403) ∧
      (∀ j, j ≠ i → slotOf (stallP t p) j = slotOf x j) ∧ LandingsOnly o.d x.scratch (stallP t p).scratch ∧
      (∀ q, q ≠ p → (stallP t q).scratch = (stallP s q).scratch) ∧ t.loft = s.loft

/-- The oldest slot in READOUT is read out to the vector engine (R79, R80, R96, R140), and stays in READOUT until its epilogue is done with it
(log entry 36); the oldest slot in SENDING goes unrounded to the next chain member with a credit, counts its elements that became NaN, and
becomes FREE (R70, R98, R99, R315); an uncorrectable word of accumulator memory poisons either slot and raises SCRATCH_UNCORRECTABLE (R19,
R88). -/
def Obligations.SlotsLeaveTheArray : Prop :=
  ∀ (s : State) (n p i k : Nat) (x : Stall) (sr : Secded), runningStall s n = some (p, x) →
    opOfDesc x (slotOf x i).desc = some k →
    ((slotOf x i).st = .readout → x.readQ.head? = some i → sr.uncorr = false →
      ∃ t, exec (.slotReadout ⟨n, sr⟩ i) s = .next t ∧ (stallP t p).slots = x.slots ∧ (stallP t p).readQ = x.readQ.erase i ∧
        (∃ r, ((opsOf (stallP t p)).getD k {}).readouts = ((opsOf x).getD k {}).readouts ++ [r] ∧ r.it = (slotOf x i).it ∧
          r.slot = some i ∧
          ∀ c, c < 4096 → r.vals.getD c 0 =
            BitVec.ofNat 32 (readCell ((opsOf x).getD k {}).d ((slotOf x i).vals.getD c 0)).bits) ∧
        (stallP t p).scratch = x.scratch ∧ (∀ q, q ≠ p → stallP t q = stallP s q) ∧ t.loft = s.loft ∧ t.fab = s.fab) ∧
    (∀ q j cap, (slotOf x i).st = .sending → x.sendQ.head? = some i → sr.uncorr = false →
      chainNext s (envAt s n p k) = some (q, j, cap) → routesHeld s n = false →
      inUse x (chainKey ((opsOf x).getD k {}).desc) 0 < cap → writesOut x < 64 → (physOf s q).isSome = true →
      ∃ t, exec (.chainOut ⟨n, sr⟩ i) s = .next t ∧ slotOf (stallP t p) i = {} ∧
        inUse (stallP t p) (chainKey ((opsOf x).getD k {}).desc) 0 = inUse x (chainKey ((opsOf x).getD k {}).desc) 0 + 1 ∧
        t.fab.net = s.fab.net ++ (partsOf (chainBytes (slotOf x i).vals)).map (fun c =>
          { cls := 3, src := n, dst := q, hops := pathHops (pathEnd s n) (pathEnd s q),
            body := .data q (chainKey j) n (chainKey ((opsOf x).getD k {}).desc) 0
              (tileNumber ((opsOf x).getD k {}) (slotOf x i).it) c.1 (chainBytes (slotOf x i).vals).length c.2
              (some (n, ((opsOf x).getD k {}).desc, ((opsOf x).getD k {}).inst)) : Packet }) ∧
        ((opsOf (stallP t p)).getD k {}).nans = ((opsOf x).getD k {}).nans +
          (validCells (validOf ((opsOf x).getD k {}) (slotOf x i).it 1) (validOf ((opsOf x).getD k {}) (slotOf x i).it 2)
            (slotOf x i).nan).length ∧
        (stallP t p).scratch = x.scratch ∧ (∀ r, r ≠ p → stallP t r = stallP s r) ∧ t.loft = s.loft) ∧
    (∀ c, (slotOf x i).st = .readout ∧ x.readQ.head? = some i ∧ c = Instr.slotReadout ⟨n, sr⟩ i ∨
        (slotOf x i).st = .sending ∧ x.sendQ.head? = some i ∧ c = Instr.chainOut ⟨n, sr⟩ i → sr.uncorr = true →
      ∃ t, exec c s = .next t ∧ slotOf (stallP t p) i = { slotOf x i with st := .poisoned } ∧
        (∃ r ∈ t.flt.raised, r.code = 0x0403) ∧ (stallP t p).scratch = x.scratch ∧ t.loft = s.loft ∧ t.fab = s.fab)

/-- The prologue of the oldest operation runs on a landed A tile whose rows are complete, once no epilogue is ready (R140, R143): its result,
in AFMT, is in the staging area of its landing, and the landing is staged; every other scratch byte and the loft keep their contents. -/
def Obligations.ProloguesStage : Prop :=
  ∀ (s : State) (n p ent : Nat) (x : Stall) (o : OpCtx) (rest : List OpCtx) (it : List Nat) (r : ProOut) (sr : Secded),
    runningStall s n = some (p, x) → opsOf x = o :: rest → epilogueIdle n p s = true →
    (proWaiting o).find? (fun w => !mustPark (envAt s n p 0) w.1) = some (it, some ent) →
    proRun s (envAt s n p 0) it = .ok r →
    ∃ t, exec (.prologueRun ⟨n, sr⟩) s = .next t ∧
      (stallP t p).scratch = memWrite x.scratch
        (o.d.a.landing + o.d.a.id * entryBytes (landFmt o.d 0) + ent * entryBytes o.d.afmt) r.out.bytes ∧
      (∀ l ∈ ((opsOf (stallP t p)).getD 0 {}).lands, l.opnd = 0 → l.it = it → l.entry = ent → l.st = .staged ∧ l.nan = r.nan) ∧
      (∀ q, q ≠ p → (stallP t q).scratch = (stallP s q).scratch) ∧ t.loft = s.loft

/-- The oldest tile read out, of a product with no epilogue stage, is converted to C's format by the header's modes and stored with its fill
map entry, its slot becomes FREE, and no other byte changes but those of the operation's landing entries (R93, R131, R133, R140, R181). -/
def Obligations.EpiloguesStore : Prop :=
  ∀ (s : State) (n p : Nat) (x : Stall) (o : OpCtx) (rest : List OpCtx) (rt : ReadTile) (more : List ReadTile)
    (plan : List (Option Nat)) (sr : Secded), runningStall s n = some (p, x) → opsOf x = o :: rest → (outOps x).head? = some 0 →
    o.readouts = rt :: more → rt.fin = false → o.d.opcode ≠ 3 → stageList o.d.epi = [] →
    ScratchTarget s (envAt s n p 0) rt.it (tileNumber o rt.it) (validOf o rt.it 1) (validOf o rt.it 2) plan →
    ∃ t, exec (.epilogueRun ⟨n, sr⟩) s = .next t ∧
      StoredBytes s p (envAt s n p 0) (tileNumber o rt.it) (headerBytes s (envAt s n p 0) rt.it (tileNumber o rt.it)
        (validOf o rt.it 1) (validOf o rt.it 2) 8 (readExact o.d rt.vals)) plan t ∧
      ((opsOf (stallP t p)).getD 0 {}).readouts = more ∧ (∀ i, rt.slot = some i → slotOf (stallP t p) i = {})

/-- One tile of a vector operation that is the oldest of its stall, with its operands at hand and no epilogue or prologue ready, is computed,
converted and stored with its fill map entry, and no other byte changes but those of its landing entries: ELEMWISE without stages (R131),
MOVE, SEND and RECV between equal formats (R162), GUIDE (R246), STEP (R247), NOISE (R272), the second pass of SOFTMAX (R129) and NORM
(R126), and the last tile of a row group of ROWSTAT (R121). An earlier tile of a row group, and a tile of a first pass, leave the partials
of their rows (R119, R128). -/
def Obligations.VectorTilesStore : Prop :=
  ∀ (s : State) (n p : Nat) (x : Stall) (o : OpCtx) (rest : List OpCtx) (plan : List (Option Nat)) (sr : Secded),
    runningStall s n = some (p, x) → opsOf x = o :: rest → o.walking = true → o.takeWait = false → stagesIdle n p s = true →
    (∀ vs, o.d.opcode = 0x10 → stageList o.d.epi = [] → opndVals s (envAt s n p 0) 0 o.it = .ok vs →
      ScratchTarget s (envAt s n p 0) o.it (tileNumber o o.it) (validOf o o.it 1) (validOf o o.it 2) plan →
      ∃ t, exec (.elemwise ⟨n, sr⟩) s = .next t ∧ StoredBytes s p (envAt s n p 0) (tileNumber o o.it)
        (headerBytes s (envAt s n p 0) o.it (tileNumber o o.it) (validOf o o.it 1) (validOf o o.it 2) 8 vs) plan t) ∧
    (∀ c bs, (o.d.opcode, c) ∈ [(0x30, Instr.move ⟨n, sr⟩), (0x31, .send ⟨n, sr⟩), (0x32, .recv ⟨n, sr⟩)] → o.d.afmt = o.d.cfmt →
      opndBytes s (envAt s n p 0) 0 o.it = .ok bs →
      ScratchTarget s (envAt s n p 0) o.it (tileNumber o o.it) (validOf o o.it 1) (validOf o o.it 2) plan →
      ∃ t, exec c s = .next t ∧ StoredBytes s p (envAt s n p 0) (tileNumber o o.it) bs plan t) ∧
    (∀ a b, o.d.opcode = 0x41 → opndVals s (envAt s n p 0) 0 o.it = .ok a → opndVals s (envAt s n p 0) 1 o.it = .ok b →
      ScratchTarget s (envAt s n p 0) o.it (tileNumber o o.it) (validOf o o.it 1) (validOf o o.it 2) plan →
      ∃ t, exec (.guide ⟨n, sr⟩) s = .next t ∧ StoredBytes s p (envAt s n p 0) (tileNumber o o.it)
        (headerBytes s (envAt s n p 0) o.it (tileNumber o o.it) (validOf o o.it 1) (validOf o o.it 2) 10
          (exact (laneMap (validOf o o.it 1) (validOf o o.it 2) fun l c => guideElem (rowField (envAt s n p 0) o.it 24)
            (round32 (atV a l c)) (round32 (atV b l c))).1)) plan t) ∧
    (∀ a b h, o.d.opcode = 0x40 → byteAt o.d.oparam 0 % 2 = 0 → opndVals s (envAt s n p 0) 0 o.it = .ok a →
      opndVals s (envAt s n p 0) 1 o.it = .ok b → opndVals s (envAt s n p 0) 3 o.it = .ok h →
      ScratchTarget s (envAt s n p 0) o.it (tileNumber o o.it) (validOf o o.it 1) (validOf o o.it 2) plan →
      ∃ t, exec (.stepOp ⟨n, sr⟩) s = .next t ∧ StoredBytes s p (envAt s n p 0) (tileNumber o o.it)
        (headerBytes s (envAt s n p 0) o.it (tileNumber o o.it) (validOf o o.it 1) (validOf o o.it 2) 10
          (exact (laneMap (validOf o o.it 1) (validOf o o.it 2) fun l c => stepElem (rowField (envAt s n p 0) o.it 28)
            (rowField (envAt s n p 0) o.it 32) (rowField (envAt s n p 0) o.it 36) (rowField (envAt s n p 0) o.it 40)
            (round32 (atV a l c)) (round32 (atV b l c)) (round32 (atV h l c)) 0 false).1)) plan t) ∧
    (∀ a, o.d.opcode = 0x21 → opndVals s (envAt s n p 0) 0 o.it = .ok a →
      ScratchTarget s (envAt s n p 0) o.it (tileNumber o o.it) (validOf o o.it 1) (validOf o o.it 2) plan →
      ∃ t, exec (.noise ⟨n, sr⟩) s = .next t ∧ StoredBytes s p (envAt s n p 0) (tileNumber o o.it)
        (headerBytes s (envAt s n p 0) o.it (tileNumber o o.it) (validOf o o.it 1) (validOf o o.it 2) 10
          ((List.range 64).map fun l => (List.range 64).map fun c =>
            if l < validOf o o.it 1 ∧ c < validOf o o.it 2 then
              (noiseElem o.d (rngSrc s (envAt s n p 0) o.it) (elemIndex (noiseBase o.d) (envAt s n p 0) o.it l c)
                (round32 (atV a l c))).1
            else Val.zero)) plan t) ∧
    (∀ vs, o.d.opcode = 0x12 → opndVals s (envAt s n p 0) 0 o.it = .ok vs →
      (o.it.getD 6 0 = 0 → o.back = none → ∃ t, exec (.softmax ⟨n, sr⟩) s = .next t ∧
        KeptRows s p o (foldTile o softStart softFirst (lanes vs)) t) ∧
      (o.it.getD 6 0 = 1 →
        ScratchTarget s (envAt s n p 0) o.it (tileNumber o o.it) (validOf o o.it 1) (validOf o o.it 2) plan →
        ∃ t, exec (.softmax ⟨n, sr⟩) s = .next t ∧ StoredBytes s p (envAt s n p 0) (tileNumber o o.it)
          (headerBytes s (envAt s n p 0) o.it (tileNumber o o.it) (validOf o o.it 1) (validOf o o.it 2) 8
            (exact (laneMap (validOf o o.it 1) (validOf o o.it 2) fun l c =>
              softSecond ((rowsKept o o.it {}).getD l {}) (round32 (atV vs l c))).1)) plan t)) ∧
    (∀ vs, o.d.opcode = 0x13 → opndVals s (envAt s n p 0) 0 o.it = .ok vs →
      (o.it.getD 6 0 = 0 → o.back = none → ∃ t, exec (.norm ⟨n, sr⟩) s = .next t ∧
        KeptRows s p o (foldTile o {} (fun l xs => combinePart l (tilePart xs)) (lanes vs)) t) ∧
      (∀ gb, o.it.getD 6 0 = 1 → normGammaBeta s (envAt s n p 0) o.it = .ok gb →
        ScratchTarget s (envAt s n p 0) o.it (tileNumber o o.it) (validOf o o.it 1) (validOf o o.it 2) plan →
        ∃ t, exec (.norm ⟨n, sr⟩) s = .next t ∧ StoredBytes s p (envAt s n p 0) (tileNumber o o.it)
          (headerBytes s (envAt s n p 0) o.it (tileNumber o o.it) (validOf o o.it 1) (validOf o o.it 2) 8
            (exact (laneMap (validOf o o.it 1) (validOf o o.it 2) fun l c =>
              normOut (Config.normCentred o.d.oparam) (Config.normEps o.d.oparam) ((rowsKept o o.it {}).getD l {}) (gb.getD c none)
                (round32 (atV vs l c))).1)) plan t)) ∧
    (∀ vs, o.d.opcode = 0x11 → opndVals s (envAt s n p 0) 0 o.it = .ok vs →
      (lastCol o = false → ∃ t, exec (.rowstat ⟨n, sr⟩) s = .next t ∧
        KeptRows s p o (foldTile o {} (fun l xs => combinePart l (tilePart xs)) (lanes vs)) t) ∧
      (lastCol o = true →
        ScratchTarget s (envAt s n p 0) (setN o.d o.it 0) (tileNumber o (setN o.d o.it 0)) (validOf o o.it 1) 6 plan →
        ∃ t, exec (.rowstat ⟨n, sr⟩) s = .next t ∧ StoredBytes s p (envAt s n p 0) (tileNumber o (setN o.d o.it 0))
          (headerBytes s (envAt s n p 0) (setN o.d o.it 0) (tileNumber o (setN o.d o.it 0)) (validOf o o.it 1) 6 8
            ((foldTile o {} (fun l xs => combinePart l (tilePart xs)) (lanes vs)).map fun q => (List.range 64).map fun c =>
              if c < 6 then val32 ((rowStats q).getD (Config.rowstatColumn o.d.oparam c % 6) 0) else Val.zero)) plan t))

/-! ## The fabric and the loft (R141, R149, R173, R177, R181, R198, R280 to R316) -/

/-- A loft controller answers a READ with the bytes and the first poisoned word of each packet, and poisons what the decoder finds
uncorrectable in it; it holds the parts of a WRITE until the last, and then performs a fresh write with its fill map entry and no other byte,
leaves a replay of equal bytes and refuses an older one, and acknowledges each (R181, R288, R290, R291, R309). -/
def Obligations.LoftControllersServe : Prop :=
  ∀ (s : State) (k : Nat) (q : Packet), netAt s k = some q →
    (∀ n desc inst opnd entry it cells ecc, q.body = .read n desc inst opnd entry it cells →
      ∃ t, exec (.fabRead k ecc) s = .next t ∧ t.loft.mem = s.loft.mem ∧ t.stalls = s.stalls ∧
        t.fab.net = s.fab.net.eraseIdx k ++ (chunks 496 cells).map (fun part =>
          { cls := 1, src := q.dst, dst := q.src,
            hops := if q.hops.isEmpty then [] else pathHops (pathEnd s q.dst) (pathEnd s q.src),
            body := .rdata n desc inst opnd entry it (part.map fun c => (c.1, memGet s.loft.mem c.2))
              (poisonIn t (part.map (·.2))) : Packet }) ∧
        (∀ w ∈ ecc.uncorrectable, w ∈ cells.map (fun c => wordOf c.2) → poisonedWord t w = true) ∧
        (∀ w, poisonedWord s w = true → poisonedWord t w = true)) ∧
    (∀ n desc inst id total part fill, q.body = .write n desc inst id total part fill → 0 < (writeParts s id total part).left →
      ∀ ecc, exec (.fabWrite k ecc) s = .next { s with
        fab.net := s.fab.net.eraseIdx k
        loft.writes := (s.loft.writes.filter fun w => w.id ≠ id) ++ [writeParts s id total part] }) ∧
    (∀ n desc inst id total part, q.body = .write n desc inst id total part none → (writeParts s id total part).left = 0 →
      (∀ c ∈ (writeParts s id total part).cells, poisonedWord s (wordOf c.1) = false) →
      ∃ t, exec (.fabWrite k { corrected := [], uncorrectable := [] }) s = .next t ∧ t.loft = { s.loft with
          mem := memCells s.loft.mem (writeParts s id total part).cells
          writes := s.loft.writes.filter fun w => w.id ≠ id } ∧
        (∃ r, t.fab.net = s.fab.net.eraseIdx k ++ [r] ∧ r.dst = q.src ∧ r.body = .ack n desc inst) ∧
        t.stalls = s.stalls ∧ t.flt = s.flt) ∧
    (∀ n desc inst id total part f, q.body = .write n desc inst id total part (some f) → (writeParts s id total part).left = 0 →
      f.addr % 8 = 0 → poisonedWord s (wordOf f.addr) = false →
      (∀ c ∈ (writeParts s id total part).cells, poisonedWord s (wordOf c.1) = false) →
      (fillCase (leNat (loftRead s f.addr 8)) f.inst = .fresh →
        ∃ t, exec (.fabWrite k { corrected := [], uncorrectable := [] }) s = .next t ∧
          t.loft = { s.loft with
            mem := memCells s.loft.mem ((writeParts s id total part).cells ++ cellsAt f.addr (fillEntry f.inst))
            writes := s.loft.writes.filter fun w => w.id ≠ id } ∧
          (Memory.wf s.loft.mem = true → ∀ a, (∀ c ∈ (writeParts s id total part).cells, c.1 ≠ a) →
            a < f.addr ∨ f.addr + 8 ≤ a → memGet t.loft.mem a = memGet s.loft.mem a) ∧
          (∃ r, t.fab.net = s.fab.net.eraseIdx k ++ [r] ∧ r.dst = q.src ∧ r.body = .ack n desc inst) ∧
          t.stalls = s.stalls ∧ t.flt = s.flt) ∧
      (fillCase (leNat (loftRead s f.addr 8)) f.inst = .replay →
        (∀ c ∈ (writeParts s id total part).cells, memGet s.loft.mem c.1 = c.2) →
        ∃ t, exec (.fabWrite k { corrected := [], uncorrectable := [] }) s = .next t ∧ t.loft = { s.loft with writes := s.loft.writes.filter fun w => w.id ≠ id } ∧
          t.flt = s.flt ∧ ∃ r, t.fab.net = s.fab.net.eraseIdx k ++ [r] ∧ r.body = .ack n desc inst) ∧
      (fillCase (leNat (loftRead s f.addr 8)) f.inst = .older →
        ∃ t, exec (.fabWrite k { corrected := [], uncorrectable := [] }) s = .next t ∧ t.loft = { s.loft with writes := s.loft.writes.filter fun w => w.id ≠ id } ∧
          (∃ r, t.flt.raised = s.flt.raised ++ [r] ∧ r.code = 0x0204) ∧
          ∃ r, t.fab.net = s.fab.net.eraseIdx k ++ [r] ∧ r.body = .ack n desc inst))

/-- What a packet does where it arrives: ACK frees a write slot, word of an accepted partial frees its entry, RDATA enters its landing and lets
fetches go ahead, a poisoned word of it raises LOFT_UNCORRECTABLE and stops the stall, DATA enters an entry of its window and is acknowledged
once its tile is whole, a CREDIT returns, a ledger partial enters an entry that can take it and waits for any other, READY is held (R141,
R149, R161, R173, R198, R291, R309, R315). -/
def Obligations.FabricDelivers : Prop :=
  ∀ (s : State) (k p : Nat) (q : Packet), netAt s k = some q →
    (∀ n desc inst, q.body = .ack n desc inst → physOf s n = some p → exec (.fabAck k) s = .next { s with
      fab.net := s.fab.net.eraseIdx k
      stalls := tset s.stalls p (modOp desc inst (fun o => { o with out := o.out - 1 }) (stallP s p)) }) ∧
    (∀ n entry, q.body = .accept n entry → physOf s n = some p →
      ∃ t, exec (.fabAck k) s = .next t ∧ (stallP t p).scratch = (stallP s p).scratch ∧ t.loft = s.loft ∧
        tget {} (stallP t p).ledger entry =
          (if (tget {} (stallP s p).ledger entry).todo = [] ∧ (tget {} (stallP s p).ledger entry).await ≤ 1 then {}
           else { tget {} (stallP s p).ledger entry with await := (tget {} (stallP s p).ledger entry).await - 1 })) ∧
    (∀ n desc inst opnd entry it cells j, q.body = .rdata n desc inst opnd entry it cells none → physOf s n = some p →
      opPlace s p desc inst = some j →
      ∃ u, exec (.fabRdata k) s = .next (fetchAll n p u) ∧
        (stallP u p).scratch =
          (if heldRaw ((opsOf (stallP s p)).getD j {}).d opnd then (stallP s p).scratch
           else memCells (stallP s p).scratch
            (cells.map fun c => (landAt ((opsOf (stallP s p)).getD j {}).d opnd entry + c.1, c.2))) ∧
        ((opsOf (stallP u p)).getD j {}).lands = ((((opsOf (stallP s p)).getD j {}).lands.map fun l =>
          if landIs opnd entry it l then landed cells.length false
            { l with raw := if heldRaw ((opsOf (stallP s p)).getD j {}).d opnd then memCells l.raw cells else l.raw }
          else l).filter fun l => !(l.st == .dropped && l.left = 0)) ∧
        (∀ r, r ≠ p → stallP u r = stallP s r) ∧ u.loft = s.loft ∧ u.fab.net = s.fab.net.eraseIdx k ∧ u.flt = s.flt) ∧
    (∀ n desc inst opnd entry it cells w j, q.body = .rdata n desc inst opnd entry it cells (some w) → physOf s n = some p →
      opPlace s p desc inst = some j →
      ∃ t, exec (.fabRdata k) s = .next t ∧ (stallP t p).jstop = true ∧ (stallP t p).scratch = (stallP s p).scratch ∧
        (∀ l ∈ ((opsOf (stallP t p)).getD j {}).lands, landIs opnd entry it l = true → l.st ≠ .reserved) ∧
        (∃ r, t.flt.raised = s.flt.raised ++ [r] ∧ r.code = 0x0402) ∧ t.loft = s.loft) ∧
    (∀ n win src key dest tile off total bytes ack, q.body = .data n win src key dest tile off total bytes ack →
      physOf s n = some p → win < 16384 →
      (∀ h, (tget [] (stallP s p).wins win).find? (fun h => 0 < h.left && h.src = src && h.key = key && h.tile = tile) = some h →
        ∃ t, exec (.fabData k) s = .next t ∧
          tget [] (stallP t p).wins win = ((tget [] (stallP s p).wins win).map fun y =>
            if y = h then { h with left := h.left - bytes.length } else y) ∧
          (stallP t p).scratch = memWrite (stallP s p).scratch ((winPlace s (descEnv s n p (winDesc win)) win).1 +
            h.entry * (winPlace s (descEnv s n p (winDesc win)) win).2 + off) bytes ∧
          (h.left ≤ bytes.length → ∀ m d i, ack = some (m, d, i) → (physOf s m).isSome = true → ∃ r ∈ t.fab.net, r.body = .ack m d i) ∧
          (bytes.length < h.left → t.fab.net = s.fab.net.eraseIdx k) ∧
          (∀ r, r ≠ p → (stallP t r).scratch = (stallP s r).scratch) ∧ t.loft = s.loft) ∧
      (∀ base size i, (tget [] (stallP s p).wins win).find?
          (fun h => 0 < h.left && h.src = src && h.key = key && h.tile = tile) = none →
        winShare s (descEnv s n p (winDesc win)) win key (winCap s (descEnv s n p (winDesc win)) win) = (base, size) →
        ((List.range size).map fun j => base + (tget 0 (stallP s p).winCount (countKey win key) + j) % max 1 size).find?
          (fun i => (tget [] (stallP s p).wins win).all fun h => h.entry ≠ i) = some i →
        ∃ t, exec (.fabData k) s = .next t ∧
          tget [] (stallP t p).wins win = tget [] (stallP s p).wins win ++
            [{ entry := i, tile := tile, left := total - bytes.length, src := src, key := key, dst := dest }] ∧
          (stallP t p).scratch = memWrite (stallP s p).scratch ((winPlace s (descEnv s n p (winDesc win)) win).1 +
            i * (winPlace s (descEnv s n p (winDesc win)) win).2 + off) bytes ∧
          (total ≤ bytes.length → ∀ m d i, ack = some (m, d, i) → (physOf s m).isSome = true → ∃ r ∈ t.fab.net, r.body = .ack m d i) ∧
          (bytes.length < total → t.fab.net = s.fab.net.eraseIdx k) ∧
          (∀ r, r ≠ p → (stallP t r).scratch = (stallP s r).scratch) ∧ t.loft = s.loft)) ∧
    (∀ n key dest, q.body = .credit n key dest → physOf s n = some p → (∀ e ∈ (stallP s p).ledger, e.2.todo = []) →
      exec (.fabCredit k) s = .next { s with
        fab.net := s.fab.net.eraseIdx k
        stalls := tset s.stalls p (giveCredit key dest (stallP s p)) }) ∧
    (∀ n entry desc part, q.body = .ledger n entry desc part true → physOf s n = some p →
      ((tget {} (stallP s p).ledger entry).st ≠ 0 → exec (.fabLedger k) s = .next s) ∧
      ((tget {} (stallP s p).ledger entry).st = 0 →
        ∃ t, exec (.fabLedger k) s = .next t ∧
          tget {} (stallP t p).ledger entry = { part with st := 2, todo := [], await := 0 } ∧
          (∀ m i, part.from_ = some (m, i) → (physOf s m).isSome = true → ∃ r ∈ t.fab.net, r.body = .accept m i) ∧
          (∀ r, (stallP t r).scratch = (stallP s r).scratch) ∧ t.loft = s.loft)) ∧
    (∀ n entry desc part, q.body = .ledger n entry desc part false → physOf s n = some p →
      ((tget {} (stallP s p).ledger entry).st ≠ 0 →
        ¬((tget {} (stallP s p).ledger entry).st = 1 ∧ (tget {} (stallP s p).ledger entry).n = 0 ∧
          (tget {} (stallP s p).ledger entry).row = part.row ∧ (tget {} (stallP s p).ledger entry).own = (desc, part.own.2) ∧
          (tget {} (stallP s p).ledger entry).from_ = none) →
        exec (.fabLedger k) s = .next s) ∧
      ((tget {} (stallP s p).ledger entry).st = 0 → opPlace s p desc part.own.2 = none →
        ∃ t, exec (.fabLedger k) s = .next t ∧
          tget {} (stallP t p).ledger entry = { part with st := 1, own := (desc, part.own.2), todo := [], await := 0 } ∧
          (∀ m i, part.from_ = some (m, i) → (physOf s m).isSome = true → ∃ r ∈ t.fab.net, r.body = .accept m i) ∧
          (∀ r, (stallP t r).scratch = (stallP s r).scratch) ∧ t.loft = s.loft)) ∧
    (∀ n side desc inst, q.body = .ready n side desc inst → physOf s n = some p → runningHalo (stallP s p) = none →
      exec (.fabReady k) s = .next { s with
        fab.net := s.fab.net.eraseIdx k
        stalls := tset s.stalls p { stallP s p with haloReady := (stallP s p).haloReady ++ [(side, desc, inst)] } })

/-- A work counter serves a take at once and sends its result (R177): an instance newer than its own starts it at 0, its own takes the next
value up to the end, an older one is told the end; the stall that the result reaches runs the iteration, or ends its loop. -/
def Obligations.CountersServeTakes : Prop :=
  ∀ (s : State) (k : Nat) (q : Packet) (n desc inst ctr count : Nat), netAt s k = some q →
    (q.body = .take n desc inst true ctr count →
      ∃ t, exec (.fabTake k) s = .next t ∧ t.yardCtr = s.yardCtr ∧ t.loft = s.loft ∧ t.stalls = s.stalls ∧
        tget {} t.hubCtr ctr = (takeFrom (tget {} s.hubCtr ctr) inst count).2 ∧
        (∀ i, i ≠ ctr → tget {} t.hubCtr i = tget {} s.hubCtr i) ∧
        (∃ r, t.fab.net = s.fab.net.eraseIdx k ++ [r] ∧ r.cls = 1 ∧ r.src = q.dst ∧ r.dst = q.src ∧
          r.body = .taken n desc inst (takeFrom (tget {} s.hubCtr ctr) inst count).1)) ∧
    (q.body = .take n desc inst false ctr count →
      ∃ t, exec (.fabTake k) s = .next t ∧ t.hubCtr = s.hubCtr ∧ t.loft = s.loft ∧ t.stalls = s.stalls ∧
        tget {} t.yardCtr (n / 30 * 64 + ctr) = (takeFrom (tget {} s.yardCtr (n / 30 * 64 + ctr)) inst count).2 ∧
        (∀ i, i ≠ n / 30 * 64 + ctr → tget {} t.yardCtr i = tget {} s.yardCtr i) ∧
        (∃ r, t.fab.net = s.fab.net.eraseIdx k ++ [r] ∧ r.cls = 1 ∧ r.src = q.dst ∧ r.dst = q.src ∧
          r.body = .taken n desc inst (takeFrom (tget {} s.yardCtr (n / 30 * 64 + ctr)) inst count).1)) ∧
    (∀ v p j l, q.body = .taken n desc inst v → physOf s n = some p → opPlace s p desc inst = some j →
      takeLevel ((opsOf (stallP s p)).getD j {}).d = some l →
      ∃ t, exec (.fabTake k) s = .next t ∧ t.hubCtr = s.hubCtr ∧ t.yardCtr = s.yardCtr ∧ t.loft = s.loft ∧
        (v < levelCount ((opsOf (stallP s p)).getD j {}) l →
          ((opsOf (stallP t p)).getD j {}).it = firstIt.set l v ∧ ((opsOf (stallP t p)).getD j {}).takeWait = false ∧
          (stallP t p).takeV = v) ∧
        (levelCount ((opsOf (stallP s p)).getD j {}) l ≤ v → ((opsOf (stallP t p)).getD j {}).walking = false))

/-- A flit that fails its check on a hop is sent again on it up to seven times, and then, or at once in drill mode, its packet is dropped and
FABRIC_UNCORRECTABLE raised, which names the unit nearest that hop (R27, R310, R477). -/
def Obligations.FlitsRetrySevenTimes : Prop :=
  ∀ (s : State) (k flit hop unit : Nat) (q : Packet), s.fab.net[k]? = some q → flit < pktFlits q → q.hops[hop]? = some unit →
    (tget 0 q.fails (8 * hop + flit) < 7 → s.bring.drill = false → exec (.flitRetry ⟨k, flit, hop⟩) s = .next { s with
      fab.net := s.fab.net.set k { q with fails := tset q.fails (8 * hop + flit) (tget 0 q.fails (8 * hop + flit) + 1) }
      fab.retries := min (s.fab.retries + 1) (2 ^ 32 - 1) }) ∧
    (7 ≤ tget 0 q.fails (8 * hop + flit) ∨ s.bring.drill = true →
      ∃ t r, exec (.flitRetry ⟨k, flit, hop⟩) s = .next t ∧ r.code = 0x0501 ∧ r.source = 3 ∧ r.unit = unit ∧ t = { s with
        fab.net := s.fab.net.eraseIdx k
        fab.dropped := min (s.fab.dropped + 1) (2 ^ 16 - 1)
        flt.raised := s.flt.raised ++ [r] })

/-- A scrub tick visits the slice's next page and poisons what it finds uncorrectable there; a refresh doubles above 85 °C; ZERO starts
on an idle device, and its end leaves the entry's range zero and free of poison, every other byte as it was (R291, R293, R295, R303). -/
def Obligations.LoftMaintenance : Prop :=
  ∀ (s : State),
    (∀ slice ecc, s.loft.scrubOn = true → s.bring.loftTested = true → barnsOn s = true → unitStopped s 2 (slice / 40) = false →
      ∃ t, exec (.loftScrubTick slice ecc) s = .next t ∧ t.loft.mem = s.loft.mem ∧
        (tget {} t.loft.slices slice).page =
          (if passPages s slice ≤ (tget {} s.loft.slices slice).page + 1 then 0 else (tget {} s.loft.slices slice).page + 1) ∧
        (∀ w ∈ ecc.uncorrectable, scrubReads s slice (tget {} s.loft.slices slice).page w = true → poisonedWord t w = true) ∧
        (∀ j, j ≠ slice → tget {} t.loft.slices j = tget {} s.loft.slices j) ∧ t.stalls = s.stalls) ∧
    (s.loft.scrubOn = false → ∀ slice ecc, exec (.loftScrubTick slice ecc) s = .next s) ∧
    (∀ slice hot, s.pwr.st ≠ .aux → exec (.loftRefresh slice hot) s = .next { s with
      loft.slices := tset s.loft.slices slice { tget {} s.loft.slices slice with
        doubled := hot, refreshes := (tget {} s.loft.slices slice).refreshes + 1 } }) ∧
    (∀ v tag i, Reaches s v (loftBase + 0x10) → s.loft.zero = none → jobBar false s = none → (partAt s (i % 16)).access ≠ 0 →
      (v = .job → (partAt s (i % 16)).access = 1) → circuitsRunning s = false → opsRunning s = false →
      preemptBars s (partAt s (i % 16)) = false →
      ((partAt s (i % 16)).access = 2 → ∀ e ∈ s.syl.slots, e.2.st = .empty) →
      exec (.loftZero v tag i) s = .next { s with loft.zero := some {
        entry := i % 16, base := (partAt s (i % 16)).base * 2 ^ 21, limit := (partAt s (i % 16)).limit * 2 ^ 21,
        issuer := some (regIssuer tag) } }) ∧
    (∀ z tag, s.loft.zero = some z → z.issuer = some (regIssuer tag) → s.ctx.vac = none →
      ∃ t, exec .loftZeroDone s = .next t ∧ t.loft.zero = none ∧ t.loft.zresult = 0 ∧ t.loft.ztag = tag % 256 ∧
        (∀ a, memGet t.loft.mem a = if z.base ≤ a ∧ a < z.limit then 0 else memGet s.loft.mem a) ∧
        (∀ w, z.base ≤ w → w < z.limit → poisonedWord t w = false) ∧
        (∃ c ∈ (queueAt t s.host.evq).waiting, c.tag = tag % 256 ∧ c.status = 0) ∧
        t.stalls = s.stalls ∧ t.flt = s.flt ∧ t.roll = s.roll)

/-- The registers that a rule locks take a write, or ignore it with their refusal flag: LOFT_MAP, LOFT_PART_i, GATE_NODE, GATE_GROUP_g,
GATE_ROUTE_r, RNG_SEED and RNG_BASE_c (R267, R301, R302, R327, R336). -/
def Obligations.LockedRegisters : Prop :=
  ∀ (s : State) (value : W64) (i : Nat), hubServes s = true →
    ((∀ j, (partAt s j).access = 0) → (∀ e ∈ s.syl.slots, e.2.st = .empty) → fld value 7 0 + fld value 15 8 ≤ 128 →
      ∃ t, exec (.loftMapWrite .priv value) s = .next t ∧ t.loft.loc = fld value 7 0 ∧ t.loft.cloc = fld value 15 8 ∧
        t = { s with loft := { s.loft with loc := t.loft.loc, cloc := t.loft.cloc, mem := t.loft.mem, poison := t.loft.poison } } ∧
        t.loft.mem = memCells [] (s.loft.mem.map fun c => (addrOf t (sliceOf s c.1).1 (sliceOf s c.1).2, c.2))) ∧
    ((∃ j, j < 16 ∧ (partAt s j).access ≠ 0) ∨ (∃ e ∈ s.syl.slots, e.2.st ≠ .empty) ∨ 128 < fld value 7 0 + fld value 15 8 →
      exec (.loftMapWrite .priv value) s = .next { s with loft.mrefused := true }) ∧
    (partRefused s i value = false → exec (.loftPartWrite .priv i value) s = .next { s with
      loft.parts := tset s.loft.parts i { access := fld value 63 62, base := fld value 17 0, limit := fld value 49 32 } }) ∧
    (partRefused s i value = true → exec (.loftPartWrite .priv i value) s = .next { s with loft.prefused := true }) ∧
    ((∀ e ∈ s.gate.gates, e.2.en = false) →
      exec (.gateNodeWrite .priv value) s = .next { s with gate.node := fld value 47 0 }) ∧
    ((∃ e ∈ s.gate.gates, e.2.en = true) →
      exec (.gateNodeWrite .priv value) s = .next { s with gate.grefused := true }) ∧
    (i ∉ namedGroups s → ∃ t, exec (.gateGroupWrite .priv i value) s = .next t ∧ t = { s with gate.groups := t.gate.groups } ∧
      grpValid (groupAt t i) = value.getLsbD 63 ∧ grpNmem (groupAt t i) = fld value 62 51 ∧
      grpSelf (groupAt t i) = fld value 50 40 ∧ grpPeer (groupAt t i) = fld value 39 29 ∧
      grpRbase (groupAt t i) = fld value 10 0 ∧ ∀ j, j ≠ i → groupAt t j = groupAt s j) ∧
    (i ∈ namedGroups s → exec (.gateGroupWrite .priv i value) s = .next { s with gate.grefused := true }) ∧
    (∀ hi, routeNamed s i = true → exec (.gateRouteWrite .priv i hi value) s = .next { s with gate.rrefused := true }) ∧
    (routeNamed s i = false →
      exec (.gateRouteWrite .priv i false value) s =
        .next { s with gate.routeLo := tset s.gate.routeLo i (value &&& 0x0FFFFFFFFFFFFFFF) } ∧
      exec (.gateRouteWrite .priv i true value) s =
        .next { s with gate.routeHi := tset s.gate.routeHi i (value &&& 0x7FFFFFFFFFFFFFFF) }) ∧
    ((∀ e ∈ s.roll.circuits, circBusy e.2 = false) → exec (.rngSeedWrite .priv value) s = .next { s with rng.seed := value }) ∧
    ((∃ e ∈ s.roll.circuits, circBusy e.2 = true) → exec (.rngSeedWrite .priv value) s = .next { s with rng.wdrop := true }) ∧
    (circBusy (circAt s i) = false →
      exec (.rngBaseWrite .priv i value) s = .next { s with rng.base := tset s.rng.base i (fld value 31 0) }) ∧
    (circBusy (circAt s i) = true → exec (.rngBaseWrite .priv i value) s = .next { s with rng.wdrop := true }) ∧
    (∀ d, ∃ t, exec (.sylLoadCommit d) s = .next t ∧ t.rng.seed = s.rng.seed ∧ t.rng.base = s.rng.base)

/-! ## Optical lanes and gates (R319 to R345) -/

/-- A lane locks; an active lane of an UP gate that loses lock is replaced by a locked spare and the frames are resent, and with no
spare left, or in drill mode, the gate goes DOWN with GATE_DOWN; a window of 1,369,021 corrected symbols or more warns once (R27, R322,
R326, R328). -/
def Obligations.LanesLockAndFail : Prop :=
  ∀ (s : State) (e w : Nat),
    (exec (.laneLock e w) s = .next { s with
      gate.engines := tset s.gate.engines e { engineAt s e with locked := (engineAt s e).locked ||| (1 <<< w) } }) ∧
    (w ∉ (engineAt s e).active → exec (.laneLossOfLock e w) s = .next { s with
      gate.engines := tset s.gate.engines e
        { engineAt s e with locked := (engineAt s e).locked &&& ((engineAt s e).locked ^^^ (1 <<< w)) } }) ∧
    (∀ sp, e < 12 → s.bring.drill = false → (gateAt s e).st = .up → w ∈ (engineAt s e).active → (engineAt s e).spare = some sp →
      sp ≠ w → (engineAt s e).locked.testBit sp = true →
      ∃ t, exec (.laneLossOfLock e w) s = .next t ∧ (gateAt t e).st = .up ∧ (engineAt t e).spared = true ∧
        (engineAt t e).active = (engineAt s e).active.map (fun a => if a = w then sp else a) ∧ (engineAt t e).spare = none ∧
        (engineAt t e).err = [] ∧ (gateAt t e).unacked.map (·.seq) = (gateAt s e).unacked.map (·.seq) ∧
        (gateAt t e).retrains = min ((gateAt s e).retrains + 1) (2 ^ 16 - 1) ∧ t.flt = s.flt ∧ t.stalls = s.stalls) ∧
    (e < 12 → (gateAt s e).st = .up → w ∈ (engineAt s e).active → (engineAt s e).spare = none ∨ s.bring.drill = true →
      ∃ t r, exec (.laneLossOfLock e w) s = .next t ∧ (gateAt t e).st = .down ∧ t.flt.raised = s.flt.raised ++ [r] ∧
        r.code = 0x0502 ∧ r.unit = e ∧ t.stalls = s.stalls) ∧
    (∀ c, 1369021 ≤ c → (engineAt s e).warned.testBit w = false →
      ∃ t r, exec (.gateBerWarn e w c) s = .next t ∧ t.flt.raised = s.flt.raised ++ [r] ∧ r.code = 0x0503 ∧ r.unit = e ∧
        (engineAt t e).warned.testBit w = true ∧ t.gate.gates = s.gate.gates) ∧
    (∀ c, c < 1369021 ∨ (engineAt s e).warned.testBit w = true →
      ∃ t, exec (.gateBerWarn e w c) s = .next t ∧ t.flt = s.flt ∧ (engineAt t e).warned = (engineAt s e).warned ∧
        t.gate.gates = s.gate.gates)

/-- EN enables a qualified gate, which trains, and disables any; RETRAIN trains an enabled gate; a TRAIN codeword is recorded, and an UP gate
follows a far end that proposes other wavelengths, which hold lock here; and the gate is UP once a map of eight wavelengths is adopted, with
fresh credits unless it trained from UP (R325, R327, R328, R403). -/
def Obligations.GatesTrain : Prop :=
  ∀ (s : State) (g : Nat) (value : W64), hubServes s = true →
    (s.bring.phase ≠ .refused → barnsOn s = true → 8 ≤ (goodLanes s g).length → (gateAt s g).en = false →
      value.getLsbD 0 = true → value.getLsbD 1 = false →
      ∃ t, exec (.gateEnable .priv g value) s = .next t ∧ (gateAt t g).en = true ∧ (gateAt t g).st = .train ∧
        (engineAt t g).err = [] ∧ (∀ j, j ≠ g → gateAt t j = gateAt s j) ∧ t.flt = s.flt ∧ t.stalls = s.stalls) ∧
    (s.bring.phase ≠ .refused → (goodLanes s g).length < 8 → value.getLsbD 0 = true → value.getLsbD 1 = false →
      exec (.gateEnable .priv g value) s = .next s) ∧
    (s.bring.phase ≠ .refused → value.getLsbD 0 = false → value.getLsbD 1 = false →
      ∃ t, exec (.gateEnable .priv g value) s = .next t ∧ (gateAt t g).en = false ∧ (gateAt t g).st = .off ∧
        (∀ j, j ≠ g → gateAt t j = gateAt s j) ∧ t.flt = s.flt ∧ t.stalls = s.stalls) ∧
    ((gateAt s g).en = true →
      ∃ t, exec (.gateRetrain .priv g) s = .next t ∧ (gateAt t g).st = .train ∧ (gateAt t g).unacked = (gateAt s g).unacked ∧
        (gateAt t g).retrains = min ((gateAt s g).retrains + 1) (2 ^ 16 - 1) ∧
        (∀ j, j ≠ g → gateAt t j = gateAt s j) ∧ t.flt = s.flt ∧ t.stalls = s.stalls) ∧
    (∀ node pgate prop locks txf, unitStopped s 5 g = false →
      (gateAt s g).st = .train ∨ (gateAt s g).st = .up ∧ prop = (engineAt s g).active →
      ∃ t, exec (.gateTrainReceive g node pgate prop locks txf) s = .next t ∧
        gateAt t g = { gateAt s g with pnode := node, pgate := pgate, farProp := some (prop, locks) } ∧
        (optAt t g).txfail = txf % 512 ∧ (∀ j, j ≠ g → gateAt t j = gateAt s j) ∧ t.flt = s.flt ∧ t.stalls = s.stalls) ∧
    (∀ node pgate prop locks txf, unitStopped s 5 g = false → s.bring.drill = false → (gateAt s g).st = .up →
      prop ≠ (engineAt s g).active → prop.length = 8 → (∀ w ∈ prop, (engineAt s g).locked.testBit w = true) →
      ∃ t, exec (.gateTrainReceive g node pgate prop locks txf) s = .next t ∧ (gateAt t g).st = .up ∧ (engineAt t g).active = prop ∧
        (engineAt t g).spare = none ∧ (engineAt t g).spared = true ∧
        (gateAt t g).unacked.map (·.seq) = (gateAt s g).unacked.map (·.seq) ∧
        (gateAt t g).retrains = min ((gateAt s g).retrains + 1) (2 ^ 16 - 1) ∧ (optAt t g).txfail = txf % 512 ∧
        (∀ j, j ≠ g → gateAt t j = gateAt s j) ∧ t.flt = s.flt ∧ t.stalls = s.stalls) ∧
    (∀ map, unitStopped s 5 g = false → (gateAt s g).st = .train → adopted s g = some map →
      ∃ t, exec (.gateTrainDone g) s = .next t ∧ (gateAt t g).st = .up ∧ (engineAt t g).active = map ∧ map.length = 8 ∧
        ((gateAt s g).keep = false → (gateAt s g).out = [] →
          (gateAt t g).credits = 1024 ∧ (gateAt t g).unacked = [] ∧ (gateAt t g).rxAck = 255) ∧
        ((gateAt s g).keep = true → (gateAt s g).out = [] →
          (gateAt t g).unacked.map (·.seq) = (gateAt s g).unacked.map (·.seq)) ∧
        t.flt = s.flt ∧ t.stalls = s.stalls)

/-- A frame in order is accepted and acknowledges what it names; one out of order or with a bad codeword sets NAK and is not, and what the
spare carried does not matter; the oldest of 128 frames is repeated, with REPEAT and the control word of the moment; and a frame sent eight
times, or an ACK that does not advance, takes the gate DOWN (R323, R324, R326). -/
def Obligations.GateFramesInOrder : Prop :=
  ∀ (s : State) (g : Nat), (gateAt s g).st = .up → unitStopped s 5 g = false →
    (∀ bad seq ctrl payload, (∀ l ∈ bad, 8 ≤ l) → seq = ((gateAt s g).rxAck + 1) % 256 →
      ∃ t, exec (.gateFrameReceive g bad seq ctrl payload) s = .next t ∧ (gateAt t g).rxAck = seq ∧ (gateAt t g).rxNak = false ∧
        (gateAt t g).rxBuf = dropIdle ((gateAt s g).rxBuf ++ chunks 128 (padTo 5120 payload)) ∧ (gateAt t g).st = .up ∧
        (∀ pre f post, (gateAt s g).unacked = pre ++ f :: post → f.seq = (ctrl.extractLsb' 0 8).toNat →
          (∀ x ∈ pre, x.seq ≠ f.seq) → ctrl.getLsbD 8 = false → (gateAt s g).out = [] → (gateAt t g).unacked = post) ∧
        t.loft = s.loft ∧ t.flt = s.flt) ∧
    (∀ bad seq ctrl payload, (∀ l ∈ bad, 8 ≤ l) → seq ≠ ((gateAt s g).rxAck + 1) % 256 →
      ∃ t, exec (.gateFrameReceive g bad seq ctrl payload) s = .next t ∧ (gateAt t g).rxAck = (gateAt s g).rxAck ∧
        (gateAt t g).rxNak = true ∧ (gateAt t g).rxBuf = (gateAt s g).rxBuf ∧ t.loft = s.loft ∧ t.flt = s.flt) ∧
    (∀ bad seq ctrl payload, (∃ l ∈ bad, l < 8) →
      ∃ t, exec (.gateFrameReceive g bad seq ctrl payload) s = .next t ∧ gateAt t g = { gateAt s g with rxNak := true } ∧
        t.stalls = s.stalls ∧ t.loft = s.loft ∧ t.flt = s.flt) ∧
    (∀ f rest, (gateAt s g).unacked = f :: rest → 127 ≤ rest.length → s.bring.drill = false →
      exec (.gateRepeatOldest g) s = .next { s with
        gate.gates := tset s.gate.gates g { gateAt s g with
          unacked := { f with sends := f.sends + 1, ctrl := ctrlWord (gateAt s g) true } :: rest
          freed := (gateAt s g).freed - min 1023 (gateAt s g).freed
          replays := min ((gateAt s g).replays + 1) (2 ^ 16 - 1) } }) ∧
    ((∃ f ∈ (gateAt s g).unacked, 8 ≤ f.sends) →
      ∃ t r, exec (.gateResendLimit g) s = .next t ∧ (gateAt t g).st = .down ∧ t.flt.raised = s.flt.raised ++ [r] ∧
        r.code = 0x0502 ∧ r.unit = g ∧ (∀ j, j ≠ g → gateAt t j = gateAt s j) ∧ t.stalls = s.stalls) ∧
    ((gateAt s g).unacked ≠ [] →
      ∃ t r, exec (.gateAckTimeout g) s = .next t ∧ (gateAt t g).st = .down ∧ t.flt.raised = s.flt.raised ++ [r] ∧
        r.code = 0x0502 ∧ r.unit = g ∧ (∀ j, j ≠ g → gateAt t j = gateAt s j) ∧ t.stalls = s.stalls)

/-- In main mode a gate packet that is not for this device goes on when its gate has room, in a frame whose control word acknowledges what that
gate has received; DATA for it enters its window entry unless its tile is not the one expected, which is TILE_CONFLICT; CREDIT returns
credits; ABORT stops the group's job (R323, R329, R331, R337, R342, R344). -/
def Obligations.GatePacketsArrive : Prop :=
  ∀ (s : State) (g : Nat) (q : GatePkt), s.bring.drill = false → frontPkt s g = some q →
    (∀ out straight q', routeStep g q = some (out, straight, q') → gateRoom (gateAt s out) q' straight = true →
      ∀ c, (q.op, c) ∈ [(1, Instr.gatePktData g), (2, .gatePktCredit g), (3, .gateAbort g)] →
      ∃ t f, exec c s = .next t ∧ (gateAt t out).unacked = (gateAt s out).unacked ++ [f] ∧ f.pkt = q' ∧ f.sends = 1 ∧
        f.ctrl.extractLsb' 0 8 = BitVec.ofNat 8 (gateAt s out).rxAck ∧
        (out ≠ g → (gateAt t g).freed = (gateAt s g).freed + pktSlots q) ∧
        t.stalls = s.stalls ∧ t.loft = s.loft ∧ t.flt = s.flt) ∧
    (routeStep g q = none → q.op = 1 → ∀ p l r, physOf s q.stall = some p → (stallP s p).loaded = some l →
      windowOf (imgAt s l.slot) q.stall q.window = some r →
      ((∀ d n it, expectedTile s q.stall p q.window = some (d, n, it) → n % 2 ^ 16 = q.tile) →
        ∃ t, exec (.gatePktData g) s = .next t ∧
          (stallP t p).scratch = memWrite (stallP s p).scratch
            (r.base + q.entry % max 1 r.cap * r.size + 16 * q.offset) q.payload ∧
          (q.payload.length < 480 → tget [] (stallP t p).wins q.window = tget [] (stallP s p).wins q.window ++
            [{ entry := q.entry % max 1 r.cap, tile := q.tile, grp := some (q.group, q.member) }]) ∧
          (480 ≤ q.payload.length → t.flt = s.flt) ∧ (∀ x, x ≠ p → stallP t x = stallP s x) ∧ t.loft = s.loft) ∧
      (∀ d n it, expectedTile s q.stall p q.window = some (d, n, it) → n % 2 ^ 16 ≠ q.tile →
        ∃ t x, exec (.gatePktData g) s = .next t ∧ t.flt.raised = s.flt.raised ++ [x] ∧ x.code = 0x0204 ∧ x.unit = p ∧
          (stallP t p).jstop = true ∧ (∀ y, (stallP t y).scratch = (stallP s y).scratch) ∧ t.loft = s.loft)) ∧
    (routeStep g q = none → q.op = 2 →
      ∃ t, exec (.gatePktCredit g) s = .next t ∧
        (∀ k, tget 0 t.gate.sendCred k = tget 0 s.gate.sendCred k + if k = q.stall * 64 + q.window then q.tile else 0) ∧
        (∀ k, tget 0 t.gate.granted k = tget 0 s.gate.granted k + if k = q.stall * 64 + q.window then q.tile else 0) ∧
        t.stalls = s.stalls ∧ t.loft = s.loft ∧ t.flt = s.flt) ∧
    (routeStep g q = none → q.op = 3 →
      ∃ t, exec (.gateAbort g) s = .next t ∧ t.gate.aborts = min (s.gate.aborts + 1) (2 ^ 16 - 1) ∧ t.stalls = s.stalls ∧
        t.loft = s.loft ∧
        (s.flt.jstopped = false → stopped s = false → q.group ∈ namedGroups s →
          ∃ r, t.flt.raised = s.flt.raised ++ [r] ∧ r.code = 0x0504 ∧ r.unit = g) ∧
        (s.flt.jstopped = true ∨ q.group ∉ namedGroups s → t.flt = s.flt))

/-! ## Video (R346 to R370) -/

/-- OPEN of a closed stream with a valid record, SUBMIT of a valid descriptor with room, KEY, LTR_MARK and LTR_USE on an open encode
stream, and CLOSE of a stream with nothing queued or running (R350, R354, R362, R363, R369). -/
def Obligations.VideoStreamCommands : Prop :=
  ∀ (s : State) (v : View) (tag k : Nat), Reaches s v vidBase → vidActive s = false →
    (∀ b, jobBar true s = none → (streamAt s (k % 64)).st = .closed → vidFieldsOk (vidRecord b) = true →
      refAreaOk s (vidRecord b) = true → ∃ t, exec (.vidOpen v tag k (some b)) s = .next t ∧
      Completed tag 0 [] { s with
        vid.streams := tset s.vid.streams (k % 64) { st := .opened, ctx := vidRecord b }
        vid.tag := tag % 256
        vid.result := 0 } t) ∧
    (∀ b, jobBar true s = none → (streamAt s (k % 64)).st = .opened ∨ (streamAt s (k % 64)).st = .error →
      picOk s (streamAt s (k % 64)).ctx (picDesc .reg b) = true → (streamAt s (k % 64)).queue.length < 16 →
      ∃ t, exec (.vidSubmit v tag k (some b)) s = .next t ∧ t.vid.result = 0 ∧ t.vid.tag = tag % 256 ∧
        (streamAt t (k % 64)).queue = (streamAt s (k % 64)).queue ++ [picDesc .reg b] ∧
        (streamAt t (k % 64)).st = (streamAt s (k % 64)).st ∧
        (∀ j, j ≠ k % 64 → streamAt t j = streamAt s j) ∧ t.loft = s.loft ∧ t.stalls = s.stalls ∧ t.flt = s.flt) ∧
    (jobBar false s = none → (streamAt s (k % 64)).st = .opened ∨ (streamAt s (k % 64)).st = .error →
      (streamAt s (k % 64)).ctx.role ≠ 1 →
      (∃ t, exec (.vidKey v tag k) s = .next t ∧ Completed tag 0 [] { s with
        vid.streams := tset s.vid.streams (k % 64) { streamAt s (k % 64) with keypend := true }
        vid.tag := tag % 256
        vid.result := 0 } t) ∧
      (∀ j, ∃ t, exec (.vidLtrMark v tag k j) s = .next t ∧ Completed tag 0 [] { s with
        vid.streams := tset s.vid.streams (k % 64) { streamAt s (k % 64) with ltrMark := some (j % 4) }
        vid.tag := tag % 256
        vid.result := 0 } t) ∧
      (∀ j, ((streamAt s (k % 64)).ltrSlots.getD (j % 4) none).isSome = true →
        ∃ t, exec (.vidLtrUse v tag k j) s = .next t ∧ Completed tag 0 [] { s with
        vid.streams := tset s.vid.streams (k % 64) { streamAt s (k % 64) with ltrUse := some (j % 4) }
        vid.tag := tag % 256
        vid.result := 0 } t) ∧
      (∀ j, ((streamAt s (k % 64)).ltrSlots.getD (j % 4) none).isSome = false →
        ∃ t, exec (.vidLtrUse v tag k j) s = .next t ∧
          Completed tag 2 [] { s with vid.tag := tag % 256, vid.result := 2 } t)) ∧
    (jobBar false s = none → (streamAt s (k % 64)).st = .opened ∨ (streamAt s (k % 64)).st = .error →
      (streamAt s (k % 64)).queue = [] → runsOn s (k % 64) = none →
      ∃ t, exec (.vidClose v tag k) s = .next t ∧ Completed tag 0 [] { s with
        vid.streams := tset s.vid.streams (k % 64) { streamAt s (k % 64) with st := .closed, queue := [] }
        vid.tag := tag % 256
        vid.result := 0 } t)

/-- A free engine starts the picture of the chosen stream; a running picture completes, is counted, posts its record, frees its
engine and closes a stream that waited for it; it waits while video is held (R355, R356, R357, R362, R368, R369). -/
def Obligations.PicturesStartAndComplete : Prop :=
  ∀ (s : State) (e : Nat),
    (∀ k x p rest, startBarred s = false → (vidEng s e).run = none → chosenStream s e = some (k, x) → streamAt s k = x →
      x.queue = p :: rest →
      ∃ t, exec (.pictureStart e) s = .next t ∧ (streamAt t k).queue = rest ∧ (streamAt t k).picno = (x.picno + 1) % 2 ^ 32 ∧
        (streamAt t k).keypend = false ∧
        (∃ r, (vidEng t e).run = some r ∧ r.stream = k ∧ r.pic = p ∧ r.picno = x.picno ∧ r.key = isKey x p) ∧
        (∀ j, j ≠ k → streamAt t j = streamAt s j) ∧ t = { s with vid := t.vid }) ∧
    (∀ r src, videoHeld s = false → (vidEng s e).run = some r →
      ∃ t, exec (.pictureComplete e src) s = .next t ∧ (vidEng t e).run = none ∧
        (vidEng t e).pictures = ((vidEng s e).pictures + 1) % 2 ^ 32 ∧
        (∃ c ∈ (queueAt t (viaQueue s r.pic.via)).waiting, c.kind = 3 ∧ c.tag = r.pic.tag ∧ c.status = 0) ∧
        ((streamAt s r.stream).ctx.role = 0 → (streamAt s r.stream).st = .opened → (streamAt t r.stream).st = .opened) ∧
        ((streamAt s r.stream).st = .closing → (streamAt t r.stream).st = .closed) ∧
        (∀ j, j ≠ r.stream → streamAt t j = streamAt s j) ∧ t.stalls = s.stalls ∧ t.roll = s.roll) ∧
    (∀ src, videoHeld s = true ∨ (vidEng s e).run = none → exec (.pictureComplete e src) s = .next s)

/-! ## The host link, the queues and SMBus (R371 to R387) -/

/-- A flit in order is accepted and one past it refused; its ACK drops what it acknowledges and its NAK, in main mode, counts what is resent; a link
whose flits stay unacknowledged goes DOWN with HOST_LINK_DOWN; a completion serves its read (R372 to R376). -/
def Obligations.HostLink : Prop :=
  ∀ (s : State), s.host.up = true → unitStopped s 5 12 = false →
    (∀ h, exec (.hostFlitReceive h false) s = .next { s with host.rxNak := true }) ∧
    (∀ h, s.host.txq = [] → ∃ t, exec (.hostFlitReceive h true) s = .next t ∧ t = { s with host := t.host } ∧
      (h.getLsbD 25 = false → fld h 11 0 = (s.host.rxAck + 1) % 4096 → t.host.rxAck = fld h 11 0 ∧ t.host.rxNak = false) ∧
      (h.getLsbD 25 = false → 1 < (fld h 11 0 + 4096 - s.host.rxAck) % 4096 → (fld h 11 0 + 4096 - s.host.rxAck) % 4096 ≤ 2048 →
        s.host.rxAck < 4096 → t.host.rxAck = s.host.rxAck ∧ t.host.rxNak = true) ∧
      (h.getLsbD 25 = true → t.host.rxAck = s.host.rxAck ∧ t.host.rxNak = s.host.rxNak) ∧
      (∀ pre post, s.host.unacked = pre ++ fld h 23 12 :: post → fld h 23 12 ∉ pre → t.host.unacked = post ∧
        t.host.replays = if h.getLsbD 24 = true ∧ s.bring.drill = false then min (s.host.replays + post.length) (2 ^ 32 - 1) else s.host.replays) ∧
      t.host.posted = s.host.posted + (if fld h 27 26 = 0 then fld h 31 28 else 0) ∧
      t.host.nonposted = s.host.nonposted + (if fld h 27 26 = 1 then fld h 31 28 else 0) ∧
      t.host.queues = s.host.queues ∧ t.host.reads = s.host.reads ∧ t.host.tx = s.host.tx) ∧
    (s.host.unacked = [] → exec .hostLinkTimeout s = .next s) ∧
    (s.host.unacked ≠ [] →
      ∃ t r, exec .hostLinkTimeout s = .next t ∧ t = { s with host := t.host, flt := t.flt } ∧ t.host.up = false ∧
        t.host.down = true ∧ t.host.tx = s.host.tx ∧ t.flt.raised = s.flt.raised ++ [r] ∧ r.code = 0x0505 ∧ r.unit = 12) ∧
    (∀ tag status data r, (s.host.reads.find? fun r => r.tag = tag) = some r → r.use = .other →
      exec (.hostCpl tag status data) s = .next { s with host.reads := s.host.reads.filter fun x => x.tag ≠ tag }) ∧
    (∀ tag data r off, (s.host.reads.find? fun r => r.tag = tag) = some r → r.use = .firmware off →
      (∀ status, status ≠ 0 → exec (.hostCpl tag status data) s = .next { s with
        host.reads := s.host.reads.filter fun x => x.tag ≠ tag
        sec.fetchBad := true }) ∧
      ∃ t, exec (.hostCpl tag 0 data) s = .next t ∧ t.sec.fetched = tset s.sec.fetched off (padTo r.len data) ∧
        t = { s with host := t.host, sec := t.sec }) ∧
    (∀ tag status data, (∀ r ∈ s.host.reads, r.tag ≠ tag) → exec (.hostCpl tag status data) s = .next s)

/-- HOST_DB_q, HOST_SQ_q and HOST_CQ_q take a write or set QERR, and disabling a queue discards its waiting records; the oldest waiting
record is written to its ring where there is room, with a COMPLETION alert where the ring was empty (R378, R379, R382 to R385). -/
def Obligations.HostQueues : Prop :=
  ∀ (s : State) (q : Nat) (x : Queue), hubServes s = true → queueAt s q = x →
    (∀ v value, Reaches s v (hostBase + 0x110 + 0x20 * q) →
      (x.sqEn = true → fld value 11 0 < 2 ^ x.sqLog2 → exec (.hostDbWrite v q value) s =
        .next { s with host.queues := tset s.host.queues q { x with tail := fld value 11 0 } }) ∧
      (x.sqEn = false ∨ 2 ^ x.sqLog2 ≤ fld value 11 0 →
        exec (.hostDbWrite v q value) s = .next { s with host.qerr := true })) ∧
    (∀ value, x.sqEn = false → value.getLsbD 4 = true → 4 ≤ fld value 3 0 → fld value 3 0 ≤ 12 →
      exec (.hostQueueConfigWrite .priv q false value) s = .next { s with
        host.queues := tset s.host.queues q
          { x with sqBase := fld value 63 12 * 4096, sqEn := true, sqLog2 := fld value 3 0 } }) ∧
    (∀ value, value.getLsbD 4 = true → fld value 3 0 < 4 ∨ 12 < fld value 3 0 →
      exec (.hostQueueConfigWrite .priv q false value) s = .next { s with host.qerr := true }) ∧
    (∀ value, x.sqEn = true → fld value 63 12 * 4096 ≠ x.sqBase ∨ fld value 3 0 ≠ x.sqLog2 →
      exec (.hostQueueConfigWrite .priv q false value) s = .next { s with host.qerr := true }) ∧
    (∀ value, x.sqEn = true → fld value 63 12 * 4096 = x.sqBase → fld value 3 0 = x.sqLog2 → value.getLsbD 4 = false →
      (x.sqHead ≠ x.tail ∨ x.inflight ≠ 0 →
        exec (.hostQueueConfigWrite .priv q false value) s = .next { s with host.qerr := true }) ∧
      (x.sqHead = x.tail → x.inflight = 0 → ∃ t, exec (.hostQueueConfigWrite .priv q false value) s = .next t ∧
        queueAt t q = { x with sqEn := false, waiting := [] } ∧
        t.host.cqlost = min (s.host.cqlost + x.waiting.length) (2 ^ 16 - 1) ∧ (∀ k, k ≠ q → queueAt t k = queueAt s k))) ∧
    (∀ value, x.sqEn = false → exec (.hostQueueConfigWrite .priv q true value) s = .next { s with
      host.queues := tset s.host.queues q
        { x with cqBase := fld value 63 12 * 4096, cqAlert := value.getLsbD 4, cqLog2 := fld value 3 0 } }) ∧
    (x.waiting = [] → exec (.completionRecordWrite q) s = .next s) ∧
    (∀ r rest, x.waiting = r :: rest →
      (x.sqEn = false → ∃ t, exec (.completionRecordWrite q) s = .next t ∧ t = { s with host := t.host } ∧
        queueAt t q = { x with waiting := rest } ∧ t.host.cqlost = min (s.host.cqlost + 1) (2 ^ 16 - 1) ∧ t.host.tx = s.host.tx) ∧
      (x.sqEn = true → (x.cqTail + 1) % 2 ^ x.cqLog2 = x.cqHead → exec (.completionRecordWrite q) s = .next s) ∧
      (x.sqEn = true → (x.cqTail + 1) % 2 ^ x.cqLog2 ≠ x.cqHead → ∃ t, exec (.completionRecordWrite q) s = .next t ∧
        t = { s with host := t.host } ∧
        queueAt t q = { x with
          waiting := rest
          cqTail := (x.cqTail + 1) % 2 ^ x.cqLog2
          phase := if (x.cqTail + 1) % 2 ^ x.cqLog2 = 0 then !x.phase else x.phase } ∧
        (∀ k, k ≠ q → queueAt t k = queueAt s k) ∧
        (s.host.txq = [] → 3 ≤ s.host.posted → s.host.unacked.length ≤ 1022 →
          t.host.tx = s.host.tx ++ [HostTxn.write (x.cqBase + 64 * x.cqTail) (cplBytes q x.phase r)] ++
            (if x.cqAlert = true ∧ x.cqHead = x.cqTail then [HostTxn.msg (alertField 1 q 0)] else []))))

/-- The queue that is to be served gives its entry: what the entry asks of a unit is what the unit's registers ask, its record going to
the queue; an entry that its queue's view forbids, that comes too early, is malformed or cannot be read completes without effect; and
one whose unit is busy stays (R378 to R381, R383). -/
def Obligations.QueueEntries : Prop :=
  ∀ (s : State) (q : Nat), hubServes s = true → nextQueue s = some q →
    (∀ data, ∃ t, exec (.queueEntryTake q none data) s = .next t ∧ t = { s with host := t.host } ∧
      (queueAt t q).sqHead = ((queueAt s q).sqHead + 1) % 2 ^ (queueAt s q).sqLog2 ∧
      (queueAt t q).waiting = (queueAt s q).waiting ++ [{
        tag := 0, status := 0x13, kind := 0, body := leBytes 8 ((queueAt s q).sqBase + 64 * (queueAt s q).sqHead) }]) ∧
    (∀ b data, b.length = 64 → 16 ≤ q → s.bring.ready = true → byteAt b 2 ≠ 0 ∨ byteAt b 3 ≠ 0 ∨ byteAt b 0 = 0 ∨ 8 ≤ byteAt b 0 →
      ∃ t, exec (.queueEntryTake q (some b) data) s = .next t ∧ t = { s with host := t.host } ∧
        (queueAt t q).waiting = (queueAt s q).waiting ++ [{ tag := leAt b 4 4, status := 0x14, kind := 0, body := [] }]) ∧
    (∀ b data, b.length = 64 → q < 16 → s.sec.owned = false ∨ byteAt b 0 = 6 →
      ∃ t r, exec (.queueEntryTake q (some b) data) s = .next t ∧ t.flt.raised = s.flt.raised ++ [r] ∧ r.code = 0x0603 ∧
        (queueAt t q).waiting = (queueAt s q).waiting ++ [{ tag := leAt b 4 4, status := 0x10, kind := 0, body := [] }] ∧
        t.stalls = s.stalls ∧ t.loft = s.loft ∧ t.roll = s.roll ∧ t.syl = s.syl ∧ t.snap = s.snap) ∧
    (∀ b data, b.length = 64 → 16 ≤ q → s.bring.ready = false → 1 ≤ byteAt b 0 → byteAt b 0 ≤ 6 → byteAt b 1 = 1 →
      ∃ t, exec (.queueEntryTake q (some b) data) s = .next t ∧ t = { s with host := t.host } ∧
        (queueAt t q).waiting = (queueAt s q).waiting ++ [{ tag := leAt b 4 4, status := 0x11, kind := 0, body := [] }]) ∧
    (∀ b data, b.length = 64 → entryBar q b s = none → unitBusy (byteAt b 0) (byteAt b 1) s = true →
      ∃ t, exec (.queueEntryTake q (some b) data) s = .next t ∧ t = { s with host.queues := t.host.queues } ∧
        (queueAt t q).sqHead = (queueAt s q).sqHead ∧ (queueAt t q).waiting = (queueAt s q).waiting) ∧
    (∀ b data, b.length = 64 → entryBar q b s = none → byteAt b 0 = 2 → byteAt b 1 = 3 → leAt b 8 2 < 4096 →
      jobBar true s = none → (entryAt s (leAt b 8 2)).st = .ready →
      ∃ t, exec (.queueEntryTake q (some b) data) s = .next t ∧ t = { s with host := t.host, roll := t.roll } ∧
        entryAt t (leAt b 8 2) = { entryAt s (leAt b 8 2) with st := .paused } ∧
        (∀ i, i ≠ leAt b 8 2 → entryAt t i = entryAt s i) ∧ t.roll.circuits = s.roll.circuits ∧ t.roll.result = 0 ∧
        (queueAt t q).waiting = (queueAt s q).waiting ++ [{ tag := leAt b 4 4, status := 0, kind := 0, body := [] }] ∧
        (queueAt t q).inflight = (queueAt s q).inflight ∧ (∀ k, k ≠ q → queueAt t k = queueAt s k))

/-- COPY TO_LOFT writes exactly its bytes and clears the poison of the words that it covers; COPY FROM_LOFT sends the bytes and changes
no byte of the loft; a length or an address out of range moves nothing (R292, R300, R380, R381). -/
def Obligations.Copies : Prop :=
  ∀ (s : State) (q tag host loft len : Nat), q < 16 → s.sec.owned = true → unitBar s = none →
    (len ≠ 0 → len % 64 = 0 → loft + len ≤ 2 ^ 39 → firstOutside (jobRanges s) loft (loft + len) = none →
      (∀ b ecc, copyHeld s loft len = false →
        loft % 64 = 0 ∨ (ecc = { corrected := [], uncorrectable := [] } ∧ firstPoison s loft len = none) →
        ∃ t, exec (.copyToLoft q tag host loft len (some b) ecc) s = .next t ∧
          (Memory.wf s.loft.mem = true → ∀ a, memGet t.loft.mem a =
            if loft ≤ a ∧ a < loft + len then (padTo len b).getD (a - loft) 0 else memGet s.loft.mem a) ∧
          (∀ w, loft ≤ w → w + 64 ≤ loft + len → w % 64 = 0 → poisonedWord t w = false) ∧
          t = { s with host := t.host, loft.mem := t.loft.mem, loft.poison := t.loft.poison, fab.packets := t.fab.packets } ∧
          queueAt t q = { queueAt s q with
            waiting := (queueAt s q).waiting ++ [{ tag := tag, status := 0, kind := 0, body := [] }] } ∧
          ∀ k, k ≠ q → queueAt t k = queueAt s k) ∧
      (firstPoison s loft len = none → s.host.up = true → s.host.txq = [] →
        ∃ t, exec (.copyFromLoft q tag host loft len true { corrected := [], uncorrectable := [] }) s = .next t ∧
          t = { s with host := t.host, fab.packets := t.fab.packets } ∧
          t.host.tx ++ t.host.txq = s.host.tx ++ hostWrites host (memRead s.loft.mem loft len) ∧
          queueAt t q = { queueAt s q with
            waiting := (queueAt s q).waiting ++ [{ tag := tag, status := 0, kind := 0, body := [] }] } ∧
          ∀ k, k ≠ q → queueAt t k = queueAt s k)) ∧
    (∀ c st body ecc data ok, c ∈ [Instr.copyToLoft q tag host loft len data ecc, Instr.copyFromLoft q tag host loft len ok ecc] →
      (len = 0 ∨ len % 64 ≠ 0 ∨ 2 ^ 39 < loft + len → (st, body) = (5, [])) →
      (len ≠ 0 → len % 64 = 0 → loft + len ≤ 2 ^ 39 →
        ∃ a, firstOutside (jobRanges s) loft (loft + len) = some a ∧ (st, body) = (0x13, leBytes 8 a)) →
      ∃ t, exec c s = .next t ∧ t = { s with host := t.host } ∧ queueAt t q = { queueAt s q with
        waiting := (queueAt s q).waiting ++ [{ tag := tag, status := st, kind := 0, body := body }] } ∧
        ∀ k, k ≠ q → queueAt t k = queueAt s k)

/-- An SMBus command with its packet error code is answered in AUX and every higher state, and its answer changes nothing else but
0x07, which clears ALERT; another is not acknowledged (R387). -/
def Obligations.SmbusAnswers : Prop :=
  ∀ (s : State), s.pins.resetN = true → s.pins.pwrgdAux = true →
    exec (.smbIdentity true) s = .next { s with smb.acked := true, smb.resp := identityBytes } ∧
    exec (.smbTemperature true) s = .next { s with smb.acked := true, smb.resp := leBytes 2 (twos 16 (hottest s)) } ∧
    exec (.smbPowerState true) s = .next { s with
      smb.acked := true
      smb.resp := leBytes 1 (pstateCode s + 8 * b2n s.pwr.moving.isSome + 16 * b2n s.pwr.tripped) } ∧
    exec (.smbStatus true) s = .next { s with
      smb.acked := true
      smb.resp := leBytes 1 (b2n s.host.up + 2 * b2n s.host.alert + 4 * b2n s.bring.drill + 8 * b2n s.bring.ready +
        16 * b2n s.flt.linkLogged) } ∧
    exec (.smbPower true) s = .next { s with smb.acked := true, smb.resp := leBytes 2 s.pwr.power } ∧
    exec (.smbLastFault true) s = .next { s with
      smb.acked := true
      smb.resp := (match s.flt.last with | some r => recBytes r | none => zeros 32) } ∧
    exec (.smbClearAlert true) s = .next { s with smb.acked := true, smb.resp := [], host.alert := false } ∧
    ∀ c ∈ [Instr.smbIdentity false, .smbTemperature false, .smbPowerState false, .smbStatus false, .smbPower false,
        .smbLastFault false, .smbClearAlert false], exec c s = .next { s with smb.acked := false, smb.resp := [] }

/-! ## The CTX block (R435 to R456) -/

/-- PREEMPT stops the job, at once or after a LOAD; a stall stops where it may; the job is STOPPED once every stall is, no packet is on
its way to one and no picture runs; RESUME lets it go on; and CLEAR ends HELD with what the commits set (R435 to R437, R440, R450,
R453). -/
def Obligations.JobsStopAndResume : Prop :=
  ∀ (s : State) (v : View) (tag : Nat), s.ctx.vac = none →
    (Reaches s v ctxBase → unitBar s = none → s.ctx.preempt = none → s.ctx.st = .run →
      exec (.ctxPreempt v tag) s = .next { s with
        ctx.preempt := some (regIssuer tag), ctx.st := if s.syl.load.isSome then .run else .stopping }) ∧
    (∀ n p k, s.ctx.st = .stopping → n ∈ residentStalls s → physOf s n = some p → stopsAs n p s = some k →
      exec (.stallPreemptStop n) s = .next { s with
        stalls := tset s.stalls p { stallP s p with preempted := true, stopKind := k } }) ∧
    (∀ n p, s.ctx.st = .stopping → n ∈ residentStalls s → physOf s n = some p → (stallP s p).prog = none →
      exec (.stallPreemptStop n) s = .next { s with
        stalls := tset s.stalls p { stallP s p with preempted := true, stopKind := 2 } }) ∧
    (s.ctx.st = .stopping → s.ctx.preempt = some (regIssuer tag) →
      (∀ n ∈ satchelStalls s, ∀ p, physOf s n = some p → (stallP s p).preempted = true ∧ writesOut (stallP s p) = 0) →
      (∀ k ∈ s.fab.net, toWindow (satchelStalls s) k.body = false) → (∀ e ∈ s.vid.engines, e.2.run = none) →
      ∃ t, exec .ctxStopped s = .next t ∧ Completed tag 0 [] { s with
        ctx.st := .stopped, ctx.preempt := none, ctx.saved := false, ctx.tag := tag % 256, ctx.result := 0 } t) ∧
    (Reaches s v ctxBase → unitBar s = none → s.ctx.preempt = none → s.ctx.st = .stopped →
      ∃ t, exec (.ctxResume v tag) s = .next t ∧ t.ctx.st = .run ∧ t.ctx.saved = false ∧ t.ctx.result = 0 ∧
        t.ctx.tag = tag % 256 ∧ t.pwr = s.pwr ∧ t.sec = s.sec ∧ t.loft = s.loft ∧
        ((∀ n ∈ satchelStalls s, ∀ p, physOf s n = some p → opsOf (stallP s p) = []) →
          ∀ n ∈ satchelStalls s, ∀ p, physOf s n = some p → (stallP t p).preempted = false)) ∧
    (Reaches s v ctxBase → unitBar s = none → s.ctx.preempt = none → s.ctx.st = .held →
      ∃ t, exec (.ctxClear v tag) s = .next t ∧ Completed tag 0 [] { toCommit s with
        ctx.st := .run, ctx.saved := false, ctx.tag := tag % 256, ctx.result := 0 } t ∧ t.roll.entries = [] ∧
        t.rng.seed = s.rng.seed0 ∧ t.rng.base = s.rng.base0 ∧
        ∀ c, (circAt s c).st ≠ .absent → circAt t c = { st := .stopped })

/-- SAVE of a STOPPED job writes its satchel and marks it saved; RESTORE of a satchel that passes its steps leaves the job STOPPED, and
of one that fails the first or the second HELD with its record; VACATE without entries ends the job's state (R446 to R450, R454). -/
def Obligations.JobsSaveAndRestore : Prop :=
  ∀ (s : State) (v : View) (tag : Nat), s.ctx.vac = none → unitBar s = none →
    (Reaches s v ctxBase → s.ctx.preempt = none →
      (∀ whole, s.ctx.st = .stopped → satchelLength s whole ≤ s.ctx.argLen →
        (whole = true → ∀ x ∈ satchelExtents s, firstPoison s x.1 (x.2 - x.1) = none) →
        ∃ t u, exec (.ctxSave v tag whole false (.done [])) s = .next t ∧
          u = { s with fab.packets := u.fab.packets } ∧ (whole = false → u = s) ∧
          Completed tag 0 [] (hostSend (hostWrites s.ctx.argAddr (satchelBytes s whole s.ctx.argLabel))
            { u with ctx.saved := true, ctx.tag := tag % 256, ctx.result := 0 }) t) ∧
      (∀ x w, s.ctx.st = .stopped → satchelLength s true ≤ s.ctx.argLen → x ∈ satchelExtents s →
        firstPoison s x.1 (x.2 - x.1) = some w →
        ∃ t r, exec (.ctxSave v tag true false (.done [])) s = .next t ∧ t.ctx.saved = false ∧ t.ctx.result = 4 ∧
          t.flt.raised = s.flt.raised ++ [r] ∧ r.code = 0x0402 ∧ t.host.tx = s.host.tx ∧ t.loft = s.loft) ∧
      (∀ whole store outcome, s.ctx.st = .stopped → s.ctx.argLen < satchelLength s whole →
        ∃ t, exec (.ctxSave v tag whole store outcome) s = .next t ∧
          Completed tag 5 [] { s with ctx.tag := tag % 256, ctx.result := 5 } t) ∧
      (∀ bs b, s.snap.st ≠ .capture → s.snap.st ≠ .drain → restoreReady s = true → b = padTo s.ctx.argLen bs →
        drivenMarked s (slice b 0x1000 0x100000) = true →
        (satchelHead b s.ctx.argLen = true → satchelFits s b = true → satchelSealed b s.ctx.argLen = true →
          byteAt b 6 = 0 →
          ∃ t, exec (.ctxRestore v tag false (some bs)) s = .next t ∧ t.ctx.st = .stopped ∧ t.ctx.result = 0 ∧
            t.ctx.tag = tag % 256 ∧ t.ctx.saved = false ∧ t.loft = s.loft ∧ t.pwr = s.pwr ∧ t.sec = s.sec ∧ t.flt = s.flt ∧
            t.rng.seed = wordAt (slice b 0x1000 0x100000) 0x40000 ∧
            t.vid.engines = s.vid.engines) ∧
        (satchelHead b s.ctx.argLen = false →
          ∃ t r, exec (.ctxRestore v tag false (some bs)) s = .next t ∧ t.ctx.st = .held ∧ t.ctx.result = 4 ∧
            t.flt.raised.map (·.code) = s.flt.raised.map (·.code) ++ [r] ∧ r = 0x0902 ∧ t.stalls = s.stalls ∧
            t.loft = s.loft ∧ t.roll = s.roll) ∧
        (satchelHead b s.ctx.argLen = true → satchelFits s b = false →
          ∃ t r, exec (.ctxRestore v tag false (some bs)) s = .next t ∧ t.ctx.st = .held ∧ t.ctx.result = 4 ∧
            t.flt.raised.map (·.code) = s.flt.raised.map (·.code) ++ [r] ∧ r = 0x0901 ∧ t.stalls = s.stalls ∧
            t.loft = s.loft ∧ t.roll = s.roll))) ∧
    (Reaches s v (ctxBase + 0x400) → s.ctx.st = .run ∨ s.ctx.st = .stopped ∨ s.ctx.st = .held →
      s.snap.st ≠ .capture → s.snap.st ≠ .drain →
      ∃ t, exec (.ctxVacate v tag 0) s = .next t ∧ t.ctx.st = .run ∧ t.ctx.saved = false ∧ t.ctx.vresult = 0 ∧
        t.ctx.vtag = tag % 256 ∧ t.ctx.vac = none ∧ t.flt.jstopped = false ∧ (∀ i, (entryAt t i).st = .free) ∧
        (∀ p, (stallP t p).prog = none ∧ (stallP t p).slots = [] ∧ (stallP t p).ring = []) ∧
        (∀ p, (stallP t p).scratch = (stallP s p).scratch) ∧ t.loft = s.loft)

/-! ## Snapshots (R457 to R476) -/

/-- CONFIG arms an OFF device whose region fits, with the slots read; TAKE names the greatest next step; a CAPTURE at the step that is
due starts the drain; the loss, the commit, an ABORT and a store error end it (R459 to R461, R467 to R470). -/
def Obligations.SnapshotsTaken : Prop :=
  ∀ (s : State) (v : View) (tag : Nat),
    (Reaches s v snapBase → unitBar s = none → s.snap.aborting = none →
      (∀ a, s.snap.st = .off ∨ s.snap.st = .armed → s.snap.link = true → a.identifyStatus = 0 → a.readStatus = 0 →
        storeFits s a = true → regionFits s = true →
        ∃ t, exec (.snapConfig v tag a) s = .next t ∧ t.snap.st = .armed ∧ t.snap.result = 0 ∧ t.snap.tag = tag % 256 ∧
          snapSlot t 0 = slotFrom a.record0 ∧ snapSlot t 1 = slotFrom a.record1 ∧
          t = { s with snap := t.snap, host := t.host }) ∧
      (s.snap.st = .armed → s.snap.link = true → ∃ t, exec (.snapTake v tag) s = .next t ∧
        Completed tag 0 [] { s with
          snap.at_ := some (((trainingCircuits s).map (nextStepOf s)).foldl max 0)
          snap.tag := tag % 256
          snap.result := 0 } t) ∧
      (∀ d, s.snap.st = .drain → s.snap.drain = some d → d.outstanding = [] → ∃ t, exec (.snapAbort v tag) s = .next t ∧
        Completed tag 0 [] { s with
          snap.st := .armed, snap.drain := none, snap.at_ := none, snap.tag := tag % 256, snap.result := 0 } t)) ∧
    (∀ step, s.snap.st = .armed → stopped s = false → s.flt.jstopped = false → snapTarget s = some step →
      atStep s step = true → drainPoison s step = none → s.snap.link = true →
      ∃ t d, exec .snapCapture s = .next t ∧ t.snap.st = .drain ∧ t.snap.drain = some d ∧ d.step = step ∧
        d.seq = (greatestSeq s).1 + 1 ∧ d.body = snapBody s step ∧ d.lossRead = false ∧ (snapSlot t d.slot).valid = false ∧
        d.outstanding.map (·.2) = [StoreOp.writeBlocks (s.snap.lbaBase + d.slot) (slotRecord d false 0)] ∧
        t.stalls = s.stalls ∧ t.roll = s.roll) ∧
    (∀ d, s.snap.st = .drain → s.snap.drain = some d → s.snap.aborting = none →
      (d.lossRead = false → stepDone s d.step = true → firstPoison s (stageBase s + 0x40) s.snap.losslen = none →
        ∃ t e, exec .snapLossRead s = .next t ∧ t.snap.drain = some e ∧ e.lossRead = true ∧ t.snap.st = .drain ∧
          e.digest = sha256 (d.body ++ snapTrailer s) ∧ t = { s with snap := t.snap, fab := t.fab }) ∧
      (d.lossRead = true → d.todo = [] → d.outstanding = [] →
        ∃ t, exec .snapCommit s = .next t ∧ t.snap.st = .armed ∧ t.snap.drain = none ∧ t.snap.newest = d.slot ∧
          snapSlot t d.slot = { valid := true, seq := d.seq, step := d.step, jobid := d.jobid,
                                length := d.body.length + 4096, digest := d.digest } ∧
          t = { s with snap := t.snap }) ∧
      (∀ cid, storeWaits s cid = true →
        (∀ status, status ≠ 0 → ∃ t r, exec (.storeCpl cid { status := status, ecc := { corrected := [], uncorrectable := [] } }) s = .next t ∧ t.snap.st = .armed ∧ t.snap.drain = none ∧
          t.flt.raised = s.flt.raised ++ [r] ∧ r.code = 0x0904 ∧ t = { s with snap := t.snap, flt := t.flt }) ∧
        (∃ t r, exec (.storeCommandTimeout cid) s = .next t ∧ t.snap.st = .armed ∧ t.snap.drain = none ∧
          t.flt.raised = s.flt.raised ++ [r] ∧ r.code = 0x0904 ∧ t = { s with snap := t.snap, flt := t.flt }) ∧
        (∃ t, exec (.storeCpl cid { status := 0, ecc := { corrected := [], uncorrectable := [] } }) s = .next t ∧
          t.snap.st = .drain ∧ t = { s with snap := t.snap } ∧
          (stopped s = true → t.snap.drain = some { d with outstanding := d.outstanding.filter fun o => o.1 ≠ cid })) ∧
        (∀ w, s.loft.poison = [] → ((drainRanges s d.step).any fun x => x.1 ≤ w && w < x.2) = true →
          ∃ t r, exec (.storeCpl cid { status := 0, ecc := { corrected := [], uncorrectable := [w] } }) s = .next t ∧
            t.snap.st = .armed ∧ t.snap.drain = none ∧ t.flt.raised = s.flt.raised ++ [r] ∧ r.code = 0x0402 ∧
            t.loft.poison = [w] ∧ t.loft.mem = s.loft.mem ∧ t.stalls = s.stalls)) ∧
      (∀ cid answer, storeWaits s cid = false → exec (.storeCpl cid answer) s = .next s ∧
        exec (.storeCommandTimeout cid) s = .next s) ∧
      (s.snap.link = true → ∃ t r, exec .storeLinkDown s = .next t ∧ t.snap.link = false ∧ t.snap.lost = true ∧
        t.snap.st = .armed ∧ t.snap.drain = none ∧ t.flt.raised = s.flt.raised ++ [r] ∧ r.code = 0x0904 ∧ r.unit = 13)) ∧
    (s.snap.link = false → exec .storeLinkDown s = .next s)

/-- GROUPS writes the group tables, and the routes unless KEEPROUTES; RESTORE of a snapshot that passes its steps begins the replay, and
a bad one leaves HELD; the replayed step's loss is compared; CLEAR ends HELD; the configuration registers take a write while no image is
resident (R465, R472 to R476). -/
def Obligations.SnapshotsRestored : Prop :=
  ∀ (s : State) (v : View) (tag slot : Nat),
    (Reaches s v snapBase → unitBar s = none → s.snap.aborting = none →
      (∀ b keep, namedGroups s = [] → ∃ t, exec (.snapGroups v tag slot true keep (some b)) s = .next t ∧
        t.snap.result = 0 ∧ t.snap.tag = tag % 256 ∧
        (∀ g, g < 256 → groupAt t g = wordAt b (8 * g) &&& groupMask) ∧
        (keep = true → t.gate.routeLo = s.gate.routeLo ∧ t.gate.routeHi = s.gate.routeHi) ∧
        (keep = false → ∀ r, r < 2048 → routeAt t r =
          (wordAt b (0x800 + 16 * r) &&& 0x0FFFFFFFFFFFFFFF, wordAt b (0x808 + 16 * r) &&& 0x7FFFFFFFFFFFFFFF)) ∧
        t = { s with snap := t.snap, host := t.host, gate := t.gate } ∧ t.gate.gates = s.gate.gates) ∧
      (namedGroups s ≠ [] → ∀ host keep data, ∃ t, exec (.snapGroups v tag slot host keep data) s = .next t ∧
        Completed tag 2 [] { s with snap.tag := tag % 256, snap.result := 2 } t) ∧
      (∀ b, s.snap.st = .armed → restoreReady s = true → drivenMarked s (slice b 0x1000 0x100000) = true →
        (snapHead s true (slot % 2) b = false →
          ∃ t, exec (.snapRestore v tag slot true (some b)) s = .next t ∧ t.snap.st = .held ∧ t.snap.result = 4 ∧
            t.flt.raised.map (·.code) = s.flt.raised.map (·.code) ++ [0x0902] ∧ t.stalls = s.stalls ∧ t.loft = s.loft ∧
            t.roll = s.roll) ∧
        (snapHead s true (slot % 2) b = true → snapFits s b = false →
          ∃ t, exec (.snapRestore v tag slot true (some b)) s = .next t ∧ t.snap.st = .held ∧ t.snap.result = 4 ∧
            t.flt.raised.map (·.code) = s.flt.raised.map (·.code) ++ [0x0901] ∧ t.stalls = s.stalls ∧ t.loft = s.loft ∧
            t.roll = s.roll) ∧
        (snapHead s true (slot % 2) b = true → snapFits s b = true →
          slice b (leAt b 8 8 - 32) 32 = sha256 (padTo (leAt b 8 8 - 32) b) →
          positionOk (snapWrite b (leAt b 16 4) s) (leAt b (0x111000 + 0x8000 * (satchelStalls s).length) 4) (leAt b 16 4) = true →
          ∃ t, exec (.snapRestore v tag slot true (some b)) s = .next t ∧ t.snap.st = .replay ∧ t.snap.result = 0 ∧
            t.snap.replayStep = leAt b 16 4 ∧ t.flt = s.flt ∧ t.pwr = s.pwr ∧ t.sec = s.sec ∧
            (∀ e ∈ t.roll.circuits, e.2.flight = []))) ∧
      (s.snap.st = .held → ∃ t, exec (.snapClear v tag) s = .next t ∧ Completed tag 0 [] { toCommit s with
        snap.st := .armed, snap.tag := tag % 256, snap.result := 0 } t)) ∧
    (∀ a, s.snap.st = .replay → stepDone s s.snap.replayStep = true → firstPoison s (stageBase s + 0x40) s.snap.losslen = some a →
      ∃ t r, exec .replayCheck s = .next t ∧ t.flt.raised = s.flt.raised ++ [r] ∧ r.code = 0x0402 ∧ t = { s with flt := t.flt }) ∧
    (s.snap.st = .replay → stepDone s s.snap.replayStep = true → firstPoison s (stageBase s + 0x40) s.snap.losslen = none →
      (lossDiffers s = none → ∃ t, exec .replayCheck s = .next t ∧ t.snap.st = .armed ∧
        t = { s with snap := t.snap, fab := t.fab }) ∧
      (∀ i, lossDiffers s = some i → ∃ t, exec .replayCheck s = .next t ∧ t.snap.st = .held ∧
        t.flt.raised.map (·.code) = s.flt.raised.map (·.code) ++ [0x0903] ∧ t.stalls = s.stalls ∧ t.roll = s.roll)) ∧
    (∀ value, Reaches s v (snapBase + 0x30) → configBars s = false → exec (.snapConfigWrite v 0x30 value) s = .next { s with
      snap.losslen := fld value 62 56, snap.stage := fld value 49 32, snap.circmask := BitVec.ofNat 32 (fld value 31 0) }) ∧
    (∀ value off, Reaches s v (snapBase + off) → isConfig off = true → configBars s = true →
      exec (.snapConfigWrite v off value) s = .next { s with snap.crefused := true })

/-! ## Fault records (R477 to R487) -/

/-- Committing a raised record numbers it and logs it in the device log, and a DJ record of an owned device in the job log; one that is
no EVENT sets ALERT and FLT_LAST; a JOB record stops the stalls and the circuits of the resident job, a HOLD or an EVENT record nothing
(R257, R479 to R481, R484, R485, R487). In drill mode a record waits while an earlier one of its unit waits (R26), and is committed as the
arbiters' windows grant it (R25), which open as the model chooses (log entry 52). -/
def Obligations.FaultRecordsCommit : Prop :=
  ∀ (s : State) (i : Nat),
    (s.flt.raised[i]? = none → exec (.faultRecordCommit i) s = .next s) ∧
    (∀ r, s.flt.raised[i]? = some r → s.bring.drill = true →
      (((s.flt.raised.take i).any fun x => x.source = r.source && x.unit = r.unit) = true →
        exec (.faultRecordCommit i) s = .next s) ∧
      (∀ q, q ∈ s.flt.raised → q.source ≠ 0 → r.source = 0 →
        (∀ k ∈ s.flt.pkgWin, k ∉ s.flt.raised.map pkgIndex) → pkgIndex q < pkgIndex r →
        exec (.faultRecordCommit i) s = .next s) ∧
      (i = 0 → s.flt.pkgWin = [] → s.flt.yardWin = [] → (∀ q ∈ s.flt.raised, pkgIndex r ≤ pkgIndex q) → pkgIndex r < 42 →
        (∀ q ∈ s.flt.raised, q.source = 0 → yardOf q.unit = yardOf r.unit → r.unit % 32 ≤ q.unit % 32) →
        ∃ t, exec (.faultRecordCommit i) s = .next t ∧
          t.flt.seq = (s.flt.seq + 1) % 2 ^ 32 ∧ t.flt.dlog = logAdd { r with seq := s.flt.seq } s.flt.dlog)) ∧
    (∀ r, s.flt.raised[i]? = some r → s.bring.drill = false →
      (codeClass r.code = 0 → exec (.faultRecordCommit i) s = .next { s with
        flt.raised := s.flt.raised.eraseIdx i
        flt.seq := (s.flt.seq + 1) % 2 ^ 32
        flt.dlog := logAdd { r with seq := s.flt.seq } s.flt.dlog
        flt.jlog := if logsJob r && s.sec.owned then logAdd { r with seq := s.flt.seq } s.flt.jlog else s.flt.jlog }) ∧
      (codeClass r.code ≠ 0 → ∃ t, exec (.faultRecordCommit i) s = .next t ∧ t.flt.seq = (s.flt.seq + 1) % 2 ^ 32 ∧
        t.flt.dlog = logAdd { r with seq := s.flt.seq } s.flt.dlog ∧
        t.flt.jlog = (if logsJob r && s.sec.owned then logAdd { r with seq := s.flt.seq } s.flt.jlog else s.flt.jlog) ∧
        t.flt.last = some { r with seq := s.flt.seq } ∧ t.host.alert = true ∧ t.loft = s.loft ∧
        (codeClass r.code = 2 → t = { s with host := t.host, flt := t.flt } ∧ t.flt.jstopped = s.flt.jstopped) ∧
        (codeClass r.code = 1 → s.flt.jstopped = true → t = { s with host := t.host, flt := t.flt } ∧ t.flt.jstopped = true) ∧
        (codeClass r.code = 1 → s.flt.jstopped = false → residentCount s ≠ 0 → t.flt.jstopped = true ∧
          (∀ n ∈ residentStalls s, ∀ p, physOf s n = some p → (stallP t p).jstop = true) ∧
          (∀ p, (stallP t p).prog = (stallP s p).prog ∧ (stallP t p).scratch = (stallP s p).scratch) ∧
          (∀ c, (circAt s c).st ≠ .absent → (circAt t c).st = .stopped ∧ (circAt t c).flight = [] ∧ (circAt t c).pending = []) ∧
          (∀ j, (entryAt s j).st = .inflight → (entryAt t j).st = .ready ∧ (entryAt t j).step = (entryAt s j).step) ∧
          (∀ j, (entryAt s j).st ≠ .inflight → (∀ e ∈ s.roll.entries, e.1 = j → e.2.st ≠ .inflight) →
            entryAt t j = entryAt s j)) ∧
        (codeClass r.code = 3 → s.pwr.stopped = false → t.pwr.stopped = true ∧ t.bring.run = none ∧ t.ctx.preempt = none ∧
          t.stalls = s.stalls ∧ t.roll = s.roll ∧ t.sec = s.sec)))

/-- A log takes a record while it has room, an EVENT record while fewer than 448 entries are occupied, and counts one that it drops; a
write of HEAD frees the entries up to it, or is ignored with HREFUSED where it would free more than are occupied (R485, R486). -/
def Obligations.FaultLogs : Prop :=
  (∀ (r : FRec) (l : FLog),
    (codeClass r.code = 0 → l.count < 448 → tfind (logAdd r l).entries l.tail = some r ∧ (logAdd r l).count = l.count + 1 ∧
      (logAdd r l).tail = (l.tail + 1) % 512 ∧ (logAdd r l).head = l.head) ∧
    (codeClass r.code = 0 → 448 ≤ l.count → logAdd r l = { l with loste := min (l.loste + 1) 65535 }) ∧
    (codeClass r.code ≠ 0 → l.count < 512 → tfind (logAdd r l).entries l.tail = some r ∧ (logAdd r l).count = l.count + 1 ∧
      (logAdd r l).tail = (l.tail + 1) % 512 ∧ (logAdd r l).head = l.head) ∧
    (codeClass r.code ≠ 0 → 512 ≤ l.count → logAdd r l = { l with lost := min (l.lost + 1) 65535 })) ∧
  ∀ (s : State) (v : View) (value : W64),
    (hubServes s = true → (fld value 8 0 + 512 - s.flt.dlog.head) % 512 ≤ s.flt.dlog.count →
      exec (.fltHeadWrite .priv true value) s = .next { s with
        flt.dlog.head := fld value 8 0
        flt.dlog.count := s.flt.dlog.count - (fld value 8 0 + 512 - s.flt.dlog.head) % 512
        flt.dlog.hrefused := s.flt.dlog.hrefused && !value.getLsbD 21 }) ∧
    (hubServes s = true → s.flt.dlog.count < (fld value 8 0 + 512 - s.flt.dlog.head) % 512 →
      exec (.fltHeadWrite .priv true value) s = .next { s with flt.dlog.hrefused := true }) ∧
    (Reaches s v fltBase → (fld value 8 0 + 512 - s.flt.jlog.head) % 512 ≤ s.flt.jlog.count →
      exec (.fltHeadWrite v false value) s = .next { s with
        flt.jlog.head := fld value 8 0
        flt.jlog.count := s.flt.jlog.count - (fld value 8 0 + 512 - s.flt.jlog.head) % 512
        flt.jlog.hrefused := s.flt.jlog.hrefused && !value.getLsbD 21 }) ∧
    (Reaches s v fltBase → s.flt.jlog.count < (fld value 8 0 + 512 - s.flt.jlog.head) % 512 →
      exec (.fltHeadWrite v false value) s = .next { s with flt.jlog.hrefused := true })

/-! ## Register accesses and views (R416, R423 to R426, R489 to R501) -/

/-- What the job view reaches: nothing of PWR, BRING, FAB and SNAP, and nothing privileged of the other blocks; while a job owns the
device, its blocks and the stall windows; and while none does, only the identity and the attestation registers (R423, R426). -/
def Obligations.JobViewReaches : Prop :=
  ∀ (s : State) (off n : Nat) (w : Bool), off < 0x10000 → n < 1200 →
    jobReach s (pwrBase + off) w = false ∧ jobReach s (bringBase + off) w = false ∧ jobReach s (fabBase + off) w = false ∧
    jobReach s (snapBase + off) w = false ∧ jobReach s (sylBase + 0x400) w = false ∧ jobReach s (rollBase + 0x400) w = false ∧
    jobReach s loftBase w = false ∧ jobReach s (loftBase + 0x40) w = false ∧ jobReach s (loftBase + 0x200) w = false ∧
    jobReach s gateBase w = false ∧ jobReach s (ctxBase + 0x400) w = false ∧ jobReach s (fltBase + 8) w = false ∧
    jobReach s (secBase + 0x8) w = false ∧ jobReach s (secBase + 0x18) w = false ∧ jobReach s 0x40 w = false ∧
    jobReach s (hostBase + 0x300) w = false ∧
    jobReach s (secBase + 0x800) w = true ∧ jobReach s (secBase + 0x808) w = true ∧ jobReach s (secBase + 0x810) w = true ∧
    jobReach s 0x20 false = true ∧
    jobReach s hostBase w = s.sec.owned ∧ jobReach s sylBase w = s.sec.owned ∧ jobReach s rollBase w = s.sec.owned ∧
    jobReach s (rngBase + off) w = s.sec.owned ∧ jobReach s (vidBase + off) w = s.sec.owned ∧
    jobReach s (loftBase + 0x10) w = s.sec.owned ∧ jobReach s (gateBase + 0x1800) w = s.sec.owned ∧
    jobReach s ctxBase w = s.sec.owned ∧ jobReach s fltBase w = s.sec.owned ∧ jobReach s (stwBase n) w = s.sec.owned

/-- A job-view write that does not reach its register is dropped and a read returns zero without an access, and either logs one
VIEW_VIOLATION, an EVENT of the device log alone, with the address and the access type, and changes nothing else; a job queue's entry
that completes with VIEW is logged with access type 2; and while the host link is down every write is discarded (R374, R424). -/
def Obligations.JobViewRefusals : Prop :=
  (∀ (s : State) (a b c d : Nat) (x : W64) (y z : Bool) (h : HostRead) (l1 l2 : List Byte) (o : SaveOutcome) (e : StoreAnswers),
    ∀ p ∈
      [(Instr.pwrAux .job a, pwrBase), (.pwrStandby .job a, pwrBase), (.pwrIdle .job a, pwrBase), (.pwrYards .job a, pwrBase),
       (.bringFuseRead .job a l1 l2, bringBase), (.bringSelftest .job a, bringBase), (.bringAbort .job a, bringBase),
       (.bringReconcile .job a, bringBase), (.bringFwBcast .job a, bringBase), (.bringMain .job a, bringBase),
       (.bringLoftTest .job a, bringBase), (.bringLinkQual .job a c, bringBase), (.bringReady .job a, bringBase),
       (.bringDrill .job a, bringBase), (.bringUnitReset .job a b, bringBase), (.secVerify .job a c, (secBase + 8)),
       (.secSvnCommit .job a, (secBase + 8)), (.secSign .job a h, (secBase + 0x800)), (.secJobGrant .job c, (secBase + 0x18)),
       (.secJobRelease .job c, (secBase + 0x18)), (.sylStage .job b a h, sylBase), (.sylFinish .job b a, sylBase),
       (.sylLoad .job b a, sylBase), (.sylUnload .job b a, sylBase), (.sylEvict .job b a, sylBase),
       (.sylAbort .job b a, sylBase), (.sylClear .job b a, sylBase), (.sylPolicyWrite .job x, (sylBase + 0x400)),
       (.sylKeyWrite .job c d x, (sylBase + 0x500 + 0x40 * c + 8 * d)), (.rollRead .job a b, rollBase),
       (.rollWrite .job a b, rollBase), (.rollPause .job a b, rollBase), (.rollResume .job a b, rollBase),
       (.rollRelease .job a b, rollBase), (.rollRun .job a b, rollBase), (.rollDrain .job a b, rollBase),
       (.rollWorklist .job a h, rollBase), (.rollDrivenWrite .job x, (rollBase + 0x400)), (.loftMapWrite .job x, loftBase),
       (.loftPartWrite .job b x, (loftBase + 0x200 + 8 * b)), (.loftZero .job a b, (loftBase + 0x10)),
       (.gateEnable .job b x, (gateBase + 0x100 + 8 * b)), (.gateRetrain .job b, (gateBase + 0x100 + 8 * b)),
       (.gateNodeWrite .job x, (gateBase + 8)), (.gateGroupWrite .job b x, (gateBase + 0x1000 + 8 * b)),
       (.gateRouteWrite .job b y x, (gateBase + 0x2000 + 16 * b + (if y then 8 else 0))), (.vidOpen .job a b h, vidBase),
       (.vidSubmit .job a b h, vidBase), (.vidKey .job a b, vidBase), (.vidLtrMark .job a b b, vidBase),
       (.vidLtrUse .job a b b, vidBase), (.vidClose .job a b, vidBase), (.hostDbWrite .job b x, (hostBase + 0x110 + 0x20 * b)),
       (.hostQueueConfigWrite .job b y x, (hostBase + (if y then 0x108 else 0x100) + 0x20 * b)), (.ctxPreempt .job a, ctxBase),
       (.ctxSave .job a y z o, ctxBase), (.ctxRestore .job a z h, ctxBase), (.ctxResume .job a, ctxBase),
       (.ctxClear .job a, ctxBase), (.ctxVacate .job a c, (ctxBase + 0x400)), (.snapConfig .job a e, snapBase),
       (.snapTake .job a, snapBase), (.snapAbort .job a, snapBase), (.snapGroups .job a b y z h, snapBase),
       (.snapRestore .job a b y h, snapBase), (.snapClear .job a, snapBase), (.snapConfigWrite .job b x, (snapBase + b)),
       (.rngSeedWrite .job x, rngBase), (.rngBaseWrite .job b x, (rngBase + 0x100 + 8 * b)),
       (.fltHeadWrite .job y x, (fltBase + (if y then 8 else 0))),
       (.stwApertureWrite .job b c x, (stwBase b + 0x800 + 8 * (c % 256)))],
      (hubServes s = false → exec p.1 s = .next s) ∧
      (hubServes s = true → jobReach s p.2 true = false →
        ∃ t r, exec p.1 s = .next t ∧ t = { s with free := t.free, dev.hubBeats := t.dev.hubBeats, flt.raised := t.flt.raised } ∧
          t.flt.raised = s.flt.raised ++ [r] ∧ r.code = 0x0603 ∧ r.detail = detA p.2 1)) ∧
  (∀ (s : State) (tag addr : Nat), hubServes s = true → inWindow addr = true → addr % 8 = 0 → jobReach s addr false = false →
    ∃ t u r, exec (.registerRead .job tag addr 8) s = .next t ∧ t = hostSend [.cpl tag 0 (zeros 8)] u ∧
      u = { s with free := u.free, dev.hubBeats := u.dev.hubBeats, flt.raised := u.flt.raised } ∧
      u.flt.raised = s.flt.raised ++ [r] ∧ r.code = 0x0603 ∧ r.detail = detA addr 0) ∧
  (∀ (s : State) (addr : Nat) (w : W64) (data : HostRead), hubServes s = true → inWindow addr = true → addr % 8 = 0 →
    jobReach s addr true = false → ∃ t r, exec (.registerWrite .job addr [w] data) s = .next t ∧
      t = { s with free := t.free, dev.hubBeats := t.dev.hubBeats, flt.raised := t.flt.raised } ∧
      t.flt.raised = s.flt.raised ++ [r] ∧ r.code = 0x0603 ∧ r.detail = detA addr 1) ∧
  (∀ r : FRec, r.code = 0x0603 → codeClass r.code = 0 ∧ logsJob r = false) ∧
  ∀ (s : State) (q : Nat) (b : List Byte) (data : EntryData), hubServes s = true → nextQueue s = some q → q < 16 → b.length = 64 →
    s.sec.owned = false ∨ byteAt b 0 = 6 ∨ byteAt b 0 = 5 ∧ byteAt b 1 = 8 →
    ∃ t r, exec (.queueEntryTake q (some b) data) s = .next t ∧ t.flt.raised = s.flt.raised ++ [r] ∧ r.code = 0x0603 ∧
      r.detail = detA (unitAddr q (byteAt b 0) (byteAt b 0 = 5 ∧ byteAt b 1 = 8)) 2 ∧
      (queueAt t q).waiting = (queueAt s q).waiting ++ [{ tag := leAt b 4 4, status := 0x10, kind := 0, body := [] }]

/-- An access that is malformed or falls outside the window performs nothing and sets BADACC; a word reads its register and writes it
by its fields' access codes, a read-only or reserved register staying as it was; a burst writes its words in ascending order; and a
command register's word is its command (R8, R490 to R493, R498). -/
def Obligations.RegisterAccesses : Prop :=
  ∀ (s : State) (tag addr len : Nat) (w : W64) (ws : List W64) (data : HostRead) (v : View), hubServes s = true →
    (inWindow addr = false ∨ addr % 8 ≠ 0 ∨ ws = [] ∨ 512 < ws.length →
      exec (.registerWrite v addr ws data) s = .next { s with dev.badacc := true }) ∧
    (inWindow addr = false ∨ addr % 8 ≠ 0 ∨ len % 8 ≠ 0 ∨ len = 0 ∨ 4096 < len →
      exec (.registerRead v tag addr len) s =
        .next (hostSend [.cpl tag 2 (zeros len)] { s with dev.badacc := true })) ∧
    (addr < 0xF0000 → addr % 8 = 0 → (v = .job → jobReach s addr false = true) →
      exec (.registerRead v tag addr 8) s = .next (hostSend [.cpl tag 0 (wordBytes (regWord v addr s))] s)) ∧
    (∀ t, ws ≠ [] → inWindow addr = true → accessOk addr (8 * (ws.length + 1)) = true →
      exec (.registerWrite v addr [w] data) s = .next t → hubServes t = true →
      exec (.registerWrite v addr (w :: ws) data) s = exec (.registerWrite v (addr + 8) ws data) t) ∧
    exec (.registerWrite .priv 0x0 [w] data) s = .next s ∧
    exec (.registerWrite .priv 0x40 [w] data) s = .next { s with dev.scratch := w } ∧
    exec (.registerWrite .priv 0x20 [w] data) s = .next { s with dev.badacc := s.dev.badacc && !w.getLsbD 15 } ∧
    exec (.registerWrite .priv hostBase [w] data) s = .next { s with
      host.qerr := s.host.qerr && !w.getLsbD 4, host.alert := s.host.alert && !w.getLsbD 3 } ∧
    (620 ≤ fld w 9 0 → fld w 9 0 ≤ 850 →
      exec (.registerWrite .priv (pwrBase + 0x30) [w] data) s = .next { s with pwr.vset := fld w 9 0 }) ∧
    (fld w 9 0 < 620 ∨ 850 < fld w 9 0 → exec (.registerWrite .priv (pwrBase + 0x30) [w] data) s = .next s) ∧
    (fld w 3 0 = 3 → exec (.registerWrite .priv rollBase [w] data) s = exec (.rollPause .priv (fld w 47 40) (fld w 27 16)) s) ∧
    (fld w 3 0 = 3 → exec (.registerWrite .priv pwrBase [w] data) s = exec (.pwrIdle .priv (fld w 15 8)) s) ∧
    (fld w 3 0 = 1 → exec (.registerWrite .priv ctxBase [w] data) s = exec (.ctxPreempt .priv (fld w 23 16)) s)

/-- A stall window reaches the stall of its logical number in an ungated yard: an aperture word is read in any state and written only
into a stall that runs nothing and belongs to no image or is in a drill; one beyond its space sets RANGE, another refused one WREFUSED;
in a gated yard a read returns zero and a write is dropped (R311, R416, R499 to R501). -/
def Obligations.StallWindows : Prop :=
  ∀ (s : State) (n p k : Nat) (value : W64), hubServes s = true → n < 1200 → k < 256 → windowStall s n = some p →
    (yardUp s (yardOf p) = true →
      (aperOffset (stallP s p) k < spaceSize (stallP s p).space → aperMay s (stallP s p) = true →
        exec (.stwApertureWrite .priv n k value) s = .next { regPackets s with
          stalls := tset s.stalls p (spaceSet (stallP s p) (aperOffset (stallP s p) k) (wordBytes value)) } ∧
        exec (.fabReg .priv n (0x800 + 8 * k) (some value)) s = .next { regPackets s with
          stalls := tset s.stalls p (spaceSet (stallP s p) (aperOffset (stallP s p) k) (wordBytes value)) } ∧
        (Memory.wf (stallP s p).scratch = true → (stallP s p).space = 0 →
          ∀ t, exec (.stwApertureWrite .priv n k value) s = .next t →
            memRead (stallP t p).scratch (aperOffset (stallP s p) k) 8 = wordBytes value ∧
            ∀ a, a < aperOffset (stallP s p) k ∨ aperOffset (stallP s p) k + 8 ≤ a →
              memGet (stallP t p).scratch a = memGet (stallP s p).scratch a)) ∧
      (aperOffset (stallP s p) k < spaceSize (stallP s p).space → aperMay s (stallP s p) = false →
        exec (.stwApertureWrite .priv n k value) s = .next { regPackets s with
          stalls := tset s.stalls p { stallP s p with wrefused := true } }) ∧
      (spaceSize (stallP s p).space ≤ aperOffset (stallP s p) k → ∀ tag sram,
        exec (.stwApertureRead .priv tag n k sram) s = .next (hostSend [.cpl tag 0 (zeros 8)] { regPackets s with
          stalls := tset s.stalls p { stallP s p with range := true, corrected := (stallP s p).corrected + sram.corrected } })) ∧
      (aperOffset (stallP s p) k < spaceSize (stallP s p).space → ∀ tag c,
        exec (.stwApertureRead .priv tag n k ⟨c, true⟩) s = .next (hostSend [.cpl tag 0 (zeros 8)] { regPackets s with
          stalls := tset s.stalls p { stallP s p with uncorr := true, corrected := (stallP s p).corrected + c } }) ∧
        ((stallP s p).space = 0 → exec (.stwApertureRead .priv tag n k ⟨c, false⟩) s =
          .next (hostSend [.cpl tag 0 (memRead (stallP s p).scratch (aperOffset (stallP s p) k) 8)] (sramCount p ⟨c, false⟩ (regPackets s))))) ∧
      exec (.fabReg .priv n 0x8 (some value)) s = .next { regPackets s with
        stalls := tset s.stalls p (stwAddrSet value (stallP s p)) }) ∧
    (yardUp s (yardOf p) = false → (∀ off tag data, off < 0x1000 → off % 8 = 0 →
        exec (.registerRead .priv tag (stwBase n + off) 8) s = .next (hostSend [.cpl tag 0 (zeros 8)] s) ∧
        exec (.registerWrite .priv (stwBase n + off) [value] data) s = .next s) ∧ exec (.stwApertureWrite .priv n k value) s = .next s ∧
      exec (.fabReg .priv n (0x800 + 8 * k) (some value)) s = .next s ∧
      ∀ tag sram, exec (.stwApertureRead .priv tag n k sram) s = .next (hostSend [.cpl tag 0 (zeros 8)] s)) ∧
    ∀ off, jobReach s (stwBase n + off) true = false →
      ∃ t r, exec (.fabReg .job n off (some value)) s = .next t ∧ t.flt.raised = s.flt.raised ++ [r] ∧ r.code = 0x0603 ∧
        t.stalls = s.stalls

/-! ## Invariants -/

/-- At most eight circuits are roll-driven, the set point stays between 620 and 850 mV and the scrub tick between 8 and 20: every step
keeps it, whatever command waits (R250, R293, R417). -/
def Obligations.FieldsStayInRange : Prop := ∀ s t : State, FieldsInRange s → step s = .next t → FieldsInRange t

/-- The memory of the loft and the scratch of every stall keep their canonical form in every step (log entry 4). -/
def Obligations.MemoriesStayCanonical : Prop := ∀ s t : State, MemoriesCanonical s → step s = .next t → MemoriesCanonical t

/-- No step makes a yard that is off gate, or one that is on ungate or wait to, or a yard ungate and wait at once (R412, R413). -/
def Obligations.YardsStayConsistent : Prop := ∀ s t : State, YardsConsistent s → step s = .next t → YardsConsistent t

/-- The state after reset meets the three invariants. -/
def Obligations.ResetMeetsInvariants : Prop :=
  FieldsInRange State.reset ∧ MemoriesCanonical State.reset ∧ YardsConsistent State.reset
end

