-- ==== Sys2Proof/Laws/Bytes.lean ====
section
/-! SUPPORT. The laws of tables and of byte memory: a read after a write, and the canonical form kept by every operation. -/

namespace Sys2Proof.Machine

/-! ## Tables -/

@[simp] theorem tget_nil {α : Type} (d : α) (i : Nat) : tget d [] i = d := rfl

theorem tfind_tset_same {α : Type} (t : Table α) (i : Nat) (v : α) : tfind (tset t i v) i = some v := by
  induction t with
  | nil => simp [tset, tfind]
  | cons e r ih =>
    obtain ⟨j, w⟩ := e
    unfold tset
    split_ifs with h1 h2
    · simp [tfind]
    · simp [tfind]
    · simpa [tfind, Ne.symm h2] using ih

theorem tfind_tset_other {α : Type} (t : Table α) (i j : Nat) (v : α) (h : j ≠ i) : tfind (tset t i v) j = tfind t j := by
  induction t with
  | nil => simp [tset, tfind, Ne.symm h]
  | cons e r ih =>
    obtain ⟨k, w⟩ := e
    unfold tset
    split_ifs with h1 h2
    · simp [tfind, Ne.symm h]
    · subst h2; simp [tfind, Ne.symm h]
    · simp only [tfind, ih]

theorem tfind_tdel {α : Type} (t : Table α) (i j : Nat) : tfind (tdel t i) j = if j = i then none else tfind t j := by
  induction t with
  | nil => simp [tdel, tfind]
  | cons e r ih =>
    obtain ⟨k, w⟩ := e
    unfold tdel at *
    by_cases hk : k = i
    · subst hk
      simp only [List.filter, ne_eq, not_true_eq_false, decide_false, ih, tfind]
      split_ifs with h1 h2
      · rfl
      · exact absurd h2.symm h1
      · rfl
    · simp only [List.filter, ne_eq, hk, not_false_eq_true, decide_true, tfind, ih]
      split_ifs with h1 h2
      · exact absurd (h1.trans h2) hk
      all_goals rfl

/-- A table reads at an index what was last set there. -/
theorem tget_tset {α : Type} (d : α) (t : Table α) (i j : Nat) (v : α) :
    tget d (tset t i v) j = if j = i then v else tget d t j := by
  unfold tget
  split_ifs with h
  · subst h; rw [tfind_tset_same]; rfl
  · rw [tfind_tset_other t i j v h]

@[simp] theorem tget_tset_same {α : Type} (d : α) (t : Table α) (i : Nat) (v : α) : tget d (tset t i v) i = v := by
  simp [tget_tset]

/-- A table changed at an index reads there the changed entry. -/
theorem tget_tmod {α : Type} (d : α) (t : Table α) (i j : Nat) (f : α → α) :
    tget d (tmod d t i f) j = if j = i then f (tget d t i) else tget d t j := tget_tset d t i j _

/-- A deleted index reads the default. -/
theorem tget_tdel {α : Type} (d : α) (t : Table α) (i j : Nat) :
    tget d (tdel t i) j = if j = i then d else tget d t j := by
  unfold tget
  rw [tfind_tdel]
  split_ifs <;> rfl

/-- Mapping the entries maps what is read, where the default maps to itself or an entry is listed. -/
theorem tfind_map {α β : Type} (t : Table α) (f : Nat → α → β) (i : Nat) :
    tfind (t.map fun e => (e.1, f e.1 e.2)) i = (tfind t i).map (f i) := by
  induction t with
  | nil => rfl
  | cons e r ih =>
    obtain ⟨k, w⟩ := e
    simp only [List.map, tfind]
    split_ifs with h
    · subst h; rfl
    · exact ih

/-- An entry that is read is listed. -/
theorem mem_of_tfind {α : Type} {t : Table α} {i : Nat} {v : α} (h : tfind t i = some v) : (i, v) ∈ t := by
  induction t with
  | nil => simp [tfind] at h
  | cons e r ih =>
    obtain ⟨k, w⟩ := e
    unfold tfind at h
    split_ifs at h with hk
    · simp_all
    · exact List.mem_cons_of_mem _ (ih h)

/-- What a table lists after a set is the set entry or was listed. -/
theorem mem_tset {α : Type} {t : Table α} {i : Nat} {v : α} {e : Nat × α} (h : e ∈ tset t i v) : e = (i, v) ∨ e ∈ t := by
  induction t with
  | nil => simpa [tset] using h
  | cons x r ih =>
    obtain ⟨k, w⟩ := x
    unfold tset at h
    split_ifs at h
    · simpa using h
    · rcases List.mem_cons.mp h with h | h
      · exact .inl h
      · exact .inr (List.mem_cons_of_mem _ h)
    · rcases List.mem_cons.mp h with h | h
      · exact .inr (h ▸ List.mem_cons_self)
      · exact (ih h).imp_right (List.mem_cons_of_mem _)

/-! ## Byte memory -/

@[simp] theorem memGet_nil (a : Nat) : memGet [] a = 0 := rfl

theorem memWfFrom_mono {a b : Nat} {m : List (Nat × Byte)} (h : memWfFrom b m = true) (hab : a ≤ b) : memWfFrom a m = true := by
  cases m with
  | nil => rfl
  | cons c r =>
    simp only [memWfFrom, Bool.and_eq_true, decide_eq_true_eq] at *
    exact ⟨⟨by omega, h.1.2⟩, h.2⟩

theorem memGet_low {m : List (Nat × Byte)} {a b : Nat} (h : memWfFrom b m = true) (hab : a < b) : memGet m a = 0 := by
  induction m generalizing b with
  | nil => rfl
  | cons c r ih =>
    simp only [memWfFrom, Bool.and_eq_true, decide_eq_true_eq] at h
    simp only [memGet]
    rw [if_neg (by omega)]
    exact ih h.2 (by omega)

theorem memPut_wfFrom {m : List (Nat × Byte)} {a b : Nat} {v : Byte} (h : memWfFrom b m = true) (hv : v ≠ 0) (hb : b ≤ a) :
    memWfFrom b (memPut m a v) = true := by
  induction m generalizing b with
  | nil =>
    simp only [memPut, memWfFrom, Bool.and_eq_true, decide_eq_true_eq]
    exact ⟨⟨hb, hv⟩, trivial⟩
  | cons c r ih =>
    obtain ⟨j, w⟩ := c
    simp only [memWfFrom, Bool.and_eq_true, decide_eq_true_eq] at h
    unfold memPut
    split_ifs with h1 h2
    · simp only [memWfFrom, Bool.and_eq_true, decide_eq_true_eq]
      exact ⟨⟨hb, hv⟩, ⟨by omega, h.1.2⟩, h.2⟩
    · subst h2
      simp only [memWfFrom, Bool.and_eq_true, decide_eq_true_eq]
      exact ⟨⟨h.1.1, hv⟩, h.2⟩
    · simp only [memWfFrom, Bool.and_eq_true, decide_eq_true_eq]
      exact ⟨h.1, ih h.2 (by omega)⟩

theorem memDel_wfFrom {m : List (Nat × Byte)} {a b : Nat} (h : memWfFrom b m = true) : memWfFrom b (memDel m a) = true := by
  induction m generalizing b with
  | nil => rfl
  | cons c r ih =>
    obtain ⟨j, w⟩ := c
    simp only [memWfFrom, Bool.and_eq_true, decide_eq_true_eq] at h
    unfold memDel
    split_ifs with h1 h2
    · exact memWfFrom_mono h.2 (by omega)
    · simp only [memWfFrom, Bool.and_eq_true, decide_eq_true_eq]; exact h
    · simp only [memWfFrom, Bool.and_eq_true, decide_eq_true_eq]; exact ⟨h.1, ih h.2⟩

/-- Writing a byte keeps the canonical form. -/
theorem memSet_wf {m : List (Nat × Byte)} (a : Nat) (v : Byte) (h : Memory.wf m = true) : Memory.wf (memSet m a v) = true := by
  unfold memSet
  split_ifs with hv
  · exact memDel_wfFrom h
  · exact memPut_wfFrom h hv (Nat.zero_le _)

/-- Writing cells keeps the canonical form. -/
theorem memCells_wf {m : List (Nat × Byte)} (cs : List (Nat × Byte)) (h : Memory.wf m = true) :
    Memory.wf (memCells m cs) = true := by
  unfold memCells
  induction cs generalizing m with
  | nil => exact h
  | cons c r ih => exact ih (memSet_wf _ _ h)

/-- Writing bytes keeps the canonical form. -/
theorem memWrite_wf {m : List (Nat × Byte)} (a : Nat) (bs : List Byte) (h : Memory.wf m = true) :
    Memory.wf (memWrite m a bs) = true := by
  induction bs generalizing m a with
  | nil => exact h
  | cons b r ih => exact ih _ (memSet_wf _ _ h)

theorem filter_wfFrom {m : List (Nat × Byte)} {b : Nat} (f : Nat × Byte → Bool) (h : memWfFrom b m = true) :
    memWfFrom b (m.filter f) = true := by
  induction m generalizing b with
  | nil => rfl
  | cons c r ih =>
    simp only [memWfFrom, Bool.and_eq_true, decide_eq_true_eq] at h
    unfold List.filter
    split
    · simp only [memWfFrom, Bool.and_eq_true, decide_eq_true_eq]; exact ⟨h.1, ih h.2⟩
    · exact memWfFrom_mono (ih h.2) (by omega)

/-- Zeroing a range keeps the canonical form. -/
theorem memZero_wf {m : List (Nat × Byte)} (lo hi : Nat) (h : Memory.wf m = true) : Memory.wf (memZero m lo hi) = true :=
  filter_wfFrom _ h

/-- Zeroing everything but some addresses keeps the canonical form. -/
theorem memKeep_wf {m : List (Nat × Byte)} (k : Nat → Bool) (h : Memory.wf m = true) : Memory.wf (memKeep m k) = true :=
  filter_wfFrom _ h

@[simp] theorem nil_wf : Memory.wf [] = true := rfl

theorem memGet_memPut (m : List (Nat × Byte)) (a b : Nat) (v : Byte) :
    memGet (memPut m a v) b = if b = a then v else memGet m b := by
  induction m with
  | nil => simp [memPut, memGet, eq_comm]
  | cons c r ih =>
    obtain ⟨j, w⟩ := c
    by_cases h3 : b = a
    · subst h3
      rw [if_pos rfl] at ih ⊢
      unfold memPut
      split_ifs with h1 h2
      · simp [memGet]
      · simp [memGet]
      · simp [memGet, Ne.symm h2, ih]
    · rw [if_neg h3] at ih ⊢
      unfold memPut
      split_ifs with h1 h2
      · simp [memGet, Ne.symm h3]
      · subst h2; simp [memGet, Ne.symm h3]
      · simp only [memGet, ih]

theorem memGet_memDel {m : List (Nat × Byte)} {k : Nat} (h : memWfFrom k m = true) (a b : Nat) :
    memGet (memDel m a) b = if b = a then 0 else memGet m b := by
  induction m generalizing k with
  | nil => simp [memDel]
  | cons c r ih =>
    obtain ⟨j, w⟩ := c
    have hw := h
    simp only [memWfFrom, Bool.and_eq_true, decide_eq_true_eq] at hw
    have ih := ih hw.2
    by_cases h3 : b = a
    · subst h3
      rw [if_pos rfl] at ih ⊢
      unfold memDel
      split_ifs with h1 h2
      · subst h1; exact memGet_low hw.2 (by omega)
      · simp only [memGet, if_neg h1]; exact memGet_low hw.2 (by omega)
      · simp only [memGet, if_neg h1, ih]
    · rw [if_neg h3] at ih ⊢
      unfold memDel
      split_ifs with h1 h2
      · subst h1; simp [memGet, Ne.symm h3]
      · rfl
      · simp only [memGet, ih]

/-- A byte reads what was last written to it. -/
theorem memGet_memSet {m : List (Nat × Byte)} (h : Memory.wf m = true) (a b : Nat) (v : Byte) :
    memGet (memSet m a v) b = if b = a then v else memGet m b := by
  unfold memSet
  split_ifs with hv h1 h1
  · subst hv; rw [memGet_memDel h, if_pos h1]
  · rw [memGet_memDel h, if_neg h1]
  · rw [memGet_memPut, if_pos h1]
  · rw [memGet_memPut, if_neg h1]

/-- Bytes read back as they were written. -/
theorem memGet_memWrite {m : List (Nat × Byte)} (h : Memory.wf m = true) (a b : Nat) (bs : List Byte) :
    memGet (memWrite m a bs) b = if a ≤ b ∧ b < a + bs.length then bs.getD (b - a) 0 else memGet m b := by
  induction bs generalizing m a with
  | nil => simp [memWrite]
  | cons c r ih =>
    unfold memWrite
    rw [ih (memSet_wf _ _ h), memGet_memSet h]
    simp only [List.length_cons]
    by_cases hb : b = a
    · subst hb; simp
    · rw [if_neg hb]
      by_cases hc : a + 1 ≤ b ∧ b < a + 1 + r.length
      · rw [if_pos hc, if_pos (by omega)]
        obtain ⟨k, rfl⟩ : ∃ k, b = a + 1 + k := ⟨b - (a + 1), by omega⟩
        have e1 : a + 1 + k - (a + 1) = k := by omega
        have e2 : a + 1 + k - a = k + 1 := by omega
        simp [e1, e2]
      · rw [if_neg hc, if_neg (by omega)]

theorem memGet_filter (m : List (Nat × Byte)) (f : Nat → Bool) (b : Nat) :
    memGet (m.filter fun c => f c.1) b = if f b then memGet m b else 0 := by
  induction m with
  | nil => simp
  | cons c r ih =>
    obtain ⟨j, w⟩ := c
    by_cases hj : j = b
    · subst hj
      by_cases hf : f j = true
      · simp [List.filter, hf, memGet]
      · simp only [List.filter, hf, ih]
        simp [hf]
    · cases hf : f j
      · simp only [List.filter, hf, ih, memGet, if_neg hj]
      · simp only [List.filter, hf, memGet, if_neg hj, ih]

/-- A zeroed range reads zero, and every other byte as before. -/
theorem memGet_memZero (m : List (Nat × Byte)) (lo hi b : Nat) :
    memGet (memZero m lo hi) b = if lo ≤ b ∧ b < hi then 0 else memGet m b := by
  unfold memZero
  rw [memGet_filter m (fun x => decide (x < lo) || decide (hi ≤ x)) b]
  by_cases h : lo ≤ b ∧ b < hi
  · rw [if_pos h, if_neg]; simp; omega
  · rw [if_neg h, if_pos]; simp; omega

/-- A cell list leaves every address that it does not name. -/
theorem memGet_memCells_other {m : List (Nat × Byte)} (h : Memory.wf m = true) (cs : List (Nat × Byte)) (b : Nat)
    (hb : ∀ c ∈ cs, c.1 ≠ b) : memGet (memCells m cs) b = memGet m b := by
  unfold memCells
  induction cs generalizing m with
  | nil => rfl
  | cons c r ih =>
    simp only [List.foldl_cons]
    rw [ih (memSet_wf _ _ h) (fun x hx => hb x (List.mem_cons_of_mem _ hx)), memGet_memSet h,
      if_neg (Ne.symm (hb c List.mem_cons_self))]

end Sys2Proof.Machine
end

