-- ==== Sys2Proof/Laws/State.lean ====
section
/-! SUPPORT. What each shared operation over State leaves unchanged, one lemma for each field of State, and how a stall, a queue and
the faults raised read after it. -/

namespace Sys2Proof.Machine

variable (s : State)

/-- A field that each step of a fold leaves alone. -/
theorem foldl_keeps {α β : Type} {g : State → β} {f : State → α → State} (h : ∀ s a, g (f s a) = g s) (l : List α) (s : State) :
    g (l.foldl f s) = g s := by
  induction l generalizing s with
  | nil => rfl
  | cons a l ih => rw [List.foldl_cons, ih, h]

/-! ### takeFree -/

@[simp] theorem takeFree_pending : ((takeFree s).2).pending = s.pending := rfl
@[simp] theorem takeFree_pins : ((takeFree s).2).pins = s.pins := rfl
@[simp] theorem takeFree_dev : ((takeFree s).2).dev = s.dev := rfl
@[simp] theorem takeFree_host : ((takeFree s).2).host = s.host := rfl
@[simp] theorem takeFree_pwr : ((takeFree s).2).pwr = s.pwr := rfl
@[simp] theorem takeFree_bring : ((takeFree s).2).bring = s.bring := rfl
@[simp] theorem takeFree_sec : ((takeFree s).2).sec = s.sec := rfl
@[simp] theorem takeFree_syl : ((takeFree s).2).syl = s.syl := rfl
@[simp] theorem takeFree_roll : ((takeFree s).2).roll = s.roll := rfl
@[simp] theorem takeFree_rng : ((takeFree s).2).rng = s.rng := rfl
@[simp] theorem takeFree_loft : ((takeFree s).2).loft = s.loft := rfl
@[simp] theorem takeFree_stalls : ((takeFree s).2).stalls = s.stalls := rfl
@[simp] theorem takeFree_yardCtr : ((takeFree s).2).yardCtr = s.yardCtr := rfl
@[simp] theorem takeFree_yardBeats : ((takeFree s).2).yardBeats = s.yardBeats := rfl
@[simp] theorem takeFree_hubCtr : ((takeFree s).2).hubCtr = s.hubCtr := rfl
@[simp] theorem takeFree_fab : ((takeFree s).2).fab = s.fab := rfl
@[simp] theorem takeFree_gate : ((takeFree s).2).gate = s.gate := rfl
@[simp] theorem takeFree_vid : ((takeFree s).2).vid = s.vid := rfl
@[simp] theorem takeFree_ctx : ((takeFree s).2).ctx = s.ctx := rfl
@[simp] theorem takeFree_snap : ((takeFree s).2).snap = s.snap := rfl
@[simp] theorem takeFree_flt : ((takeFree s).2).flt = s.flt := rfl
@[simp] theorem takeFree_smb : ((takeFree s).2).smb = s.smb := rfl

/-! ### raise -/

@[simp] theorem raise_pending (code source unit lstall : Nat) (detail : List Byte) : (raise code source unit lstall detail s).pending = s.pending := rfl
@[simp] theorem raise_free (code source unit lstall : Nat) (detail : List Byte) : (raise code source unit lstall detail s).free = s.free := rfl
@[simp] theorem raise_pins (code source unit lstall : Nat) (detail : List Byte) : (raise code source unit lstall detail s).pins = s.pins := rfl
@[simp] theorem raise_dev (code source unit lstall : Nat) (detail : List Byte) : (raise code source unit lstall detail s).dev = s.dev := rfl
@[simp] theorem raise_host (code source unit lstall : Nat) (detail : List Byte) : (raise code source unit lstall detail s).host = s.host := rfl
@[simp] theorem raise_pwr (code source unit lstall : Nat) (detail : List Byte) : (raise code source unit lstall detail s).pwr = s.pwr := rfl
@[simp] theorem raise_bring (code source unit lstall : Nat) (detail : List Byte) : (raise code source unit lstall detail s).bring = s.bring := rfl
@[simp] theorem raise_sec (code source unit lstall : Nat) (detail : List Byte) : (raise code source unit lstall detail s).sec = s.sec := rfl
@[simp] theorem raise_syl (code source unit lstall : Nat) (detail : List Byte) : (raise code source unit lstall detail s).syl = s.syl := rfl
@[simp] theorem raise_roll (code source unit lstall : Nat) (detail : List Byte) : (raise code source unit lstall detail s).roll = s.roll := rfl
@[simp] theorem raise_rng (code source unit lstall : Nat) (detail : List Byte) : (raise code source unit lstall detail s).rng = s.rng := rfl
@[simp] theorem raise_loft (code source unit lstall : Nat) (detail : List Byte) : (raise code source unit lstall detail s).loft = s.loft := rfl
@[simp] theorem raise_stalls (code source unit lstall : Nat) (detail : List Byte) : (raise code source unit lstall detail s).stalls = s.stalls := rfl
@[simp] theorem raise_yardCtr (code source unit lstall : Nat) (detail : List Byte) : (raise code source unit lstall detail s).yardCtr = s.yardCtr := rfl
@[simp] theorem raise_yardBeats (code source unit lstall : Nat) (detail : List Byte) : (raise code source unit lstall detail s).yardBeats = s.yardBeats := rfl
@[simp] theorem raise_hubCtr (code source unit lstall : Nat) (detail : List Byte) : (raise code source unit lstall detail s).hubCtr = s.hubCtr := rfl
@[simp] theorem raise_fab (code source unit lstall : Nat) (detail : List Byte) : (raise code source unit lstall detail s).fab = s.fab := rfl
@[simp] theorem raise_gate (code source unit lstall : Nat) (detail : List Byte) : (raise code source unit lstall detail s).gate = s.gate := rfl
@[simp] theorem raise_vid (code source unit lstall : Nat) (detail : List Byte) : (raise code source unit lstall detail s).vid = s.vid := rfl
@[simp] theorem raise_ctx (code source unit lstall : Nat) (detail : List Byte) : (raise code source unit lstall detail s).ctx = s.ctx := rfl
@[simp] theorem raise_snap (code source unit lstall : Nat) (detail : List Byte) : (raise code source unit lstall detail s).snap = s.snap := rfl
@[simp] theorem raise_smb (code source unit lstall : Nat) (detail : List Byte) : (raise code source unit lstall detail s).smb = s.smb := rfl

/-! ### raiseHub -/

@[simp] theorem raiseHub_pending (code : Nat) (detail : List Byte) : (raiseHub code detail s).pending = s.pending := rfl
@[simp] theorem raiseHub_pins (code : Nat) (detail : List Byte) : (raiseHub code detail s).pins = s.pins := rfl
@[simp] theorem raiseHub_host (code : Nat) (detail : List Byte) : (raiseHub code detail s).host = s.host := rfl
@[simp] theorem raiseHub_pwr (code : Nat) (detail : List Byte) : (raiseHub code detail s).pwr = s.pwr := rfl
@[simp] theorem raiseHub_bring (code : Nat) (detail : List Byte) : (raiseHub code detail s).bring = s.bring := rfl
@[simp] theorem raiseHub_sec (code : Nat) (detail : List Byte) : (raiseHub code detail s).sec = s.sec := rfl
@[simp] theorem raiseHub_syl (code : Nat) (detail : List Byte) : (raiseHub code detail s).syl = s.syl := rfl
@[simp] theorem raiseHub_roll (code : Nat) (detail : List Byte) : (raiseHub code detail s).roll = s.roll := rfl
@[simp] theorem raiseHub_rng (code : Nat) (detail : List Byte) : (raiseHub code detail s).rng = s.rng := rfl
@[simp] theorem raiseHub_loft (code : Nat) (detail : List Byte) : (raiseHub code detail s).loft = s.loft := rfl
@[simp] theorem raiseHub_stalls (code : Nat) (detail : List Byte) : (raiseHub code detail s).stalls = s.stalls := rfl
@[simp] theorem raiseHub_yardCtr (code : Nat) (detail : List Byte) : (raiseHub code detail s).yardCtr = s.yardCtr := rfl
@[simp] theorem raiseHub_yardBeats (code : Nat) (detail : List Byte) : (raiseHub code detail s).yardBeats = s.yardBeats := rfl
@[simp] theorem raiseHub_hubCtr (code : Nat) (detail : List Byte) : (raiseHub code detail s).hubCtr = s.hubCtr := rfl
@[simp] theorem raiseHub_fab (code : Nat) (detail : List Byte) : (raiseHub code detail s).fab = s.fab := rfl
@[simp] theorem raiseHub_gate (code : Nat) (detail : List Byte) : (raiseHub code detail s).gate = s.gate := rfl
@[simp] theorem raiseHub_vid (code : Nat) (detail : List Byte) : (raiseHub code detail s).vid = s.vid := rfl
@[simp] theorem raiseHub_ctx (code : Nat) (detail : List Byte) : (raiseHub code detail s).ctx = s.ctx := rfl
@[simp] theorem raiseHub_snap (code : Nat) (detail : List Byte) : (raiseHub code detail s).snap = s.snap := rfl
@[simp] theorem raiseHub_smb (code : Nat) (detail : List Byte) : (raiseHub code detail s).smb = s.smb := rfl

/-! ### viewViolation -/

@[simp] theorem viewViolation_pending (addr access : Nat) : (viewViolation addr access s).pending = s.pending := rfl
@[simp] theorem viewViolation_pins (addr access : Nat) : (viewViolation addr access s).pins = s.pins := rfl
@[simp] theorem viewViolation_host (addr access : Nat) : (viewViolation addr access s).host = s.host := rfl
@[simp] theorem viewViolation_pwr (addr access : Nat) : (viewViolation addr access s).pwr = s.pwr := rfl
@[simp] theorem viewViolation_bring (addr access : Nat) : (viewViolation addr access s).bring = s.bring := rfl
@[simp] theorem viewViolation_sec (addr access : Nat) : (viewViolation addr access s).sec = s.sec := rfl
@[simp] theorem viewViolation_syl (addr access : Nat) : (viewViolation addr access s).syl = s.syl := rfl
@[simp] theorem viewViolation_roll (addr access : Nat) : (viewViolation addr access s).roll = s.roll := rfl
@[simp] theorem viewViolation_rng (addr access : Nat) : (viewViolation addr access s).rng = s.rng := rfl
@[simp] theorem viewViolation_loft (addr access : Nat) : (viewViolation addr access s).loft = s.loft := rfl
@[simp] theorem viewViolation_stalls (addr access : Nat) : (viewViolation addr access s).stalls = s.stalls := rfl
@[simp] theorem viewViolation_yardCtr (addr access : Nat) : (viewViolation addr access s).yardCtr = s.yardCtr := rfl
@[simp] theorem viewViolation_yardBeats (addr access : Nat) : (viewViolation addr access s).yardBeats = s.yardBeats := rfl
@[simp] theorem viewViolation_hubCtr (addr access : Nat) : (viewViolation addr access s).hubCtr = s.hubCtr := rfl
@[simp] theorem viewViolation_fab (addr access : Nat) : (viewViolation addr access s).fab = s.fab := rfl
@[simp] theorem viewViolation_gate (addr access : Nat) : (viewViolation addr access s).gate = s.gate := rfl
@[simp] theorem viewViolation_vid (addr access : Nat) : (viewViolation addr access s).vid = s.vid := rfl
@[simp] theorem viewViolation_ctx (addr access : Nat) : (viewViolation addr access s).ctx = s.ctx := rfl
@[simp] theorem viewViolation_snap (addr access : Nat) : (viewViolation addr access s).snap = s.snap := rfl
@[simp] theorem viewViolation_smb (addr access : Nat) : (viewViolation addr access s).smb = s.smb := rfl

/-! ### setStallP -/

@[simp] theorem setStallP_pending (p : Nat) (x : Stall) : (setStallP s p x).pending = s.pending := rfl
@[simp] theorem setStallP_free (p : Nat) (x : Stall) : (setStallP s p x).free = s.free := rfl
@[simp] theorem setStallP_pins (p : Nat) (x : Stall) : (setStallP s p x).pins = s.pins := rfl
@[simp] theorem setStallP_dev (p : Nat) (x : Stall) : (setStallP s p x).dev = s.dev := rfl
@[simp] theorem setStallP_host (p : Nat) (x : Stall) : (setStallP s p x).host = s.host := rfl
@[simp] theorem setStallP_pwr (p : Nat) (x : Stall) : (setStallP s p x).pwr = s.pwr := rfl
@[simp] theorem setStallP_bring (p : Nat) (x : Stall) : (setStallP s p x).bring = s.bring := rfl
@[simp] theorem setStallP_sec (p : Nat) (x : Stall) : (setStallP s p x).sec = s.sec := rfl
@[simp] theorem setStallP_syl (p : Nat) (x : Stall) : (setStallP s p x).syl = s.syl := rfl
@[simp] theorem setStallP_roll (p : Nat) (x : Stall) : (setStallP s p x).roll = s.roll := rfl
@[simp] theorem setStallP_rng (p : Nat) (x : Stall) : (setStallP s p x).rng = s.rng := rfl
@[simp] theorem setStallP_loft (p : Nat) (x : Stall) : (setStallP s p x).loft = s.loft := rfl
@[simp] theorem setStallP_yardCtr (p : Nat) (x : Stall) : (setStallP s p x).yardCtr = s.yardCtr := rfl
@[simp] theorem setStallP_yardBeats (p : Nat) (x : Stall) : (setStallP s p x).yardBeats = s.yardBeats := rfl
@[simp] theorem setStallP_hubCtr (p : Nat) (x : Stall) : (setStallP s p x).hubCtr = s.hubCtr := rfl
@[simp] theorem setStallP_fab (p : Nat) (x : Stall) : (setStallP s p x).fab = s.fab := rfl
@[simp] theorem setStallP_gate (p : Nat) (x : Stall) : (setStallP s p x).gate = s.gate := rfl
@[simp] theorem setStallP_vid (p : Nat) (x : Stall) : (setStallP s p x).vid = s.vid := rfl
@[simp] theorem setStallP_ctx (p : Nat) (x : Stall) : (setStallP s p x).ctx = s.ctx := rfl
@[simp] theorem setStallP_snap (p : Nat) (x : Stall) : (setStallP s p x).snap = s.snap := rfl
@[simp] theorem setStallP_flt (p : Nat) (x : Stall) : (setStallP s p x).flt = s.flt := rfl
@[simp] theorem setStallP_smb (p : Nat) (x : Stall) : (setStallP s p x).smb = s.smb := rfl

/-! ### modStallP -/

@[simp] theorem modStallP_pending (p : Nat) (f : Stall → Stall) : (modStallP p f s).pending = s.pending := rfl
@[simp] theorem modStallP_free (p : Nat) (f : Stall → Stall) : (modStallP p f s).free = s.free := rfl
@[simp] theorem modStallP_pins (p : Nat) (f : Stall → Stall) : (modStallP p f s).pins = s.pins := rfl
@[simp] theorem modStallP_dev (p : Nat) (f : Stall → Stall) : (modStallP p f s).dev = s.dev := rfl
@[simp] theorem modStallP_host (p : Nat) (f : Stall → Stall) : (modStallP p f s).host = s.host := rfl
@[simp] theorem modStallP_pwr (p : Nat) (f : Stall → Stall) : (modStallP p f s).pwr = s.pwr := rfl
@[simp] theorem modStallP_bring (p : Nat) (f : Stall → Stall) : (modStallP p f s).bring = s.bring := rfl
@[simp] theorem modStallP_sec (p : Nat) (f : Stall → Stall) : (modStallP p f s).sec = s.sec := rfl
@[simp] theorem modStallP_syl (p : Nat) (f : Stall → Stall) : (modStallP p f s).syl = s.syl := rfl
@[simp] theorem modStallP_roll (p : Nat) (f : Stall → Stall) : (modStallP p f s).roll = s.roll := rfl
@[simp] theorem modStallP_rng (p : Nat) (f : Stall → Stall) : (modStallP p f s).rng = s.rng := rfl
@[simp] theorem modStallP_loft (p : Nat) (f : Stall → Stall) : (modStallP p f s).loft = s.loft := rfl
@[simp] theorem modStallP_yardCtr (p : Nat) (f : Stall → Stall) : (modStallP p f s).yardCtr = s.yardCtr := rfl
@[simp] theorem modStallP_yardBeats (p : Nat) (f : Stall → Stall) : (modStallP p f s).yardBeats = s.yardBeats := rfl
@[simp] theorem modStallP_hubCtr (p : Nat) (f : Stall → Stall) : (modStallP p f s).hubCtr = s.hubCtr := rfl
@[simp] theorem modStallP_fab (p : Nat) (f : Stall → Stall) : (modStallP p f s).fab = s.fab := rfl
@[simp] theorem modStallP_gate (p : Nat) (f : Stall → Stall) : (modStallP p f s).gate = s.gate := rfl
@[simp] theorem modStallP_vid (p : Nat) (f : Stall → Stall) : (modStallP p f s).vid = s.vid := rfl
@[simp] theorem modStallP_ctx (p : Nat) (f : Stall → Stall) : (modStallP p f s).ctx = s.ctx := rfl
@[simp] theorem modStallP_snap (p : Nat) (f : Stall → Stall) : (modStallP p f s).snap = s.snap := rfl
@[simp] theorem modStallP_flt (p : Nat) (f : Stall → Stall) : (modStallP p f s).flt = s.flt := rfl
@[simp] theorem modStallP_smb (p : Nat) (f : Stall → Stall) : (modStallP p f s).smb = s.smb := rfl

/-! ### raiseStall -/

@[simp] theorem raiseStall_pending (code p : Nat) (detail : List Byte) : (raiseStall code p detail s).pending = s.pending := rfl
@[simp] theorem raiseStall_pins (code p : Nat) (detail : List Byte) : (raiseStall code p detail s).pins = s.pins := rfl
@[simp] theorem raiseStall_dev (code p : Nat) (detail : List Byte) : (raiseStall code p detail s).dev = s.dev := rfl
@[simp] theorem raiseStall_host (code p : Nat) (detail : List Byte) : (raiseStall code p detail s).host = s.host := rfl
@[simp] theorem raiseStall_pwr (code p : Nat) (detail : List Byte) : (raiseStall code p detail s).pwr = s.pwr := rfl
@[simp] theorem raiseStall_bring (code p : Nat) (detail : List Byte) : (raiseStall code p detail s).bring = s.bring := rfl
@[simp] theorem raiseStall_sec (code p : Nat) (detail : List Byte) : (raiseStall code p detail s).sec = s.sec := rfl
@[simp] theorem raiseStall_syl (code p : Nat) (detail : List Byte) : (raiseStall code p detail s).syl = s.syl := rfl
@[simp] theorem raiseStall_roll (code p : Nat) (detail : List Byte) : (raiseStall code p detail s).roll = s.roll := rfl
@[simp] theorem raiseStall_rng (code p : Nat) (detail : List Byte) : (raiseStall code p detail s).rng = s.rng := rfl
@[simp] theorem raiseStall_loft (code p : Nat) (detail : List Byte) : (raiseStall code p detail s).loft = s.loft := rfl
@[simp] theorem raiseStall_stalls (code p : Nat) (detail : List Byte) : (raiseStall code p detail s).stalls = s.stalls := rfl
@[simp] theorem raiseStall_yardCtr (code p : Nat) (detail : List Byte) : (raiseStall code p detail s).yardCtr = s.yardCtr := rfl
@[simp] theorem raiseStall_yardBeats (code p : Nat) (detail : List Byte) : (raiseStall code p detail s).yardBeats = s.yardBeats := rfl
@[simp] theorem raiseStall_hubCtr (code p : Nat) (detail : List Byte) : (raiseStall code p detail s).hubCtr = s.hubCtr := rfl
@[simp] theorem raiseStall_fab (code p : Nat) (detail : List Byte) : (raiseStall code p detail s).fab = s.fab := rfl
@[simp] theorem raiseStall_gate (code p : Nat) (detail : List Byte) : (raiseStall code p detail s).gate = s.gate := rfl
@[simp] theorem raiseStall_vid (code p : Nat) (detail : List Byte) : (raiseStall code p detail s).vid = s.vid := rfl
@[simp] theorem raiseStall_ctx (code p : Nat) (detail : List Byte) : (raiseStall code p detail s).ctx = s.ctx := rfl
@[simp] theorem raiseStall_snap (code p : Nat) (detail : List Byte) : (raiseStall code p detail s).snap = s.snap := rfl
@[simp] theorem raiseStall_smb (code p : Nat) (detail : List Byte) : (raiseStall code p detail s).smb = s.smb := rfl

/-! ### scratchUncorrectable -/

@[simp] theorem scratchUncorrectable_pending (p : Nat) : (scratchUncorrectable p s).pending = s.pending := rfl
@[simp] theorem scratchUncorrectable_pins (p : Nat) : (scratchUncorrectable p s).pins = s.pins := rfl
@[simp] theorem scratchUncorrectable_dev (p : Nat) : (scratchUncorrectable p s).dev = s.dev := rfl
@[simp] theorem scratchUncorrectable_host (p : Nat) : (scratchUncorrectable p s).host = s.host := rfl
@[simp] theorem scratchUncorrectable_pwr (p : Nat) : (scratchUncorrectable p s).pwr = s.pwr := rfl
@[simp] theorem scratchUncorrectable_bring (p : Nat) : (scratchUncorrectable p s).bring = s.bring := rfl
@[simp] theorem scratchUncorrectable_sec (p : Nat) : (scratchUncorrectable p s).sec = s.sec := rfl
@[simp] theorem scratchUncorrectable_syl (p : Nat) : (scratchUncorrectable p s).syl = s.syl := rfl
@[simp] theorem scratchUncorrectable_roll (p : Nat) : (scratchUncorrectable p s).roll = s.roll := rfl
@[simp] theorem scratchUncorrectable_rng (p : Nat) : (scratchUncorrectable p s).rng = s.rng := rfl
@[simp] theorem scratchUncorrectable_loft (p : Nat) : (scratchUncorrectable p s).loft = s.loft := rfl
@[simp] theorem scratchUncorrectable_stalls (p : Nat) : (scratchUncorrectable p s).stalls = s.stalls := rfl
@[simp] theorem scratchUncorrectable_yardCtr (p : Nat) : (scratchUncorrectable p s).yardCtr = s.yardCtr := rfl
@[simp] theorem scratchUncorrectable_yardBeats (p : Nat) : (scratchUncorrectable p s).yardBeats = s.yardBeats := rfl
@[simp] theorem scratchUncorrectable_hubCtr (p : Nat) : (scratchUncorrectable p s).hubCtr = s.hubCtr := rfl
@[simp] theorem scratchUncorrectable_fab (p : Nat) : (scratchUncorrectable p s).fab = s.fab := rfl
@[simp] theorem scratchUncorrectable_gate (p : Nat) : (scratchUncorrectable p s).gate = s.gate := rfl
@[simp] theorem scratchUncorrectable_vid (p : Nat) : (scratchUncorrectable p s).vid = s.vid := rfl
@[simp] theorem scratchUncorrectable_ctx (p : Nat) : (scratchUncorrectable p s).ctx = s.ctx := rfl
@[simp] theorem scratchUncorrectable_snap (p : Nat) : (scratchUncorrectable p s).snap = s.snap := rfl
@[simp] theorem scratchUncorrectable_smb (p : Nat) : (scratchUncorrectable p s).smb = s.smb := rfl

/-! ### sramCount -/

@[simp] theorem sramCount_pending (p : Nat) (r : Secded) : (sramCount p r s).pending = s.pending := by unfold sramCount; split <;> rfl
@[simp] theorem sramCount_free (p : Nat) (r : Secded) : (sramCount p r s).free = s.free := by unfold sramCount; split <;> rfl
@[simp] theorem sramCount_pins (p : Nat) (r : Secded) : (sramCount p r s).pins = s.pins := by unfold sramCount; split <;> rfl
@[simp] theorem sramCount_dev (p : Nat) (r : Secded) : (sramCount p r s).dev = s.dev := by unfold sramCount; split <;> rfl
@[simp] theorem sramCount_host (p : Nat) (r : Secded) : (sramCount p r s).host = s.host := by unfold sramCount; split <;> rfl
@[simp] theorem sramCount_pwr (p : Nat) (r : Secded) : (sramCount p r s).pwr = s.pwr := by unfold sramCount; split <;> rfl
@[simp] theorem sramCount_bring (p : Nat) (r : Secded) : (sramCount p r s).bring = s.bring := by unfold sramCount; split <;> rfl
@[simp] theorem sramCount_sec (p : Nat) (r : Secded) : (sramCount p r s).sec = s.sec := by unfold sramCount; split <;> rfl
@[simp] theorem sramCount_syl (p : Nat) (r : Secded) : (sramCount p r s).syl = s.syl := by unfold sramCount; split <;> rfl
@[simp] theorem sramCount_roll (p : Nat) (r : Secded) : (sramCount p r s).roll = s.roll := by unfold sramCount; split <;> rfl
@[simp] theorem sramCount_rng (p : Nat) (r : Secded) : (sramCount p r s).rng = s.rng := by unfold sramCount; split <;> rfl
@[simp] theorem sramCount_loft (p : Nat) (r : Secded) : (sramCount p r s).loft = s.loft := by unfold sramCount; split <;> rfl
@[simp] theorem sramCount_yardCtr (p : Nat) (r : Secded) : (sramCount p r s).yardCtr = s.yardCtr := by unfold sramCount; split <;> rfl
@[simp] theorem sramCount_yardBeats (p : Nat) (r : Secded) : (sramCount p r s).yardBeats = s.yardBeats := by unfold sramCount; split <;> rfl
@[simp] theorem sramCount_hubCtr (p : Nat) (r : Secded) : (sramCount p r s).hubCtr = s.hubCtr := by unfold sramCount; split <;> rfl
@[simp] theorem sramCount_fab (p : Nat) (r : Secded) : (sramCount p r s).fab = s.fab := by unfold sramCount; split <;> rfl
@[simp] theorem sramCount_gate (p : Nat) (r : Secded) : (sramCount p r s).gate = s.gate := by unfold sramCount; split <;> rfl
@[simp] theorem sramCount_vid (p : Nat) (r : Secded) : (sramCount p r s).vid = s.vid := by unfold sramCount; split <;> rfl
@[simp] theorem sramCount_ctx (p : Nat) (r : Secded) : (sramCount p r s).ctx = s.ctx := by unfold sramCount; split <;> rfl
@[simp] theorem sramCount_snap (p : Nat) (r : Secded) : (sramCount p r s).snap = s.snap := by unfold sramCount; split <;> rfl
@[simp] theorem sramCount_flt (p : Nat) (r : Secded) : (sramCount p r s).flt = s.flt := by unfold sramCount; split <;> rfl
@[simp] theorem sramCount_smb (p : Nat) (r : Secded) : (sramCount p r s).smb = s.smb := by unfold sramCount; split <;> rfl

/-! ### sramUsed -/

@[simp] theorem sramUsed_pending (p : Nat) (r : Secded) : (sramUsed p r s).pending = s.pending := by simp only [sramUsed]; split <;> simp
@[simp] theorem sramUsed_pins (p : Nat) (r : Secded) : (sramUsed p r s).pins = s.pins := by simp only [sramUsed]; split <;> simp
@[simp] theorem sramUsed_dev (p : Nat) (r : Secded) : (sramUsed p r s).dev = s.dev := by simp only [sramUsed]; split <;> simp
@[simp] theorem sramUsed_host (p : Nat) (r : Secded) : (sramUsed p r s).host = s.host := by simp only [sramUsed]; split <;> simp
@[simp] theorem sramUsed_pwr (p : Nat) (r : Secded) : (sramUsed p r s).pwr = s.pwr := by simp only [sramUsed]; split <;> simp
@[simp] theorem sramUsed_bring (p : Nat) (r : Secded) : (sramUsed p r s).bring = s.bring := by simp only [sramUsed]; split <;> simp
@[simp] theorem sramUsed_sec (p : Nat) (r : Secded) : (sramUsed p r s).sec = s.sec := by simp only [sramUsed]; split <;> simp
@[simp] theorem sramUsed_syl (p : Nat) (r : Secded) : (sramUsed p r s).syl = s.syl := by simp only [sramUsed]; split <;> simp
@[simp] theorem sramUsed_roll (p : Nat) (r : Secded) : (sramUsed p r s).roll = s.roll := by simp only [sramUsed]; split <;> simp
@[simp] theorem sramUsed_rng (p : Nat) (r : Secded) : (sramUsed p r s).rng = s.rng := by simp only [sramUsed]; split <;> simp
@[simp] theorem sramUsed_loft (p : Nat) (r : Secded) : (sramUsed p r s).loft = s.loft := by simp only [sramUsed]; split <;> simp
@[simp] theorem sramUsed_yardCtr (p : Nat) (r : Secded) : (sramUsed p r s).yardCtr = s.yardCtr := by simp only [sramUsed]; split <;> simp
@[simp] theorem sramUsed_yardBeats (p : Nat) (r : Secded) : (sramUsed p r s).yardBeats = s.yardBeats := by simp only [sramUsed]; split <;> simp
@[simp] theorem sramUsed_hubCtr (p : Nat) (r : Secded) : (sramUsed p r s).hubCtr = s.hubCtr := by simp only [sramUsed]; split <;> simp
@[simp] theorem sramUsed_fab (p : Nat) (r : Secded) : (sramUsed p r s).fab = s.fab := by simp only [sramUsed]; split <;> simp
@[simp] theorem sramUsed_gate (p : Nat) (r : Secded) : (sramUsed p r s).gate = s.gate := by simp only [sramUsed]; split <;> simp
@[simp] theorem sramUsed_vid (p : Nat) (r : Secded) : (sramUsed p r s).vid = s.vid := by simp only [sramUsed]; split <;> simp
@[simp] theorem sramUsed_ctx (p : Nat) (r : Secded) : (sramUsed p r s).ctx = s.ctx := by simp only [sramUsed]; split <;> simp
@[simp] theorem sramUsed_snap (p : Nat) (r : Secded) : (sramUsed p r s).snap = s.snap := by simp only [sramUsed]; split <;> simp
@[simp] theorem sramUsed_smb (p : Nat) (r : Secded) : (sramUsed p r s).smb = s.smb := by simp only [sramUsed]; split <;> simp

/-! ### ackOp -/

@[simp] theorem ackOp_pending (n desc inst : Nat) : (ackOp n desc inst s).pending = s.pending := by unfold ackOp; split <;> rfl
@[simp] theorem ackOp_free (n desc inst : Nat) : (ackOp n desc inst s).free = s.free := by unfold ackOp; split <;> rfl
@[simp] theorem ackOp_pins (n desc inst : Nat) : (ackOp n desc inst s).pins = s.pins := by unfold ackOp; split <;> rfl
@[simp] theorem ackOp_dev (n desc inst : Nat) : (ackOp n desc inst s).dev = s.dev := by unfold ackOp; split <;> rfl
@[simp] theorem ackOp_host (n desc inst : Nat) : (ackOp n desc inst s).host = s.host := by unfold ackOp; split <;> rfl
@[simp] theorem ackOp_pwr (n desc inst : Nat) : (ackOp n desc inst s).pwr = s.pwr := by unfold ackOp; split <;> rfl
@[simp] theorem ackOp_bring (n desc inst : Nat) : (ackOp n desc inst s).bring = s.bring := by unfold ackOp; split <;> rfl
@[simp] theorem ackOp_sec (n desc inst : Nat) : (ackOp n desc inst s).sec = s.sec := by unfold ackOp; split <;> rfl
@[simp] theorem ackOp_syl (n desc inst : Nat) : (ackOp n desc inst s).syl = s.syl := by unfold ackOp; split <;> rfl
@[simp] theorem ackOp_roll (n desc inst : Nat) : (ackOp n desc inst s).roll = s.roll := by unfold ackOp; split <;> rfl
@[simp] theorem ackOp_rng (n desc inst : Nat) : (ackOp n desc inst s).rng = s.rng := by unfold ackOp; split <;> rfl
@[simp] theorem ackOp_loft (n desc inst : Nat) : (ackOp n desc inst s).loft = s.loft := by unfold ackOp; split <;> rfl
@[simp] theorem ackOp_yardCtr (n desc inst : Nat) : (ackOp n desc inst s).yardCtr = s.yardCtr := by unfold ackOp; split <;> rfl
@[simp] theorem ackOp_yardBeats (n desc inst : Nat) : (ackOp n desc inst s).yardBeats = s.yardBeats := by unfold ackOp; split <;> rfl
@[simp] theorem ackOp_hubCtr (n desc inst : Nat) : (ackOp n desc inst s).hubCtr = s.hubCtr := by unfold ackOp; split <;> rfl
@[simp] theorem ackOp_fab (n desc inst : Nat) : (ackOp n desc inst s).fab = s.fab := by unfold ackOp; split <;> rfl
@[simp] theorem ackOp_gate (n desc inst : Nat) : (ackOp n desc inst s).gate = s.gate := by unfold ackOp; split <;> rfl
@[simp] theorem ackOp_vid (n desc inst : Nat) : (ackOp n desc inst s).vid = s.vid := by unfold ackOp; split <;> rfl
@[simp] theorem ackOp_ctx (n desc inst : Nat) : (ackOp n desc inst s).ctx = s.ctx := by unfold ackOp; split <;> rfl
@[simp] theorem ackOp_snap (n desc inst : Nat) : (ackOp n desc inst s).snap = s.snap := by unfold ackOp; split <;> rfl
@[simp] theorem ackOp_flt (n desc inst : Nat) : (ackOp n desc inst s).flt = s.flt := by unfold ackOp; split <;> rfl
@[simp] theorem ackOp_smb (n desc inst : Nat) : (ackOp n desc inst s).smb = s.smb := by unfold ackOp; split <;> rfl

/-! ### hostSend -/

@[simp] theorem hostSend_pending (ts : List HostTxn) : (hostSend ts s).pending = s.pending := by unfold hostSend; split <;> rfl
@[simp] theorem hostSend_free (ts : List HostTxn) : (hostSend ts s).free = s.free := by unfold hostSend; split <;> rfl
@[simp] theorem hostSend_pins (ts : List HostTxn) : (hostSend ts s).pins = s.pins := by unfold hostSend; split <;> rfl
@[simp] theorem hostSend_dev (ts : List HostTxn) : (hostSend ts s).dev = s.dev := by unfold hostSend; split <;> rfl
@[simp] theorem hostSend_pwr (ts : List HostTxn) : (hostSend ts s).pwr = s.pwr := by unfold hostSend; split <;> rfl
@[simp] theorem hostSend_bring (ts : List HostTxn) : (hostSend ts s).bring = s.bring := by unfold hostSend; split <;> rfl
@[simp] theorem hostSend_sec (ts : List HostTxn) : (hostSend ts s).sec = s.sec := by unfold hostSend; split <;> rfl
@[simp] theorem hostSend_syl (ts : List HostTxn) : (hostSend ts s).syl = s.syl := by unfold hostSend; split <;> rfl
@[simp] theorem hostSend_roll (ts : List HostTxn) : (hostSend ts s).roll = s.roll := by unfold hostSend; split <;> rfl
@[simp] theorem hostSend_rng (ts : List HostTxn) : (hostSend ts s).rng = s.rng := by unfold hostSend; split <;> rfl
@[simp] theorem hostSend_loft (ts : List HostTxn) : (hostSend ts s).loft = s.loft := by unfold hostSend; split <;> rfl
@[simp] theorem hostSend_stalls (ts : List HostTxn) : (hostSend ts s).stalls = s.stalls := by unfold hostSend; split <;> rfl
@[simp] theorem hostSend_yardCtr (ts : List HostTxn) : (hostSend ts s).yardCtr = s.yardCtr := by unfold hostSend; split <;> rfl
@[simp] theorem hostSend_yardBeats (ts : List HostTxn) : (hostSend ts s).yardBeats = s.yardBeats := by unfold hostSend; split <;> rfl
@[simp] theorem hostSend_hubCtr (ts : List HostTxn) : (hostSend ts s).hubCtr = s.hubCtr := by unfold hostSend; split <;> rfl
@[simp] theorem hostSend_fab (ts : List HostTxn) : (hostSend ts s).fab = s.fab := by unfold hostSend; split <;> rfl
@[simp] theorem hostSend_gate (ts : List HostTxn) : (hostSend ts s).gate = s.gate := by unfold hostSend; split <;> rfl
@[simp] theorem hostSend_vid (ts : List HostTxn) : (hostSend ts s).vid = s.vid := by unfold hostSend; split <;> rfl
@[simp] theorem hostSend_ctx (ts : List HostTxn) : (hostSend ts s).ctx = s.ctx := by unfold hostSend; split <;> rfl
@[simp] theorem hostSend_snap (ts : List HostTxn) : (hostSend ts s).snap = s.snap := by unfold hostSend; split <;> rfl
@[simp] theorem hostSend_flt (ts : List HostTxn) : (hostSend ts s).flt = s.flt := by unfold hostSend; split <;> rfl
@[simp] theorem hostSend_smb (ts : List HostTxn) : (hostSend ts s).smb = s.smb := by unfold hostSend; split <;> rfl

/-! ### modQueue -/

@[simp] theorem modQueue_pending (q : Nat) (f : Queue → Queue) : (modQueue q f s).pending = s.pending := rfl
@[simp] theorem modQueue_free (q : Nat) (f : Queue → Queue) : (modQueue q f s).free = s.free := rfl
@[simp] theorem modQueue_pins (q : Nat) (f : Queue → Queue) : (modQueue q f s).pins = s.pins := rfl
@[simp] theorem modQueue_dev (q : Nat) (f : Queue → Queue) : (modQueue q f s).dev = s.dev := rfl
@[simp] theorem modQueue_pwr (q : Nat) (f : Queue → Queue) : (modQueue q f s).pwr = s.pwr := rfl
@[simp] theorem modQueue_bring (q : Nat) (f : Queue → Queue) : (modQueue q f s).bring = s.bring := rfl
@[simp] theorem modQueue_sec (q : Nat) (f : Queue → Queue) : (modQueue q f s).sec = s.sec := rfl
@[simp] theorem modQueue_syl (q : Nat) (f : Queue → Queue) : (modQueue q f s).syl = s.syl := rfl
@[simp] theorem modQueue_roll (q : Nat) (f : Queue → Queue) : (modQueue q f s).roll = s.roll := rfl
@[simp] theorem modQueue_rng (q : Nat) (f : Queue → Queue) : (modQueue q f s).rng = s.rng := rfl
@[simp] theorem modQueue_loft (q : Nat) (f : Queue → Queue) : (modQueue q f s).loft = s.loft := rfl
@[simp] theorem modQueue_stalls (q : Nat) (f : Queue → Queue) : (modQueue q f s).stalls = s.stalls := rfl
@[simp] theorem modQueue_yardCtr (q : Nat) (f : Queue → Queue) : (modQueue q f s).yardCtr = s.yardCtr := rfl
@[simp] theorem modQueue_yardBeats (q : Nat) (f : Queue → Queue) : (modQueue q f s).yardBeats = s.yardBeats := rfl
@[simp] theorem modQueue_hubCtr (q : Nat) (f : Queue → Queue) : (modQueue q f s).hubCtr = s.hubCtr := rfl
@[simp] theorem modQueue_fab (q : Nat) (f : Queue → Queue) : (modQueue q f s).fab = s.fab := rfl
@[simp] theorem modQueue_gate (q : Nat) (f : Queue → Queue) : (modQueue q f s).gate = s.gate := rfl
@[simp] theorem modQueue_vid (q : Nat) (f : Queue → Queue) : (modQueue q f s).vid = s.vid := rfl
@[simp] theorem modQueue_ctx (q : Nat) (f : Queue → Queue) : (modQueue q f s).ctx = s.ctx := rfl
@[simp] theorem modQueue_snap (q : Nat) (f : Queue → Queue) : (modQueue q f s).snap = s.snap := rfl
@[simp] theorem modQueue_flt (q : Nat) (f : Queue → Queue) : (modQueue q f s).flt = s.flt := rfl
@[simp] theorem modQueue_smb (q : Nat) (f : Queue → Queue) : (modQueue q f s).smb = s.smb := rfl

/-! ### post -/

@[simp] theorem post_pending (via : Via) (r : CplRec) : (post via r s).pending = s.pending := rfl
@[simp] theorem post_free (via : Via) (r : CplRec) : (post via r s).free = s.free := rfl
@[simp] theorem post_pins (via : Via) (r : CplRec) : (post via r s).pins = s.pins := rfl
@[simp] theorem post_dev (via : Via) (r : CplRec) : (post via r s).dev = s.dev := rfl
@[simp] theorem post_pwr (via : Via) (r : CplRec) : (post via r s).pwr = s.pwr := rfl
@[simp] theorem post_bring (via : Via) (r : CplRec) : (post via r s).bring = s.bring := rfl
@[simp] theorem post_sec (via : Via) (r : CplRec) : (post via r s).sec = s.sec := rfl
@[simp] theorem post_syl (via : Via) (r : CplRec) : (post via r s).syl = s.syl := rfl
@[simp] theorem post_roll (via : Via) (r : CplRec) : (post via r s).roll = s.roll := rfl
@[simp] theorem post_rng (via : Via) (r : CplRec) : (post via r s).rng = s.rng := rfl
@[simp] theorem post_loft (via : Via) (r : CplRec) : (post via r s).loft = s.loft := rfl
@[simp] theorem post_stalls (via : Via) (r : CplRec) : (post via r s).stalls = s.stalls := rfl
@[simp] theorem post_yardCtr (via : Via) (r : CplRec) : (post via r s).yardCtr = s.yardCtr := rfl
@[simp] theorem post_yardBeats (via : Via) (r : CplRec) : (post via r s).yardBeats = s.yardBeats := rfl
@[simp] theorem post_hubCtr (via : Via) (r : CplRec) : (post via r s).hubCtr = s.hubCtr := rfl
@[simp] theorem post_fab (via : Via) (r : CplRec) : (post via r s).fab = s.fab := rfl
@[simp] theorem post_gate (via : Via) (r : CplRec) : (post via r s).gate = s.gate := rfl
@[simp] theorem post_vid (via : Via) (r : CplRec) : (post via r s).vid = s.vid := rfl
@[simp] theorem post_ctx (via : Via) (r : CplRec) : (post via r s).ctx = s.ctx := rfl
@[simp] theorem post_snap (via : Via) (r : CplRec) : (post via r s).snap = s.snap := rfl
@[simp] theorem post_flt (via : Via) (r : CplRec) : (post via r s).flt = s.flt := rfl
@[simp] theorem post_smb (via : Via) (r : CplRec) : (post via r s).smb = s.smb := rfl

/-! ### doneInflight -/

@[simp] theorem doneInflight_pending (via : Via) : (doneInflight via s).pending = s.pending := by cases via <;> rfl
@[simp] theorem doneInflight_free (via : Via) : (doneInflight via s).free = s.free := by cases via <;> rfl
@[simp] theorem doneInflight_pins (via : Via) : (doneInflight via s).pins = s.pins := by cases via <;> rfl
@[simp] theorem doneInflight_dev (via : Via) : (doneInflight via s).dev = s.dev := by cases via <;> rfl
@[simp] theorem doneInflight_pwr (via : Via) : (doneInflight via s).pwr = s.pwr := by cases via <;> rfl
@[simp] theorem doneInflight_bring (via : Via) : (doneInflight via s).bring = s.bring := by cases via <;> rfl
@[simp] theorem doneInflight_sec (via : Via) : (doneInflight via s).sec = s.sec := by cases via <;> rfl
@[simp] theorem doneInflight_syl (via : Via) : (doneInflight via s).syl = s.syl := by cases via <;> rfl
@[simp] theorem doneInflight_roll (via : Via) : (doneInflight via s).roll = s.roll := by cases via <;> rfl
@[simp] theorem doneInflight_rng (via : Via) : (doneInflight via s).rng = s.rng := by cases via <;> rfl
@[simp] theorem doneInflight_loft (via : Via) : (doneInflight via s).loft = s.loft := by cases via <;> rfl
@[simp] theorem doneInflight_stalls (via : Via) : (doneInflight via s).stalls = s.stalls := by cases via <;> rfl
@[simp] theorem doneInflight_yardCtr (via : Via) : (doneInflight via s).yardCtr = s.yardCtr := by cases via <;> rfl
@[simp] theorem doneInflight_yardBeats (via : Via) : (doneInflight via s).yardBeats = s.yardBeats := by cases via <;> rfl
@[simp] theorem doneInflight_hubCtr (via : Via) : (doneInflight via s).hubCtr = s.hubCtr := by cases via <;> rfl
@[simp] theorem doneInflight_fab (via : Via) : (doneInflight via s).fab = s.fab := by cases via <;> rfl
@[simp] theorem doneInflight_gate (via : Via) : (doneInflight via s).gate = s.gate := by cases via <;> rfl
@[simp] theorem doneInflight_vid (via : Via) : (doneInflight via s).vid = s.vid := by cases via <;> rfl
@[simp] theorem doneInflight_ctx (via : Via) : (doneInflight via s).ctx = s.ctx := by cases via <;> rfl
@[simp] theorem doneInflight_snap (via : Via) : (doneInflight via s).snap = s.snap := by cases via <;> rfl
@[simp] theorem doneInflight_flt (via : Via) : (doneInflight via s).flt = s.flt := by cases via <;> rfl
@[simp] theorem doneInflight_smb (via : Via) : (doneInflight via s).smb = s.smb := by cases via <;> rfl

/-! ### postCmd -/

@[simp] theorem postCmd_pending (iss : Issuer) (status : Nat) (body : List Byte) : (postCmd iss status body s).pending = s.pending := by unfold postCmd; rw [doneInflight_pending]; rfl
@[simp] theorem postCmd_free (iss : Issuer) (status : Nat) (body : List Byte) : (postCmd iss status body s).free = s.free := by unfold postCmd; rw [doneInflight_free]; rfl
@[simp] theorem postCmd_pins (iss : Issuer) (status : Nat) (body : List Byte) : (postCmd iss status body s).pins = s.pins := by unfold postCmd; rw [doneInflight_pins]; rfl
@[simp] theorem postCmd_dev (iss : Issuer) (status : Nat) (body : List Byte) : (postCmd iss status body s).dev = s.dev := by unfold postCmd; rw [doneInflight_dev]; rfl
@[simp] theorem postCmd_pwr (iss : Issuer) (status : Nat) (body : List Byte) : (postCmd iss status body s).pwr = s.pwr := by unfold postCmd; rw [doneInflight_pwr]; rfl
@[simp] theorem postCmd_bring (iss : Issuer) (status : Nat) (body : List Byte) : (postCmd iss status body s).bring = s.bring := by unfold postCmd; rw [doneInflight_bring]; rfl
@[simp] theorem postCmd_sec (iss : Issuer) (status : Nat) (body : List Byte) : (postCmd iss status body s).sec = s.sec := by unfold postCmd; rw [doneInflight_sec]; rfl
@[simp] theorem postCmd_syl (iss : Issuer) (status : Nat) (body : List Byte) : (postCmd iss status body s).syl = s.syl := by unfold postCmd; rw [doneInflight_syl]; rfl
@[simp] theorem postCmd_roll (iss : Issuer) (status : Nat) (body : List Byte) : (postCmd iss status body s).roll = s.roll := by unfold postCmd; rw [doneInflight_roll]; rfl
@[simp] theorem postCmd_rng (iss : Issuer) (status : Nat) (body : List Byte) : (postCmd iss status body s).rng = s.rng := by unfold postCmd; rw [doneInflight_rng]; rfl
@[simp] theorem postCmd_loft (iss : Issuer) (status : Nat) (body : List Byte) : (postCmd iss status body s).loft = s.loft := by unfold postCmd; rw [doneInflight_loft]; rfl
@[simp] theorem postCmd_stalls (iss : Issuer) (status : Nat) (body : List Byte) : (postCmd iss status body s).stalls = s.stalls := by unfold postCmd; rw [doneInflight_stalls]; rfl
@[simp] theorem postCmd_yardCtr (iss : Issuer) (status : Nat) (body : List Byte) : (postCmd iss status body s).yardCtr = s.yardCtr := by unfold postCmd; rw [doneInflight_yardCtr]; rfl
@[simp] theorem postCmd_yardBeats (iss : Issuer) (status : Nat) (body : List Byte) : (postCmd iss status body s).yardBeats = s.yardBeats := by unfold postCmd; rw [doneInflight_yardBeats]; rfl
@[simp] theorem postCmd_hubCtr (iss : Issuer) (status : Nat) (body : List Byte) : (postCmd iss status body s).hubCtr = s.hubCtr := by unfold postCmd; rw [doneInflight_hubCtr]; rfl
@[simp] theorem postCmd_fab (iss : Issuer) (status : Nat) (body : List Byte) : (postCmd iss status body s).fab = s.fab := by unfold postCmd; rw [doneInflight_fab]; rfl
@[simp] theorem postCmd_gate (iss : Issuer) (status : Nat) (body : List Byte) : (postCmd iss status body s).gate = s.gate := by unfold postCmd; rw [doneInflight_gate]; rfl
@[simp] theorem postCmd_vid (iss : Issuer) (status : Nat) (body : List Byte) : (postCmd iss status body s).vid = s.vid := by unfold postCmd; rw [doneInflight_vid]; rfl
@[simp] theorem postCmd_ctx (iss : Issuer) (status : Nat) (body : List Byte) : (postCmd iss status body s).ctx = s.ctx := by unfold postCmd; rw [doneInflight_ctx]; rfl
@[simp] theorem postCmd_snap (iss : Issuer) (status : Nat) (body : List Byte) : (postCmd iss status body s).snap = s.snap := by unfold postCmd; rw [doneInflight_snap]; rfl
@[simp] theorem postCmd_flt (iss : Issuer) (status : Nat) (body : List Byte) : (postCmd iss status body s).flt = s.flt := by unfold postCmd; rw [doneInflight_flt]; rfl
@[simp] theorem postCmd_smb (iss : Issuer) (status : Nat) (body : List Byte) : (postCmd iss status body s).smb = s.smb := by unfold postCmd; rw [doneInflight_smb]; rfl

/-! ### countPkts -/

@[simp] theorem countPkts_pending (cls c : Nat) : (countPkts cls c s).pending = s.pending := rfl
@[simp] theorem countPkts_free (cls c : Nat) : (countPkts cls c s).free = s.free := rfl
@[simp] theorem countPkts_pins (cls c : Nat) : (countPkts cls c s).pins = s.pins := rfl
@[simp] theorem countPkts_dev (cls c : Nat) : (countPkts cls c s).dev = s.dev := rfl
@[simp] theorem countPkts_host (cls c : Nat) : (countPkts cls c s).host = s.host := rfl
@[simp] theorem countPkts_pwr (cls c : Nat) : (countPkts cls c s).pwr = s.pwr := rfl
@[simp] theorem countPkts_bring (cls c : Nat) : (countPkts cls c s).bring = s.bring := rfl
@[simp] theorem countPkts_sec (cls c : Nat) : (countPkts cls c s).sec = s.sec := rfl
@[simp] theorem countPkts_syl (cls c : Nat) : (countPkts cls c s).syl = s.syl := rfl
@[simp] theorem countPkts_roll (cls c : Nat) : (countPkts cls c s).roll = s.roll := rfl
@[simp] theorem countPkts_rng (cls c : Nat) : (countPkts cls c s).rng = s.rng := rfl
@[simp] theorem countPkts_loft (cls c : Nat) : (countPkts cls c s).loft = s.loft := rfl
@[simp] theorem countPkts_stalls (cls c : Nat) : (countPkts cls c s).stalls = s.stalls := rfl
@[simp] theorem countPkts_yardCtr (cls c : Nat) : (countPkts cls c s).yardCtr = s.yardCtr := rfl
@[simp] theorem countPkts_yardBeats (cls c : Nat) : (countPkts cls c s).yardBeats = s.yardBeats := rfl
@[simp] theorem countPkts_hubCtr (cls c : Nat) : (countPkts cls c s).hubCtr = s.hubCtr := rfl
@[simp] theorem countPkts_gate (cls c : Nat) : (countPkts cls c s).gate = s.gate := rfl
@[simp] theorem countPkts_vid (cls c : Nat) : (countPkts cls c s).vid = s.vid := rfl
@[simp] theorem countPkts_ctx (cls c : Nat) : (countPkts cls c s).ctx = s.ctx := rfl
@[simp] theorem countPkts_snap (cls c : Nat) : (countPkts cls c s).snap = s.snap := rfl
@[simp] theorem countPkts_flt (cls c : Nat) : (countPkts cls c s).flt = s.flt := rfl
@[simp] theorem countPkts_smb (cls c : Nat) : (countPkts cls c s).smb = s.smb := rfl

/-! ### hubPkts -/

@[simp] theorem hubPkts_pending (data answer a n : Nat) : (hubPkts data answer a n s).pending = s.pending := rfl
@[simp] theorem hubPkts_free (data answer a n : Nat) : (hubPkts data answer a n s).free = s.free := rfl
@[simp] theorem hubPkts_pins (data answer a n : Nat) : (hubPkts data answer a n s).pins = s.pins := rfl
@[simp] theorem hubPkts_dev (data answer a n : Nat) : (hubPkts data answer a n s).dev = s.dev := rfl
@[simp] theorem hubPkts_host (data answer a n : Nat) : (hubPkts data answer a n s).host = s.host := rfl
@[simp] theorem hubPkts_pwr (data answer a n : Nat) : (hubPkts data answer a n s).pwr = s.pwr := rfl
@[simp] theorem hubPkts_bring (data answer a n : Nat) : (hubPkts data answer a n s).bring = s.bring := rfl
@[simp] theorem hubPkts_sec (data answer a n : Nat) : (hubPkts data answer a n s).sec = s.sec := rfl
@[simp] theorem hubPkts_syl (data answer a n : Nat) : (hubPkts data answer a n s).syl = s.syl := rfl
@[simp] theorem hubPkts_roll (data answer a n : Nat) : (hubPkts data answer a n s).roll = s.roll := rfl
@[simp] theorem hubPkts_rng (data answer a n : Nat) : (hubPkts data answer a n s).rng = s.rng := rfl
@[simp] theorem hubPkts_loft (data answer a n : Nat) : (hubPkts data answer a n s).loft = s.loft := rfl
@[simp] theorem hubPkts_stalls (data answer a n : Nat) : (hubPkts data answer a n s).stalls = s.stalls := rfl
@[simp] theorem hubPkts_yardCtr (data answer a n : Nat) : (hubPkts data answer a n s).yardCtr = s.yardCtr := rfl
@[simp] theorem hubPkts_yardBeats (data answer a n : Nat) : (hubPkts data answer a n s).yardBeats = s.yardBeats := rfl
@[simp] theorem hubPkts_hubCtr (data answer a n : Nat) : (hubPkts data answer a n s).hubCtr = s.hubCtr := rfl
@[simp] theorem hubPkts_gate (data answer a n : Nat) : (hubPkts data answer a n s).gate = s.gate := rfl
@[simp] theorem hubPkts_vid (data answer a n : Nat) : (hubPkts data answer a n s).vid = s.vid := rfl
@[simp] theorem hubPkts_ctx (data answer a n : Nat) : (hubPkts data answer a n s).ctx = s.ctx := rfl
@[simp] theorem hubPkts_snap (data answer a n : Nat) : (hubPkts data answer a n s).snap = s.snap := rfl
@[simp] theorem hubPkts_flt (data answer a n : Nat) : (hubPkts data answer a n s).flt = s.flt := rfl
@[simp] theorem hubPkts_smb (data answer a n : Nat) : (hubPkts data answer a n s).smb = s.smb := rfl

/-! ### correctAt -/

@[simp] theorem correctAt_pending (c access a : Nat) : (correctAt c access a s).pending = s.pending := by simp only [correctAt]; split <;> rfl
@[simp] theorem correctAt_free (c access a : Nat) : (correctAt c access a s).free = s.free := by simp only [correctAt]; split <;> rfl
@[simp] theorem correctAt_pins (c access a : Nat) : (correctAt c access a s).pins = s.pins := by simp only [correctAt]; split <;> rfl
@[simp] theorem correctAt_dev (c access a : Nat) : (correctAt c access a s).dev = s.dev := by simp only [correctAt]; split <;> rfl
@[simp] theorem correctAt_host (c access a : Nat) : (correctAt c access a s).host = s.host := by simp only [correctAt]; split <;> rfl
@[simp] theorem correctAt_pwr (c access a : Nat) : (correctAt c access a s).pwr = s.pwr := by simp only [correctAt]; split <;> rfl
@[simp] theorem correctAt_bring (c access a : Nat) : (correctAt c access a s).bring = s.bring := by simp only [correctAt]; split <;> rfl
@[simp] theorem correctAt_sec (c access a : Nat) : (correctAt c access a s).sec = s.sec := by simp only [correctAt]; split <;> rfl
@[simp] theorem correctAt_syl (c access a : Nat) : (correctAt c access a s).syl = s.syl := by simp only [correctAt]; split <;> rfl
@[simp] theorem correctAt_roll (c access a : Nat) : (correctAt c access a s).roll = s.roll := by simp only [correctAt]; split <;> rfl
@[simp] theorem correctAt_rng (c access a : Nat) : (correctAt c access a s).rng = s.rng := by simp only [correctAt]; split <;> rfl
@[simp] theorem correctAt_stalls (c access a : Nat) : (correctAt c access a s).stalls = s.stalls := by simp only [correctAt]; split <;> rfl
@[simp] theorem correctAt_yardCtr (c access a : Nat) : (correctAt c access a s).yardCtr = s.yardCtr := by simp only [correctAt]; split <;> rfl
@[simp] theorem correctAt_yardBeats (c access a : Nat) : (correctAt c access a s).yardBeats = s.yardBeats := by simp only [correctAt]; split <;> rfl
@[simp] theorem correctAt_hubCtr (c access a : Nat) : (correctAt c access a s).hubCtr = s.hubCtr := by simp only [correctAt]; split <;> rfl
@[simp] theorem correctAt_fab (c access a : Nat) : (correctAt c access a s).fab = s.fab := by simp only [correctAt]; split <;> rfl
@[simp] theorem correctAt_gate (c access a : Nat) : (correctAt c access a s).gate = s.gate := by simp only [correctAt]; split <;> rfl
@[simp] theorem correctAt_vid (c access a : Nat) : (correctAt c access a s).vid = s.vid := by simp only [correctAt]; split <;> rfl
@[simp] theorem correctAt_ctx (c access a : Nat) : (correctAt c access a s).ctx = s.ctx := by simp only [correctAt]; split <;> rfl
@[simp] theorem correctAt_snap (c access a : Nat) : (correctAt c access a s).snap = s.snap := by simp only [correctAt]; split <;> rfl
@[simp] theorem correctAt_smb (c access a : Nat) : (correctAt c access a s).smb = s.smb := by simp only [correctAt]; split <;> rfl

/-! ### poisonOne -/

@[simp] theorem poisonOne_pending (a : Nat) : (poisonOne a s).pending = s.pending := by unfold poisonOne; split <;> rfl
@[simp] theorem poisonOne_free (a : Nat) : (poisonOne a s).free = s.free := by unfold poisonOne; split <;> rfl
@[simp] theorem poisonOne_pins (a : Nat) : (poisonOne a s).pins = s.pins := by unfold poisonOne; split <;> rfl
@[simp] theorem poisonOne_dev (a : Nat) : (poisonOne a s).dev = s.dev := by unfold poisonOne; split <;> rfl
@[simp] theorem poisonOne_host (a : Nat) : (poisonOne a s).host = s.host := by unfold poisonOne; split <;> rfl
@[simp] theorem poisonOne_pwr (a : Nat) : (poisonOne a s).pwr = s.pwr := by unfold poisonOne; split <;> rfl
@[simp] theorem poisonOne_bring (a : Nat) : (poisonOne a s).bring = s.bring := by unfold poisonOne; split <;> rfl
@[simp] theorem poisonOne_sec (a : Nat) : (poisonOne a s).sec = s.sec := by unfold poisonOne; split <;> rfl
@[simp] theorem poisonOne_syl (a : Nat) : (poisonOne a s).syl = s.syl := by unfold poisonOne; split <;> rfl
@[simp] theorem poisonOne_roll (a : Nat) : (poisonOne a s).roll = s.roll := by unfold poisonOne; split <;> rfl
@[simp] theorem poisonOne_rng (a : Nat) : (poisonOne a s).rng = s.rng := by unfold poisonOne; split <;> rfl
@[simp] theorem poisonOne_stalls (a : Nat) : (poisonOne a s).stalls = s.stalls := by unfold poisonOne; split <;> rfl
@[simp] theorem poisonOne_yardCtr (a : Nat) : (poisonOne a s).yardCtr = s.yardCtr := by unfold poisonOne; split <;> rfl
@[simp] theorem poisonOne_yardBeats (a : Nat) : (poisonOne a s).yardBeats = s.yardBeats := by unfold poisonOne; split <;> rfl
@[simp] theorem poisonOne_hubCtr (a : Nat) : (poisonOne a s).hubCtr = s.hubCtr := by unfold poisonOne; split <;> rfl
@[simp] theorem poisonOne_fab (a : Nat) : (poisonOne a s).fab = s.fab := by unfold poisonOne; split <;> rfl
@[simp] theorem poisonOne_gate (a : Nat) : (poisonOne a s).gate = s.gate := by unfold poisonOne; split <;> rfl
@[simp] theorem poisonOne_vid (a : Nat) : (poisonOne a s).vid = s.vid := by unfold poisonOne; split <;> rfl
@[simp] theorem poisonOne_ctx (a : Nat) : (poisonOne a s).ctx = s.ctx := by unfold poisonOne; split <;> rfl
@[simp] theorem poisonOne_snap (a : Nat) : (poisonOne a s).snap = s.snap := by unfold poisonOne; split <;> rfl
@[simp] theorem poisonOne_flt (a : Nat) : (poisonOne a s).flt = s.flt := by unfold poisonOne; split <;> rfl
@[simp] theorem poisonOne_smb (a : Nat) : (poisonOne a s).smb = s.smb := by unfold poisonOne; split <;> rfl

/-! ### eccApply -/

@[simp] theorem eccApply_pending (ecc : EccReport) (reads : Nat → Bool) (access : Nat) : (eccApply ecc reads access s).pending = s.pending := 
  (foldl_keeps (g := State.pending) (fun s a => poisonOne_pending s a) _ _).trans (foldl_keeps (g := State.pending) (fun s a => correctAt_pending s _ access a) _ _)
@[simp] theorem eccApply_free (ecc : EccReport) (reads : Nat → Bool) (access : Nat) : (eccApply ecc reads access s).free = s.free := 
  (foldl_keeps (g := State.free) (fun s a => poisonOne_free s a) _ _).trans (foldl_keeps (g := State.free) (fun s a => correctAt_free s _ access a) _ _)
@[simp] theorem eccApply_pins (ecc : EccReport) (reads : Nat → Bool) (access : Nat) : (eccApply ecc reads access s).pins = s.pins := 
  (foldl_keeps (g := State.pins) (fun s a => poisonOne_pins s a) _ _).trans (foldl_keeps (g := State.pins) (fun s a => correctAt_pins s _ access a) _ _)
@[simp] theorem eccApply_dev (ecc : EccReport) (reads : Nat → Bool) (access : Nat) : (eccApply ecc reads access s).dev = s.dev := 
  (foldl_keeps (g := State.dev) (fun s a => poisonOne_dev s a) _ _).trans (foldl_keeps (g := State.dev) (fun s a => correctAt_dev s _ access a) _ _)
@[simp] theorem eccApply_host (ecc : EccReport) (reads : Nat → Bool) (access : Nat) : (eccApply ecc reads access s).host = s.host := 
  (foldl_keeps (g := State.host) (fun s a => poisonOne_host s a) _ _).trans (foldl_keeps (g := State.host) (fun s a => correctAt_host s _ access a) _ _)
@[simp] theorem eccApply_pwr (ecc : EccReport) (reads : Nat → Bool) (access : Nat) : (eccApply ecc reads access s).pwr = s.pwr := 
  (foldl_keeps (g := State.pwr) (fun s a => poisonOne_pwr s a) _ _).trans (foldl_keeps (g := State.pwr) (fun s a => correctAt_pwr s _ access a) _ _)
@[simp] theorem eccApply_bring (ecc : EccReport) (reads : Nat → Bool) (access : Nat) : (eccApply ecc reads access s).bring = s.bring := 
  (foldl_keeps (g := State.bring) (fun s a => poisonOne_bring s a) _ _).trans (foldl_keeps (g := State.bring) (fun s a => correctAt_bring s _ access a) _ _)
@[simp] theorem eccApply_sec (ecc : EccReport) (reads : Nat → Bool) (access : Nat) : (eccApply ecc reads access s).sec = s.sec := 
  (foldl_keeps (g := State.sec) (fun s a => poisonOne_sec s a) _ _).trans (foldl_keeps (g := State.sec) (fun s a => correctAt_sec s _ access a) _ _)
@[simp] theorem eccApply_syl (ecc : EccReport) (reads : Nat → Bool) (access : Nat) : (eccApply ecc reads access s).syl = s.syl := 
  (foldl_keeps (g := State.syl) (fun s a => poisonOne_syl s a) _ _).trans (foldl_keeps (g := State.syl) (fun s a => correctAt_syl s _ access a) _ _)
@[simp] theorem eccApply_roll (ecc : EccReport) (reads : Nat → Bool) (access : Nat) : (eccApply ecc reads access s).roll = s.roll := 
  (foldl_keeps (g := State.roll) (fun s a => poisonOne_roll s a) _ _).trans (foldl_keeps (g := State.roll) (fun s a => correctAt_roll s _ access a) _ _)
@[simp] theorem eccApply_rng (ecc : EccReport) (reads : Nat → Bool) (access : Nat) : (eccApply ecc reads access s).rng = s.rng := 
  (foldl_keeps (g := State.rng) (fun s a => poisonOne_rng s a) _ _).trans (foldl_keeps (g := State.rng) (fun s a => correctAt_rng s _ access a) _ _)
@[simp] theorem eccApply_stalls (ecc : EccReport) (reads : Nat → Bool) (access : Nat) : (eccApply ecc reads access s).stalls = s.stalls := 
  (foldl_keeps (g := State.stalls) (fun s a => poisonOne_stalls s a) _ _).trans (foldl_keeps (g := State.stalls) (fun s a => correctAt_stalls s _ access a) _ _)
@[simp] theorem eccApply_yardCtr (ecc : EccReport) (reads : Nat → Bool) (access : Nat) : (eccApply ecc reads access s).yardCtr = s.yardCtr := 
  (foldl_keeps (g := State.yardCtr) (fun s a => poisonOne_yardCtr s a) _ _).trans (foldl_keeps (g := State.yardCtr) (fun s a => correctAt_yardCtr s _ access a) _ _)
@[simp] theorem eccApply_yardBeats (ecc : EccReport) (reads : Nat → Bool) (access : Nat) : (eccApply ecc reads access s).yardBeats = s.yardBeats := 
  (foldl_keeps (g := State.yardBeats) (fun s a => poisonOne_yardBeats s a) _ _).trans (foldl_keeps (g := State.yardBeats) (fun s a => correctAt_yardBeats s _ access a) _ _)
@[simp] theorem eccApply_hubCtr (ecc : EccReport) (reads : Nat → Bool) (access : Nat) : (eccApply ecc reads access s).hubCtr = s.hubCtr := 
  (foldl_keeps (g := State.hubCtr) (fun s a => poisonOne_hubCtr s a) _ _).trans (foldl_keeps (g := State.hubCtr) (fun s a => correctAt_hubCtr s _ access a) _ _)
@[simp] theorem eccApply_fab (ecc : EccReport) (reads : Nat → Bool) (access : Nat) : (eccApply ecc reads access s).fab = s.fab := 
  (foldl_keeps (g := State.fab) (fun s a => poisonOne_fab s a) _ _).trans (foldl_keeps (g := State.fab) (fun s a => correctAt_fab s _ access a) _ _)
@[simp] theorem eccApply_gate (ecc : EccReport) (reads : Nat → Bool) (access : Nat) : (eccApply ecc reads access s).gate = s.gate := 
  (foldl_keeps (g := State.gate) (fun s a => poisonOne_gate s a) _ _).trans (foldl_keeps (g := State.gate) (fun s a => correctAt_gate s _ access a) _ _)
@[simp] theorem eccApply_vid (ecc : EccReport) (reads : Nat → Bool) (access : Nat) : (eccApply ecc reads access s).vid = s.vid := 
  (foldl_keeps (g := State.vid) (fun s a => poisonOne_vid s a) _ _).trans (foldl_keeps (g := State.vid) (fun s a => correctAt_vid s _ access a) _ _)
@[simp] theorem eccApply_ctx (ecc : EccReport) (reads : Nat → Bool) (access : Nat) : (eccApply ecc reads access s).ctx = s.ctx := 
  (foldl_keeps (g := State.ctx) (fun s a => poisonOne_ctx s a) _ _).trans (foldl_keeps (g := State.ctx) (fun s a => correctAt_ctx s _ access a) _ _)
@[simp] theorem eccApply_snap (ecc : EccReport) (reads : Nat → Bool) (access : Nat) : (eccApply ecc reads access s).snap = s.snap := 
  (foldl_keeps (g := State.snap) (fun s a => poisonOne_snap s a) _ _).trans (foldl_keeps (g := State.snap) (fun s a => correctAt_snap s _ access a) _ _)
@[simp] theorem eccApply_smb (ecc : EccReport) (reads : Nat → Bool) (access : Nat) : (eccApply ecc reads access s).smb = s.smb := 
  (foldl_keeps (g := State.smb) (fun s a => poisonOne_smb s a) _ _).trans (foldl_keeps (g := State.smb) (fun s a => correctAt_smb s _ access a) _ _)

/-! ### hubWrite -/

@[simp] theorem hubWrite_pending (a : Nat) (bs : List Byte) : (hubWrite a bs s).pending = s.pending := rfl
@[simp] theorem hubWrite_free (a : Nat) (bs : List Byte) : (hubWrite a bs s).free = s.free := rfl
@[simp] theorem hubWrite_pins (a : Nat) (bs : List Byte) : (hubWrite a bs s).pins = s.pins := rfl
@[simp] theorem hubWrite_dev (a : Nat) (bs : List Byte) : (hubWrite a bs s).dev = s.dev := rfl
@[simp] theorem hubWrite_host (a : Nat) (bs : List Byte) : (hubWrite a bs s).host = s.host := rfl
@[simp] theorem hubWrite_pwr (a : Nat) (bs : List Byte) : (hubWrite a bs s).pwr = s.pwr := rfl
@[simp] theorem hubWrite_bring (a : Nat) (bs : List Byte) : (hubWrite a bs s).bring = s.bring := rfl
@[simp] theorem hubWrite_sec (a : Nat) (bs : List Byte) : (hubWrite a bs s).sec = s.sec := rfl
@[simp] theorem hubWrite_syl (a : Nat) (bs : List Byte) : (hubWrite a bs s).syl = s.syl := rfl
@[simp] theorem hubWrite_roll (a : Nat) (bs : List Byte) : (hubWrite a bs s).roll = s.roll := rfl
@[simp] theorem hubWrite_rng (a : Nat) (bs : List Byte) : (hubWrite a bs s).rng = s.rng := rfl
@[simp] theorem hubWrite_stalls (a : Nat) (bs : List Byte) : (hubWrite a bs s).stalls = s.stalls := rfl
@[simp] theorem hubWrite_yardCtr (a : Nat) (bs : List Byte) : (hubWrite a bs s).yardCtr = s.yardCtr := rfl
@[simp] theorem hubWrite_yardBeats (a : Nat) (bs : List Byte) : (hubWrite a bs s).yardBeats = s.yardBeats := rfl
@[simp] theorem hubWrite_hubCtr (a : Nat) (bs : List Byte) : (hubWrite a bs s).hubCtr = s.hubCtr := rfl
@[simp] theorem hubWrite_gate (a : Nat) (bs : List Byte) : (hubWrite a bs s).gate = s.gate := rfl
@[simp] theorem hubWrite_vid (a : Nat) (bs : List Byte) : (hubWrite a bs s).vid = s.vid := rfl
@[simp] theorem hubWrite_ctx (a : Nat) (bs : List Byte) : (hubWrite a bs s).ctx = s.ctx := rfl
@[simp] theorem hubWrite_snap (a : Nat) (bs : List Byte) : (hubWrite a bs s).snap = s.snap := rfl
@[simp] theorem hubWrite_flt (a : Nat) (bs : List Byte) : (hubWrite a bs s).flt = s.flt := rfl
@[simp] theorem hubWrite_smb (a : Nat) (bs : List Byte) : (hubWrite a bs s).smb = s.smb := rfl

/-! ### hubRead -/

@[simp] theorem hubRead_pending (ecc : EccReport) (access a n : Nat) : (hubRead ecc access a n s).pending = s.pending := by unfold hubRead; simp
@[simp] theorem hubRead_free (ecc : EccReport) (access a n : Nat) : (hubRead ecc access a n s).free = s.free := by unfold hubRead; simp
@[simp] theorem hubRead_pins (ecc : EccReport) (access a n : Nat) : (hubRead ecc access a n s).pins = s.pins := by unfold hubRead; simp
@[simp] theorem hubRead_dev (ecc : EccReport) (access a n : Nat) : (hubRead ecc access a n s).dev = s.dev := by unfold hubRead; simp
@[simp] theorem hubRead_host (ecc : EccReport) (access a n : Nat) : (hubRead ecc access a n s).host = s.host := by unfold hubRead; simp
@[simp] theorem hubRead_pwr (ecc : EccReport) (access a n : Nat) : (hubRead ecc access a n s).pwr = s.pwr := by unfold hubRead; simp
@[simp] theorem hubRead_bring (ecc : EccReport) (access a n : Nat) : (hubRead ecc access a n s).bring = s.bring := by unfold hubRead; simp
@[simp] theorem hubRead_sec (ecc : EccReport) (access a n : Nat) : (hubRead ecc access a n s).sec = s.sec := by unfold hubRead; simp
@[simp] theorem hubRead_syl (ecc : EccReport) (access a n : Nat) : (hubRead ecc access a n s).syl = s.syl := by unfold hubRead; simp
@[simp] theorem hubRead_roll (ecc : EccReport) (access a n : Nat) : (hubRead ecc access a n s).roll = s.roll := by unfold hubRead; simp
@[simp] theorem hubRead_rng (ecc : EccReport) (access a n : Nat) : (hubRead ecc access a n s).rng = s.rng := by unfold hubRead; simp
@[simp] theorem hubRead_stalls (ecc : EccReport) (access a n : Nat) : (hubRead ecc access a n s).stalls = s.stalls := by unfold hubRead; simp
@[simp] theorem hubRead_yardCtr (ecc : EccReport) (access a n : Nat) : (hubRead ecc access a n s).yardCtr = s.yardCtr := by unfold hubRead; simp
@[simp] theorem hubRead_yardBeats (ecc : EccReport) (access a n : Nat) : (hubRead ecc access a n s).yardBeats = s.yardBeats := by unfold hubRead; simp
@[simp] theorem hubRead_hubCtr (ecc : EccReport) (access a n : Nat) : (hubRead ecc access a n s).hubCtr = s.hubCtr := by unfold hubRead; simp
@[simp] theorem hubRead_gate (ecc : EccReport) (access a n : Nat) : (hubRead ecc access a n s).gate = s.gate := by unfold hubRead; simp
@[simp] theorem hubRead_vid (ecc : EccReport) (access a n : Nat) : (hubRead ecc access a n s).vid = s.vid := by unfold hubRead; simp
@[simp] theorem hubRead_ctx (ecc : EccReport) (access a n : Nat) : (hubRead ecc access a n s).ctx = s.ctx := by unfold hubRead; simp
@[simp] theorem hubRead_snap (ecc : EccReport) (access a n : Nat) : (hubRead ecc access a n s).snap = s.snap := by unfold hubRead; simp
@[simp] theorem hubRead_smb (ecc : EccReport) (access a n : Nat) : (hubRead ecc access a n s).smb = s.smb := by unfold hubRead; simp

/-! ### putOp -/

@[simp] theorem putOp_pending (p k : Nat) (f : OpCtx → OpCtx) : (putOp p k f s).pending = s.pending := rfl
@[simp] theorem putOp_free (p k : Nat) (f : OpCtx → OpCtx) : (putOp p k f s).free = s.free := rfl
@[simp] theorem putOp_pins (p k : Nat) (f : OpCtx → OpCtx) : (putOp p k f s).pins = s.pins := rfl
@[simp] theorem putOp_dev (p k : Nat) (f : OpCtx → OpCtx) : (putOp p k f s).dev = s.dev := rfl
@[simp] theorem putOp_host (p k : Nat) (f : OpCtx → OpCtx) : (putOp p k f s).host = s.host := rfl
@[simp] theorem putOp_pwr (p k : Nat) (f : OpCtx → OpCtx) : (putOp p k f s).pwr = s.pwr := rfl
@[simp] theorem putOp_bring (p k : Nat) (f : OpCtx → OpCtx) : (putOp p k f s).bring = s.bring := rfl
@[simp] theorem putOp_sec (p k : Nat) (f : OpCtx → OpCtx) : (putOp p k f s).sec = s.sec := rfl
@[simp] theorem putOp_syl (p k : Nat) (f : OpCtx → OpCtx) : (putOp p k f s).syl = s.syl := rfl
@[simp] theorem putOp_roll (p k : Nat) (f : OpCtx → OpCtx) : (putOp p k f s).roll = s.roll := rfl
@[simp] theorem putOp_rng (p k : Nat) (f : OpCtx → OpCtx) : (putOp p k f s).rng = s.rng := rfl
@[simp] theorem putOp_loft (p k : Nat) (f : OpCtx → OpCtx) : (putOp p k f s).loft = s.loft := rfl
@[simp] theorem putOp_yardCtr (p k : Nat) (f : OpCtx → OpCtx) : (putOp p k f s).yardCtr = s.yardCtr := rfl
@[simp] theorem putOp_yardBeats (p k : Nat) (f : OpCtx → OpCtx) : (putOp p k f s).yardBeats = s.yardBeats := rfl
@[simp] theorem putOp_hubCtr (p k : Nat) (f : OpCtx → OpCtx) : (putOp p k f s).hubCtr = s.hubCtr := rfl
@[simp] theorem putOp_fab (p k : Nat) (f : OpCtx → OpCtx) : (putOp p k f s).fab = s.fab := rfl
@[simp] theorem putOp_gate (p k : Nat) (f : OpCtx → OpCtx) : (putOp p k f s).gate = s.gate := rfl
@[simp] theorem putOp_vid (p k : Nat) (f : OpCtx → OpCtx) : (putOp p k f s).vid = s.vid := rfl
@[simp] theorem putOp_ctx (p k : Nat) (f : OpCtx → OpCtx) : (putOp p k f s).ctx = s.ctx := rfl
@[simp] theorem putOp_snap (p k : Nat) (f : OpCtx → OpCtx) : (putOp p k f s).snap = s.snap := rfl
@[simp] theorem putOp_flt (p k : Nat) (f : OpCtx → OpCtx) : (putOp p k f s).flt = s.flt := rfl
@[simp] theorem putOp_smb (p k : Nat) (f : OpCtx → OpCtx) : (putOp p k f s).smb = s.smb := rfl

/-! ### inject -/

@[simp] theorem inject_pending (cls src dst : Nat) (body : PktBody) : (inject cls src dst body s).pending = s.pending := rfl
@[simp] theorem inject_free (cls src dst : Nat) (body : PktBody) : (inject cls src dst body s).free = s.free := rfl
@[simp] theorem inject_pins (cls src dst : Nat) (body : PktBody) : (inject cls src dst body s).pins = s.pins := rfl
@[simp] theorem inject_dev (cls src dst : Nat) (body : PktBody) : (inject cls src dst body s).dev = s.dev := rfl
@[simp] theorem inject_host (cls src dst : Nat) (body : PktBody) : (inject cls src dst body s).host = s.host := rfl
@[simp] theorem inject_pwr (cls src dst : Nat) (body : PktBody) : (inject cls src dst body s).pwr = s.pwr := rfl
@[simp] theorem inject_bring (cls src dst : Nat) (body : PktBody) : (inject cls src dst body s).bring = s.bring := rfl
@[simp] theorem inject_sec (cls src dst : Nat) (body : PktBody) : (inject cls src dst body s).sec = s.sec := rfl
@[simp] theorem inject_syl (cls src dst : Nat) (body : PktBody) : (inject cls src dst body s).syl = s.syl := rfl
@[simp] theorem inject_roll (cls src dst : Nat) (body : PktBody) : (inject cls src dst body s).roll = s.roll := rfl
@[simp] theorem inject_rng (cls src dst : Nat) (body : PktBody) : (inject cls src dst body s).rng = s.rng := rfl
@[simp] theorem inject_loft (cls src dst : Nat) (body : PktBody) : (inject cls src dst body s).loft = s.loft := rfl
@[simp] theorem inject_stalls (cls src dst : Nat) (body : PktBody) : (inject cls src dst body s).stalls = s.stalls := rfl
@[simp] theorem inject_yardCtr (cls src dst : Nat) (body : PktBody) : (inject cls src dst body s).yardCtr = s.yardCtr := rfl
@[simp] theorem inject_yardBeats (cls src dst : Nat) (body : PktBody) : (inject cls src dst body s).yardBeats = s.yardBeats := rfl
@[simp] theorem inject_hubCtr (cls src dst : Nat) (body : PktBody) : (inject cls src dst body s).hubCtr = s.hubCtr := rfl
@[simp] theorem inject_gate (cls src dst : Nat) (body : PktBody) : (inject cls src dst body s).gate = s.gate := rfl
@[simp] theorem inject_vid (cls src dst : Nat) (body : PktBody) : (inject cls src dst body s).vid = s.vid := rfl
@[simp] theorem inject_ctx (cls src dst : Nat) (body : PktBody) : (inject cls src dst body s).ctx = s.ctx := rfl
@[simp] theorem inject_snap (cls src dst : Nat) (body : PktBody) : (inject cls src dst body s).snap = s.snap := rfl
@[simp] theorem inject_flt (cls src dst : Nat) (body : PktBody) : (inject cls src dst body s).flt = s.flt := rfl
@[simp] theorem inject_smb (cls src dst : Nat) (body : PktBody) : (inject cls src dst body s).smb = s.smb := rfl

/-! ### injectStall -/

@[simp] theorem injectStall_pending (cls src dst : Nat) (body : PktBody) : (injectStall cls src dst body s).pending = s.pending := by unfold injectStall; split <;> rfl
@[simp] theorem injectStall_free (cls src dst : Nat) (body : PktBody) : (injectStall cls src dst body s).free = s.free := by unfold injectStall; split <;> rfl
@[simp] theorem injectStall_pins (cls src dst : Nat) (body : PktBody) : (injectStall cls src dst body s).pins = s.pins := by unfold injectStall; split <;> rfl
@[simp] theorem injectStall_dev (cls src dst : Nat) (body : PktBody) : (injectStall cls src dst body s).dev = s.dev := by unfold injectStall; split <;> rfl
@[simp] theorem injectStall_host (cls src dst : Nat) (body : PktBody) : (injectStall cls src dst body s).host = s.host := by unfold injectStall; split <;> rfl
@[simp] theorem injectStall_pwr (cls src dst : Nat) (body : PktBody) : (injectStall cls src dst body s).pwr = s.pwr := by unfold injectStall; split <;> rfl
@[simp] theorem injectStall_bring (cls src dst : Nat) (body : PktBody) : (injectStall cls src dst body s).bring = s.bring := by unfold injectStall; split <;> rfl
@[simp] theorem injectStall_sec (cls src dst : Nat) (body : PktBody) : (injectStall cls src dst body s).sec = s.sec := by unfold injectStall; split <;> rfl
@[simp] theorem injectStall_syl (cls src dst : Nat) (body : PktBody) : (injectStall cls src dst body s).syl = s.syl := by unfold injectStall; split <;> rfl
@[simp] theorem injectStall_roll (cls src dst : Nat) (body : PktBody) : (injectStall cls src dst body s).roll = s.roll := by unfold injectStall; split <;> rfl
@[simp] theorem injectStall_rng (cls src dst : Nat) (body : PktBody) : (injectStall cls src dst body s).rng = s.rng := by unfold injectStall; split <;> rfl
@[simp] theorem injectStall_loft (cls src dst : Nat) (body : PktBody) : (injectStall cls src dst body s).loft = s.loft := by unfold injectStall; split <;> rfl
@[simp] theorem injectStall_stalls (cls src dst : Nat) (body : PktBody) : (injectStall cls src dst body s).stalls = s.stalls := by unfold injectStall; split <;> rfl
@[simp] theorem injectStall_yardCtr (cls src dst : Nat) (body : PktBody) : (injectStall cls src dst body s).yardCtr = s.yardCtr := by unfold injectStall; split <;> rfl
@[simp] theorem injectStall_yardBeats (cls src dst : Nat) (body : PktBody) : (injectStall cls src dst body s).yardBeats = s.yardBeats := by unfold injectStall; split <;> rfl
@[simp] theorem injectStall_hubCtr (cls src dst : Nat) (body : PktBody) : (injectStall cls src dst body s).hubCtr = s.hubCtr := by unfold injectStall; split <;> rfl
@[simp] theorem injectStall_gate (cls src dst : Nat) (body : PktBody) : (injectStall cls src dst body s).gate = s.gate := by unfold injectStall; split <;> rfl
@[simp] theorem injectStall_vid (cls src dst : Nat) (body : PktBody) : (injectStall cls src dst body s).vid = s.vid := by unfold injectStall; split <;> rfl
@[simp] theorem injectStall_ctx (cls src dst : Nat) (body : PktBody) : (injectStall cls src dst body s).ctx = s.ctx := by unfold injectStall; split <;> rfl
@[simp] theorem injectStall_snap (cls src dst : Nat) (body : PktBody) : (injectStall cls src dst body s).snap = s.snap := by unfold injectStall; split <;> rfl
@[simp] theorem injectStall_smb (cls src dst : Nat) (body : PktBody) : (injectStall cls src dst body s).smb = s.smb := by unfold injectStall; split <;> rfl

/-! ### dropPkt -/

@[simp] theorem dropPkt_pending (k : Nat) : (dropPkt k s).pending = s.pending := rfl
@[simp] theorem dropPkt_free (k : Nat) : (dropPkt k s).free = s.free := rfl
@[simp] theorem dropPkt_pins (k : Nat) : (dropPkt k s).pins = s.pins := rfl
@[simp] theorem dropPkt_dev (k : Nat) : (dropPkt k s).dev = s.dev := rfl
@[simp] theorem dropPkt_host (k : Nat) : (dropPkt k s).host = s.host := rfl
@[simp] theorem dropPkt_pwr (k : Nat) : (dropPkt k s).pwr = s.pwr := rfl
@[simp] theorem dropPkt_bring (k : Nat) : (dropPkt k s).bring = s.bring := rfl
@[simp] theorem dropPkt_sec (k : Nat) : (dropPkt k s).sec = s.sec := rfl
@[simp] theorem dropPkt_syl (k : Nat) : (dropPkt k s).syl = s.syl := rfl
@[simp] theorem dropPkt_roll (k : Nat) : (dropPkt k s).roll = s.roll := rfl
@[simp] theorem dropPkt_rng (k : Nat) : (dropPkt k s).rng = s.rng := rfl
@[simp] theorem dropPkt_loft (k : Nat) : (dropPkt k s).loft = s.loft := rfl
@[simp] theorem dropPkt_stalls (k : Nat) : (dropPkt k s).stalls = s.stalls := rfl
@[simp] theorem dropPkt_yardCtr (k : Nat) : (dropPkt k s).yardCtr = s.yardCtr := rfl
@[simp] theorem dropPkt_yardBeats (k : Nat) : (dropPkt k s).yardBeats = s.yardBeats := rfl
@[simp] theorem dropPkt_hubCtr (k : Nat) : (dropPkt k s).hubCtr = s.hubCtr := rfl
@[simp] theorem dropPkt_gate (k : Nat) : (dropPkt k s).gate = s.gate := rfl
@[simp] theorem dropPkt_vid (k : Nat) : (dropPkt k s).vid = s.vid := rfl
@[simp] theorem dropPkt_ctx (k : Nat) : (dropPkt k s).ctx = s.ctx := rfl
@[simp] theorem dropPkt_snap (k : Nat) : (dropPkt k s).snap = s.snap := rfl
@[simp] theorem dropPkt_flt (k : Nat) : (dropPkt k s).flt = s.flt := rfl
@[simp] theorem dropPkt_smb (k : Nat) : (dropPkt k s).smb = s.smb := rfl

/-! ### hostRead -/

@[simp] theorem hostRead_pending (addr len : Nat) (use : ReadUse) : (hostRead addr len use s).pending = s.pending := by unfold hostRead; split <;> simp
@[simp] theorem hostRead_free (addr len : Nat) (use : ReadUse) : (hostRead addr len use s).free = s.free := by unfold hostRead; split <;> simp
@[simp] theorem hostRead_pins (addr len : Nat) (use : ReadUse) : (hostRead addr len use s).pins = s.pins := by unfold hostRead; split <;> simp
@[simp] theorem hostRead_dev (addr len : Nat) (use : ReadUse) : (hostRead addr len use s).dev = s.dev := by unfold hostRead; split <;> simp
@[simp] theorem hostRead_pwr (addr len : Nat) (use : ReadUse) : (hostRead addr len use s).pwr = s.pwr := by unfold hostRead; split <;> simp
@[simp] theorem hostRead_bring (addr len : Nat) (use : ReadUse) : (hostRead addr len use s).bring = s.bring := by unfold hostRead; split <;> simp
@[simp] theorem hostRead_sec (addr len : Nat) (use : ReadUse) : (hostRead addr len use s).sec = s.sec := by unfold hostRead; split <;> simp
@[simp] theorem hostRead_syl (addr len : Nat) (use : ReadUse) : (hostRead addr len use s).syl = s.syl := by unfold hostRead; split <;> simp
@[simp] theorem hostRead_roll (addr len : Nat) (use : ReadUse) : (hostRead addr len use s).roll = s.roll := by unfold hostRead; split <;> simp
@[simp] theorem hostRead_rng (addr len : Nat) (use : ReadUse) : (hostRead addr len use s).rng = s.rng := by unfold hostRead; split <;> simp
@[simp] theorem hostRead_loft (addr len : Nat) (use : ReadUse) : (hostRead addr len use s).loft = s.loft := by unfold hostRead; split <;> simp
@[simp] theorem hostRead_stalls (addr len : Nat) (use : ReadUse) : (hostRead addr len use s).stalls = s.stalls := by unfold hostRead; split <;> simp
@[simp] theorem hostRead_yardCtr (addr len : Nat) (use : ReadUse) : (hostRead addr len use s).yardCtr = s.yardCtr := by unfold hostRead; split <;> simp
@[simp] theorem hostRead_yardBeats (addr len : Nat) (use : ReadUse) : (hostRead addr len use s).yardBeats = s.yardBeats := by unfold hostRead; split <;> simp
@[simp] theorem hostRead_hubCtr (addr len : Nat) (use : ReadUse) : (hostRead addr len use s).hubCtr = s.hubCtr := by unfold hostRead; split <;> simp
@[simp] theorem hostRead_fab (addr len : Nat) (use : ReadUse) : (hostRead addr len use s).fab = s.fab := by unfold hostRead; split <;> simp
@[simp] theorem hostRead_gate (addr len : Nat) (use : ReadUse) : (hostRead addr len use s).gate = s.gate := by unfold hostRead; split <;> simp
@[simp] theorem hostRead_vid (addr len : Nat) (use : ReadUse) : (hostRead addr len use s).vid = s.vid := by unfold hostRead; split <;> simp
@[simp] theorem hostRead_ctx (addr len : Nat) (use : ReadUse) : (hostRead addr len use s).ctx = s.ctx := by unfold hostRead; split <;> simp
@[simp] theorem hostRead_snap (addr len : Nat) (use : ReadUse) : (hostRead addr len use s).snap = s.snap := by unfold hostRead; split <;> simp
@[simp] theorem hostRead_flt (addr len : Nat) (use : ReadUse) : (hostRead addr len use s).flt = s.flt := by unfold hostRead; split <;> simp
@[simp] theorem hostRead_smb (addr len : Nat) (use : ReadUse) : (hostRead addr len use s).smb = s.smb := by unfold hostRead; split <;> simp

/-! ### What the changed fields read -/

@[simp] theorem raise_raised (code source unit lstall : Nat) (detail : List Byte) :
    (raise code source unit lstall detail s).flt.raised = s.flt.raised ++
      [{ code := code, source := source, unit := unit, lstall := lstall, beats := beatsOf s source unit, detail := detail }] := rfl

/-- The hub raises exactly one record, with the code it names. -/
theorem raiseHub_raised (code : Nat) (detail : List Byte) :
    ∃ r : FRec, (raiseHub code detail s).flt = { s.flt with raised := s.flt.raised ++ [r] } ∧ r.code = code ∧ r.detail = detail ∧
      r.source = 4 := ⟨_, rfl, rfl, rfl, rfl⟩

/-- A stall replaced is the one that is read there. -/
@[simp] theorem stallP_setStallP (p q : Nat) (x : Stall) : stallP (setStallP s p x) q = if q = p then x else stallP s q :=
  tget_tset _ _ _ _ _

@[simp] theorem stallP_modStallP (p q : Nat) (f : Stall → Stall) :
    stallP (modStallP p f s) q = if q = p then f (stallP s p) else stallP s q := tget_tset _ _ _ _ _

@[simp] theorem queueAt_modQueue (q k : Nat) (f : Queue → Queue) :
    queueAt (modQueue q f s) k = if k = q then f (queueAt s q) else queueAt s k := tget_tmod _ _ _ _ _

@[simp] theorem modQueue_evq (q : Nat) (f : Queue → Queue) : (modQueue q f s).host.evq = s.host.evq := rfl
@[simp] theorem modQueue_up (q : Nat) (f : Queue → Queue) : (modQueue q f s).host.up = s.host.up := rfl
@[simp] theorem post_evq (via : Via) (r : CplRec) : (post via r s).host.evq = s.host.evq := rfl
@[simp] theorem post_up (via : Via) (r : CplRec) : (post via r s).host.up = s.host.up := rfl

theorem postCmd_host (iss : Issuer) (status : Nat) (body : List Byte) :
    (postCmd iss status body s).host = { s.host with queues := (postCmd iss status body s).host.queues } := by
  obtain ⟨via, tag⟩ := iss
  cases via <;> rfl

/-- The completion record of a command given through a register waits in EVQ, and nothing else changes. -/
theorem queueAt_postCmd_reg (tag status : Nat) (body : List Byte) (k : Nat) :
    queueAt (postCmd (regIssuer tag) status body s) k =
      if k = s.host.evq then { queueAt s s.host.evq with waiting := (queueAt s s.host.evq).waiting ++
        [{ tag := tag % 256, status := status, kind := 0, body := body }] }
      else queueAt s k := by
  simp only [postCmd, doneInflight, regIssuer, post, viaQueue, queueAt_modQueue]

/-- The completion record of a queue's command waits in that queue, which has one command fewer incomplete. -/
theorem queueAt_postCmd_queue (q tag status : Nat) (body : List Byte) (k : Nat) :
    queueAt (postCmd { via := .queue q, tag := tag } status body s) k =
      if k = q then { queueAt s q with
        waiting := (queueAt s q).waiting ++ [{ tag := tag, status := status, kind := 0, body := body }],
        inflight := (queueAt s q).inflight - 1 }
      else queueAt s k := by
  simp only [postCmd, doneInflight, post, viaQueue, queueAt_modQueue]
  split_ifs <;> rfl

/-- A register write that reaches its register has its effect. -/
theorem regWrite_reaches {v : View} {addr : Nat} (f : State → State) (hup : hubServes s = true)
    (hv : v = .job → jobReach s addr true = true) : regWrite v addr f s = f s := by
  unfold regWrite
  rw [hup]
  by_cases h : v = .job
  · simp [h, hv h]
  · simp [h]

/-- A register write of the privileged view reaches its register. -/
@[simp] theorem regWrite_priv {addr : Nat} (f : State → State) (hup : hubServes s = true) : regWrite .priv addr f s = f s :=
  regWrite_reaches s f hup (fun h => nomatch h)

/-! ### The loft and the fabric after a shared operation -/

@[simp] theorem correctAt_mem (c access a : Nat) : (correctAt c access a s).loft.mem = s.loft.mem := by
  simp only [correctAt]; split <;> rfl
@[simp] theorem correctAt_poison (c access a : Nat) : (correctAt c access a s).loft.poison = s.loft.poison := by
  simp only [correctAt]; split <;> rfl
@[simp] theorem poisonOne_mem (a : Nat) : (poisonOne a s).loft.mem = s.loft.mem := by unfold poisonOne; split <;> rfl

theorem mem_insertAddr (a b : Nat) : ∀ l, b ∈ insertAddr a l ↔ b = a ∨ b ∈ l
  | [] => by simp [insertAddr]
  | c :: r => by
    have ih := mem_insertAddr a b r
    rw [insertAddr]
    split_ifs with h1 h2
    · simp
    · subst h2; simp
    · rw [List.mem_cons, ih, List.mem_cons]; tauto

/-- A word poisoned is poisoned, and every other word is as it was (R291). -/
theorem poisonedWord_poisonOne (a w : Nat) : poisonedWord (poisonOne a s) w = true ↔ w = a ∨ poisonedWord s w = true := by
  unfold poisonOne
  split_ifs with h
  · constructor
    · exact .inr
    · rintro (rfl | h') <;> assumption
  · simp only [poisonedWord, List.contains_iff_mem]
    exact mem_insertAddr a w _

/-- What the decoder found in an access changes no byte of the loft. -/
@[simp] theorem eccApply_mem (ecc : EccReport) (reads : Nat → Bool) (access : Nat) :
    (eccApply ecc reads access s).loft.mem = s.loft.mem :=
  (foldl_keeps (g := fun s => s.loft.mem) (fun s a => poisonOne_mem s a) _ _).trans
    (foldl_keeps (g := fun s => s.loft.mem) (fun s a => correctAt_mem s _ access a) _ _)

theorem poisonedWord_foldl (l : List Nat) : ∀ (s : State) (w : Nat),
    poisonedWord (l.foldl (fun s w => poisonOne w s) s) w = true ↔ w ∈ l ∨ poisonedWord s w = true := by
  induction l with
  | nil => simp
  | cons a l ih =>
    intro s w
    rw [List.foldl_cons, ih, poisonedWord_poisonOne, List.mem_cons]
    tauto

/-- The words of an access that the decoder found uncorrectable are poisoned, and no other word (R291). -/
theorem poisonedWord_eccApply (ecc : EccReport) (reads : Nat → Bool) (access w : Nat) :
    poisonedWord (eccApply ecc reads access s) w = true ↔ (w ∈ ecc.uncorrectable ∧ reads w = true) ∨ poisonedWord s w = true := by
  have h : ∀ l : List Nat, poisonedWord (l.foldl (fun s w => correctOne access w s) s) w = poisonedWord s w := fun l =>
    congrArg (fun p : List Nat => p.contains w)
      (foldl_keeps (g := fun s => s.loft.poison) (fun s a => correctAt_poison s _ access a) l s)
  unfold eccApply
  rw [poisonedWord_foldl, h, List.mem_filter]

@[simp] theorem dropPkt_net (k : Nat) : (dropPkt k s).fab.net = s.fab.net.eraseIdx k := rfl

/-- A packet put on the fabric is the last, on the fixed path between its ends, and is counted (R307, R311). -/
theorem inject_net (cls src dst : Nat) (body : PktBody) : (inject cls src dst body s).fab.net = s.fab.net ++
    [{ cls := cls, src := src, dst := dst, hops := pathHops (pathEnd s src) (pathEnd s dst), body := body }] := rfl

/-- An operation replaced is the one that is read there, and the stall's other fields stay. -/
theorem stallP_putOp (p q k : Nat) (f : OpCtx → OpCtx) :
    stallP (putOp p k f s) q = if q = p then setOp (stallP s p) k (f ((opsOf (stallP s p)).getD k {})) else stallP s q :=
  stallP_modStallP _ _ _ _

end Sys2Proof.Machine
end

