-- ==== Sys2Proof/WellFormed.lean ====
section
/-! DEFINITION. Well-formed commands: operands lie in the ranges the chapters give them (numbers of stalls, slots, entries,
gates, queues, yards and registers, lengths of sensor lists). Meanings are total; they never rely on this check. -/

namespace Sys2Proof

/-- A physical stall number (R12, R13). -/
def isPhysStall (p : Nat) : Bool := p < 1280

/-- A logical stall number (R13). -/
def isStall (n : Nat) : Bool := n < 1200

/-- A tag given through a register is 8 bits wide (R380). -/
def isTag (t : Nat) : Bool := t < 256

/-- An ECC report names 64-byte words of the exposed 320 GiB (R281). -/
def EccReport.wf (e : EccReport) : Bool :=
  (e.corrected ++ e.uncorrectable).all fun a => a % 64 == 0 && a < 320 * 2 ^ 30

/-- A temperature reading and a core supply reading for each die or barn (R418). -/
def sensorsWf (temps : List Int) (vcore : List Nat) : Bool := temps.length == 5 && vcore.length == 4

/-- The operands of a command lie in the ranges their rules give. -/
def Instr.wf : Instr → Bool
  | .resetNAssert | .resetNRelease | .pwrgdAuxRise | .pwrgdAuxFall | .pwrgdCoreRise | .pwrgdCoreFall => true
  | .sensorSample t v => sensorsWf t v
  | .measAverage _ t v => sensorsWf t v
  | .pwrAux _ t | .pwrStandby _ t | .pwrIdle _ t | .pwrYards _ t => isTag t
  | .powerTransitionDone => true
  | .yardGateDone y | .yardUngateDone y => y < 40
  | .bringFuseRead _ t a b => isTag t && a.length == 21552 && b.length == 21552
  | .bringSelftest _ t | .bringAbort _ t | .bringReconcile _ t | .bringFwBcast _ t | .bringMain _ t
  | .bringLoftTest _ t | .bringReady _ t | .bringDrill _ t => isTag t
  | .selftestStallReport p _ => isPhysStall p
  | .bringLinkQual _ t arg => isTag t && arg < 65536
  | .bringUnitReset _ t p => isTag t && isPhysStall p
  | .drillUnitError src _ code _ => src < 10 && code < 65536
  | .secVerify _ t _ | .secSvnCommit _ t | .secSign _ t _ => isTag t
  | .idTreeBuilt => true
  | .secJobGrant _ j | .secJobRelease _ j => j < 2 ^ 32
  | .sylStage _ k t _ | .sylFinish _ k t | .sylLoad _ k t | .sylUnload _ k t | .sylEvict _ k t | .sylAbort _ k t
  | .sylClear _ k t => k < 64 && t < 2 ^ 32
  | .sylLoadCommit e => e.wf
  | .sylPolicyWrite _ _ => true
  | .sylKeyWrite _ k w _ => k < 4 && w < 7
  | .rollRead _ t i | .rollWrite _ t i | .rollPause _ t i | .rollResume _ t i | .rollRelease _ t i =>
      t < 2 ^ 32 && i < 4096
  | .rollRun _ t c | .rollDrain _ t c => t < 2 ^ 32 && c < 32
  | .rollWorklist _ t _ => t < 2 ^ 32
  | .rollDrivenWrite _ _ => true
  | .roundIssue c | .roundComplete c => c < 32
  | .programStart n => isStall n
  | .operationComplete n _ => isStall n
  | .matmul n | .conv n | .chain n | .fence n | .stallPreemptStop n => isStall n
  | .elemwise at_ | .rowstat at_ | .softmax at_ | .norm at_ | .draw at_ | .noise at_ | .move at_ | .send at_ | .recv at_
  | .halo at_ | .stepOp at_ | .guide at_ | .collect at_ _ | .epilogueRun at_ | .prologueRun at_ => isStall at_.stall
  | .matrixInstructionIssue n _ => isStall n
  | .slotReadout at_ k | .chainOut at_ k => isStall at_.stall && k < 16
  | .fabRead _ e | .fabWrite _ e => e.wf
  | .fabTake _ | .fabData _ | .fabAck _ | .fabRdata _ | .fabCredit _ | .fabLedger _ | .fabReady _ => true
  | .fabReg _ n off _ => isStall n && off < 4096 && off % 8 == 0
  | .flitRetry at_ => at_.flit < 4
  | .loftScrubTick sl e => isPhysStall sl && (e.corrected ++ e.uncorrectable).all fun a => a % 64 == 0
  | .loftRefresh sl _ => isPhysStall sl
  | .loftMapWrite _ _ => true
  | .loftPartWrite _ i _ => i < 16
  | .loftZero _ t e => t < 2 ^ 32 && e < 16
  | .loftZeroDone => true
  | .laneLock e w | .laneLossOfLock e w => e < 14 && w < 9
  | .gateBerWarn g w _ => g < 12 && w < 9
  | .gateEnable _ g _ | .gateRetrain _ g => g < 12
  | .gateTrainReceive g node pg _ _ _ => g < 12 && node < 2 ^ 48 && pg < 16
  | .gateTrainDone g | .gateRepeatOldest g | .gateResendLimit g | .gateAckTimeout g | .gatePktData g
  | .gatePktCredit g | .gateAbort g => g < 12
  | .gateFrameReceive g bad seq _ payload => g < 12 && bad.all (· < 17) && seq < 256 && payload.length == 5120
  | .gateNodeWrite _ _ => true
  | .gateGroupWrite _ g _ => g < 256
  | .gateRouteWrite _ r _ _ => r < 2048
  | .vidOpen _ t st _ | .vidSubmit _ t st _ | .vidKey _ t st | .vidClose _ t st => t < 2 ^ 32 && st < 64
  | .vidLtrMark _ t st k | .vidLtrUse _ t st k => t < 2 ^ 32 && st < 64 && k < 4
  | .pictureStart e | .pictureComplete e _ => e < 8
  | .hostFlitReceive _ _ | .hostLinkTimeout => true
  | .hostCpl t st _ => t < 256 && st < 256
  | .hostDbWrite _ q _ | .hostQueueConfigWrite _ q _ _ => q < 20
  | .queueEntryTake q _ _ => q < 20
  | .copyToLoft q t _ _ _ _ e => q < 20 && t < 2 ^ 32 && e.wf
  | .copyFromLoft q t _ _ _ _ e => q < 20 && t < 2 ^ 32 && e.wf
  | .completionRecordWrite q => q < 20
  | .smbIdentity _ | .smbTemperature _ | .smbPowerState _ | .smbStatus _ | .smbPower _ | .smbLastFault _
  | .smbClearAlert _ => true
  | .ctxPreempt _ t | .ctxResume _ t | .ctxClear _ t => t < 2 ^ 32
  | .ctxStopped => true
  | .ctxSave _ t _ _ _ | .ctxRestore _ t _ _ => t < 2 ^ 32
  | .ctxVacate _ t z => t < 2 ^ 32 && z < 65536
  | .snapConfig _ t _ | .snapTake _ t | .snapAbort _ t | .snapClear _ t => t < 2 ^ 32
  | .snapCapture | .snapLossRead | .snapCommit | .replayCheck => true
  | .snapGroups _ t k _ _ _ | .snapRestore _ t k _ _ => t < 2 ^ 32 && k < 2
  | .snapConfigWrite _ off _ => off < 65536 && off % 8 == 0
  | .storeCpl c _ | .storeCommandTimeout c => c < 65536
  | .storeLinkDown => true
  | .rngSeedWrite _ _ => true
  | .rngBaseWrite _ c _ => c < 32
  | .faultRecordCommit _ => true
  | .fltHeadWrite _ _ _ => true
  | .stwApertureRead _ t n k _ => t < 2 ^ 32 && isStall n && k < 256
  | .stwApertureWrite _ n k _ => isStall n && k < 256
  | .registerWrite _ a ws _ => a < 2 ^ 64 && ws.length ≤ 1023
  | .registerRead _ t a len => t < 2 ^ 32 && a < 2 ^ 64 && len < 8192
  | .hubBootDone _ | .verifyDone _ | .svnCommitDone | .signDone => true
  | .fwBcastDone fs => fs.all fun x => isPhysStall x.1 && x.2 ≤ 4
  | .loftTestDone pages spares => pages.all (fun x => x.1 < 4) && spares.all (fun x => x.1 < 4)
  | .linkQualDone r => r.engines.all fun e => e.engine < 14

end Sys2Proof
end

