-- ==== Sys2Proof/Tests/Slice0.lean ====
section
/-! SUPPORT. Small tests on fixed values: an ill-formed command for each check, one step of a few commands against the text of spec/, and for
each statement with hypotheses a concrete state and operands that meet them. -/

namespace Sys2Proof.Tests

open Sys2Proof Sys2Proof.Machine

set_option Elab.async false

/-! ## Ill-formed commands are refused by the check -/

theorem test_wf_power : (Instr.pwrAux .priv 256).wf = false ∧ (Instr.pwrStandby .priv 256).wf = false ∧
    (Instr.pwrIdle .priv 256).wf = false ∧ (Instr.pwrYards .priv 256).wf = false ∧ (Instr.yardGateDone 40).wf = false ∧
    (Instr.yardUngateDone 40).wf = false ∧ (Instr.sensorSample [1, 2, 3, 4] [1, 2, 3, 4]).wf = false ∧
    (Instr.measAverage 0 [1, 2, 3, 4, 5] [1, 2, 3]).wf = false ∧ (Instr.pwrAux .priv 255).wf = true := by decide

theorem test_wf_bring : (Instr.bringFuseRead .priv 0 [] []).wf = false ∧ (Instr.bringSelftest .priv 256).wf = false ∧
    (Instr.bringAbort .priv 256).wf = false ∧ (Instr.bringReconcile .priv 256).wf = false ∧ (Instr.bringFwBcast .priv 256).wf = false ∧
    (Instr.bringMain .priv 256).wf = false ∧ (Instr.bringLoftTest .priv 256).wf = false ∧ (Instr.bringReady .priv 256).wf = false ∧
    (Instr.bringDrill .priv 256).wf = false ∧ (Instr.selftestStallReport 1280 .pass).wf = false ∧
    (Instr.bringLinkQual .priv 0 65536).wf = false ∧ (Instr.bringUnitReset .priv 0 1280).wf = false ∧
    (Instr.drillUnitError 10 0 0 0).wf = false ∧ (Instr.drillUnitError 0 0 65536 0).wf = false ∧
    (Instr.fwBcastDone [(1280, 1)]).wf = false ∧ (Instr.fwBcastDone [(0, 5)]).wf = false ∧
    (Instr.loftTestDone [(4, 0, 0)] []).wf = false ∧ (Instr.loftTestDone [] [(4, 0, 0)]).wf = false ∧
    (Instr.linkQualDone { engines := [⟨14, true, 0, 0, 0⟩], ringFail := 0, hubFail := 0, vlinkFail := [] }).wf = false := by decide

theorem test_wf_security_and_syllabus : (Instr.secVerify .priv 256 0).wf = false ∧ (Instr.secSvnCommit .priv 256).wf = false ∧
    (Instr.secSign .priv 256 none).wf = false ∧ (Instr.secJobGrant .priv (2 ^ 32)).wf = false ∧
    (Instr.secJobRelease .priv (2 ^ 32)).wf = false ∧ (Instr.sylStage .priv 64 0 none).wf = false ∧
    (Instr.sylFinish .priv 64 0).wf = false ∧ (Instr.sylLoad .priv 64 0).wf = false ∧ (Instr.sylUnload .priv 64 0).wf = false ∧
    (Instr.sylEvict .priv 64 0).wf = false ∧ (Instr.sylAbort .priv 64 0).wf = false ∧ (Instr.sylClear .priv 0 (2 ^ 32)).wf = false ∧
    (Instr.sylKeyWrite .priv 4 0 0).wf = false ∧ (Instr.sylKeyWrite .priv 0 7 0).wf = false := by decide

theorem test_wf_roll : (Instr.rollRead .priv 0 4096).wf = false ∧ (Instr.rollWrite .priv 0 4096).wf = false ∧
    (Instr.rollPause .priv 0 4096).wf = false ∧ (Instr.rollResume .priv 0 4096).wf = false ∧
    (Instr.rollRelease .priv (2 ^ 32) 0).wf = false ∧ (Instr.rollRun .priv 0 32).wf = false ∧
    (Instr.rollDrain .priv 0 32).wf = false ∧ (Instr.rollWorklist .priv (2 ^ 32) none).wf = false ∧
    (Instr.roundIssue 32).wf = false ∧ (Instr.roundComplete 32).wf = false ∧ (Instr.rngBaseWrite .priv 32 0).wf = false := by decide

theorem test_wf_stall : ∀ i ∈ [Instr.programStart 1200, .operationComplete 1200 0, .matmul 1200, .conv 1200, .chain 1200, .elemwise ⟨1200, noSecded⟩,
    .rowstat ⟨1200, noSecded⟩, .softmax ⟨1200, noSecded⟩, .norm ⟨1200, noSecded⟩, .draw ⟨1200, noSecded⟩, .noise ⟨1200, noSecded⟩, .move ⟨1200, noSecded⟩, .send ⟨1200, noSecded⟩, .recv ⟨1200, noSecded⟩, .halo ⟨1200, noSecded⟩, .stepOp ⟨1200, noSecded⟩,
    .guide ⟨1200, noSecded⟩, .fence 1200, .collect ⟨1200, noSecded⟩ true, .matrixInstructionIssue 1200 noSecded, .slotReadout ⟨1200, noSecded⟩ 0, .slotReadout ⟨0, noSecded⟩ 16,
    .chainOut ⟨1200, noSecded⟩ 0, .chainOut ⟨0, noSecded⟩ 16, .epilogueRun ⟨1200, noSecded⟩, .prologueRun ⟨1200, noSecded⟩, .stallPreemptStop 1200], i.wf = false := by decide

theorem test_wf_fabric_and_loft : (Instr.fabRead 0 ⟨[1], []⟩).wf = false ∧ (Instr.fabWrite 0 ⟨[], [320 * 2 ^ 30]⟩).wf = false ∧
    (Instr.fabReg .priv 1200 0 none).wf = false ∧ (Instr.fabReg .priv 0 4096 none).wf = false ∧
    (Instr.fabReg .priv 0 4 none).wf = false ∧ (Instr.loftScrubTick 1280 ⟨[], []⟩).wf = false ∧
    (Instr.loftRefresh 1280 true).wf = false ∧ (Instr.loftPartWrite .priv 16 0).wf = false ∧
    (Instr.loftZero .priv 0 16).wf = false ∧ (Instr.copyToLoft 20 0 0 0 64 none ⟨[], []⟩).wf = false ∧
    (Instr.copyFromLoft 0 0 0 0 64 true ⟨[32], []⟩).wf = false := by decide

theorem test_wf_gate : (Instr.laneLock 14 0).wf = false ∧ (Instr.laneLossOfLock 0 9).wf = false ∧ (Instr.gateBerWarn 12 0 0).wf = false ∧
    (Instr.gateEnable .priv 12 0).wf = false ∧ (Instr.gateRetrain .priv 12).wf = false ∧
    (Instr.gateTrainReceive 0 (2 ^ 48) 0 [] 0 0).wf = false ∧ (Instr.gateTrainDone 12).wf = false ∧
    (Instr.gateFrameReceive 0 [] 256 0 (zeros 5120)).wf = false ∧ (Instr.gateFrameReceive 0 [17] 0 0 (zeros 5120)).wf = false ∧
    (Instr.gateFrameReceive 0 [] 0 0 []).wf = false ∧ (Instr.gateRepeatOldest 12).wf = false ∧
    (Instr.gateResendLimit 12).wf = false ∧ (Instr.gateAckTimeout 12).wf = false ∧ (Instr.gatePktData 12).wf = false ∧
    (Instr.gatePktCredit 12).wf = false ∧ (Instr.gateAbort 12).wf = false ∧ (Instr.gateGroupWrite .priv 256 0).wf = false ∧
    (Instr.gateRouteWrite .priv 2048 false 0).wf = false := by decide +kernel

theorem test_wf_video_and_host : (Instr.vidOpen .priv 0 64 none).wf = false ∧ (Instr.vidSubmit .priv 0 64 none).wf = false ∧
    (Instr.vidKey .priv 0 64).wf = false ∧ (Instr.vidLtrMark .priv 0 0 4).wf = false ∧ (Instr.vidLtrUse .priv 0 0 4).wf = false ∧
    (Instr.vidClose .priv 0 64).wf = false ∧ (Instr.pictureStart 8).wf = false ∧ (Instr.pictureComplete 8 ⟨none, ⟨[], []⟩⟩).wf = false ∧
    (Instr.hostCpl 256 0 []).wf = false ∧ (Instr.hostDbWrite .priv 20 0).wf = false ∧
    (Instr.hostQueueConfigWrite .priv 20 true 0).wf = false ∧ (Instr.queueEntryTake 20 none ⟨none, ⟨[], []⟩⟩).wf = false ∧
    (Instr.completionRecordWrite 20).wf = false := by decide

theorem test_wf_context_snapshot_and_registers : (Instr.ctxPreempt .priv (2 ^ 32)).wf = false ∧
    (Instr.ctxResume .priv (2 ^ 32)).wf = false ∧ (Instr.ctxClear .priv (2 ^ 32)).wf = false ∧
    (Instr.ctxSave .priv (2 ^ 32) true true (.done [])).wf = false ∧ (Instr.ctxRestore .priv (2 ^ 32) true none).wf = false ∧
    (Instr.ctxVacate .priv 0 65536).wf = false ∧ (Instr.snapTake .priv (2 ^ 32)).wf = false ∧
    (Instr.snapAbort .priv (2 ^ 32)).wf = false ∧ (Instr.snapClear .priv (2 ^ 32)).wf = false ∧
    (Instr.snapConfig .priv (2 ^ 32) ⟨0, true, 12, 0, 0, 0, 0, [], []⟩).wf = false ∧
    (Instr.snapGroups .priv 0 2 true true none).wf = false ∧ (Instr.snapRestore .priv 0 2 true none).wf = false ∧
    (Instr.snapConfigWrite .priv 4 0).wf = false ∧ (Instr.storeCpl 65536 ⟨0, ⟨[], []⟩⟩).wf = false ∧
    (Instr.storeCommandTimeout 65536).wf = false ∧ (Instr.stwApertureRead .priv 0 0 256 noSecded).wf = false ∧
    (Instr.stwApertureWrite .priv 1200 0 0).wf = false ∧ (Instr.registerWrite .priv (2 ^ 64) [] none).wf = false ∧
    (Instr.registerRead .priv 0 0 8192).wf = false := by decide

/-! ## A device at work -/

/-- A READY device with the yards of physical stalls 0 to 31 on, stalls 0 and 1 serving their home positions, owned by a job. -/
def live : State := { State.reset with
  pins := ⟨true, true, true⟩
  host.up := true
  pwr.st := .idle
  pwr.yardOn := 1
  pwr.yardSet := 1
  bring.phase := .ready
  bring.ready := true
  bring.main := true
  bring.drill := false
  bring.loftTested := true
  bring.wasReady := true
  bring.pst := [(0, { test := .pass, logical := some 0, fw := true }), (1, { test := .pass, logical := some 1, fw := true })]
  sec.owned := true }

/-- The same device in a bring-up phase, in drill mode and not yet READY. -/
def rising (p : Phase) : State := { live with
  bring.phase := p, bring.ready := false, bring.main := false, bring.drill := true, bring.wasReady := false,
  bring.loftTested := false, sec.owned := false }

/-! ## Tables of many entries, for the witnesses -/

/-- A table over `k` indexes from `a`. -/
def row {α : Type} (f : Nat → α) (a k : Nat) : Table α := (List.range' a k).map fun i => (i, f i)

theorem tfind_row {α : Type} (f : Nat → α) (i : Nat) : ∀ k a, tfind (row f a k) i = if a ≤ i ∧ i < a + k then some (f i) else none
  | 0, a => by simp [row, tfind]
  | k + 1, a => by
    have ih := tfind_row f i k (a + 1)
    unfold row at ih ⊢
    rw [List.range'_succ, List.map_cons, tfind, ih]
    by_cases h : a = i
    · subst h; simp
    · simp only [h, if_false]
      congr 1
      simp only [eq_iff_iff]
      omega

theorem find_row {α : Type} (f : Nat → α) (q : Nat × α → Bool) (n : Nat) (hq : ∀ i, q (i, f i) = decide (i = n)) :
    ∀ k a, (row f a k).find? q = if a ≤ n ∧ n < a + k then some (n, f n) else none
  | 0, a => by simp [row]
  | k + 1, a => by
    have ih := find_row f q n hq k (a + 1)
    unfold row at ih ⊢
    rw [List.range'_succ, List.map_cons, List.find?_cons, hq, ih]
    by_cases h : a = n
    · subst h; simp
    · simp only [h, decide_false]
      congr 1
      simp only [eq_iff_iff]
      omega

/-- Bring-up with every physical stall tested and passing. -/
def tested : State := { rising .testing with bring.pst := row (fun _ => { test := .pass }) 0 1280 }

/-- Qualified: logical stall n served by physical stall n, with its firmware, every link passed. -/
def qualified : State := { rising .qualified with
  bring.pst := row (fun n => { test := .pass, logical := some n, fw := true }) 0 1200
  bring.loftTested := true
  bring.intPass := true
  bring.hostPass := true
  bring.storePass := true }

theorem physOf_qualified (n : Nat) (h : n < 1200) : physOf qualified n = some n := by
  have e := find_row (fun n => ({ test := .pass, logical := some n, fw := true } : Pst)) (fun e => e.2.logical = some n) n
    (fun i => by simp) 1200 0
  show (List.find? (fun e : Nat × Pst => e.2.logical = some n)
    (row (fun n => ({ test := .pass, logical := some n, fw := true } : Pst)) 0 1200)).map (·.1) = some n
  rw [e]; simp [h]

theorem readyConfirms_qualified : readyConfirms qualified = true := by
  have h : ∀ n ∈ List.range 1200, ((physOf qualified n).any fun p => (pstAt qualified p).fw) = true := fun n hn => by
    rw [physOf_qualified n (List.mem_range.1 hn)]
    simp only [Option.any_some]
    show (tget ({} : Pst) (row (fun n => ({ test := .pass, logical := some n, fw := true } : Pst)) 0 1200) n).fw = true
    rw [tget, tfind_row]; simp [List.mem_range.1 hn]
  simp only [readyConfirms, Bool.and_eq_true, List.all_eq_true]
  exact ⟨⟨⟨⟨h, rfl⟩, rfl⟩, rfl⟩, rfl⟩

/-! ## A fuse map copy (R392) -/

theorem length_leBytes (n : Nat) : ∀ x, (leBytes n x).length = n := by
  induction n with
  | zero => intro x; rfl
  | succ n ih => intro x; simp [leBytes, ih]

theorem leNat_leBytes (n : Nat) : ∀ x, leNat (leBytes n x) = x % 256 ^ n := by
  induction n with
  | zero => intro x; simp [leBytes, leNat]; omega
  | succ n ih =>
    intro x
    rw [leBytes, leNat, ih, BitVec.toNat_ofNat, show 256 ^ (n + 1) = 256 * 256 ^ n from Nat.pow_succ']
    exact Nat.mod_mul.symm

theorem crcBit_lt {c : Nat} (h : c < 2 ^ 32) : crcBit c < 2 ^ 32 := by
  unfold crcBit
  split
  · exact Nat.xor_lt_two_pow (by omega) (by decide)
  · omega

theorem crcByte_lt {c : Nat} (h : c < 2 ^ 32) (b : Byte) : crcByte c b < 2 ^ 32 :=
  crcBit_lt (crcBit_lt (crcBit_lt (crcBit_lt (crcBit_lt (crcBit_lt (crcBit_lt (crcBit_lt
    (Nat.xor_lt_two_pow h (Nat.lt_trans b.isLt (by decide))))))))))

theorem crc32c_lt (bs : List Byte) : crc32c bs < 2 ^ 32 := by
  have : ∀ c, c < 2 ^ 32 → bs.foldl crcByte c < 2 ^ 32 := by
    induction bs with
    | nil => exact fun c h => h
    | cons b r ih => exact fun c h => ih _ (crcByte_lt h b)
  exact Nat.xor_lt_two_pow (this _ (by decide)) (by decide)

/-- A fuse map copy with no loft entry, no fuse-bad stall and steering of row and column 0, and a CRC. -/
def fuseMap (crc : Nat) : List Byte := [0x46, 0x4D, 1] ++ (zeros 21545 ++ leBytes 4 crc)

theorem slice_zeros (pre t : List Byte) (m off k : Nat) (h1 : pre.length ≤ off) (h2 : off + k ≤ pre.length + m) :
    slice (pre ++ (zeros m ++ t)) off k = zeros k := by
  unfold slice zeros
  have : ((pre ++ (List.replicate m 0 ++ t)).drop off).take k = List.replicate k (0 : Byte) := by
    rw [List.drop_append, List.drop_eq_nil_of_le h1, List.nil_append, List.drop_append, List.drop_replicate, List.take_append]
    simp only [List.length_replicate, List.take_replicate]
    rw [show k - (m - (off - pre.length)) = 0 by omega, List.take_zero, List.append_nil,
      show min k (m - (off - pre.length)) = k by omega]
  rw [this]; simp

theorem leNat_zeros (k : Nat) : leNat (zeros k) = 0 := by
  induction k with
  | zero => rfl
  | succ k ih => rw [zeros, List.replicate_succ, leNat]; simp [zeros] at ih; simp [ih]

theorem length_fuse : ([0x46, 0x4D, 1] ++ zeros 21545 : List Byte).length = 21548 := by
  rw [List.length_append, zeros, List.length_replicate]; rfl

theorem fuse_tail (crc : Nat) : leAt (fuseMap crc) 21548 4 = crc % 2 ^ 32 ∧ slice (fuseMap crc) 0 21548 = [0x46, 0x4D, 1] ++ zeros 21545 := by
  constructor
  · have e : fuseMap crc = ([0x46, 0x4D, 1] ++ zeros 21545) ++ leBytes 4 crc := (List.append_assoc _ _ _).symm
    have hl : ([0x46, 0x4D, 1] ++ zeros 21545 : List Byte).length = 21548 := length_fuse
    have : slice (fuseMap crc) 21548 4 = leBytes 4 crc := by
      unfold slice
      rw [e, List.drop_append, List.drop_eq_nil_of_le (by omega), hl, Nat.sub_self, List.drop_zero, List.nil_append,
        List.take_of_length_le (Nat.le_of_eq (length_leBytes 4 crc))]
      simp [length_leBytes]
    have h : (256 : Nat) ^ 4 = 2 ^ 32 := by decide
    rw [leAt, this]; exact (leNat_leBytes 4 crc).trans (congrArg (crc % ·) h)
  · have e : fuseMap crc = ([0x46, 0x4D, 1] ++ zeros 21545) ++ leBytes 4 crc := (List.append_assoc _ _ _).symm
    have hl : ([0x46, 0x4D, 1] ++ zeros 21545 : List Byte).length = 21548 := length_fuse
    unfold slice
    rw [e, List.drop_zero, List.take_append, hl, Nat.sub_self, List.take_zero, List.append_nil,
      List.take_of_length_le (Nat.le_of_eq hl)]
    show _ ++ List.replicate (21548 - ([0x46, 0x4D, 1] ++ zeros 21545 : List Byte).length) 0 = _
    rw [hl]; exact List.append_nil _

theorem fuse_zero (crc off k : Nat) (h1 : 3 ≤ off) (h2 : off + k ≤ 21548) : leAt (fuseMap crc) off k = 0 := by
  rw [leAt, fuseMap, slice_zeros _ _ _ _ _ h1 (by simpa using h2), leNat_zeros]

theorem fuseMapOk_fuseMap (crc : Nat) : fuseMapOk (fuseMap crc) = true := by
  have hs : ∀ p, p < 1280 → fuseStall (fuseMap crc) p = 0 := fun p h => fuse_zero crc _ _ (by omega) (by omega)
  have hl : ∀ i, i < 4096 → fuseLoft (fuseMap crc) i = 0 := fun i h => fuse_zero crc _ _ (by omega) (by omega)
  have hc : fuseCount (fuseMap crc) = 0 := fuse_zero crc 4 2 (by omega) (by omega)
  simp only [fuseMapOk, Bool.and_eq_true, List.all_eq_true, List.mem_range, hc]
  refine ⟨⟨⟨⟨⟨rfl, rfl⟩, rfl⟩, by decide⟩, fun i h => by simp [hl i h]⟩, fun p h => ?_⟩
  rw [hs p h]; decide

theorem fuseCrcOk_fuseMap (crc : Nat) :
    fuseCrcOk (fuseMap crc) = decide (crc32c ([0x46, 0x4D, 1] ++ zeros 21545) = crc % 2 ^ 32) := by
  rw [fuseCrcOk, (fuse_tail crc).1, (fuse_tail crc).2]

/-! ## Witnesses: the queue, reset, pins and power -/

theorem test_StepRunsFrontCommand : ({ live with pending := [.smbPower true, .secSvnCommit .priv 0] } : State).pending =
    .smbPower true :: [.secSvnCommit .priv 0] ∧ State.reset.pending = [] := by decide

theorem test_CommandsRunAndLeaveTheQueue :
    exec .pwrgdCoreRise State.reset = .next { State.reset with pins.pwrgdCore := true } := rfl

theorem test_ResetRegisterValues : regWord .priv (0x100 + 8 * 3) State.reset = 0 ∧
    regWord .priv (bringBase + 0x2000 + 8 * 1279) State.reset = 0xFFFFFFF07FF ∧
    regWord .priv (loftBase + 0x200 + 8 * 15) State.reset = 0 ∧ regWord .priv (fabBase + 0x100 + 8 * 5) State.reset = 0x80400 ∧
    regWord .priv (gateBase + 0x280 + 8 * 11) State.reset = 0xF <<< 32 := by decide +kernel

theorem test_PinsAndReset : live.sec.run = none ∧ live.pins.resetN = true ∧ State.reset.pins.resetN = false ∧
    State.reset.pins.pwrgdAux = false ∧ barnsOn State.reset = false := by decide

theorem test_HubBootEnds : ({ State.reset with dev.booting := true } : State).dev.booting = true := rfl

/-- The hottest die at 115 °C and just below it, the core supplies at the ends of their range. -/
theorem test_SensorsAndStops : (live.pins.pwrgdCore = true ∧ barnsOn live = true ∧ live.pwr.supplyLogged = false) ∧
    (live.pins.resetN = true ∧ live.pins.pwrgdAux = true ∧ live.pwr.thermalLogged = false ∧
      920 ≤ ([0, 0, 0, 0, 920] : List Int).getD 4 0) ∧
    ((∀ d, d < 5 → ([919, 919, 919, 919, 919] : List Int).getD d 0 < 920) ∧
      ∀ b, b < 4 → 600 ≤ ([600, 870, 600, 870] : List Nat).getD b 0 ∧ ([600, 870, 600, 870] : List Nat).getD b 0 ≤ 870) ∧
    (65535 < 2 ^ 16 ∧ ([600, 870, 600, 870] : List Nat).length = 4) := by decide

/-- In AUX, and in IDLE with no yard on. -/
theorem test_PowerTransitions : (let s := { State.reset with pins := ⟨true, true, true⟩, host.up := true };
      hubServes s = true ∧ unitStopped s 8 4 = false ∧ s.pwr.moving = none ∧ s.pwr.tripped = false ∧ yardsMoving s = false ∧ stateAllowed .idle s = true ∧
      stateAllowed .standby s = false ∧ stateAllowed .aux s = false) ∧
    (let s := { live with pwr.yardOn := 0 };
      hubServes s = true ∧ unitStopped s 8 4 = false ∧ s.pwr.moving = none ∧ s.pwr.tripped = false ∧ yardsMoving s = false ∧ stateAllowed .standby s = true ∧
      stateAllowed .aux s = true ∧ stateAllowed .idle s = false) ∧
    (let s := { live with pwr.moving := some .idle };
      s.pwr.pend = none ∧ s.pwr.yardsQueued = none ∧ s.pwr.moving = some .idle) ∧
    ({ live with pwr.moving := some .standby } : State).pwr.moving = some .standby ∧
    ({ live with pwr.moving := some .aux } : State).pwr.moving = some .aux := by decide

/-- Yard 0 to gate and yards 1, 2 and 39 to ungate; then yard 39 in each motion. -/
theorem test_YardMoves : (let s := { live with pwr.yardSet := 0x8000000006 };
      hubServes s = true ∧ unitStopped s 8 4 = false ∧ barnsOn s = true ∧ s.pwr.tripped = false ∧ s.pwr.gating = 0 ∧ s.pwr.ungating = 0 ∧ s.pwr.waitingY = 0 ∧
      s.pwr.pendY = 0 ∧ ∀ y, y < 40 → s.pwr.yardOn.getLsbD y = true → s.pwr.yardSet.getLsbD y = false → yardFree s y = true) ∧
    (let s := { live with pwr.yardOn := 0x8000000000, pwr.gating := 0x8000000000 };
      s.pwr.pendY = 0 ∧ s.pwr.pend = none ∧ s.pwr.gating.getLsbD 39 = true) ∧
    (let s := { live with pwr.ungating := 0x8000000000 };
      s.pwr.ungating.getLsbD 39 = true ∧ s.pwr.waitingY.getLsbD 39 = false) := by decide +kernel

/-! ## Witnesses: bring-up -/

theorem test_StallQualification_fuses : (let s := rising .fwOk;
      hubServes s = true ∧ unitStopped s 9 0 = false ∧ s.bring.run = none ∧ s.bring.ended = false ∧ s.bring.phase = .fwOk) ∧
    (∃ a, fuseCrcOk a = true ∧ fuseMapOk a = true) ∧ ∃ b, fuseCrcOk b = false :=
  ⟨by decide, ⟨fuseMap (crc32c ([0x46, 0x4D, 1] ++ zeros 21545)), by
      rw [fuseCrcOk_fuseMap, Nat.mod_eq_of_lt (crc32c_lt _)]; simp, fuseMapOk_fuseMap _⟩,
    fuseMap (crc32c ([0x46, 0x4D, 1] ++ zeros 21545) + 1), by
      rw [fuseCrcOk_fuseMap]
      have := crc32c_lt ([0x46, 0x4D, 1] ++ zeros 21545)
      exact decide_eq_false (by omega)⟩

/-- A wave of stalls 0 and 31, and stall 31 the last to report. -/
theorem test_StallQualification_wave : (let s := { rising .fused with bring.waves := [(0, 0x80000001)], bring.pst := [] };
      s.bring.phase = .fused ∧ markedStalls s = [0, 31] ∧ waveInvalid (markedStalls s) = false ∧
      ∀ p ∈ markedStalls s, yardUp s (yardOf p) = true ∧ (pstAt s p).test = .untested) ∧
    (let s := { rising .fused with bring.run := some (.selftest, 5), bring.wave := [0, 31]
                                   bring.pst := [(0, { test := .pass }), (31, { test := .running })] };
      s.bring.run = some (.selftest, 5) ∧ (pstAt s 31).test = .running ∧ (pstAt s 31).drillStop = false ∧
      (∀ q ∈ s.bring.wave, q ≠ 31 → (pstAt s q).test ≠ .running) ∧ hubServes s = true ∧ unitStopped s 9 0 = false) := by decide +kernel

theorem test_ReconcileMapsHomes : hubServes tested = true ∧ unitStopped tested 9 0 = false ∧ tested.bring.run = none ∧ tested.bring.ended = false ∧
    tested.bring.phase = .testing ∧ (∀ p, (pstAt tested p).logical = none) ∧
    ∀ p, p < 1280 → (pstAt tested p).fuseBad = false ∧ (pstAt tested p).test = .pass := by
  have h : ∀ p, pstAt tested p = (if 0 ≤ p ∧ p < 0 + 1280 then some ({ test := .pass } : Pst) else none).getD {} := fun p => by
    show tget ({} : Pst) (row (fun _ => ({ test := .pass } : Pst)) 0 1280) p = _
    rw [tget, tfind_row]
  refine ⟨rfl, rfl, rfl, rfl, rfl, fun p => ?_, fun p hp => ?_⟩
  · rw [h]; split <;> rfl
  · rw [h]; simp [hp]

/-- Each task in its phase, LINK_QUAL of every engine. -/
theorem test_BringUpTasks : (∀ p ∈ [Phase.reconciled, .main, .loftOk], hubServes (rising p) = true ∧ unitStopped (rising p) 9 0 = false ∧ (rising p).bring.run = none ∧
      (rising p).bring.ended = false ∧ (rising p).bring.phase = p ∧ (rising p).bring.loftTested = false ∧
      (rising p).bring.wasReady = false ∧ barnsOn (rising p) = true) ∧ bits 0x7FFF 14 0 ≠ 0 ∧
    (let s := { rising .reconciled with bring.run := some (.fwBcast, 1) };
      s.bring.run = some (.fwBcast, 1) ∧ unitStopped s 9 0 = false ∧ s.bring.phase = .reconciled) ∧
    (let s := { rising .main with bring.run := some (.loftTest, 1) };
      s.bring.run = some (.loftTest, 1) ∧ exhausted s.bring.fuseRemap [] = none) ∧
    (let s := { rising .loftOk with bring.run := some (.linkQual 0x1000, 1), bring.hostPass := true, bring.storePass := true };
      s.bring.run = some (.linkQual 0x1000, 1) ∧ s.bring.phase = .loftOk ∧ s.bring.hostPass = true ∧ s.bring.storePass = true) := by
  decide +kernel

theorem test_ModesAndDrill : (let s := rising .broadcast;
      hubServes s = true ∧ unitStopped s 9 0 = false ∧ s.bring.run = none ∧ s.bring.ended = false ∧ s.bring.phase = .broadcast) ∧
    (hubServes qualified = true ∧ unitStopped qualified 9 0 = false ∧ qualified.bring.run = none ∧ qualified.bring.ended = false ∧ qualified.bring.phase = .qualified ∧
      readyConfirms qualified = true) ∧
    (let s := { live with pwr.yardOn := 0, sec.owned := false };
      s.bring.phase = .ready ∧ pstateCode s = 3 ∧ s.pwr.moving = none ∧ s.sec.owned = false ∧ residentCount s = 0 ∧
      hubServes s = true ∧ unitStopped s 9 0 = false ∧ s.bring.run = none ∧ s.bring.ended = false) ∧
    (let s := rising .main;
      s.bring.phase ≠ .refused ∧ s.bring.drill = true ∧ 1279 < 1280 ∧ 0x0402 ≠ 0x0604 ∧ 0x0402 ≠ 0x0401 ∧
        unitDown s 0 1279 = false ∧ unitDown s 2 31 = false) ∧
    (∀ u ∈ [(4, 0), (9, 0), (8, 4), (7, 0)], let s := { rising .main with bring.stopUnits := [u] };
      unitStopped s u.1 u.2 = true ∧ unitDown s u.1 u.2 = true) :=
  ⟨by decide, ⟨rfl, rfl, rfl, rfl, rfl, readyConfirms_qualified⟩, by decide, by decide, by decide⟩

/-! ## Witnesses: security -/

/-- A firmware image of one hub block and one stall block, version 64. -/
def fwImage : List Byte :=
  [0x57, 0x4A, 0x32, 0x46, 1, 0, 64, 0] ++ leBytes 4 512 ++ leBytes 4 512 ++ zeros 48 ++ zeros 1024 ++ [0, 0, 0, 0, 0, 0, 0, 4] ++
    zeros 1120 ++ [0, 0, 0, 8] ++ zeros 640

/-- A state with an image fetched. -/
def fetched (img : List Byte) : State := { rising .booted with
  sec.run := some (.verify 2860, 3), sec.fetched := [(0, img)], sec.fetchNext := 2860 }

theorem test_FirmwareAndFuses_start : (let s := rising .booted;
      hubServes s = true ∧ unitStopped s 7 0 = false ∧ s.sec.run = none ∧ s.bring.phase = .booted) ∧
    (let s := { rising .fwOk with sec.fw := some ⟨[], [], 65, 0⟩ };
      fwOnward s = true ∧ fusedSvn s < runningSvn s) ∧
    (let s := { rising .fwOk with sec.fw := some ⟨[], [], 0, 0⟩ };
      fwOnward s = true ∧ runningSvn s ≤ fusedSvn s) ∧
    ({ rising .fwOk with sec.epoch := some 0 } : State).sec.epoch.isSome = true :=
  ⟨by decide, ⟨by decide, by
      show min 64 (Config.svnFused % 65 + 0) < 65
      omega⟩, ⟨by decide, Nat.zero_le _⟩, rfl⟩

/-- For a vendor key that accepts the image and a part with an epoch fuse left. -/
theorem test_FirmwareAndFuses_verify (hsig : lmsVerify (padTo 56 Config.vendorKey) (fwDigest (fwBytes (fetched fwImage)))
      (slice (fwBytes (fetched fwImage)) (64 + fwHubLen (fwBytes (fetched fwImage)) + fwStallLen (fwBytes (fetched fwImage))) 1772) = true)
    (hep : Config.epochsFused % 32769 < 32768) :
    unitStopped (fetched fwImage) 7 0 = false ∧ (fetched fwImage).sec.run = some (.verify 2860, 3) ∧ fetchOver 2860 (fetched fwImage) = true ∧
    (fetched fwImage).sec.fetchBad = false ∧ fwHeaderOk (fwBytes (fetched fwImage)) 2860 = true ∧
    fwSignatureOk (fwBytes (fetched fwImage)) = true ∧ fusedSvn (fetched fwImage) ≤ byteAt (fwBytes (fetched fwImage)) 6 ∧
    (fetched fwImage).bring.phase = .booted ∧ (fetched fwImage).sec.stepFive = false ∧ epochsUsed (fetched fwImage) < 32768 := by
  have h6 : byteAt (fwBytes (fetched fwImage)) 6 = 64 := by decide +kernel
  have ht : fwSigTypes (slice (fwBytes (fetched fwImage)) (64 + fwHubLen (fwBytes (fetched fwImage)) +
    fwStallLen (fwBytes (fetched fwImage))) 1772) = true := by decide +kernel
  refine ⟨rfl, rfl, by decide, rfl, by decide +kernel, ?_, ?_, rfl, rfl, ?_⟩
  · simp only [fwSignatureOk, ht, hsig, Bool.and_self]
  · rw [h6]; exact Nat.min_le_left _ _
  · show min 32768 (Config.epochsFused % 32769 + 0) < 32768
    omega

theorem test_FirmwareAndFuses_rollback (hsig : let b := fwBytes { fetched (fwImage.set 6 63) with sec.svnBurned := 64 }
      lmsVerify (padTo 56 Config.vendorKey) (fwDigest b) (slice b (64 + fwHubLen b + fwStallLen b) 1772) = true) :
    (let img := fwImage.set 6 63;
     let s := { fetched img with sec.svnBurned := 64 };
      unitStopped s 7 0 = false ∧ s.sec.run = some (.verify 2860, 3) ∧ fetchOver 2860 s = true ∧ s.sec.fetchBad = false ∧
      fwHeaderOk (fwBytes s) 2860 = true ∧ fwSignatureOk (fwBytes s) = true ∧ byteAt (fwBytes s) 6 < fusedSvn s) := by
  have h6 : byteAt (fwBytes { fetched (fwImage.set 6 63) with sec.svnBurned := 64 }) 6 = 63 := by decide +kernel
  have ht : fwSigTypes (slice (fwBytes { fetched (fwImage.set 6 63) with sec.svnBurned := 64 })
    (64 + fwHubLen (fwBytes { fetched (fwImage.set 6 63) with sec.svnBurned := 64 }) +
      fwStallLen (fwBytes { fetched (fwImage.set 6 63) with sec.svnBurned := 64 })) 1772) = true := by decide +kernel
  refine ⟨rfl, rfl, by decide, rfl, by decide +kernel, ?_, ?_⟩
  · simp only [fwSignatureOk, ht, hsig, Bool.and_self]
  · rw [h6]
    show 63 < min 64 (Config.svnFused % 65 + 64)
    omega

theorem test_FirmwareAndFuses_commit :
    (let s := { rising .fwOk with sec.run := some (.svnCommit, 3), sec.fw := some ⟨[], [], 64, 0⟩ };
      unitStopped s 7 0 = false ∧ s.sec.run = some (.svnCommit, 3) ∧ fusedSvn s ≤ runningSvn s ∧ runningSvn s ≤ 64) :=
  ⟨rfl, rfl, Nat.min_le_left _ _, Nat.le_refl _⟩

theorem test_SignWritesReport : hubServes live = true ∧ unitStopped live 7 0 = false ∧ live.sec.sign = none ∧ 2 ≤ phaseCode live.bring.phase ∧
    signRefusal live = none ∧
    (let s := { live with sec.sign := some ⟨.job, 7, 0x1000, zeros 32⟩, sec.tree := true };
      s.sec.sign = some ⟨.job, 7, 0x1000, zeros 32⟩ ∧ s.sec.tree = true) := by decide

theorem test_OwnershipChanges : hubServes live = true ∧ 2 ^ 32 - 1 < 2 ^ 32 ∧ grantOk { live with sec.owned := false } = true ∧
    releaseOk live = true := by decide +kernel

/-! ## A syllabus image (R204 to R217, R244): circuit 5 of one stall, stall 1, with one FENCE, and one timetable of one row -/

/-- Header, directory and sections: 2,816 bytes. -/
def imageBody : List Byte :=
  [0x57, 0x4A, 0x32, 0x53, 1, 0, 0, 0] ++ leBytes 8 2880 ++ leBytes 8 0x77 ++ leBytes 4 6 ++ leBytes 4 256 ++
  (leBytes 2 1200 ++ [64, 64, 64, 16] ++ leBytes 2 1024 ++ leBytes 4 2097152 ++ leBytes 2 64 ++ leBytes 2 256 ++ [1, 1] ++ zeros 14) ++
  zeros 192 ++
  (leBytes 4 1 ++ leBytes 4 0 ++ leBytes 8 512 ++ leBytes 8 150 ++ zeros 8) ++
  (leBytes 4 2 ++ leBytes 4 1 ++ leBytes 8 768 ++ leBytes 8 576 ++ zeros 8) ++
  (leBytes 4 3 ++ leBytes 4 0 ++ leBytes 8 1536 ++ leBytes 8 34 ++ zeros 8) ++
  (leBytes 4 4 ++ leBytes 4 0 ++ leBytes 8 1792 ++ leBytes 8 80 ++ zeros 8) ++
  (leBytes 4 8 ++ leBytes 4 0 ++ leBytes 8 2048 ++ leBytes 8 352 ++ zeros 8) ++
  (leBytes 4 5 ++ leBytes 4 0 ++ leBytes 8 2560 ++ leBytes 8 64 ++ zeros 8) ++ zeros 64 ++
  ([2] ++ zeros 255) ++
  (leBytes 2 1 ++ leBytes 2 1 ++ leBytes 4 0x4000 ++ leBytes 4 0 ++ leBytes 4 0x4000 ++ leBytes 4 512 ++ zeros 44 ++
    ([0x7F, 0, 0, 0, 0, 0] ++ leBytes 2 0xFFFF ++ leBytes 4 0x3FFFFF ++ zeros 500) ++ zeros 192) ++
  (leBytes 4 1 ++ zeros 12 ++ ([5, 0] ++ leBytes 2 0 ++ leBytes 2 1 ++ leBytes 2 0 ++ leBytes 4 32 ++ zeros 4) ++ leBytes 2 1 ++
    zeros 222) ++
  (leBytes 4 1 ++ zeros 12 ++ ([5, 1, 2, 1] ++ leBytes 2 1 ++ [0, 1] ++ leBytes 4 0x10000 ++ zeros 52) ++ zeros 176) ++
  zeros 512 ++
  (leBytes 4 1 ++ zeros 12 ++ (leBytes 2 1 ++ zeros 2 ++ leBytes 4 32 ++ zeros 8) ++ zeros 32 ++ zeros 192)

/-- FIPS 180-4's example message. -/
theorem test_sha256_abc : sha256 [0x61, 0x62, 0x63] =
    [0xBA, 0x78, 0x16, 0xBF, 0x8F, 0x01, 0xCF, 0xEA, 0x41, 0x41, 0x40, 0xDE, 0x5D, 0xAE, 0x22, 0x23,
     0xB0, 0x03, 0x61, 0xA3, 0x96, 0x17, 0x7A, 0x9C, 0xB4, 0x10, 0xFF, 0x61, 0xF2, 0x00, 0x15, 0xAD] := by decide +kernel

theorem length_shaRound (v : List W32) (k : W32) (h : v.length = 8) : (shaRound v k).length = 8 := by
  match v, h with
  | [_, _, _, _, _, _, _, _], _ => rfl

theorem length_rounds (ks : List W32) : ∀ v : List W32, v.length = 8 → (ks.foldl shaRound v).length = 8 := by
  induction ks with
  | nil => exact fun v h => h
  | cons k r ih => exact fun v h => ih _ (length_shaRound v k h)

theorem length_blocks (bs : List (List Byte)) : ∀ h : List W32, h.length = 8 → (bs.foldl shaBlock h).length = 8 := by
  induction bs with
  | nil => exact fun h e => e
  | cons b r ih =>
    refine fun h e => ih _ ?_
    rw [shaBlock]
    simp only [List.length_map, List.length_zip, e, length_rounds _ h e, Nat.min_self]

theorem length_sha256 (bs : List Byte) : (sha256 bs).length = 32 := by
  have h := length_blocks (chunks 64 (shaPad bs)) shaInit rfl
  rw [sha256, List.length_flatMap]
  simp only [beBytes, List.length_reverse, length_leBytes, List.map_const', List.sum_replicate_nat, h]

theorem digest_exists (bs : List Byte) : ∃ d, d = sha256 bs := ⟨_, rfl⟩

/-- The digest of a body, as a value that no evaluation looks into. -/
noncomputable def digestOf (bs : List Byte) : List Byte := (List.range 32).map fun i => (Classical.choose (digest_exists bs)).getD i 0

theorem digestOf_eq (bs : List Byte) : digestOf bs = sha256 bs := by
  rw [digestOf, Classical.choose_spec (digest_exists bs)]
  refine List.ext_getElem (by simp [length_sha256]) fun i h _ => ?_
  have hi : i < (sha256 bs).length := by rw [length_sha256]; simpa using h
  rw [List.getElem_map, List.getElem_range, List.getD_eq_getElem?_getD, List.getElem?_eq_getElem hi, Option.getD_some]

/-- The trailer before the digest. -/
def imageTrailer : List Byte := [0x57, 0x4A, 0x32, 0x54, 0xFF, 0, 0, 0] ++ leBytes 8 2880 ++ zeros 16

/-- The image with its trailer. -/
noncomputable def image : List Byte := imageBody ++ imageTrailer ++ digestOf imageBody

theorem test_image_containers : firstBad (check1 image) = none ∧ firstBad (check4 image) = none ∧ firstBad (check5 image) = none ∧
    imgSigLen image = 0 ∧ trailerOff image = 2816 ∧ image.length = 2880 := by decide +kernel

theorem test_image_sections : check6 image = none := by decide +kernel

theorem length_imageBody : imageBody.length = 2816 := by decide +kernel

theorem test_image_digest : firstBad (check2 image) = none := by
  obtain ⟨-, -, -, hs, ht, hl⟩ := test_image_containers
  have h1 : image.take 2816 = imageBody := by
    rw [image, List.append_assoc, List.take_append, length_imageBody, Nat.sub_self, List.take_zero, List.append_nil,
      List.take_of_length_le (Nat.le_of_eq length_imageBody)]
  have h2 : slice image 2848 32 = sha256 imageBody := by
    have hl2 : (imageBody ++ imageTrailer).length = 2848 := by rw [List.length_append, length_imageBody]; rfl
    have hd : image.drop 2848 = sha256 imageBody := by
      rw [image, List.drop_append, List.drop_eq_nil_of_le (Nat.le_of_eq hl2), hl2, Nat.sub_self, List.drop_zero, List.nil_append,
        digestOf_eq]
    simp only [slice, hd]
    rw [List.take_of_length_le (Nat.le_of_eq (length_sha256 _)), length_sha256]
    exact List.append_nil _
  simp [check2, imgDigest, hs, ht, hl, h1, h2, firstBad]

theorem finishFault_image : finishFault false 0 [] image = none := by
  obtain ⟨h1, h4, h5, hs, -⟩ := test_image_containers
  simp only [finishFault, secFault, h1, test_image_digest, h4, h5, hs, test_image_sections]
  rfl

/-! ## Witnesses: the syllabus cache -/

/-- The stall of the image after its commit: its descriptor in scratch, nothing run. -/
def loadedStall : Stall := {
  loaded := some { slot := 0, circuit := 5, dtbase := 0x4000, dtcount := 1, entry := 0 }
  scratch := [(0x4000, 0x7F), (0x4006, 0xFF), (0x4007, 0xFF), (0x4008, 0xFF), (0x4009, 0xFF), (0x400A, 0x3F)] }

/-- The image resident and its circuit running. -/
def working : State := { live with
  syl.slots := [(0, { st := .resident, bytes := imageBody })]
  roll.circuits := [(5, { st := .running })]
  stalls := [(1, loadedStall)] }

theorem reaches_live {s : State} {v : View} {a : Nat} (hu : hubServes s = true) (h : jobReach s a true = true) : Reaches s v a := ⟨hu, fun _ => h⟩

/-- An EMPTY slot takes the whole image; a slot that holds 64 bytes takes 64 more. -/
theorem test_SyllabusStaging_stage : Reaches live .job sylBase ∧ jobBar false live = none ∧
    (let s := { live with syl.argLen := 2816, loft.parts := [(3, ⟨2, 0, 1⟩)] };
      s.syl.argLen ≠ 0 ∧ (slotAt s (63 % 64)).st = .empty ∧ s.syl.argOff = 0 ∧
      (cachePlace s (63 % 64) (imgAt s (63 % 64)).length (imgAt s (63 % 64) ++ padTo s.syl.argLen imageBody)).isSome = true ∧
      (256 ≤ (imgAt s (63 % 64) ++ padTo s.syl.argLen imageBody).length →
        (imgAt s (63 % 64) ++ padTo s.syl.argLen imageBody).length ≤
          imgLength (imgAt s (63 % 64) ++ padTo s.syl.argLen imageBody))) ∧
    (let s := { live with syl.argLen := 64, syl.argOff := 64, syl.slots := [(63, { st := .filling, bytes := imageBody.take 64 })]
                          loft.parts := [(3, ⟨2, 0, 1⟩)] };
      s.syl.argLen ≠ 0 ∧ (slotAt s (63 % 64)).st = .filling ∧ s.syl.argOff = (imgAt s (63 % 64)).length ∧
      (cachePlace s (63 % 64) (imgAt s (63 % 64)).length (imgAt s (63 % 64) ++ padTo s.syl.argLen imageBody)).isSome = true ∧
      (256 ≤ (imgAt s (63 % 64) ++ padTo s.syl.argLen imageBody).length →
        (imgAt s (63 % 64) ++ padTo s.syl.argLen imageBody).length ≤
          imgLength (imgAt s (63 % 64) ++ padTo s.syl.argLen imageBody))) :=
  ⟨reaches_live rfl rfl, by decide, by decide +kernel, by decide +kernel⟩

/-- No entry of the cache partition: no room for a byte. -/
theorem test_SyllabusStaging_room : (let s := { live with syl.argLen := 2816 };
    s.syl.argLen ≠ 0 ∧ (slotAt s (0 % 64)).st = .empty ∧ s.syl.argOff = 0 ∧
    cachePlace s (0 % 64) (imgAt s (0 % 64)).length (imgAt s (0 % 64) ++ padTo s.syl.argLen imageBody) = none) := by decide +kernel

theorem test_SyllabusStaging_finish : (let s := { live with syl.slots := [(0, { st := .filling, bytes := image })] };
    (slotAt s (0 % 64)).st = .filling ∧ finishFault s.syl.require s.syl.keyv s.syl.keys (imgAt s (0 % 64)) = none) :=
  ⟨rfl, finishFault_image⟩

theorem test_SyllabusStaging_empty : (let s := { live with syl.slots := [(0, { st := .staged }), (1, { st := .bad }), (2, { st := .filling })] };
    jobBar false s = none ∧ pinned s (0 % 64) = false ∧ (slotAt s (0 % 64)).st = .staged ∧ pinned s (1 % 64) = false ∧
    (slotAt s (1 % 64)).st = .bad ∧ (slotAt s (2 % 64)).st = .filling) := by decide

theorem test_SyllabusLoads : (let s := { live with syl.slots := [(0, { st := .staged, bytes := imageBody })] };
      Reaches s .job sylBase ∧ s.syl.load = none ∧ jobBar true s = none ∧ loadBar s (0 % 64) = none) ∧
    (let s := { live with syl.held := true, syl.loadFailed := true };
      s.syl.load = none ∧ jobBar false s = none ∧ s.syl.loadFailed = true) ∧
    (let s := { live with syl.slots := [(0, { st := .staged, bytes := imageBody })], syl.load := some ⟨0, ⟨.reg, 9⟩, 0⟩ };
      s.syl.load = some ⟨0, ⟨.reg, 9⟩, 0⟩ ∧ ∀ w ∈ cachedWords (slotAt s 0), poisonedWord s w = false) ∧
    (let s := { live with syl.slots := [(0, { st := .staged, bytes := imageBody, pages := [⟨0, none, 0x200000⟩] })]
                          syl.load := some ⟨0, ⟨.reg, 9⟩, 0⟩ };
      s.syl.load = some ⟨0, ⟨.reg, 9⟩, 0⟩ ∧ ∃ w ∈ cachedWords (slotAt s 0), w ∈ [0x200040]) ∧
    (Reaches working .job sylBase ∧ jobBar true working = none ∧ working.syl.load = none ∧
      (slotAt working (0 % 64)).st = .resident ∧
      unloadBusy { working with roll.circuits := [(5, { st := .stopped })] } (imgAt working (0 % 64)) = false) :=
  ⟨⟨reaches_live rfl rfl, rfl, by decide, by decide +kernel⟩, by decide, by decide +kernel, by decide +kernel, reaches_live rfl rfl, by decide, rfl, rfl, by decide +kernel⟩

theorem test_SyllabusPolicyAndKeys : hubServes live = true ∧ live.syl.lock = false ∧ live.syl.keyv.testBit 3 = false ∧
    ({ live with syl.lock := true } : State).syl.lock = true ∧
    ({ live with syl.keyv := 8 } : State).syl.keyv.testBit 3 = true := by decide

/-! ## Witnesses: the roll -/

/-- Entry 4095 in a state, its registers those of a sample of circuit 5 with one step. -/
def rollState (st : SampleState) : State := { working with
  roll.entries := [(4095, { st := st, circuit := 5, nsteps := 1 })], roll.regs := { circuit := 5, nsteps := 1 } }

theorem test_RollEntryCommands : (∀ st ∈ [SampleState.free, .ready, .inflight, .done, .paused], unitBar (rollState st) = none ∧
    jobBar true (rollState st) = none ∧ (entryAt (rollState st) (4095 % 4096)).st = st ∧
    entryOk (rollState st) (4095 % 4096) (rollState st).roll.regs = true) ∧ Reaches (rollState .free) .job rollBase :=
  ⟨by decide +kernel, reaches_live rfl rfl⟩

/-- The record of a worklist of circuit 5 with entry 4095, TAG 1. -/
def worklist : List Byte := [5, 1, 0, 0, 1, 0, 0, 0] ++ zeros 8 ++ [0xFF, 0x0F]

theorem test_RollCircuitCommands : Reaches working .job rollBase ∧ jobBar true working = none ∧ working.flt.jstopped = false ∧
    (circAt { working with roll.circuits := [(5, { st := .stopped })] } (5 % 32)).st = .stopped ∧
    (circAt working (5 % 32)).st = .running ∧
    (circAt { working with roll.circuits := [(5, { st := .draining })] } (5 % 32)).st = .draining ∧
    [4095] = ((List.range (byteAt worklist 1)).map fun i => leAt worklist (16 + 2 * i) 2) ∧
    worklistBar (rollState .ready) (byteAt worklist 0) (byteAt worklist 1) [4095] = none :=
  ⟨reaches_live rfl rfl, by decide +kernel⟩

theorem test_RollDrivenKeepsEightMarks : hubServes live = true ∧ 8 < (setBits 32 (0x1FF : W64).toNat).length ∧
    (setBits 32 (0xFF : W64).toNat).length ≤ 8 := by decide

/-- A roll-driven round and one of a worklist, and a round that its one stall has ended. -/
theorem test_RoundsIssueAndComplete :
    (∀ s ∈ [{ rollState .ready with roll.circuits := [(5, { st := .running, driven := true })] },
        { rollState .inflight with roll.circuits := [(5, { st := .running, pending := [⟨1, .reg, [4095]⟩] })] }],
      circOf s 5 = some (0, (circuitsOf imageBody).getD 0 (circRec [] 0)) ∧ (circAt s 5).st = .running ∧ issueBarred s 5 = false ∧
      (circAt s 5).flight.length < ((circuitsOf imageBody).getD 0 (circRec [] 0)).rdepth ∧
      ((circAt s 5).driven = true → selection s 5 ((circuitsOf imageBody).getD 0 (circRec [] 0)) = some [4095]) ∧
      ((circAt s 5).driven = false → (circAt s 5).pending.map (·.entries) = [[4095]])) ∧
    (let s := { rollState .inflight with roll.circuits := [(5, { st := .running, flight := [⟨7, [4095], [1], none⟩] })] };
      circOf s 5 = some (0, (circuitsOf imageBody).getD 0 (circRec [] 0)) ∧ (circAt s 5).flight = [⟨7, [4095], [1], none⟩] ∧
      (∀ n ∈ circStalls (imgAt s 0) 5, n ∈ [1]) ∧ ([4095] : List Nat).Nodup) := by decide +kernel

/-! ## Witnesses: programs and operations -/

/-- An answer is there. -/
def isOk {α : Type} : Got α → Bool
  | .ok _ => true
  | _ => false

theorem of_isOk {α : Type} : ∀ {g : Got α}, isOk g = true → ∃ x, g = .ok x
  | .ok x, _ => ⟨x, rfl⟩

theorem isOk_bind {α β : Type} {g : Got α} {f : α → Got β} (hg : isOk g = true) (hf : ∀ a, isOk (f a) = true) : isOk (g.bind f) = true := by
  match g, hg with
  | .ok a, _ => exact hf a

theorem isOk_gotAll {α β : Type} (f : α → Got β) : ∀ l : List α, (∀ a ∈ l, isOk (f a) = true) → isOk (gotAll f l) = true
  | [], _ => rfl
  | a :: r, h => isOk_bind (h a List.mem_cons_self) fun _ =>
      isOk_bind (isOk_gotAll f r fun b hb => h b (List.mem_cons_of_mem a hb)) fun _ => rfl

/-- A tile of one valid line of an 8-bit format. -/
theorem tilePlan_line {s : State} {e : Env} {w : Walk} {it : List Nat} {b : Bool} {c : Nat} (hc : c ≤ 64) (hf : fmtBits w.opr.sfmt = 8)
    (hm : isMx w.opr.sfmt = false) (h0 : ∀ i, i < c → isOk (lineByte s e w it b 1 c 0 i) = true) :
    isOk (tilePlan s e w it b 1 c) = true := by
  unfold tilePlan
  refine isOk_bind (isOk_gotAll _ _ fun i hi => ?_) fun a => by simp [hm, isOk]
  simp only [lineBytes, hf]
  by_cases h : i < c
  · have h1 : i / (8 * 8) = 0 := by omega
    have h2 : i % (8 * 8) = i := by omega
    rw [h1, h2]; exact h0 i h
  · have : 1 ≤ i / (8 * 8) ∨ c ≤ 8 * (i % (8 * 8)) / 8 := by omega
    simp only [lineByte, hf, this, if_true, isOk]

theorem tilePlan_one {s : State} {e : Env} {w : Walk} {it : List Nat} {b : Bool} (hf : fmtBits w.opr.sfmt = 8)
    (hm : isMx w.opr.sfmt = false) (h0 : isOk (lineByte s e w it b 1 1 0 0) = true) : isOk (tilePlan s e w it b 1 1) = true :=
  tilePlan_line (by decide) hf hm fun i hi => by
    have : i = 0 := by omega
    rw [this]; exact h0

/-- Stall 1 with an operation in progress. -/
def busyStall (o : OpCtx) : Stall := { loadedStall with prog := some { ops := [o] } }

/-- A working device with that stall. -/
def busy (x : Stall) : State := { working with stalls := [(1, x)] }

theorem test_OperationsStartAndComplete :
    (let x := { loadedStall with ring := [7, 8] };
      runningStall (busy x) 1 = some (1, x) ∧ x.prog = none ∧ x.loaded = some ⟨0, 5, 0x4000, 1, 0⟩ ∧ x.ring = 7 :: [8] ∧
      (busy x).ctx.st = .run) ∧
    (let o : OpCtx := { d := { opcode := 0x7F, signal := 3 }, walking := false };
      physOf (busy (busyStall o)) 1 = some 1 ∧ (stallP (busy (busyStall o)) 1).prog = some { ops := [o] } ∧ [o][0]? = some o ∧
      stopped (busy (busyStall o)) = false ∧ (stallP (busy (busyStall o)) 1).jstop = false ∧ (busy (busyStall o)).ctx.st = .run ∧
      opFinished (stallP (busy (busyStall o)) 1) o = true ∧ ({ ops := [o] } : Prog).ops.eraseIdx 0 = [] ∧
      ({ ops := [o] } : Prog).next = 0xFFFF) := by decide +kernel

/-- Stall 1 about to start its descriptor 0, of an opcode, with token 63. -/
def starting (op : Nat) : Stall := { loadedStall with
  scratch := [(0x4000, BitVec.ofNat 8 op), (0x4013, 0x80)], tokens := 0x8000000000000000, prog := some { next := 0 } }

theorem test_OperationsStart : ∀ op ∈ [0x01, 0x02, 0x03, 0x10, 0x11, 0x12, 0x13, 0x20, 0x21, 0x30, 0x31, 0x32, 0x33, 0x34, 0x40, 0x41, 0x7F],
    (startable (busy (starting op)) 1 op).map (fun t => (t.1, t.2.1, t.2.2.1, t.2.2.2.opcode, t.2.2.2.wait)) =
      some (1, starting op, { next := 0 }, op, 0x8000000000000000) ∧ ({ next := 0 } : Prog).ops = [] ∧
    (startable (busy (starting op)) 1 op).all (fun t =>
      !dynTooLarge t.2.2.2 (roundSize (envOf (busy (starting op)) 1 1 (starting op) {}))) = true := by decide +kernel

/-- A one-element operation over scratch, in an 8-bit format, at an iteration. -/
def scratchAt (op : Nat) (it : List Nat) : OpCtx := {
  inst := 1
  it := it
  d := {
    opcode := op, afmt := 3, bfmt := 3, cfmt := 3, swinBase := 0x8000, swinLen := 0x4000, fillmap := 0x9000
    a := { space := 1, sfmt := 3, base := 0x8000, extent := 1 }
    b := { space := 1, sfmt := 3, base := 0x8000, extent := 1 }
    c := { space := 1, sfmt := 3, base := 0xA000, extent := 1 }
    x := if op = 0x13 then {} else { space := 1, sfmt := 3, base := 0x8000, extent := 1 } } }

def scratchOp (op : Nat) : OpCtx := scratchAt op [0, 0, 0, 0, 0, 0]

/-- The first iteration, and that of a second pass. -/
def its : List (List Nat) := [[0, 0, 0, 0, 0, 0], [0, 0, 0, 0, 0, 0, 1]]

/-- An operand in scratch of one line in an 8-bit format is at hand. -/
theorem opndBytes_ok {s : State} {e : Env} {no : Nat} {it : List Nat} {c : Nat} (hs : (opndWalk e.o.d no).opr.space = 1)
    (hv : opndValid e.o no it = (1, c)) (h2 : e.o.d.opcode ≠ 2) (h13 : ¬(e.o.d.opcode = 0x13 ∧ no = 3)) (hc : c ≤ 64)
    (hf : fmtBits (opndWalk e.o.d no).opr.sfmt = 8) (hm : isMx (opndWalk e.o.d no).opr.sfmt = false)
    (h0 : ∀ i, i < c → isOk (lineByte s e (opndWalk e.o.d no) it false 1 c 0 i) = true) : isOk (opndBytes s e no it) = true := by
  have hp : isOk (opndPlan s e no it) = true := by
    simp only [opndPlan, hv]
    rw [if_neg (fun h => h2 h.1), if_neg h13]
    exact tilePlan_line hc hf hm h0
  unfold opndBytes
  simp only [hs]
  exact isOk_bind hp fun _ => by simp [h2, isOk]

theorem opndVals_ok {s : State} {e : Env} {no : Nat} {it : List Nat} (h : isOk (opndBytes s e no it) = true) :
    isOk (opndVals s e no it) = true := isOk_bind h fun _ => rfl

/-- The operands of a one-element operation over scratch are at hand. -/
theorem opndBytes_scratch (op : Nat) (it : List Nat) (no : Nat)
    (hc : op ∈ [1, 0x10, 0x11, 0x12, 0x13, 0x21, 0x30, 0x31, 0x32, 0x40, 0x41]) (hi : it ∈ its) (hn : no ∈ [0, 1, 3])
    (hx : ¬(op = 0x13 ∧ no = 3)) :
    isOk (opndBytes (busy (busyStall (scratchAt op it))) (envAt (busy (busyStall (scratchAt op it))) 1 1 0) no it) = true := by
  have h : ∀ op ∈ [1, 0x10, 0x11, 0x12, 0x13, 0x21, 0x30, 0x31, 0x32, 0x40, 0x41], ∀ it ∈ its, ∀ no ∈ [0, 1, 3], ¬(op = 0x13 ∧ no = 3) →
      let e := envAt (busy (busyStall (scratchAt op it))) 1 1 0;
      (opndWalk e.o.d no).opr.space = 1 ∧ opndValid e.o no it = (1, 1) ∧ e.o.d.opcode ≠ 2 ∧ ¬(e.o.d.opcode = 0x13 ∧ no = 3) ∧
      fmtBits (opndWalk e.o.d no).opr.sfmt = 8 ∧ isMx (opndWalk e.o.d no).opr.sfmt = false ∧
      isOk (lineByte (busy (busyStall (scratchAt op it))) e (opndWalk e.o.d no) it false 1 1 0 0) = true := by decide +kernel
  obtain ⟨hs, hv, h2, h13, hf, hm, h0⟩ := h op hc it hi no hn hx
  exact opndBytes_ok hs hv h2 h13 (by decide) hf hm fun i hlt => by rw [Nat.lt_one_iff.1 hlt]; exact h0

theorem opndVals_scratch (op : Nat) (it : List Nat) (no : Nat)
    (hc : op ∈ [1, 0x10, 0x11, 0x12, 0x13, 0x21, 0x30, 0x31, 0x32, 0x40, 0x41]) (hi : it ∈ its) (hn : no ∈ [0, 1, 3])
    (hx : ¬(op = 0x13 ∧ no = 3)) :
    ∃ v, opndVals (busy (busyStall (scratchAt op it))) (envAt (busy (busyStall (scratchAt op it))) 1 1 0) no it = .ok v :=
  of_isOk (opndVals_ok (opndBytes_scratch op it no hc hi hn hx))

theorem test_MatrixInstructionsFold : (let s := busy (busyStall (scratchOp 1));
    runningStall s 1 = some (1, busyStall (scratchOp 1)) ∧ opsOf (busyStall (scratchOp 1)) = scratchOp 1 :: [] ∧
    isMatrix (scratchOp 1).d = true ∧ (scratchOp 1).walking = true ∧ (scratchOp 1).takeWait = false ∧
    (∃ a, aTile s (envAt s 1 1 0) = .ok a) ∧ (∃ b, opndVals s (envAt s 1 1 0) 1 (scratchOp 1).it = .ok b) ∧
    ∃ q, startSlot s (envAt s 1 1 0) = .ok q) := by
  refine ⟨by decide +kernel, rfl, rfl, rfl, rfl, ?_, opndVals_scratch 1 _ 1 (by decide) (by decide) (by decide) (by decide),
    of_isOk (by decide +kernel)⟩
  obtain ⟨v, hv⟩ := opndVals_scratch 1 [0, 0, 0, 0, 0, 0] 0 (by decide) (by decide) (by decide) (by decide)
  exact ⟨(v, []), by
    unfold aTile
    rw [if_pos (by rfl)]
    show (opndVals (busy (busyStall (scratchAt 1 [0, 0, 0, 0, 0, 0]))) (envAt (busy (busyStall (scratchAt 1 [0, 0, 0, 0, 0, 0]))) 1 1 0) 0
      [0, 0, 0, 0, 0, 0]).bind _ = _
    rw [hv]; rfl⟩

/-- Two stalls of an image, 1 sending its K range to 2. -/
def chainImage : List Byte :=
  zeros 24 ++ leBytes 4 2 ++ leBytes 4 32 ++
  (leBytes 4 2 ++ leBytes 4 1 ++ leBytes 8 96 ++ leBytes 8 576 ++ zeros 8) ++
  (leBytes 4 2 ++ leBytes 4 2 ++ leBytes 8 672 ++ leBytes 8 576 ++ zeros 8) ++
  (leBytes 2 1 ++ leBytes 2 1 ++ zeros 12 ++ leBytes 4 512 ++ zeros 44 ++ ([3, 0, 0, 0, 2, 0, 0xFF, 0xFF] ++ leBytes 4 (0x7FF + 2 * 2048) ++ zeros 500)) ++
  (leBytes 2 2 ++ leBytes 2 1 ++ zeros 12 ++ leBytes 4 512 ++ zeros 44 ++ ([3, 0, 0, 0, 1, 0, 0xFF, 0xFF] ++ leBytes 4 (1 + 0x7FF * 2048) ++
    zeros 24 ++ leBytes 4 (16 * 0x200000) ++ zeros 472))

/-- Stall 1 with a tile of its operation in slot 15, the oldest in READOUT or SENDING. -/
def slotStall (st : SlotSt) : Stall := { busyStall { scratchOp 3 with d := { (scratchOp 3).d with kout := true, cnext := 2 } } with
  slots := [(15, { st := st, it := [0, 0, 0, 0, 0, 0] })], readQ := [15], sendQ := [15] }

/-- That stall, with stall 2 served by physical stall 0. -/
def slotState (st : SlotSt) : State := { busy (slotStall st) with
  syl.slots := [(0, { st := .resident, bytes := chainImage })]
  bring.pst := [(0, { test := .pass, logical := some 2, fw := true }), (1, { test := .pass, logical := some 1, fw := true })] }

theorem test_SlotsLeaveTheArray : (∀ st ∈ [SlotSt.readout, .sending], runningStall (slotState st) 1 = some (1, slotStall st) ∧
      opOfDesc (slotStall st) (slotOf (slotStall st) 15).desc = some 0 ∧ (slotOf (slotStall st) 15).st = st ∧
      (slotStall st).readQ.head? = some 15 ∧ (slotStall st).sendQ.head? = some 15) ∧
    chainNext (slotState .sending) (envAt (slotState .sending) 1 1 0) = some (2, 0, 16) ∧ routesHeld (slotState .sending) 1 = false ∧
    inUse (slotStall .sending) (chainKey ((opsOf (slotStall .sending)).getD 0 {}).desc) 0 < 16 ∧ writesOut (slotStall .sending) < 64 ∧
    (physOf (slotState .sending) 2).isSome = true := by decide +kernel

/-- A landed A tile, full, in entry 1, and a prologue of one SCALE stage. -/
def landedOp : OpCtx := { scratchOp 1 with
  d := { (scratchOp 1).d with
    a := { space := 2, sfmt := 3, landing := 0x10000, id := 2 }, pro := [{ kind := 3, imm := 0x40000000, zero := false }] }
  lands := [{ opnd := 0, it := firstIt, entry := 1, st := .full }] }

theorem test_ProloguesStage : (let s := busy (busyStall landedOp);
    runningStall s 1 = some (1, busyStall landedOp) ∧ opsOf (busyStall landedOp) = landedOp :: [] ∧ epilogueIdle 1 1 s = true ∧
    (proWaiting landedOp).find? (fun w => !mustPark (envAt s 1 1 0) w.1) = some (firstIt, some 1) ∧
    ∃ r, proRun s (envAt s 1 1 0) firstIt = .ok r) :=
  ⟨by decide +kernel, rfl, by decide +kernel, by decide +kernel, of_isOk (by decide +kernel)⟩

/-- An output tile of one line over scratch has its place there. -/
theorem scratchTarget (x : Stall) (o : OpCtx) (op c : Nat) (it : List Nat) (hc : c ≤ 64) (hd : o.d.c = (scratchOp op).d.c)
    (hw : o.d.swinBase = 0x8000 ∧ o.d.swinLen = 0x4000 ∧ o.d.fillmap = 0x9000) (hi : o.inst = 1)
    (ho : (envAt (busy x) 1 1 0).o = o) (hx : (envAt (busy x) 1 1 0).x.scratch = loadedStall.scratch)
    (h : ∀ i, i < c → isOk (lineByte (busy x) (envAt (busy x) 1 1 0) (walkC o.d) it true 1 c 0 i) = true) :
    ∃ plan, ScratchTarget (busy x) (envAt (busy x) 1 1 0) it 0 1 c plan := by
  have hw' : (walkC o.d).opr = o.d.c := rfl
  obtain ⟨p, hp⟩ := of_isOk (tilePlan_line hc (e := envAt (busy x) 1 1 0) (w := walkC o.d) (by rw [hw', hd]; rfl) (by rw [hw', hd]; rfl) h)
  refine ⟨p, ?_, ?_, ?_, ?_, ?_⟩ <;> rw [ho]
  · rw [hd]; rfl
  · have : writtenPoss o.d.c.sfmt c = c := by rw [hd]; rfl
    rw [this]; exact hp
  · rw [hw.1, hw.2.2]; decide
  · rw [hw.1, hw.2.1, hw.2.2]; decide
  · rw [hx, hw.2.2, hi]
    exact (by decide +kernel : fillCase (leNat (memRead loadedStall.scratch (0x9000 + 8 * 0) 8)) 1 = .fresh)

/-- A product with one tile read out. -/
def readOp : OpCtx := { scratchOp 1 with readouts := [⟨[0, 0, 0, 0, 0, 0], [], [], false, none⟩] }
def readStall : Stall := { busyStall readOp with outQ := [(0, 1)] }

theorem tileNumber_scratch (o : OpCtx) (it : List Nat) (hd : o.d.loops = []) : tileNumber o it = 0 ∧
    validOf o it 1 = 1 ∧ validOf o it 2 = 1 := by
  have hn : nest o.d = [] := by
    have : ((List.range 6).filter fun l => decide ((o.d.loops.getD l {}).role ≠ 0)) = [] := by rw [hd]; rfl
    rw [nest, this]; simp
  have hr : ∀ r, r ≠ 0 → roleLevel o.d r = none := fun r hr => by
    rw [roleLevel, List.find?_eq_none]
    intro l _
    simp [level, hd, Ne.symm hr]
  refine ⟨by rw [tileNumber, hn]; rfl, ?_, ?_⟩ <;> (rw [validOf, hr _ (by decide)])

theorem test_EpiloguesStore : (let s := busy readStall;
    let rt : ReadTile := ⟨[0, 0, 0, 0, 0, 0], [], [], false, none⟩;
    runningStall s 1 = some (1, readStall) ∧ opsOf readStall = readOp :: [] ∧ (outOps readStall).head? = some 0 ∧
    readOp.readouts = rt :: [] ∧ rt.fin = false ∧ readOp.d.opcode ≠ 3 ∧ stageList readOp.d.epi = [] ∧
    ∃ plan, ScratchTarget s (envAt s 1 1 0) rt.it (tileNumber readOp rt.it) (validOf readOp rt.it 1) (validOf readOp rt.it 2) plan) :=
  ⟨by decide +kernel, rfl, by decide +kernel, rfl, rfl, by decide, rfl, by
    obtain ⟨h1, h2, h3⟩ := tileNumber_scratch readOp [0, 0, 0, 0, 0, 0] rfl
    show ∃ plan, ScratchTarget _ _ _ (tileNumber readOp [0, 0, 0, 0, 0, 0]) (validOf readOp [0, 0, 0, 0, 0, 0] 1)
      (validOf readOp [0, 0, 0, 0, 0, 0] 2) plan
    rw [h1, h2, h3]
    exact scratchTarget readStall readOp 1 1 _ (by decide) rfl ⟨rfl, rfl, rfl⟩ rfl rfl rfl (by decide +kernel)⟩

theorem scratchTarget_at (op : Nat) (it : List Nat) (c : Nat) (hc : c ≤ 64)
    (h : ∀ i, i < c → isOk (lineByte (busy (busyStall (scratchAt op it))) (envAt (busy (busyStall (scratchAt op it))) 1 1 0)
      (walkC (scratchAt op it).d) it true 1 c 0 i) = true) :
    ∃ plan, ScratchTarget (busy (busyStall (scratchAt op it))) (envAt (busy (busyStall (scratchAt op it))) 1 1 0) it 0 1 c plan :=
  scratchTarget _ (scratchAt op it) op c it hc rfl ⟨rfl, rfl, rfl⟩ rfl rfl rfl h

/-- For each opcode and pass: the operation is the oldest of its stall, its operands are at hand, and its output has its place. -/
theorem test_VectorTilesStore (op : Nat) (h : op ∈ [0x10, 0x11, 0x12, 0x13, 0x21, 0x30, 0x31, 0x32, 0x40, 0x41]) (it : List Nat)
    (hi : it ∈ its) : (let o := scratchAt op it; let s := busy (busyStall o);
    (runningStall s 1 = some (1, busyStall o) ∧ opsOf (busyStall o) = o :: [] ∧ o.walking = true ∧ o.takeWait = false ∧
      stagesIdle 1 1 s = true ∧ o.d.opcode = op ∧ stageList o.d.epi = [] ∧ o.d.afmt = o.d.cfmt ∧ byteAt o.d.oparam 0 % 2 = 0 ∧
      o.back = none ∧ (o.it.getD 6 0 = 0 ∨ o.it.getD 6 0 = 1) ∧ lastCol o = true) ∧
    (∃ bs, opndBytes s (envAt s 1 1 0) 0 o.it = .ok bs) ∧ (∃ a, opndVals s (envAt s 1 1 0) 0 o.it = .ok a) ∧
    (∃ b, opndVals s (envAt s 1 1 0) 1 o.it = .ok b) ∧ (op ≠ 0x13 → ∃ x, opndVals s (envAt s 1 1 0) 3 o.it = .ok x) ∧
    (op = 0x13 → ∃ gb, normGammaBeta s (envAt s 1 1 0) o.it = .ok gb) ∧
    ∃ plan, ScratchTarget s (envAt s 1 1 0) o.it (tileNumber o o.it) (validOf o o.it 1) (validOf o o.it 2) plan) := by
  have h1 : ∀ op ∈ [0x10, 0x11, 0x12, 0x13, 0x21, 0x30, 0x31, 0x32, 0x40, 0x41],
      op ∈ [1, 0x10, 0x11, 0x12, 0x13, 0x21, 0x30, 0x31, 0x32, 0x40, 0x41] := by decide
  refine ⟨by revert op it; decide +kernel, of_isOk (opndBytes_scratch op it 0 (h1 op h) hi (by decide) (by simp)),
    opndVals_scratch op it 0 (h1 op h) hi (by decide) (by simp), opndVals_scratch op it 1 (h1 op h) hi (by decide) (by simp),
    fun hx => opndVals_scratch op it 3 (h1 op h) hi (by decide) (by simp [hx]),
    fun hx => ⟨List.replicate 64 none, by subst hx; rfl⟩, ?_⟩
  obtain ⟨h2, h3, h4⟩ := tileNumber_scratch (scratchAt op it) it rfl
  show ∃ plan, ScratchTarget _ _ it (tileNumber (scratchAt op it) it) (validOf (scratchAt op it) it 1)
    (validOf (scratchAt op it) it 2) plan
  rw [h2, h3, h4]; exact scratchTarget_at op it 1 (by decide) (by clear h1 h2 h3 h4; revert op it; decide +kernel)

/-- The six results of a row have their place. -/
theorem test_VectorTilesStore_rowstat : (let o := scratchOp 0x11; let s := busy (busyStall o);
    ∃ plan, ScratchTarget s (envAt s 1 1 0) (setN o.d o.it 0) (tileNumber o (setN o.d o.it 0)) (validOf o o.it 1) 6 plan) := by
  obtain ⟨h1, h2, -⟩ := tileNumber_scratch (scratchOp 0x11) [0, 0, 0, 0, 0, 0] rfl
  have hn : setN (scratchOp 0x11).d (scratchOp 0x11).it 0 = [0, 0, 0, 0, 0, 0] := rfl
  show ∃ plan, ScratchTarget _ _ (setN (scratchOp 0x11).d (scratchOp 0x11).it 0)
    (tileNumber (scratchOp 0x11) (setN (scratchOp 0x11).d (scratchOp 0x11).it 0)) (validOf (scratchOp 0x11) [0, 0, 0, 0, 0, 0] 1) 6 plan
  rw [hn, h1, h2]; exact scratchTarget_at 0x11 _ 6 (by decide) (by decide +kernel)

/-- The first of two tiles of a row of 65 columns. -/
def wideOp : OpCtx := { scratchOp 0x11 with
  d := { (scratchOp 0x11).d with
    loops := [{ role := 2, bound := 65, sa := 1 }], a := { space := 1, sfmt := 3, base := 0x8000, extent := 65 } } }

theorem test_VectorTilesStore_wide : (let s := busy (busyStall wideOp);
    (runningStall s 1 = some (1, busyStall wideOp) ∧ opsOf (busyStall wideOp) = wideOp :: [] ∧ wideOp.walking = true ∧
      wideOp.takeWait = false ∧ stagesIdle 1 1 s = true ∧ wideOp.d.opcode = 0x11 ∧ lastCol wideOp = false) ∧
    ∃ v, opndVals s (envAt s 1 1 0) 0 wideOp.it = .ok v) :=
  ⟨by decide +kernel, of_isOk (opndVals_ok (opndBytes_ok (c := 64) rfl (by decide +kernel) (by decide) (by decide) (by decide) rfl rfl
    (by decide +kernel)))⟩

/-! ## Witnesses: the fabric and the loft -/

/-- A working device with one packet in flight. -/
def flying (b : PktBody) : State := { working with fab.net := [{ cls := 1, src := 0, dst := 1, body := b }] }

theorem netAt_flying (b : PktBody) : netAt (flying b) 0 = some { cls := 1, src := 0, dst := 1, body := b } := rfl

/-- The cell of an 8-byte tile part, and the fill map entry of instance 5. -/
def cell9 : List (Nat × Byte) := [(0x2000, 9)]

/-- A READ of two cells; a part of a WRITE of two bytes; the last part of one without a fill map, and of one with its entry, which is empty,
holds the same instance, or an older one. -/
theorem test_LoftControllersServe :
    (let b : PktBody := .read 1 0 1 0 0 [] [(0, 0x2000), (1, 0x2001)];
      netAt (flying b) 0 = some { cls := 1, src := 0, dst := 1, body := b } ∧
      wordOf 0x2000 ∈ [(0, 0x2000), (1, 0x2001)].map (fun c : Nat × Nat => wordOf c.2)) ∧
    (let s := flying (.write 1 0 5 1 2 cell9 (some ⟨0x1000, 5, []⟩));
      netAt s 0 = some { cls := 1, src := 0, dst := 1, body := .write 1 0 5 1 2 cell9 (some ⟨0x1000, 5, []⟩) } ∧
      0 < (writeParts s 1 2 cell9).left) ∧
    (let s := flying (.write 1 0 5 1 1 cell9 none);
      netAt s 0 = some { cls := 1, src := 0, dst := 1, body := .write 1 0 5 1 1 cell9 none } ∧ (writeParts s 1 1 cell9).left = 0 ∧
      ∀ c ∈ (writeParts s 1 1 cell9).cells, poisonedWord s (wordOf c.1) = false) ∧
    (∀ m ∈ [([] : Mem), [(0x1000, 5), (0x1004, 1), (0x2000, 9)], [(0x1000, 6), (0x1004, 1)]],
      let b : PktBody := .write 1 0 5 1 1 cell9 (some ⟨0x1000, 5, []⟩)
      let s := { flying b with loft.mem := m };
      netAt s 0 = some { cls := 1, src := 0, dst := 1, body := b } ∧ (writeParts s 1 1 cell9).left = 0 ∧ 0x1000 % 8 = 0 ∧
      poisonedWord s (wordOf 0x1000) = false ∧
      (∀ c ∈ (writeParts s 1 1 cell9).cells, poisonedWord s (wordOf c.1) = false) ∧ Memory.wf s.loft.mem = true ∧
      (fillCase (leNat (loftRead s 0x1000 8)) 5 = if m = [] then .fresh else if m.length = 3 then .replay else .older) ∧
      (fillCase (leNat (loftRead s 0x1000 8)) 5 = .replay → ∀ c ∈ (writeParts s 1 1 cell9).cells, memGet s.loft.mem c.1 = c.2)) := by
  decide +kernel

/-- An operation waiting for a landing of its A operand, and one at a TAKE level of 4 iterations. -/
def landing : OpCtx := { landedOp with inst := 3, lands := [{ opnd := 0, it := firstIt, entry := 1, st := .reserved, left := 1 }] }
def taking : OpCtx := { scratchOp 0x10 with
  inst := 3, takeWait := true, d := { (scratchOp 0x10).d with loops := [{ role := 5, bound := 4, take := true, hubctr := true, ctr := 255 }] } }

/-- The stall of the packets below: entry 1 of its ledger OPEN, the first part of a tile of 8 bytes in entry 0 of its pair window of
descriptor 8191. -/
def landingStall : Stall := { busyStall landing with
  ledger := [(1, { st := 1, n := 64 })]
  wins := [(16383, [{ entry := 0, tile := 7, left := 4, src := 0, key := 0 }])] }

theorem test_FabricDelivers : (∀ b ∈ [PktBody.ack 1 0 3, .accept 1 0, .rdata 1 0 3 0 1 firstIt [(0, 1)] none, .rdata 1 0 3 0 1 firstIt [(0, 1)] (some 0x2000),
      .data 1 16383 0 0 0 7 4 8 (zeros 4) (some (1, 0, 1)), .data 1 64 0 0 0 7 0 8 (zeros 4) (some (1, 0, 1)), .credit 1 64 0,
      .ledger 1 0 0 {} true, .ledger 1 1 0 {} true, .ledger 1 1 0 {} false, .ledger 1 0 0 {} false, .ready 1 1 0 3],
      let s := { flying b with stalls := [(1, landingStall)] };
      netAt s 0 = some { cls := 1, src := 0, dst := 1, body := b } ∧ physOf s 1 = some 1 ∧ opPlace s 1 0 3 = some 0 ∧ 16383 < 16384 ∧
      (∀ e ∈ (stallP s 1).ledger, e.2.todo = []) ∧ (tget {} (stallP s 1).ledger 0).st = 0 ∧ (tget {} (stallP s 1).ledger 1).st ≠ 0 ∧
      (tget {} (stallP s 1).ledger 1).n ≠ 0 ∧ opPlace s 1 0 0 = none ∧
      (tget [] (stallP s 1).wins 16383).find? (fun h => 0 < h.left && h.src = 0 && h.key = 0 && h.tile = 7) =
        some { entry := 0, tile := 7, left := 4, src := 0, key := 0 } ∧
      (tget [] (stallP s 1).wins 64).find? (fun h => 0 < h.left && h.src = 0 && h.key = 0 && h.tile = 7) = none ∧
      winShare s (descEnv s 1 1 (winDesc 16383)) 16383 0 2 = (0, 2) ∧
      ((List.range 2).map fun j => 0 + (tget 0 (stallP s 1).winCount (countKey 64 0) + j) % max 1 2).find?
        (fun i => (tget [] (stallP s 1).wins 64).all fun h => h.entry ≠ i) = some 0 ∧
      runningHalo (stallP s 1) = none) := by decide +kernel

/-- A hub counter and a yard counter, and a result in the range and at the end. -/
theorem test_CountersServeTakes : (∀ b ∈ [PktBody.take 1 0 3 true 255 4, .take 1 0 3 false 63 4, .taken 1 0 3 3, .taken 1 0 3 4],
      let s := { flying b with stalls := [(1, busyStall taking)] };
      netAt s 0 = some { cls := 1, src := 0, dst := 1, body := b } ∧ physOf s 1 = some 1 ∧ opPlace s 1 0 3 = some 0 ∧
      takeLevel ((opsOf (stallP s 1)).getD 0 {}).d = some 0 ∧ levelCount ((opsOf (stallP s 1)).getD 0 {}) 0 = 4) := by decide +kernel

/-- A packet with six failed retries of flit 0 on its only hop, one with seven, and drill mode. -/
def retried (f : Nat) (dr : Bool) : State := { working with
  bring.drill := dr, fab.net := [{ cls := 1, src := 0, dst := 1, hops := [30], fails := [(0, f)], body := .ack 1 0 1 }] }

theorem test_FlitsRetrySevenTimes :
    (retried 6 false).fab.net[0]? = some { cls := 1, src := 0, dst := 1, hops := [30], fails := [(0, 6)], body := .ack 1 0 1 } ∧
    (retried 7 true).fab.net[0]? = some { cls := 1, src := 0, dst := 1, hops := [30], fails := [(0, 7)], body := .ack 1 0 1 } ∧
    (∀ f ∈ [6, 7], 0 < pktFlits { cls := 1, src := 0, dst := 1, hops := [30], fails := [(0, f)], body := .ack 1 0 1 }) ∧ ([30] : List Nat)[0]? = some 30 ∧
    tget 0 [((0 : Nat), (6 : Nat))] (8 * 0 + 0) < 7 ∧ (retried 6 false).bring.drill = false ∧ 7 ≤ tget 0 [((0 : Nat), (7 : Nat))] (8 * 0 + 0) ∧
    (retried 0 true).bring.drill = true := by decide

/-- The last entry of the map, of the job's partition and of the cache, before and in a ZERO. -/
theorem test_LoftMaintenance : (live.loft.scrubOn = true ∧ live.bring.loftTested = true ∧ barnsOn live = true ∧ unitStopped live 2 (0 / 40) = false ∧
      scrubReads live 0 0 0 = true ∧ 1279 ≠ 0 ∧ live.pwr.st ≠ .aux ∧ ({ live with loft.scrubOn := false } : State).loft.scrubOn = false) ∧
    Reaches live .job (loftBase + 0x10) ∧
    (∀ a ∈ [1, 2], let s := { live with loft.parts := [(15, ⟨a, 1, 2⟩)] };
      s.loft.zero = none ∧ jobBar false s = none ∧ (partAt s (15 % 16)).access = a ∧ circuitsRunning s = false ∧ opsRunning s = false ∧
      preemptBars s (partAt s (15 % 16)) = false ∧ ∀ e ∈ s.syl.slots, e.2.st = .empty) ∧
    (let s := { live with loft.zero := some ⟨15, 2 ^ 21, 2 ^ 22, some (regIssuer 9)⟩ };
      s.loft.zero = some ⟨15, 2 ^ 21, 2 ^ 22, some (regIssuer 9)⟩ ∧ s.ctx.vac = none) :=
  ⟨by decide +kernel, reaches_live rfl rfl, by decide +kernel, by decide⟩

/-- A collective image that names group 3. -/
def groupImage : List Byte :=
  zeros 24 ++ leBytes 4 2 ++ leBytes 4 32 ++
  (leBytes 4 7 ++ leBytes 4 0 ++ leBytes 8 96 ++ leBytes 8 48 ++ zeros 8) ++
  (leBytes 4 6 ++ leBytes 4 0 ++ leBytes 8 144 ++ leBytes 8 32 ++ zeros 8) ++
  (leBytes 4 1 ++ zeros 12 ++ (leBytes 2 1 ++ [5, 1] ++ leBytes 2 63 ++ [1, 1] ++ leBytes 2 3 ++ zeros 22)) ++
  (leBytes 4 1 ++ zeros 12 ++ (leBytes 2 1 ++ [63, 4] ++ leBytes 4 0x20000 ++ leBytes 2 16 ++ [2] ++ zeros 5))

/-- A device with that image resident, group 3 of two members from route 5. -/
def grouped : State := { working with
  syl.slots := [(0, { st := .resident, bytes := groupImage })]
  gate.groups := [(3, pack [(63, 1), (51, 2), (0, 5)])] }

theorem test_LockedRegisters : ((∀ j, (partAt live j).access = 0) ∧ (∀ e ∈ live.syl.slots, e.2.st = .empty) ∧
      fld 0x4040 7 0 + fld 0x4040 15 8 ≤ 128 ∧ 128 < fld 0x4140 7 0 + fld 0x4140 15 8) ∧
    (15 < 16 ∧ (partAt { live with loft.parts := [(15, ⟨1, 1, 2⟩)] } 15).access ≠ 0) ∧ (∃ e ∈ working.syl.slots, e.2.st ≠ .empty) ∧
    (partRefused live 15 0x4000000200000001 = false ∧ partRefused live 15 0xC000000200000001 = true) ∧
    ((∀ e ∈ live.gate.gates, e.2.en = false) ∧ ∃ e ∈ ({ live with gate.gates := [(11, { en := true })] } : State).gate.gates, e.2.en = true) ∧
    (3 ∉ namedGroups live ∧ 3 ∈ namedGroups grouped ∧ 255 ∉ namedGroups grouped) ∧
    (routeNamed grouped 6 = true ∧ routeNamed grouped 7 = false ∧ routeNamed grouped 4 = false) ∧
    ((∀ e ∈ live.roll.circuits, circBusy e.2 = false) ∧ (∃ e ∈ working.roll.circuits, circBusy e.2 = true) ∧
      circBusy (circAt working 31) = false ∧ circBusy (circAt working 5) = true) :=
  ⟨⟨fun _ => rfl, by decide⟩, by decide +kernel⟩

/-! ## Witnesses: lanes and gates -/

/-- Gate 11 in a state, its wavelengths 0 to 7 active and 8 a locked spare. -/
def lanes11 (st : GateState) (sp : Option Nat) : State := { live with
  gate.engines := [(11, { active := [0, 1, 2, 3, 4, 5, 6, 7], spare := sp, locked := 0x1FF })]
  gate.gates := [(11, { en := true, st := st })]
  bring.opt := [(11, { tested := 0x1FF })] }

theorem test_LanesLockAndFail : (8 ∉ (engineAt (lanes11 .up (some 8)) 11).active ∧ 11 < 12 ∧ (gateAt (lanes11 .up (some 8)) 11).st = .up ∧
      7 ∈ (engineAt (lanes11 .up (some 8)) 11).active ∧ (engineAt (lanes11 .up (some 8)) 11).spare = some 8 ∧ 8 ≠ 7 ∧
      (engineAt (lanes11 .up (some 8)) 11).locked.testBit 8 = true ∧ (lanes11 .up (some 8)).bring.drill = false) ∧
    ((gateAt { lanes11 .up (some 8) with bring.drill := true } 11).st = .up ∧ 7 ∈ (engineAt { lanes11 .up (some 8) with bring.drill := true } 11).active) ∧
    ((gateAt (lanes11 .up none) 11).st = .up ∧ 7 ∈ (engineAt (lanes11 .up none) 11).active ∧ (engineAt (lanes11 .up none) 11).spare = none) ∧
    (1369021 ≤ 1369021 ∧ (engineAt (lanes11 .up none) 11).warned.testBit 8 = false ∧ 1369020 < 1369021) := by decide

/-- A gate that meets both ends' proposals. -/
def training (keep : Bool) : State := { lanes11 .train none with
  gate.gates := [(11, { en := true, st := .train, keep := keep, pnode := 1, farProp := some ([0, 1, 2, 3, 4, 5, 6, 7], 0x1FF) })] }

theorem test_GatesTrain : (hubServes live = true ∧ live.bring.phase ≠ .refused ∧ barnsOn live = true ∧
      8 ≤ (goodLanes (lanes11 .off none) 11).length ∧ (gateAt { lanes11 .off none with gate.gates := [] } 11).en = false ∧
      (1 : W64).getLsbD 0 = true ∧ (1 : W64).getLsbD 1 = false ∧ (goodLanes live 11).length < 8 ∧ (0 : W64).getLsbD 0 = false ∧
      (0 : W64).getLsbD 1 = false ∧ (gateAt (lanes11 .off none) 11).en = true) ∧
    (∀ k ∈ [true, false], (gateAt (training k) 11).st = .train ∧ (adopted (training k) 11).isSome = true ∧
      (gateAt (training k) 11).keep = k ∧ (gateAt (training k) 11).out = [] ∧ unitStopped (training k) 5 11 = false) ∧
    (let s := lanes11 .up none;
      (gateAt s 11).st = .up ∧ [1, 2, 3, 4, 5, 6, 7, 8] ≠ (engineAt s 11).active ∧ ([1, 2, 3, 4, 5, 6, 7, 8] : List Nat).length = 8 ∧
      s.bring.drill = false ∧ ∀ w ∈ [1, 2, 3, 4, 5, 6, 7, 8], (engineAt s 11).locked.testBit w = true) := by decide +kernel

/-- A gate packet to stall 1, window 63, and its frame. -/
def gatePkt (op tile cnt : Nat) : GatePkt := readPkt (
  [BitVec.ofNat 8 op, 1, 3, 63] ++ leBytes 2 1 ++ leBytes 2 1 ++ [0, 0] ++ leBytes 2 0 ++ leBytes 2 tile ++ zeros 2 ++
    leBytes 8 (2 * 65536 + cnt) ++ leBytes 8 (2 ^ 60) ++ zeros 16)
def sent (seq n : Nat) : TxFrame := { seq := seq, pkt := gatePkt 1 0 1, sends := n, ack := none }

theorem test_GateFramesInOrder : (let s := { lanes11 .up none with gate.gates := [(11, { en := true, st := .up, unacked := [sent 4 1, sent 5 1] })] };
      (gateAt s 11).st = .up ∧ unitStopped s 5 11 = false ∧ 0 = ((gateAt s 11).rxAck + 1) % 256 ∧ 1 ≠ ((gateAt s 11).rxAck + 1) % 256 ∧
      (∀ l ∈ [8], 8 ≤ l) ∧ (∃ l ∈ [8, 7], l < 8) ∧
      (gateAt s 11).unacked = [] ++ sent 4 1 :: [sent 5 1] ∧ (sent 4 1).seq = ((4 : BitVec 48).extractLsb' 0 8).toNat ∧
      (4 : BitVec 48).getLsbD 8 = false ∧ (gateAt s 11).out = [] ∧ (gateAt s 11).unacked ≠ []) ∧
    (let s := { lanes11 .up none with gate.gates := [(11, { en := true, st := .up, unacked := sent 0 8 :: List.replicate 127 (sent 1 1) })] };
      (gateAt s 11).unacked = sent 0 8 :: List.replicate 127 (sent 1 1) ∧ 127 ≤ (List.replicate 127 (sent 1 1)).length ∧
      s.bring.drill = false ∧ ∃ f ∈ (gateAt s 11).unacked, 8 ≤ f.sends) := by decide +kernel

/-- A packet at the front of gate 10, with room at gate 11. -/
def arriving (op tile cnt : Nat) : State := { grouped with
  stalls := [(1, busyStall { scratchOp 0x32 with d := { (scratchOp 0x32).d with a := { space := 3, id := 63, sfmt := 3 } } })]
  gate.gates := [(10, { en := true, st := .up, rxBuf := [padTo 128 (
      [BitVec.ofNat 8 op, 1, 3, 63] ++ leBytes 2 1 ++ leBytes 2 1 ++ [0, 0] ++ leBytes 2 0 ++ leBytes 2 tile ++ zeros 2 ++
        leBytes 8 (2 * 65536 + cnt) ++ leBytes 8 (2 ^ 60) ++ zeros 16)] }),
    (11, { en := true, st := .up, credits := 1024 })] }

theorem test_GatePacketsArrive : (∀ op ∈ [1, 2, 3], (arriving op 0 2).bring.drill = false ∧ frontPkt (arriving op 0 2) 10 = some (gatePkt op 0 2) ∧ (gatePkt op 0 2).op = op ∧
      routeStep 10 (gatePkt op 0 2) = some (11, true, gatePkt op 0 1) ∧
      gateRoom (gateAt (arriving op 0 2) 11) (gatePkt op 0 1) true = true ∧
      frontPkt (arriving op 0 1) 10 = some (gatePkt op 0 1) ∧ routeStep 10 (gatePkt op 0 1) = none ∧
      (arriving op 0 1).flt.jstopped = false ∧ stopped (arriving op 0 1) = false ∧ (gatePkt op 0 1).group ∈ namedGroups (arriving op 0 1) ∧
      (gatePkt op 0 1).group ∉ namedGroups working) ∧
    (∀ tile ∈ [0, 1], let s := arriving 1 tile 1;
      frontPkt s 10 = some (gatePkt 1 tile 1) ∧ routeStep 10 (gatePkt 1 tile 1) = none ∧ (gatePkt 1 tile 1).op = 1 ∧
      physOf s 1 = some 1 ∧ (gatePkt 1 tile 1).stall = 1 ∧ (stallP s 1).loaded = some ⟨0, 5, 0x4000, 1, 0⟩ ∧
      (windowOf (imgAt s 0) 1 63).isSome = true ∧ (gatePkt 1 tile 1).window = 63 ∧ (gatePkt 1 tile 1).tile = tile ∧
      (expectedTile s 1 1 63).map (fun x => x.2.1 % 2 ^ 16) = some 0 ∧ (gatePkt 1 tile 1).payload.length < 480) := by decide +kernel

/-! ## Witnesses: video -/

/-- An H.265 decode stream record of a 64 × 64 picture, and one of its pictures, both in the loft's job partition. -/
def vidRec : List Byte :=
  [1, 0, 0, 1] ++ leBytes 2 64 ++ leBytes 2 64 ++ [8, 0, 0, 1, 0, 0, 0, 0] ++ zeros 6 ++ [30, 0] ++ (zeros 16 ++ [16] ++ zeros 7) ++ leBytes 8 2097152 ++
    leBytes 8 2097152 ++ zeros 64
def picRec : List Byte :=
  leBytes 8 (2 ^ 63 + 3 * 2 ^ 20) ++ leBytes 8 (2 ^ 63 + 3 * 2 ^ 20) ++ leBytes 4 64 ++ leBytes 4 64 ++ leBytes 4 64 ++ leBytes 4 4096 ++ zeros 32

/-- Stream 63 in a state. -/
def streaming (x : Stream) : State := { live with loft.parts := [(0, ⟨1, 1, 3⟩)], vid.streams := [(63, x)] }

theorem test_VideoStreamCommands : Reaches live .job vidBase ∧
    (let s := streaming {};
      vidActive s = false ∧ jobBar true s = none ∧ (streamAt s (63 % 64)).st = .closed ∧ vidFieldsOk (vidRecord vidRec) = true ∧
      refAreaOk s (vidRecord vidRec) = true) ∧
    (∀ st ∈ [StreamState.opened, .error], let s := streaming { st := st, ctx := vidRecord vidRec, queue := List.replicate 15 {} };
      vidActive s = false ∧ jobBar true s = none ∧ (streamAt s (63 % 64)).st = st ∧
      picOk s (streamAt s (63 % 64)).ctx (picDesc .reg picRec) = true ∧ (streamAt s (63 % 64)).queue.length < 16) ∧
    (∀ st ∈ [StreamState.opened, .error], let s := streaming { st := st, ltrSlots := [none, none, none, some 5] };
      jobBar false s = none ∧ (streamAt s (63 % 64)).st = st ∧ (streamAt s (63 % 64)).ctx.role ≠ 1 ∧
      ((streamAt s (63 % 64)).ltrSlots.getD (3 % 4) none).isSome = true ∧ ((streamAt s (63 % 64)).ltrSlots.getD (0 % 4) none).isSome = false ∧
      (streamAt s (63 % 64)).queue = [] ∧ runsOn s (63 % 64) = none) :=
  ⟨reaches_live rfl rfl, by decide +kernel⟩

/-- An encode stream whose one picture waits, and one that runs on engine 3. -/
theorem test_PicturesStartAndComplete :
    (let x : Stream := { st := .opened, ctx := { engmask := 8 }, queue := [{}] };
      let s := streaming x;
      startBarred s = false ∧ (vidEng s 3).run = none ∧ chosenStream s 3 = some (63, x) ∧ streamAt s 63 = x ∧ x.queue = {} :: []) ∧
    (let r : RunPic := ⟨63, {}, 0, true, none, none⟩;
      let s := { streaming { st := .opened } with vid.engines := [(3, { run := some r })] };
      videoHeld s = false ∧ (vidEng s 3).run = some r ∧ (streamAt s r.stream).ctx.role = 0 ∧ (streamAt s r.stream).st = .opened ∧
      (streamAt { s with vid.streams := [(63, { st := .closing })] } r.stream).st = .closing ∧ (vidEng s 2).run = none) := by
  decide +kernel

/-! ## Witnesses: the host link, queues, copies and SMBus -/

theorem test_HostLink : (let s := { live with host.rxAck := 4095, host.unacked := [7, 8, 9], host.reads := [⟨0, 0, 256, .other⟩, ⟨255, 0, 256, .firmware 512⟩] };
    s.host.up = true ∧ unitStopped s 5 12 = false ∧ s.host.txq = [] ∧ (0 : W64).getLsbD 25 = false ∧ fld 0 11 0 = (s.host.rxAck + 1) % 4096 ∧
    (1 < (fld 1 11 0 + 4096 - s.host.rxAck) % 4096 ∧ (fld 1 11 0 + 4096 - s.host.rxAck) % 4096 ≤ 2048 ∧ s.host.rxAck < 4096) ∧
    ((fld 0x7FF 11 0 + 4096 - s.host.rxAck) % 4096 = 2048) ∧
    (0x2000000 : W64).getLsbD 25 = true ∧ s.host.unacked = [7] ++ fld 0x8000 23 12 :: [9] ∧ fld 0x8000 23 12 ∉ [7] ∧
    live.host.unacked = [] ∧ s.host.unacked ≠ [] ∧
    (s.host.reads.find? fun r => r.tag = 0) = some ⟨0, 0, 256, .other⟩ ∧
    (s.host.reads.find? fun r => r.tag = 255) = some ⟨255, 0, 256, .firmware 512⟩ ∧ 1 ≠ 0 ∧ ∀ r ∈ s.host.reads, r.tag ≠ 1) := by decide

/-- Queue 19 with a table entry. -/
def queued (q : Nat) (x : Queue) : State := { live with host.queues := [(q, x)] }
def onQueue : Queue := { sqEn := true, sqLog2 := 4, cqLog2 := 4, tail := 1 }

theorem test_HostQueues : (hubServes live = true ∧ queueAt (queued 15 onQueue) 15 = onQueue ∧ queueAt live 19 = {}) ∧
    Reaches (queued 15 onQueue) .job (hostBase + 0x110 + 0x20 * 15) ∧
    (onQueue.sqEn = true ∧ fld 15 11 0 < 2 ^ onQueue.sqLog2 ∧ ({} : Queue).sqEn = false ∧ 2 ^ onQueue.sqLog2 ≤ fld 16 11 0) ∧
    ((0x14 : W64).getLsbD 4 = true ∧ 4 ≤ fld 0x14 3 0 ∧ fld 0x14 3 0 ≤ 12 ∧ 4 ≤ fld 0x1C 3 0 ∧ fld 0x1C 3 0 ≤ 12 ∧
      (0x13 : W64).getLsbD 4 = true ∧ fld 0x13 3 0 < 4 ∧ 12 < fld 0x1D 3 0) ∧
    (fld 0x1014 63 12 * 4096 ≠ onQueue.sqBase ∧ fld 0x15 3 0 ≠ onQueue.sqLog2 ∧ fld 0x4 63 12 * 4096 = onQueue.sqBase ∧
      fld 0x4 3 0 = onQueue.sqLog2 ∧ (0x4 : W64).getLsbD 4 = false) ∧
    (onQueue.sqHead ≠ onQueue.tail ∧ ({ onQueue with tail := 0, inflight := 1 } : Queue).inflight ≠ 0 ∧
      ({ onQueue with tail := 0 } : Queue).sqHead = ({ onQueue with tail := 0 } : Queue).tail ∧ ({ onQueue with tail := 0 } : Queue).inflight = 0) ∧
    (onQueue.waiting = [] ∧ ({ onQueue with waiting := [{}] } : Queue).waiting = {} :: [] ∧
      ({ onQueue with cqTail := 15 } : Queue).cqTail + 1 = 16 ∧
      (({ onQueue with cqTail := 15 } : Queue).cqTail + 1) % 2 ^ onQueue.cqLog2 = onQueue.cqHead ∧
      (onQueue.cqTail + 1) % 2 ^ onQueue.cqLog2 ≠ onQueue.cqHead ∧ live.host.txq = [] ∧ 3 ≤ live.host.posted ∧
      live.host.unacked.length ≤ 1022) :=
  ⟨by decide, reaches_live rfl rfl, by decide, by decide, by decide, by decide, by decide⟩

/-- An entry of a unit and an OP, argument 4095 in byte 8, TAG 1. -/
def entryOf (unit op : Nat) : List Byte := [BitVec.ofNat 8 unit, BitVec.ofNat 8 op, 0, 0, 1, 0, 0, 0, 0xFF, 0x0F] ++ zeros 54

theorem test_QueueEntries : (hubServes live = true ∧ nextQueue (queued 19 onQueue) = some 19 ∧ nextQueue (queued 0 onQueue) = some 0 ∧
      nextQueue (queued 16 onQueue) = some 16 ∧ nextQueue (queued 15 onQueue) = some 15) ∧
    ((entryOf 2 3).length = 64 ∧ 16 ≤ 16 ∧ live.bring.ready = true ∧ byteAt ((entryOf 2 3).set 2 1) 2 ≠ 0 ∧
      byteAt ((entryOf 2 3).set 3 1) 3 ≠ 0 ∧ byteAt (entryOf 0 3) 0 = 0 ∧ 8 ≤ byteAt (entryOf 8 3) 0) ∧
    (15 < 16 ∧ (rising .main).sec.owned = false ∧ byteAt (entryOf 6 1) 0 = 6) ∧
    ((rising .main).bring.ready = false ∧ 1 ≤ byteAt (entryOf 6 1) 0 ∧ byteAt (entryOf 6 1) 0 ≤ 6 ∧ byteAt (entryOf 6 1) 1 = 1) ∧
    (let s := { queued 15 onQueue with loft.zero := some ⟨0, 0, 0, none⟩ };
      entryBar 15 (entryOf 4 1) s = none ∧ unitBusy (byteAt (entryOf 4 1) 0) (byteAt (entryOf 4 1) 1) s = true) ∧
    (let s := { queued 15 onQueue with roll.entries := [(4095, { st := .ready })] };
      entryBar 15 (entryOf 2 3) s = none ∧ byteAt (entryOf 2 3) 0 = 2 ∧ byteAt (entryOf 2 3) 1 = 3 ∧ leAt (entryOf 2 3) 8 2 < 4096 ∧
      jobBar true s = none ∧ (entryAt s (leAt (entryOf 2 3) 8 2)).st = .ready ∧ hubServes s = true ∧ nextQueue s = some 15) := by decide +kernel

/-- A partition at the top of the addresses that a COPY may name; a range of no partition; a length that is none. -/
theorem test_Copies : (let s := { live with loft.parts := [(15, ⟨1, 262143, 262144⟩)] };
      15 < 16 ∧ s.sec.owned = true ∧ unitBar s = none ∧ 64 ≠ 0 ∧ 64 % 64 = 0 ∧ (2 ^ 39 - 64) + 64 ≤ 2 ^ 39 ∧
      firstOutside (jobRanges s) (2 ^ 39 - 64) (2 ^ 39 - 64 + 64) = none ∧ copyHeld s (2 ^ 39 - 64) 64 = false ∧ (2 ^ 39 - 64) % 64 = 0 ∧
      firstPoison s (2 ^ 39 - 64) 64 = none ∧ firstPoison s (2 ^ 39 - 65) 64 = none ∧ s.host.up = true ∧ s.host.txq = []) ∧
    (2 ^ 39 < (2 ^ 39 - 63) + 64 ∧ 65 % 64 ≠ 0 ∧ firstOutside (jobRanges live) 0 (0 + 64) = some 0) := by decide +kernel

theorem test_SmbusAnswers : live.pins.resetN = true ∧ live.pins.pwrgdAux = true := by decide

/-! ## Witnesses: the context block -/

/-- A job that stops: its stall stopped at the end of its program. -/
def stopping (st : CtxState) : State := { working with
  stalls := [(1, { loadedStall with preempted := true })], ctx.st := st, ctx.preempt := none }

theorem test_JobsStopAndResume : Reaches working .job ctxBase ∧
    (working.ctx.vac = none ∧ unitBar working = none ∧ working.ctx.preempt = none ∧ working.ctx.st = .run) ∧
    (let s := { stopping .stopping with stalls := [(1, loadedStall)] };
      s.ctx.st = .stopping ∧ 1 ∈ residentStalls s ∧ physOf s 1 = some 1 ∧ stopsAs 1 1 s = some 2 ∧ (stallP s 1).prog = none) ∧
    (let s := { stopping .stopping with ctx.preempt := some (regIssuer 255) };
      s.ctx.st = .stopping ∧ s.ctx.preempt = some (regIssuer 255) ∧
      (∀ n ∈ satchelStalls s, (physOf s n).all (fun p => (stallP s p).preempted && writesOut (stallP s p) = 0) = true) ∧
      (∀ k ∈ s.fab.net, toWindow (satchelStalls s) k.body = false) ∧ ∀ e ∈ s.vid.engines, e.2.run = none) ∧
    ((stopping .stopped).ctx.st = .stopped ∧ unitBar (stopping .stopped) = none ∧ (stopping .stopped).ctx.preempt = none ∧
      (∀ n ∈ satchelStalls (stopping .stopped), (physOf (stopping .stopped) n).all (fun p => opsOf (stallP (stopping .stopped) p) = []) = true)) ∧
    ((stopping .held).ctx.st = .held ∧ unitBar (stopping .held) = none ∧ (circAt (stopping .held) 5).st ≠ .absent) :=
  ⟨reaches_live rfl rfl, by decide +kernel⟩

/-- Bytes in the middle of a string. -/
theorem slice_mid (pre mid post : List Byte) (off n : Nat) (ho : pre.length = off) (hn : mid.length = n) :
    slice (pre ++ (mid ++ post)) off n = mid := by
  subst ho hn
  simp [slice]

theorem slice_end (pre mid : List Byte) (off n : Nat) (ho : pre.length = off) (hn : mid.length = n) : slice (pre ++ mid) off n = mid := by
  simpa using slice_mid pre mid [] off n ho hn

theorem padTo_prefix (pre post : List Byte) (n : Nat) (h : pre.length = n) : padTo n (pre ++ post) = pre := slice_mid [] pre post 0 n rfl h

theorem padTo_self (b : List Byte) (n : Nat) (h : b.length = n) : padTo n b = b := by
  simpa using padTo_prefix b [] n h

theorem byteAt_slice_past (b : List Byte) (off n i : Nat) (h : b.length ≤ off + i) : byteAt (slice b off n) i = 0 := by
  have ht : ((b.drop off).take n).length ≤ i := by simp; omega
  simp only [byteAt, slice]
  rw [List.getD_eq_getElem?_getD, List.getElem?_append_right ht, List.getElem?_replicate]
  split <;> rfl

theorem drivenMarked_short (s : State) (b : List Byte) (h : b.length ≤ 0x28000) : drivenMarked s (slice b 0x1000 0x100000) = true := by
  simp only [drivenMarked, List.all_eq_true, List.mem_range]
  intro c hc
  rw [byteAt_slice_past b _ _ _ (by omega)]
  rfl

/-- The geometry record (R206). -/
def geom : List Byte := leBytes 2 1200 ++ [64, 64, 64, 16] ++ leBytes 2 1024 ++ leBytes 4 2097152 ++ leBytes 2 64 ++ leBytes 2 256 ++ [1, 1] ++ zeros 14

/-- A satchel header and trailer for the job of the image: its digest is of the image's digest field, zeros; STALLSET is stall 1. -/
def satchelFirst : List Byte := [0x57, 0x4A, 0x32, 0x43, 1, 0, 0, 0] ++ leBytes 8 4160 ++ zeros 16
noncomputable def satchelBody0 : List Byte := satchelFirst ++ geom ++ (digestOf (zeros 32) ++ (zeros 32 ++ [2] ++ zeros 3967))
def satchelEnd : List Byte := [0x57, 0x4A, 0x32, 0x45] ++ zeros 4 ++ leBytes 8 4160 ++ zeros 16
noncomputable def satchel : List Byte := satchelBody0 ++ (satchelEnd ++ digestOf satchelBody0)

theorem length_digestOf (b : List Byte) : (digestOf b).length = 32 := by rw [digestOf_eq, length_sha256]
theorem length_satchelBody0 : satchelBody0.length = 4096 := by
  simp only [satchelBody0, List.length_append, length_digestOf, show (zeros 3967).length = 3967 from List.length_replicate]; rfl
theorem length_satchel : satchel.length = 4160 := by
  simp only [satchel, List.length_append, length_digestOf, length_satchelBody0]; rfl

/-- A device about to be given that satchel. -/
def restoring : State := { working with roll.circuits := [(5, { st := .stopped })], ctx.argLen := 4160 }

theorem sylDigest_working (s : State) (h : residents s = [0]) (h' : imgDigest (imgAt s 0) = zeros 32) :
    satchelSylDigest s = sha256 (zeros 32) := by simp [satchelSylDigest, h, h']

theorem satchelSealed_satchel : satchelSealed satchel 4160 = true := by
  have hb : padTo 4096 satchel = satchelBody0 := padTo_prefix _ _ _ length_satchelBody0
  have ht : slice satchel 4096 64 = satchelEnd ++ digestOf satchelBody0 := slice_end _ _ _ _ length_satchelBody0 (by
    rw [List.length_append, length_digestOf]; rfl)
  have h3 : slice (satchelEnd ++ digestOf satchelBody0) 32 32 = sha256 satchelBody0 := by
    rw [slice_end satchelEnd _ 32 32 rfl (length_digestOf _), digestOf_eq]
  show ((slice (slice satchel 4096 64) 0 4 == [0x57, 0x4A, 0x32, 0x45]) && decide (leAt (slice satchel 4096 64) 8 8 = 4160) &&
    (slice (slice satchel 4096 64) 32 32 == sha256 (padTo 4096 satchel))) = true
  rw [ht, hb, h3]
  simp only [beq_self_eq_true, Bool.and_true]
  decide +kernel

theorem slice_satchel_digest : slice satchel 64 32 = sha256 (zeros 32) := by
  have : satchel = (satchelFirst ++ geom) ++ (digestOf (zeros 32) ++ ((zeros 32 ++ [2] ++ zeros 3967) ++ (satchelEnd ++ digestOf satchelBody0))) := by
    simp only [satchel, satchelBody0, List.append_assoc]
  rw [this, slice_mid _ _ _ _ _ (by rfl) (length_digestOf _), digestOf_eq]

theorem satchelFits_satchel : satchelFits restoring satchel = true := by
  have h1 : (slice satchel 32 32 == geometry) = true := by decide +kernel
  have h2 : (slice satchel 128 150 == stallBitmap (satchelStalls restoring)) = true := by decide +kernel
  rw [satchelFits, h1, h2, slice_satchel_digest, sylDigest_working _ (by decide +kernel) (by decide +kernel)]
  simp

theorem test_JobsSaveAndRestore : Reaches restoring .job ctxBase ∧ Reaches restoring .priv (ctxBase + 0x400) ∧
    (restoring.ctx.vac = none ∧ unitBar restoring = none ∧ restoring.ctx.preempt = none ∧ restoring.snap.st = .off ∧
      restoreReady restoring = true ∧ restoring.ctx.st = .run) ∧
    (let s := { live with ctx.st := .stopped, ctx.argLen := satchelLength live false };
      s.ctx.st = .stopped ∧ satchelLength s false ≤ s.ctx.argLen ∧ unitBar s = none ∧
      ({ live with ctx.st := .stopped } : State).ctx.argLen < satchelLength { live with ctx.st := .stopped } false) ∧
    (satchel = padTo restoring.ctx.argLen satchel ∧ drivenMarked restoring (slice satchel 0x1000 0x100000) = true ∧
      satchelHead satchel restoring.ctx.argLen = true ∧ satchelFits restoring satchel = true ∧
      satchelSealed satchel restoring.ctx.argLen = true ∧ byteAt satchel 6 = 0) ∧
    (satchelHead (padTo 4160 []) 4160 = false ∧ drivenMarked restoring (slice (padTo 4160 []) 0x1000 0x100000) = true) ∧
    (satchelHead (padTo 4160 satchelFirst) 4160 = true ∧ satchelFits restoring (padTo 4160 satchelFirst) = false ∧
      drivenMarked restoring (slice (padTo 4160 satchelFirst) 0x1000 0x100000) = true) :=
  ⟨reaches_live rfl rfl, ⟨rfl, fun h => by cases h⟩, by decide +kernel, by decide +kernel,
    ⟨(padTo_self _ _ length_satchel).symm, drivenMarked_short _ _ (by rw [length_satchel]; decide), by decide +kernel, satchelFits_satchel,
      satchelSealed_satchel, by decide +kernel⟩,
    ⟨by decide +kernel, drivenMarked_short _ _ (by decide +kernel)⟩,
    by decide +kernel, by
      have h1 : (slice (padTo 4160 satchelFirst) 32 32 == geometry) = false := by decide +kernel
      rw [satchelFits, h1]; rfl, drivenMarked_short _ _ (by decide +kernel)⟩

/-- A SAVE of the loft too, of a device without extents, and of one whose extent begins with a poisoned word. -/
theorem test_JobsSaveAndRestore_loft : (let s := { live with ctx.st := .stopped, ctx.argLen := satchelLength live true };
      satchelLength s true ≤ s.ctx.argLen ∧ ∀ x ∈ satchelExtents s, firstPoison s x.1 (x.2 - x.1) = none) ∧
    (let s := { live with ctx.st := .stopped, ctx.argLen := 2 ^ 32, loft.parts := [(0, ⟨1, 1, 2⟩)], loft.poison := [2 ^ 21] };
      satchelLength s true ≤ s.ctx.argLen ∧ (2 ^ 21, 2 ^ 22) ∈ satchelExtents s ∧
      firstPoison s (2 ^ 21) (2 ^ 22 - 2 ^ 21) = some (2 ^ 21)) := by decide +kernel

/-! ## Witnesses: snapshots -/

/-- An owned device whose store link is up, in a state. -/
def snapping (st : SnapState) : State := { live with snap.link := true, snap.st := st, snap.lbaCount := 2 ^ 31 }
def answers : StoreAnswers := ⟨0, true, 12, 2 ^ 32, 1, 128 * 1024, 0, [], []⟩
def drain0 : Drain := { slot := 1, seq := 3, step := 7, jobid := 0, body := [], todo := [], outstanding := [] }
def draining (d : Drain) : State := { snapping .drain with snap.drain := some d }

theorem test_SnapshotsTaken : Reaches (snapping .off) .priv snapBase ∧
    (∀ st ∈ [SnapState.off, .armed], unitBar (snapping st) = none ∧ (snapping st).snap.aborting = none ∧ (snapping st).snap.st = st ∧
      (snapping st).snap.link = true ∧ answers.identifyStatus = 0 ∧ answers.readStatus = 0 ∧ storeFits (snapping st) answers = true ∧
      regionFits (snapping st) = true) ∧
    ((draining drain0).snap.st = .drain ∧ (draining drain0).snap.drain = some drain0 ∧ drain0.outstanding = []) ∧
    (let s := { snapping .armed with snap.at_ := some 7 };
      s.snap.st = .armed ∧ stopped s = false ∧ s.flt.jstopped = false ∧ snapTarget s = some 7 ∧ atStep s 7 = true ∧
      drainPoison s 7 = none ∧ s.snap.link = true) ∧
    (drain0.lossRead = false ∧ stepDone (draining drain0) drain0.step = true ∧
      firstPoison (draining drain0) (stageBase (draining drain0) + 0x40) (draining drain0).snap.losslen = none ∧
      (draining drain0).snap.aborting = none) ∧
    (let d := { drain0 with lossRead := true };
      (draining d).snap.drain = some d ∧ d.lossRead = true ∧ d.todo = [] ∧ d.outstanding = []) ∧
    (let d := { drain0 with outstanding := [(65535, .flush)] };
      storeWaits (draining d) 65535 = true ∧ (255 : Nat) ≠ 0 ∧ storeWaits (draining d) 0 = false ∧ stopped { draining d with pwr.stopped := true } = true) ∧
    live.snap.link = false := ⟨⟨rfl, fun h => by cases h⟩, by decide +kernel⟩

theorem test_SnapshotsTaken_poison : (let d := { drain0 with outstanding := [(65535, .flush)] };
    (draining d).loft.poison = [] ∧
      ((drainRanges (draining d) d.step).any fun x => x.1 ≤ stageBase (draining d) && stageBase (draining d) < x.2) = true) := by
  decide +kernel

/-- A snapshot of the job of the image: header, and the digest of its trailer at the end of what is written of it. -/
def snapFirst : List Byte := [0x57, 0x4A, 0x32, 0x50, 1, 0, 0, 0] ++ leBytes 8 4128 ++ zeros 8
noncomputable def snapBody0 : List Byte := snapFirst ++ (snapConf (snapping .armed) ++ geom) ++ (digestOf (zeros 32) ++ (zeros 32 ++ [2] ++ zeros 3967))
noncomputable def snapshot : List Byte := snapBody0 ++ digestOf snapBody0

/-- The device about to be given it. -/
def snapHere : State := { restoring with snap := (snapping .armed).snap }

theorem length_snapBody0 : snapBody0.length = 4096 := by
  simp only [snapBody0, List.length_append, length_digestOf, show (zeros 3967).length = 3967 from List.length_replicate]; decide +kernel
theorem length_snapshot : snapshot.length = 4128 := by
  rw [snapshot, List.length_append, length_digestOf, length_snapBody0]

theorem slice_snapshot_digest : slice snapshot 64 32 = sha256 (zeros 32) := by
  have : snapshot = (snapFirst ++ (snapConf (snapping .armed) ++ geom)) ++ (digestOf (zeros 32) ++ ((zeros 32 ++ [2] ++ zeros 3967) ++
      digestOf snapBody0)) := by simp only [snapshot, snapBody0, List.append_assoc]
  rw [this, slice_mid _ _ _ _ _ (by decide +kernel) (length_digestOf _), digestOf_eq]

theorem snapFits_snapshot : snapFits snapHere snapshot = true := by
  have h1 : (slice snapshot 32 32 == geometry) = true := by decide +kernel
  have h2 : (slice snapshot 128 150 == stallBitmap (satchelStalls snapHere)) = true := by decide +kernel
  have h3 : (slice snapshot 24 8 == snapConf snapHere && (snapTable snapHere snapshot).all fun r => decide (r.2 ≤ exposed)) = true := by
    decide +kernel
  rw [snapFits, Bool.and_assoc, h3, satchelFits, h1, h2, slice_snapshot_digest, sylDigest_working _ (by decide +kernel) (by decide +kernel)]
  simp

theorem snapshot_sealed : slice snapshot (leAt snapshot 8 8 - 32) 32 = sha256 (padTo (leAt snapshot 8 8 - 32) snapshot) := by
  have h : leAt snapshot 8 8 = 4128 := by decide +kernel
  rw [h]
  show slice snapshot 4096 32 = sha256 (padTo 4096 snapshot)
  rw [snapshot, slice_end _ _ _ _ length_snapBody0 (length_digestOf _), padTo_prefix _ _ _ length_snapBody0, digestOf_eq]

theorem test_SnapshotsRestored_restore : Reaches snapHere .priv snapBase ∧ (unitBar snapHere = none ∧ snapHere.snap.aborting = none ∧
      snapHere.snap.st = .armed ∧ restoreReady snapHere = true) ∧ drivenMarked snapHere (slice snapshot 0x1000 0x100000) = true ∧
    (snapHead snapHere true (1 % 2) [] = false ∧ drivenMarked snapHere (slice [] 0x1000 0x100000) = true) ∧
    (snapHead snapHere true (1 % 2) (padTo 4128 snapFirst) = true ∧ snapFits snapHere (padTo 4128 snapFirst) = false) ∧
    snapHead snapHere true (1 % 2) snapshot = true ∧ snapFits snapHere snapshot = true ∧
    slice snapshot (leAt snapshot 8 8 - 32) 32 = sha256 (padTo (leAt snapshot 8 8 - 32) snapshot) :=
  ⟨⟨rfl, fun h => by cases h⟩, by decide +kernel, drivenMarked_short _ _ (by rw [length_snapshot]; decide),
    ⟨by decide, drivenMarked_short _ _ (by decide)⟩, ⟨by decide +kernel, by
      have h1 : (slice (padTo 4128 snapFirst) 32 32 == geometry) = false := by decide +kernel
      rw [snapFits, satchelFits, h1]; rfl⟩, by
      have h : leAt snapshot 8 8 = 4128 := by decide +kernel
      rw [snapHead, if_pos rfl, length_snapshot, h]
      decide +kernel, snapFits_snapshot, snapshot_sealed⟩

theorem test_SnapshotsRestored_position :
    positionOk (snapWrite snapshot (leAt snapshot 16 4) snapHere) (leAt snapshot (0x111000 + 0x8000 * (satchelStalls snapHere).length) 4)
      (leAt snapshot 16 4) = true := by
  decide +kernel

/-- The image's device with a group named, one in HELD, and one replaying whose loss differs. -/
theorem test_SnapshotsRestored_rest : Reaches (snapping .off) .priv snapBase ∧
    (unitBar live = none ∧ live.snap.aborting = none ∧ namedGroups live = [] ∧ namedGroups grouped ≠ [] ∧ unitBar grouped = none) ∧
    ((snapping .held).snap.st = .held ∧ (snapping .replay).snap.st = .replay ∧
      stepDone (snapping .replay) (snapping .replay).snap.replayStep = true ∧
      (let s := snapping .replay
       firstPoison s (stageBase s + 0x40) s.snap.losslen = none ∧
       firstPoison { s with loft.poison := [0x40] } (stageBase s + 0x40) s.snap.losslen = some 0x40) ∧
      lossDiffers { snapping .replay with snap.expectLoss := zeros 4 } = none ∧
      lossDiffers { snapping .replay with snap.expectLoss := [0, 0, 0, 1] } = some 3) ∧
    (configBars live = false ∧ configBars working = true ∧ isConfig 0x10 = true ∧ isConfig 0x138 = true) :=
  ⟨⟨rfl, fun h => by cases h⟩, by decide +kernel⟩

/-! ## Witnesses: fault records -/

/-- A working device with one raised record. -/
def raised (code : Nat) : State := { working with flt.raised := [{ code := code }] }

/-- In drill mode, with these records raised. -/
def drilled (rs : List FRec) : State := { working with bring.drill := true, flt.raised := rs }

theorem test_FaultRecordsCommit_drill :
    (let s := drilled [{ source := 3, unit := 4 }, { source := 3, unit := 4 }];
      s.flt.raised[1]? = some { source := 3, unit := 4 } ∧ s.bring.drill = true ∧
      ((s.flt.raised.take 1).any fun x => x.source = 3 && x.unit = 4) = true) ∧
    (let s := drilled [{ source := 0, unit := 31 }, { source := 8, unit := 0 }];
      s.flt.raised[0]? = some { source := 0, unit := 31 } ∧ ({ source := 8, unit := 0 } : FRec) ∈ s.flt.raised ∧
      (∀ k ∈ s.flt.pkgWin, k ∉ s.flt.raised.map pkgIndex) ∧
      pkgIndex { source := 8, unit := 0 } < pkgIndex { source := 0, unit := 31 }) ∧
    (let s := drilled [{ source := 0, unit := 31 }];
      s.flt.raised[0]? = some { source := 0, unit := 31 } ∧ s.flt.pkgWin = [] ∧ s.flt.yardWin = [] ∧
      pkgIndex { source := 0, unit := 31 } < 42) := by decide

theorem test_FaultRecordsCommit : live.flt.raised[0]? = none ∧ (raised 0x0201).bring.drill = false ∧
    (∀ c ∈ [0x0301, 0x0401, 0x0201, 0x0101, 0x0701], (raised c).flt.raised[0]? = some { code := c } ∧
      codeClass c = if c = 0x0101 then 2 else if c = 0x0701 then 3 else if c = 0x0201 then 1 else 0) ∧
    ({ raised 0x0201 with flt.jstopped := true } : State).flt.jstopped = true ∧ (raised 0x0201).flt.jstopped = false ∧
    residentCount (raised 0x0201) ≠ 0 ∧ (raised 0x0701).pwr.stopped = false := by decide

/-- The last entry that a record of each kind takes, and the first that it does not; HEAD moved past all and past more. -/
theorem test_FaultLogs : codeClass 0x0301 = 0 ∧ codeClass 0x0201 ≠ 0 ∧ ({ count := 447 } : FLog).count < 448 ∧ 448 ≤ ({ count := 448 } : FLog).count ∧
    ({ count := 511 } : FLog).count < 512 ∧ 512 ≤ ({ count := 512 } : FLog).count ∧ hubServes live = true ∧
    (fld 511 8 0 + 512 - ({ count := 511 } : FLog).head) % 512 ≤ ({ count := 511 } : FLog).count ∧
    ({ count := 510 } : FLog).count < (fld 511 8 0 + 512 - ({ count := 510 } : FLog).head) % 512 := by decide

theorem test_FaultLogs_view : Reaches live .job fltBase := reaches_live rfl rfl

/-! ## Witnesses: registers and windows -/

theorem test_JobViewReaches : 0xFFFF < 0x10000 ∧ 1199 < 1200 := by decide

theorem test_JobViewRefusals : hubServes State.reset = false ∧ hubServes live = true ∧
    (∀ a ∈ [pwrBase, bringBase, secBase + 8, secBase + 0x18, sylBase + 0x400, sylBase + 0x5F0, rollBase + 0x400, loftBase, loftBase + 0x278,
      gateBase + 8, gateBase + 0x158, hostBase + 0x300, ctxBase + 0x400, snapBase, fltBase + 8], jobReach live a true = false) ∧
    (∀ a ∈ [sylBase, rollBase, loftBase + 0x10, vidBase, hostBase + 0x110, ctxBase, rngBase, fltBase, stwBase 1199 + 0xFF8],
      jobReach { live with sec.owned := false } a true = false) ∧
    (inWindow pwrBase = true ∧ pwrBase % 8 = 0 ∧ jobReach live pwrBase false = false) ∧
    codeClass ({ code := 0x0603 } : FRec).code = 0 ∧
    (nextQueue { queued 15 onQueue with sec.owned := false } = some 15 ∧ (entryOf 5 8).length = 64 ∧ byteAt (entryOf 5 8) 0 = 5 ∧
      byteAt (entryOf 5 8) 1 = 8 ∧ byteAt (entryOf 6 8) 0 = 6) := by decide +kernel

theorem test_RegisterAccesses : hubServes live = true ∧
    (inWindow 0x600000 = false ∧ 0x44 % 8 ≠ 0 ∧ 512 < (List.replicate 513 (0 : W64)).length ∧ 12 % 8 ≠ 0 ∧ 4096 < 4104) ∧
    (0xEFFF8 < 0xF0000 ∧ 0xEFFF8 % 8 = 0 ∧ jobReach live 0x20 false = true) ∧
    ([0] : List W64) ≠ [] ∧ inWindow 0x40 = true ∧ accessOk 0x40 (8 * (([0] : List W64).length + 1)) = true ∧
    (fld 620 9 0 = 620 ∧ fld 850 9 0 = 850 ∧ fld 619 9 0 < 620 ∧ 850 < fld 851 9 0 ∧ fld 0x83 3 0 = 3 ∧ fld 0x81 3 0 = 1) := by decide +kernel

theorem test_RegisterAccesses_burst : exec (.registerWrite .priv 0x40 [5] none) live = .next { live with dev.scratch := 5 } ∧
    hubServes { live with dev.scratch := 5 } = true := ⟨rfl, rfl⟩

/-- The last word of a space, and one beyond it; a stall of an image; a stall in a gated yard. -/
theorem test_StallWindows : (hubServes live = true ∧ 1 < 1200 ∧ 255 < 256 ∧ windowStall live 1 = some 1) ∧
    (let s := { live with stalls := [(1, { offset := 0x3FF00 })] };
      yardUp s (yardOf 1) = true ∧ aperOffset (stallP s 1) 255 < spaceSize (stallP s 1).space ∧ aperMay s (stallP s 1) = true ∧
      Memory.wf (stallP s 1).scratch = true ∧ (stallP s 1).space = 0) ∧
    (aperOffset (stallP working 1) 255 < spaceSize (stallP working 1).space ∧ aperMay working (stallP working 1) = false) ∧
    (let s := { live with stalls := [(1, { offset := 0x3FF01 })] };
      spaceSize (stallP s 1).space ≤ aperOffset (stallP s 1) 255) ∧
    (yardUp { live with pwr.yardOn := 2 } (yardOf 1) = false ∧ 0xFF8 < 0x1000 ∧ 0xFF8 % 8 = 0) ∧
    jobReach { live with sec.owned := false } (stwBase 1 + 0xFF8) true = false := by decide +kernel

/-! ## Witnesses: the invariants -/

theorem test_FieldsStayInRange : FieldsInRange { live with roll.mark := 0xFF, pwr.vset := 850, loft.tick := 20 } ∧
    step live = .next (tick live) := by
  refine ⟨by unfold FieldsInRange; decide, rfl⟩

theorem test_MemoriesStayCanonical : MemoriesCanonical { working with loft.mem := [(0, 1), (2 ^ 39 - 1, 255)] } ∧
    step working = .next (tick working) := by
  refine ⟨by unfold MemoriesCanonical; decide, rfl⟩

theorem test_YardsStayConsistent : YardsConsistent { live with pwr.gating := 1, pwr.ungating := 2, pwr.waitingY := 4 } ∧
    step live = .next (tick live) := by
  refine ⟨by unfold YardsConsistent; decide, rfl⟩

/-! ## The worked examples of the spec: the expected values stand in its text -/

/-- 03_number_formats, "3.3 to FP8 E4M3". -/
theorem test_round_3_3 :
    (convert 3 0 false 0 (val32 0x40533333)).bits = 0x45 ∧ (convert 3 1 false 0 (val32 0x40533333)).bits = 0x45 ∧
    ∀ r ∈ [0, 1, 2, 3, 15], (convert 3 2 false r (val32 0x40533333)).bits = if r < 3 then 0x46 else 0x45 := by decide +kernel

/-- 03_number_formats, "a dominated MXFP4 block". -/
theorem test_block_dominated :
    let b := buildBlock 9 0 false ((val32 0x42200000, 0) :: (val32 0xC0400000, 0) :: (val32 0x3E99999A, 0) ::
      List.replicate 29 (Val.zero, 0));
    b.scale = 0x82 ∧ b.elems.take 4 = [6, 9, 0, 0] ∧ b.under = 1 ∧ b.satur = 0 := by decide +kernel

/-- 03_number_formats, "folds and readout". -/
theorem test_folds :
    let one := (foldAcc 0 ⟨.fin false 1 0, false⟩).1;
    let two := (foldAcc one ⟨.fin false 3 (-32), false⟩).1;
    let negOne := (foldAcc 0 ⟨.fin true 1 0, false⟩).1;
    let negTwo := (foldAcc negOne ⟨.fin true 3 (-32), false⟩).1;
    one = 0x3F80000000 ∧ two = 0x3F80000001 ∧ (readFloat false two).bits = 0x3F800000 ∧
    negOne = 0xBF80000000 ∧ negTwo = 0xBF80000002 ∧ (readFloat false negTwo).bits = 0xBF800000 := by decide +kernel

/-- 05_vector_engine_and_functions, "a long row of nearly equal values". -/
theorem test_long_row : statVar (rowPart (List.replicate 64 0x49800040 ++ [0x49800030, 0x49800050, 0x49800040, 0x49800040])) =
    0x3DF0F0F1 := by decide +kernel

/-- 11_random_numbers_and_sampling, "the bits behind one BF16 weight": word 1, bits 19:16 of the block at that counter. -/
theorem test_sr_counter (seed : W64) :
    srBitsOf ⟨seed, 5000⟩ 0x24_8000_148C 5 =
      bits ((rngF (rngKey seed) [0x00A40005, 0x00012400, 0x1388, 0x00020000]).getD 1 0).toNat 19 16 := rfl

/-- 12_loft_memory, "two addresses". -/
theorem test_slice : sliceOf State.reset 0x2801234567 = (820, 58727) := by decide +kernel

/-- 01_architecture, "where logical stall 757 lives": its window (R493). -/
theorem test_window_757 : stwBase 757 = 0x3F5000 := by decide

/-- 22_fault_reporting, "decoding an accumulator overflow". -/
theorem test_record_bytes :
    let r := recBytes {
      code := 0x0201, unit := 807, lstall := 757, beats := 5000001024, seq := 0x3A41, detail := detL 3 [2, 0] }
    r.length = 32 ∧ leAt r 0 8 = 0x02F5032700010201 ∧ leAt r 8 8 = 0x2A05F60000003A41 ∧ leAt r 16 8 = 0x0000000200030001 ∧
    leAt r 24 8 = 0 := by decide +kernel

/-- 14_optical_gates_and_groups, "a ring all-reduce": both routes are well formed. -/
theorem test_ring_routes : routeOk 0x10001 0x1000000000000000 = true ∧ routeOk 1 0x1000000000000000 = true := by decide +kernel

/-- The check value of CRC-32C. -/
theorem test_crc32c : crc32c [0x31, 0x32, 0x33, 0x34, 0x35, 0x36, 0x37, 0x38, 0x39] = 0xE3069283 := by decide +kernel


end Sys2Proof.Tests
end

section
/-! PROOFS. Register accesses: when an access is performed, what one word of it does, and the statement of O55. -/

namespace Sys2Proof.Machine

/-! ## The fields of a written word (R7, R8) -/

theorem fld_lt (w : W64) (hi lo : Nat) : fld w hi lo < 2 ^ (hi + 1 - lo) := Nat.mod_lt _ (Nat.two_pow_pos _)

/-- A one-bit field is 0 where its bit is clear. -/
theorem fld_bit_eq_zero_iff (w : W64) (i : Nat) : fld w i i = 0 ↔ w.getLsbD i = false := by
  have hbit : fld w i i = w.toNat / 2 ^ i % 2 := by simp [fld, bits]
  rw [hbit, ← BitVec.testBit_toNat, Nat.testBit_eq_decide_div_mod_eq]
  simp

/-- A W1C flag stays set where it was and its bit is not written 1 (R8). -/
theorem w1c_eq (x : Bool) (w : W64) (i : Nat) : w1c x w i = (x && !w.getLsbD i) := by
  simp [w1c, fld_bit_eq_zero_iff]

/-! ## Which accesses are performed (R489, R491) -/

theorem inWindow_iff (addr : Nat) : inWindow addr = true ↔ addr < 0xF0000 ∨ 0x100000 ≤ addr ∧ addr < 0x5B0000 := by
  simp [inWindow]

theorem accessOk_iff (addr len : Nat) : accessOk addr len = true ↔
    addr % 8 = 0 ∧ len % 8 = 0 ∧ 8 ≤ len ∧ len ≤ 4096 ∧ addr / 0x10000 = (addr + len - 1) / 0x10000 ∧
    (addr < 0x100000 ∨ addr / 0x1000 = (addr + len - 1) / 0x1000) := by
  simp [accessOk, and_assoc]

/-- An aligned word lies in one block and in one window. -/
theorem accessOk_word {addr : Nat} (ha : addr % 8 = 0) : accessOk addr 8 = true := by
  rw [accessOk_iff]; omega

/-- An access outside the window, misaligned, of no whole words, of none or of more than 512 is not performed. -/
theorem access_refused {addr len : Nat}
    (hbad : inWindow addr = false ∨ addr % 8 ≠ 0 ∨ len % 8 ≠ 0 ∨ len = 0 ∨ 4096 < len) (hwin : inWindow addr = true) :
    ¬ accessOk addr len = true := by
  rw [accessOk_iff]
  rcases hbad with hout | hbad
  · simp [hout] at hwin
  · omega

/-- The words of a burst after its first are an access of their own, in the same block or window. -/
theorem accessOk_rest {addr n : Nat} (hwin : inWindow addr = true) (hok : accessOk addr (8 * (n + 1)) = true) (hn : 0 < n) :
    inWindow (addr + 8) = true ∧ accessOk (addr + 8) (8 * n) = true := by
  rw [inWindow_iff] at hwin
  rw [accessOk_iff] at hok
  obtain ⟨haddr, hmul, -, hmax, hblock, hwindow⟩ := hok
  rw [inWindow_iff, accessOk_iff]
  omega

/-! ## What an access does (R490 to R492) -/

section Served
variable {s : State} (hup : hubServes s = true)
include hup

/-- A write that is not performed sets BADACC and does nothing else. -/
theorem registerWrite_badacc {v : View} {addr : Nat} {ws : List W64} {data : HostRead}
    (hbad : inWindow addr = true → ¬ accessOk addr (8 * ws.length) = true) :
    registerWrite v addr ws data s = { s with dev.badacc := true } := by
  by_cases hwin : inWindow addr = true
  · simp [registerWrite, hup, hbad hwin]
  · simp [registerWrite, hup, hwin]

/-- A read that is not performed answers ADDRESS with zeros, sets BADACC and does nothing else. -/
theorem registerRead_badacc {v : View} {tag addr len : Nat} (hbad : inWindow addr = true → ¬ accessOk addr len = true) :
    registerRead v tag addr len s = hostSend [.cpl tag 2 (zeros len)] { s with dev.badacc := true } := by
  by_cases hwin : inWindow addr = true
  · simp [registerRead, hup, hbad hwin]
  · simp [registerRead, hup, hwin]

/-- A write that is performed writes its words in ascending order. -/
theorem registerWrite_burst {v : View} {addr : Nat} {ws : List W64} {data : HostRead} (hwin : inWindow addr = true)
    (hok : accessOk addr (8 * ws.length) = true) : registerWrite v addr ws data s = burstWrite v data ws addr s := by
  simp [registerWrite, hup, hwin, hok]

/-- A read that is performed answers OK with its words in ascending order. -/
theorem registerRead_burst {v : View} {tag addr len : Nat} (hwin : inWindow addr = true) (hok : accessOk addr len = true) :
    registerRead v tag addr len s = hostSend [.cpl tag 0 ((burstRead v (len / 8) addr s).1.flatMap wordBytes)]
      (burstRead v (len / 8) addr s).2 := by
  simp [registerRead, hup, hwin, hok]

/-- A word read from the blocks is its register's word. -/
theorem registerRead_word {v : View} {tag addr : Nat} (hblocks : addr < 0xF0000) (ha : addr % 8 = 0)
    (hv : v = .job → jobReach s addr false = true) :
    registerRead v tag addr 8 s = hostSend [.cpl tag 0 (wordBytes (regWord v addr s))] s := by
  have hword : wordRead v addr s = (regWord v addr s, s) := by
    have hreach : ¬ (v = .job && !jobReach s addr false) = true := by simpa using hv
    rw [wordRead, if_neg hreach, if_neg (by omega)]
  rw [registerRead_burst hup ((inWindow_iff addr).2 (.inl hblocks)) (accessOk_word ha)]
  simp [burstRead, hword]

/-- A word that the privileged view writes to the blocks reaches its register. -/
theorem registerWrite_word {addr : Nat} {w : W64} {data : HostRead} (hblocks : addr < 0xF0000) (ha : addr % 8 = 0) :
    registerWrite .priv addr [w] data s = regSet .priv addr w data s := by
  have hword : wordWrite .priv addr w data s = regSet .priv addr w data s := by
    rw [wordWrite, if_neg (by simp), if_neg (by omega)]
  rw [registerWrite_burst (ws := [w]) hup ((inWindow_iff addr).2 (.inl hblocks)) (accessOk_word ha), burstWrite, burstWrite, hword]

/-- A burst writes its first word, then the rest from the next address up (R491). -/
theorem registerWrite_cons {v : View} {addr : Nat} {w : W64} {ws : List W64} {data : HostRead} (hne : ws ≠ [])
    (hwin : inWindow addr = true) (hok : accessOk addr (8 * (ws.length + 1)) = true)
    (hup' : hubServes (registerWrite v addr [w] data s) = true) :
    registerWrite v addr (w :: ws) data s = registerWrite v (addr + 8) ws data (registerWrite v addr [w] data s) := by
  have hfirst : accessOk addr 8 = true := accessOk_word ((accessOk_iff _ _).1 hok).1
  obtain ⟨hwin', hok'⟩ := accessOk_rest hwin hok (List.length_pos_iff.2 hne)
  rw [registerWrite_burst hup' hwin' hok', registerWrite_burst (ws := w :: ws) hup hwin hok,
    registerWrite_burst (ws := [w]) hup hwin hfirst, burstWrite, burstWrite, burstWrite]

end Served

/-! ## What a word does in its block (R378, R407, R417, R498) -/

/-- DEV_ID is read-only. -/
theorem devSet_devId (w : W64) (s : State) : devSet 0x0 w s = s := rfl

theorem devSet_scratch (w : W64) (s : State) : devSet 0x40 w s = { s with dev.scratch := w } := rfl

/-- DEV_STATUS clears BADACC where bit 15 is written 1; its other fields are read-only. -/
theorem devSet_status (w : W64) (s : State) :
    devSet 0x20 w s = { s with dev.badacc := s.dev.badacc && !w.getLsbD 15 } := by
  simp [devSet, w1c_eq]

/-- HOST_STATUS clears QERR and ALERT where bits 4 and 3 are written 1. -/
theorem hostSet_status (w : W64) (s : State) : hostSet 0 w s =
    { s with host.qerr := s.host.qerr && !w.getLsbD 4, host.alert := s.host.alert && !w.getLsbD 3 } := by
  simp [hostSet, w1c_eq]

/-- The core set point takes a value of 620 to 850 mV. -/
theorem pwrSet_vset {w : W64} (s : State) (hlo : 620 ≤ fld w 9 0) (hhi : fld w 9 0 ≤ 850) :
    pwrSet 0x30 w s = { s with pwr.vset := fld w 9 0 } := by
  simp [pwrSet, hlo, hhi]

/-- A set point outside 620 to 850 mV is ignored. -/
theorem pwrSet_vset_ignored {w : W64} (s : State) (hout : fld w 9 0 < 620 ∨ 850 < fld w 9 0) : pwrSet 0x30 w s = s := by
  have hrange : ¬ (620 ≤ fld w 9 0 ∧ fld w 9 0 ≤ 850) := by omega
  simp [pwrSet, hrange]

/-! ## Command words are commands (R251, R409, R435) -/

/-- ROLL_CMD with OP 3 is PAUSE of the entry in IDX, under the tag in TAG. -/
theorem rollSet_pause {w : W64} {data : HostRead} {s : State} (hup : hubServes s = true) (hop : fld w 3 0 = 3) :
    exec (.rollPause .priv (fld w 47 40) (fld w 27 16)) s = .next (rollSet 0 w data s) := by
  have hidx : fld w 27 16 % 4096 = fld w 27 16 := Nat.mod_eq_of_lt (fld_lt w 27 16)
  simp [exec, execRollPause, hup, hidx, rollSet, hop, rollCommand]

/-- PWR_CMD with OP 3 is IDLE, under the tag in TAG. -/
theorem pwrSet_idle {w : W64} {s : State} (hup : hubServes s = true) (hop : fld w 3 0 = 3) :
    exec (.pwrIdle .priv (fld w 15 8)) s = .next (pwrSet 0 w s) := by
  have htag : fld w 15 8 % 256 = fld w 15 8 := Nat.mod_eq_of_lt (fld_lt w 15 8)
  simp [exec, execPwrIdle, hup, htag, pwrSet, hop, pwrCommand]

/-- CTX_CMD with OP 1 is PREEMPT, under the tag in TAG. -/
theorem ctxSet_preempt {w : W64} {data : HostRead} {s : State} (hup : hubServes s = true) (hop : fld w 3 0 = 1) :
    exec (.ctxPreempt .priv (fld w 23 16)) s = .next (ctxSet 0 w data s) := by
  simp [exec, execCtxPreempt, hup, ctxSet, hop, ctxCommand]

/-! ## The commands REGISTER_WRITE and REGISTER_READ (R424) -/

theorem exec_registerWrite (v : View) (addr : Nat) (ws : List W64) (data : HostRead) (s : State) :
    exec (.registerWrite v addr ws data) s = .next (registerWrite v addr ws data s) := rfl

theorem exec_registerRead (v : View) (tag addr len : Nat) (s : State) :
    exec (.registerRead v tag addr len) s = .next (registerRead v tag addr len s) := rfl

/-- REGISTER_WRITE of one word of the blocks by the privileged view is that word written to its register. -/
theorem exec_registerWrite_word {s : State} (hup : hubServes s = true) {addr : Nat} {w : W64} {data : HostRead}
    (hblocks : addr < 0xF0000) (ha : addr % 8 = 0) :
    exec (.registerWrite .priv addr [w] data) s = .next (regSet .priv addr w data s) := by
  rw [exec_registerWrite, registerWrite_word hup hblocks ha]

/-- Settles O55: a malformed access by `registerWrite_badacc` and `registerRead_badacc`, a burst by `registerWrite_cons`, and each
word of the blocks by the lemma about its register. -/
theorem registerAccesses : Obligations.RegisterAccesses := by
  intro s tag addr len w ws data v hup
  have write {a : Nat} {t : State} (ht : regSet .priv a w data s = t) (hblocks : a < 0xF0000 := by decide)
      (ha : a % 8 = 0 := by decide) : exec (.registerWrite .priv a [w] data) s = .next t :=
    (exec_registerWrite_word hup hblocks ha).trans (congrArg _ ht)
  refine ⟨fun hbad => ?badWrite, fun hbad => congrArg _ (registerRead_badacc hup (access_refused hbad)),
    fun hblocks ha hv => congrArg _ (registerRead_word hup hblocks ha hv), fun t hne hwin hok ht hup' => ?burst,
    write (devSet_devId w s), write (devSet_scratch w s), write (devSet_status w s), write (hostSet_status w s),
    fun hlo hhi => write (pwrSet_vset s hlo hhi), fun hout => write (pwrSet_vset_ignored s hout),
    fun hop => (write rfl).trans (rollSet_pause hup hop).symm, fun hop => (write rfl).trans (pwrSet_idle hup hop).symm,
    fun hop => (write rfl).trans (ctxSet_preempt hup hop).symm⟩
  case badWrite =>
    refine congrArg _ (registerWrite_badacc hup (access_refused ?_))
    rcases hbad with hout | halign | rfl | hlong
    · exact .inl hout
    · exact .inr (.inl halign)
    · simp
    · omega
  case burst =>
    obtain rfl : registerWrite v addr [w] data s = t := Host.Outcome.next.inj ht
    exact congrArg _ (registerWrite_cons hup hne hwin hok hup')

end Sys2Proof.Machine
end

section
/-! PROOFS. Lanes, gates and flits: how an engine and a gate read after each operation on them, and the statements of O36 and O33. -/

namespace Sys2Proof.Machine

/-! ## An engine and a gate after a change (R319, R327) -/

section Reads
variable (s : State)

@[simp] theorem engineAt_modEngine (e j : Nat) (f : Engine → Engine) :
    engineAt (modEngine e f s) j = if j = e then f (engineAt s e) else engineAt s j := tget_tmod _ _ _ _ _

@[simp] theorem gateAt_modGate (g j : Nat) (f : Gate → Gate) :
    gateAt (modGate g f s) j = if j = g then f (gateAt s g) else gateAt s j := tget_tmod _ _ _ _ _

@[simp] theorem gateAt_modEngine (e j : Nat) (f : Engine → Engine) : gateAt (modEngine e f s) j = gateAt s j := rfl
@[simp] theorem engineAt_modGate (g j : Nat) (f : Gate → Gate) : engineAt (modGate g f s) j = engineAt s j := rfl

@[simp] theorem engineAt_raise (code source unit lstall j : Nat) (detail : List Byte) :
    engineAt (raise code source unit lstall detail s) j = engineAt s j := rfl
@[simp] theorem gateAt_raise (code source unit lstall j : Nat) (detail : List Byte) :
    gateAt (raise code source unit lstall detail s) j = gateAt s j := rfl

end Reads

/-! ## Sending frames again (R324) -/

/-- Sending frames again returns slots and counts replays; it changes nothing else of the gate. -/
theorem resendList_gate (l : List TxFrame) (x : Gate) :
    ∃ freed replays, (resendList l x).1 = { x with freed := freed, replays := replays } := by
  induction l generalizing x with
  | nil => exact ⟨x.freed, x.replays, rfl⟩
  | cons f l ih =>
    obtain ⟨freed, replays, h⟩ := ih (sendAgain f x).1
    exact ⟨freed, replays, h⟩

/-- Frames sent again keep their numbers and their order. -/
theorem resendList_seq (l : List TxFrame) (x : Gate) : (resendList l x).2.map (·.seq) = l.map (·.seq) := by
  induction l generalizing x with
  | nil => rfl
  | cons f l ih => exact congrArg (f.seq :: ·) (ih (sendAgain f x).1)

theorem resendAll_st (x : Gate) : (resendAll x).st = x.st := by
  obtain ⟨freed, replays, h⟩ := resendList_gate x.unacked x
  simp [resendAll, h]

theorem resendAll_seq (x : Gate) : (resendAll x).unacked.map (·.seq) = x.unacked.map (·.seq) := resendList_seq x.unacked x

/-! ## A gate onto other wavelengths, and a gate DOWN (R326, R328) -/

theorem gateAt_retrained (g : Nat) (e : Engine) (s : State) :
    gateAt (retrained g e s) g = { resendAll (gateAt s g) with retrains := sat 16 ((gateAt s g).retrains + 1) } := by
  simp [retrained, laneErrClear]

theorem engineAt_retrained (g : Nat) (e : Engine) (s : State) :
    engineAt (retrained g e s) g = { e with err := [], warned := 0 } := by
  simp [retrained, laneErrClear]

theorem gateAt_gateDown (g wl : Nat) (s : State) :
    gateAt (gateDown g wl s) g = { gateAt s g with st := .down, keep := false } := by
  simp [gateDown]

/-! ## A lane loses lock (R322, R328) -/

/-- The receiver of wavelength `w` of engine `e` has lost lock (R322). -/
def laneUnlocks (e w : Nat) (s : State) : State :=
  modEngine e (fun x => { x with locked := x.locked &&& (x.locked ^^^ (1 <<< w)) }) s

@[simp] theorem gateAt_laneUnlocks (e w g : Nat) (s : State) : gateAt (laneUnlocks e w s) g = gateAt s g := rfl

theorem engineAt_laneUnlocks (e w : Nat) (s : State) : engineAt (laneUnlocks e w s) e =
    { engineAt s e with locked := (engineAt s e).locked &&& ((engineAt s e).locked ^^^ (1 <<< w)) } := by
  simp [laneUnlocks]

/-- The other lanes keep their lock. -/
theorem testBit_unlock {locked w sp : Nat} (hne : sp ≠ w) (hlock : locked.testBit sp = true) :
    (locked &&& (locked ^^^ (1 <<< w))).testBit sp = true := by
  have hother : (1 <<< w).testBit sp = false := by
    rw [Nat.one_shiftLeft]
    exact Nat.testBit_two_pow_of_ne hne.symm
  simp [hlock, hother]

theorem laneLossOfLock_inactive {e w : Nat} {s : State} (hw : w ∉ (engineAt s e).active) :
    laneLossOfLock e w s = laneUnlocks e w s := by
  simp [laneLossOfLock, laneUnlocks, hw]

theorem laneLossOfLock_gate {e w : Nat} {s : State} (he : e < 12) (hw : w ∈ (engineAt s e).active) :
    laneLossOfLock e w s = gateLaneLost e w (laneUnlocks e w s) := by
  simp [laneLossOfLock, laneUnlocks, hw, he]

/-- Outside drill mode a locked spare takes the lost lane's place. -/
theorem gateLaneLost_spared {g w sp : Nat} {s : State} (hup : (gateAt s g).st = .up) (hdrill : s.bring.drill = false)
    (hspare : (engineAt s g).spare = some sp) (hlock : (engineAt s g).locked.testBit sp = true) :
    gateLaneLost g w s = retrained g { engineAt s g with
      active := (engineAt s g).active.map (fun a => if a = w then sp else a), spare := none, spared := true } s := by
  simp [gateLaneLost, spareTakes, hup, hdrill, hspare, hlock]

/-- With no spare left, or in drill mode, the gate goes DOWN. -/
theorem gateLaneLost_down {g w : Nat} {s : State} (hup : (gateAt s g).st = .up)
    (hnone : (engineAt s g).spare = none ∨ s.bring.drill = true) : gateLaneLost g w s = gateDown g w s := by
  have htakes : (if s.bring.drill then none else spareTakes w (engineAt s g)) = none := by
    rcases hnone with hspare | hdrill
    · simp [spareTakes, hspare]
    · simp [hdrill]
  rw [gateLaneLost, htakes]
  simp [hup]

/-! ## Corrected symbols (R322) -/

/-- The corrected symbols of one window, counted. -/
def countCorrected (g w corrected : Nat) (s : State) : State :=
  modEngine g (fun x => { x with err := tmod (0, 0) x.err w fun c => (sat 32 (c.1 + corrected), c.2) }) s

theorem engineAt_countCorrected_warned (g w c : Nat) (s : State) :
    (engineAt (countCorrected g w c s) g).warned = (engineAt s g).warned := by
  simp [countCorrected]

theorem berWarn_warns {g w c : Nat} {s : State} (hc : 1369021 ≤ c) (hw : (engineAt s g).warned.testBit w = false) :
    berWarn g w c s = raise 0x0503 5 g 0x7FF (detG g w 0 0x7FF)
      (modEngine g (fun x => { x with warned := x.warned ||| (1 <<< w) }) (countCorrected g w c s)) :=
  if_pos ⟨hc, by simp [hw]⟩

theorem berWarn_counts {g w c : Nat} {s : State} (h : c < 1369021 ∨ (engineAt s g).warned.testBit w = true) :
    berWarn g w c s = countCorrected g w c s :=
  if_neg fun ⟨hc, hw⟩ => h.elim (by omega) hw

/-- Settles O36: a lost lane by `gateLaneLost_spared` and `gateLaneLost_down`, a window's symbols by `berWarn_warns` and
`berWarn_counts`. -/
theorem lanesLockAndFail : Obligations.LanesLockAndFail := by
  intro s e w
  refine ⟨rfl, fun hw => congrArg _ (laneLossOfLock_inactive hw), ?spared, ?down, ?warns, ?counts⟩
  case spared =>
    intro sp he hdrill hup hw hspare hne hlock
    have hlost : laneLossOfLock e w s = retrained e _ (laneUnlocks e w s) :=
      (laneLossOfLock_gate he hw).trans (gateLaneLost_spared (sp := sp) hup hdrill (by rw [engineAt_laneUnlocks, hspare])
        (by rw [engineAt_laneUnlocks]; exact testBit_unlock hne hlock))
    refine ⟨_, congrArg Host.Outcome.next hlost, ?_, ?_, ?_, ?_, ?_, ?_, ?_, rfl, rfl⟩
    all_goals simp [gateAt_retrained, engineAt_retrained, engineAt_laneUnlocks, resendAll_st, resendAll_seq, hup, sat]
  case down =>
    intro he hup hw hnone
    have hlost : laneLossOfLock e w s = gateDown e w (laneUnlocks e w s) :=
      (laneLossOfLock_gate he hw).trans (gateLaneLost_down hup (hnone.imp_left fun h => by rw [engineAt_laneUnlocks, h]))
    exact ⟨_, _, congrArg Host.Outcome.next hlost, by rw [gateAt_gateDown], rfl, rfl, rfl, rfl⟩
  case warns =>
    intro c hc hw
    refine ⟨_, _, congrArg Host.Outcome.next (berWarn_warns hc hw), rfl, rfl, rfl, ?_, rfl⟩
    simp [Nat.testBit_or]
  case counts =>
    intro c h
    exact ⟨_, congrArg Host.Outcome.next (berWarn_counts h), rfl, engineAt_countCorrected_warned e w c s, rfl⟩

/-! ## A flit's retries (R27, R310) -/

section Flits
variable {s : State} {k flit hop unit : Nat} {q : Packet} (hq : s.fab.net[k]? = some q) (hflit : flit < pktFlits q)
  (hhop : q.hops[hop]? = some unit)
include hq hflit hhop

/-- Outside drill mode a flit that failed fewer than seven times on a hop is sent again on it. -/
theorem flitRetry_again (hfails : tget 0 q.fails (8 * hop + flit) < 7) (hdrill : s.bring.drill = false) :
    flitRetry k flit hop s = { s with
      fab.net := s.fab.net.set k { q with fails := tset q.fails (8 * hop + flit) (tget 0 q.fails (8 * hop + flit) + 1) }
      fab.retries := sat 32 (s.fab.retries + 1) } := by
  simp [flitRetry, hq, Nat.not_le.2 hflit, hhop, hfails, hdrill, tmod]

/-- After seven failed retries, and in drill mode at once, the packet is dropped and the hop's unit recorded. -/
theorem flitRetry_drops (hend : 7 ≤ tget 0 q.fails (8 * hop + flit) ∨ s.bring.drill = true) :
    flitRetry k flit hop s = raise 0x0501 3 unit (if q.src < 1200 then q.src else 0x7FF) (detA (pktAddr q).1 (pktAddr q).2)
      { dropPkt k s with fab.dropped := sat 16 (s.fab.dropped + 1) } := by
  have hno : (tget 0 q.fails (8 * hop + flit) < 7 && !s.bring.drill) = false := by
    rcases hend with hfails | hdrill
    · simp [Nat.not_lt.2 hfails]
    · simp [hdrill]
  simp [flitRetry, hq, Nat.not_le.2 hflit, hhop, hno]

end Flits

/-- Settles O33, by `flitRetry_again` and `flitRetry_drops`. -/
theorem flitsRetrySevenTimes : Obligations.FlitsRetrySevenTimes := by
  intro s k flit hop unit q hq hflit hhop
  refine ⟨fun hfails hdrill => congrArg _ (flitRetry_again hq hflit hhop hfails hdrill), fun hend => ?_⟩
  exact ⟨_, _, congrArg Host.Outcome.next (flitRetry_drops hq hflit hhop hend), rfl, rfl, rfl, rfl⟩

end Sys2Proof.Machine
end

section
/-! PROOFS. Pins, modes and drill mode: what a reset keeps, when the boot starts, what the bring-up engine and a stopped unit do, and the
statements of O4 and O12. -/

namespace Sys2Proof.Machine

/-! ## Reset and pins (R29, R386, R515) -/

/-- With no SVN_COMMIT running, a reset keeps the queue, the counter of free values, the pins and the burned fuses alone. -/
theorem resetState_idle {s : State} (hrun : s.sec.run = none) : resetState s = { State.reset with
    pending := s.pending, free := s.free, pins := s.pins,
    sec := { ({} : SecBlk) with svnBurned := s.sec.svnBurned, epochsBurned := s.sec.epochsBurned } } := by
  simp [resetState, burnedAtReset, hrun]

/-- The boot starts where both pins are high; a boot under way goes on. -/
theorem bootStart_eq (s : State) :
    bootStart s = { s with dev.booting := s.dev.booting || (s.pins.resetN && s.pins.pwrgdAux) } := by
  unfold bootStart
  split_ifs with hpins <;> simp [hpins]

theorem exec_resetNRelease {s : State} (hlow : s.pins.resetN = false) : exec .resetNRelease s =
    .next { s with pins.resetN := true, dev.booting := s.dev.booting || s.pins.pwrgdAux } := by
  simp [exec, execResetNRelease, hlow, bootStart_eq]

theorem exec_pwrgdAuxRise {s : State} (hlow : s.pins.pwrgdAux = false) : exec .pwrgdAuxRise s =
    .next { s with pins.pwrgdAux := true, dev.booting := s.dev.booting || s.pins.resetN } := by
  simp [exec, execPwrgdAuxRise, hlow, bootStart_eq]

/-- PWRGD_AUX falling with RESET_N high is a reset. -/
theorem exec_pwrgdAuxFall_high {s : State} (hhigh : s.pins.resetN = true) :
    exec .pwrgdAuxFall s = .next (resetState { s with pins.pwrgdAux := false }) := by
  simp [exec, execPwrgdAuxFall, hhigh]

theorem exec_pwrgdAuxFall_low {s : State} (hlow : s.pins.resetN = false) :
    exec .pwrgdAuxFall s = .next { s with pins.pwrgdAux := false } := by
  simp [exec, execPwrgdAuxFall, hlow]

theorem exec_pwrgdCoreFall_unpowered {s : State} (hoff : barnsOn s = false) :
    exec .pwrgdCoreFall s = .next { s with pins.pwrgdCore := false } := by
  simp [exec, execPwrgdCoreFall, coreFall, hoff]

/-- Settles O4: a reset by `resetState_idle`, each pin by the lemma about its edge. -/
theorem pinsAndReset : Obligations.PinsAndReset := by
  refine ⟨fun s hrun => ⟨?assert, fun hhigh => ?auxFall⟩,
    fun s => ⟨exec_resetNRelease, exec_pwrgdAuxRise, exec_pwrgdAuxFall_low, rfl, exec_pwrgdCoreFall_unpowered⟩⟩
  case assert => exact congrArg _ (resetState_idle (s := { s with pins.resetN := false }) hrun)
  case auxFall =>
    exact (exec_pwrgdAuxFall_high hhigh).trans (congrArg _ (resetState_idle (s := { s with pins.pwrgdAux := false }) hrun))

/-! ## The bring-up engine (R391, R400, R405, R406) -/

/-- A command that the engine accepts in its phase runs. -/
theorem bringCmd_accepts {tag : Nat} {accept : State → Bool} {f : State → State} {s : State} (hunit : unitStopped s 9 0 = false)
    (hrun : s.bring.run = none) (hended : s.bring.ended = false) (hphase : s.bring.phase ≠ .refused) (hok : accept s = true) :
    bringCmd tag accept f s = f s := by
  simp [bringCmd, hunit, hrun, hended, hphase, hok]

/-- A bring-up engine that an error in drill mode stopped does nothing. -/
theorem bringCmd_stopped {tag : Nat} {accept : State → Bool} {f : State → State} {s : State} (hunit : unitStopped s 9 0 = true) :
    bringCmd tag accept f s = s := if_pos hunit

/-- A command to a unit that does nothing with it does nothing, whether or not it reaches the unit. -/
theorem regWrite_priv_unchanged {addr : Nat} {f : State → State} {s : State} (hf : f s = s) : regWrite .priv addr f s = s := by
  simp [regWrite, hf]

theorem hubServes_stopped {s : State} (hstop : unitStopped s 4 0 = true) : hubServes s = false := by
  simp [hubServes, hstop]

section Unserved
variable {s : State} (hup : hubServes s = false)
include hup

theorem regWrite_unserved {v : View} {addr : Nat} {f : State → State} : regWrite v addr f s = s := by
  simp [regWrite, hup]

theorem registerWrite_unserved {v : View} {addr : Nat} {ws : List W64} {data : HostRead} : registerWrite v addr ws data s = s := by
  simp [registerWrite, hup]

theorem registerRead_unserved {v : View} {tag addr len : Nat} : registerRead v tag addr len s = s := by
  simp [registerRead, hup]

end Unserved

/-- Physical stall `p`'s entry of BRING changed. -/
def modPst (p : Nat) (f : Pst → Pst) (s : State) : State := { s with bring.pst := tmod {} s.bring.pst p f }

@[simp] theorem pstAt_modPst (p q : Nat) (f : Pst → Pst) (s : State) :
    pstAt (modPst p f s) q = if q = p then f (pstAt s p) else pstAt s q := tget_tmod _ _ _ _ _

@[simp] theorem modPst_stopUnits (p : Nat) (f : Pst → Pst) (s : State) :
    (modPst p f s).bring.stopUnits = s.bring.stopUnits := rfl

@[simp] theorem pstAt_bringDone (tag result q : Nat) (s : State) : pstAt (bringDone tag result s) q = pstAt s q := rfl

/-- A table made of the values that `f` gives on a list of indices reads there what `f` gives. -/
theorem tfind_filterMap {α β : Type} (f : Nat → Option α) (g : α → β) (l : List Nat) (n : Nat) :
    tfind (l.filterMap fun m => (f m).map fun p => (m, g p)) n = if n ∈ l then (f n).map g else none := by
  induction l with
  | nil => rfl
  | cons m l ih =>
    by_cases hmn : m = n
    · subst hmn
      cases hf : f m with
      | none => simp [hf, ih]
      | some p => simp [hf, tfind]
    · cases hf : f m with
      | none => simp [hf, ih, Ne.symm hmn]
      | some p => simp [hf, tfind, ih, hmn, Ne.symm hmn]

/-- Every network interface holds the map's entry of each logical stall, 0 of one that no stall serves (R304). -/
theorem installMap_lmap (s : State) {n : Nat} (hn : n < 1200) :
    tget 0 (installMap s).fab.lmap n = ((physOf s n).map fun p => 0x8000 + p).getD 0 := by
  simp only [installMap, tget]
  rw [tfind_filterMap, if_pos (List.mem_range.2 hn)]

section Commands
variable {s : State} (hserves : Serves s 9 0) (hrun : s.bring.run = none) (hended : s.bring.ended = false) (tag : Nat)
include hserves hrun hended

/-- Where the hub serves the host, a privileged command to BRING that the engine accepts runs. -/
theorem bring_runs {accept : State → Bool} {f : State → State} (hphase : s.bring.phase ≠ .refused) (hok : accept s = true) :
    regWrite .priv bringBase (bringCmd tag accept f) s = f s := by
  obtain ⟨hup, hunit⟩ := hserves
  rw [regWrite_priv s _ hup, bringCmd_accepts hunit hrun hended hphase hok]

/-- MAIN in BROADCAST installs the map and leaves drill mode. -/
theorem exec_bringMain_broadcast (hphase : s.bring.phase = .broadcast) : exec (.bringMain .priv tag) s =
    .next (bringDone (tag % 256) 0 { installMap { s with bring.main := true, bring.drill := false } with
      bring.phase := .main, bring.ready := false }) := by
  have hback : (s.bring.phase == .drillReturn) = false := by simp [hphase]
  refine congrArg Host.Outcome.next ((bring_runs hserves hrun hended _ (by simp [hphase]) (by simp [hphase])).trans ?_)
  simp only [hback]
  rfl

theorem exec_bringReady_qualified (hphase : s.bring.phase = .qualified) (hconfirms : readyConfirms s = true) :
    exec (.bringReady .priv tag) s =
      .next (bringDone (tag % 256) 0 { s with bring.ready := true, bring.wasReady := true, bring.phase := .ready }) :=
  congrArg Host.Outcome.next (bring_runs hserves hrun hended _ (by simp [hphase]) (by simp [hphase, hconfirms]))

/-- DRILL in READY takes an idle, unowned and unloaded device to drill mode. -/
theorem exec_bringDrill_idle (hphase : s.bring.phase = .ready) (hidle : pstateCode s = 3) (hmoving : s.pwr.moving = none)
    (howned : s.sec.owned = false) (hresident : residentCount s = 0) : exec (.bringDrill .priv tag) s =
    .next (bringDone (tag % 256) 0 { s with
      bring.ready := false, bring.main := false, bring.drill := true, bring.phase := .drillReturn }) := by
  refine congrArg Host.Outcome.next ((bring_runs hserves hrun hended _ (by simp [hphase]) (by simp [hphase])).trans ?_)
  exact if_pos (by simp [hidle, hmoving, howned, hresident])

theorem exec_bringUnitReset_drill {p : Nat} (hphase : s.bring.phase ≠ .refused) (hdrill : s.bring.drill = true) (hp : p < 1280) :
    exec (.bringUnitReset .priv tag p) s =
      .next (bringDone (tag % 256) 0 (modPst p (fun x => { x with drillStop := false }) s)) :=
  congrArg Host.Outcome.next ((bring_runs hserves hrun hended _ hphase hdrill).trans (if_neg (by omega)))

end Commands

/-! ## Errors in drill mode (R27) -/

/-- The record of an error that a unit detects in drill mode. -/
def drillRecord (source unit code addr : Nat) (s : State) : FRec :=
  { code := code, source := source, unit := unit, lstall := if source = 0 then logOf s unit else 0x7FF,
    beats := beatsOf s source unit, detail := if addressCodes.contains code then detA addr 0 else detN }

/-- A unit stops on an error in drill mode: a stall until UNIT_RESET, any other unit until reset. -/
def stopUnit (source unit : Nat) (s : State) : State :=
  if source = 0 then modPst unit (fun x => { x with drillStop := true }) s
  else { s with bring.stopUnits := s.bring.stopUnits ++ [(source, unit)] }

/-- A record sent is the state with the record among those that wait. -/
def sendRecord (r : FRec) (s : State) : State := { s with flt.raised := s.flt.raised ++ [r] }

section DrillErrors
variable {s : State} {source unit code addr : Nat}

/-- Outside drill mode, and of a unit that has stopped, an error changes nothing. -/
theorem drillError_ignored (h : s.bring.drill = false ∨ unitDown s source unit = true) : drillError source unit code addr s = s :=
  if_pos (by simpa using h)

/-- A corrected word and a firmware digest failure send their record and stop no unit. -/
theorem drillError_records (hdrill : s.bring.drill = true) (hup : unitDown s source unit = false)
    (hcode : code = 0x0604 ∨ code = 0x0401) :
    drillError source unit code addr s = sendRecord (drillRecord source unit code addr s) s := by
  rw [drillError, if_neg (by simp [hdrill, hup]), if_pos hcode]
  rfl

/-- Any other error sends its record and stops the unit. -/
theorem drillError_stops (hdrill : s.bring.drill = true) (hup : unitDown s source unit = false)
    (hdigest : code ≠ 0x0604) (hcorrected : code ≠ 0x0401) :
    drillError source unit code addr s = stopUnit source unit (sendRecord (drillRecord source unit code addr s) s) := by
  rw [drillError, if_neg (by simp [hdrill, hup]), if_neg (by simp [hdigest, hcorrected])]
  rfl

end DrillErrors

/-- Whether a unit is stopped does not depend on the records that wait. -/
@[simp] theorem unitDown_sendRecord (r : FRec) (s : State) (x y : Nat) : unitDown (sendRecord r s) x y = unitDown s x y := rfl

theorem unitDown_stall (s : State) (p : Nat) : unitDown s 0 p = (pstAt s p).drillStop := rfl

theorem unitDown_other {source : Nat} (hsource : source ≠ 0) (s : State) (unit : Nat) :
    unitDown s source unit = s.bring.stopUnits.contains (source, unit) := if_neg hsource

/-- A unit that stops is down, and every other unit is as it was. -/
theorem unitDown_stopUnit (source unit : Nat) (s : State) (x y : Nat) :
    unitDown (stopUnit source unit s) x y = if x = source ∧ y = unit then true else unitDown s x y := by
  unfold stopUnit
  split_ifs with hstall hdown hdown
  · obtain ⟨rfl, rfl⟩ := hdown
    simp [hstall, unitDown_stall]
  · by_cases hx : x = 0
    · subst hx hstall
      have hy : y ≠ unit := by simpa using hdown
      simp [unitDown_stall, hy]
    · simp [unitDown_other hx]
  · obtain ⟨rfl, rfl⟩ := hdown
    simp [unitDown_other hstall]
  · by_cases hx : x = 0
    · subst hx
      rfl
    · simp [unitDown_other hx, hdown]

/-- A unit's stop leaves the map and the test result of every stall. -/
theorem pstAt_stopUnit (source unit : Nat) (s : State) (q : Nat) :
    (pstAt (stopUnit source unit s) q).logical = (pstAt s q).logical ∧ (pstAt (stopUnit source unit s) q).test = (pstAt s q).test := by
  unfold stopUnit
  split_ifs with hstall
  · rw [pstAt_modPst]
    split_ifs with hq
    · subst hq; exact ⟨rfl, rfl⟩
    · exact ⟨rfl, rfl⟩
  · exact ⟨rfl, rfl⟩

theorem stopUnit_flt (source unit : Nat) (s : State) : (stopUnit source unit s).flt = s.flt := by unfold stopUnit; split <;> rfl
theorem stopUnit_stalls (source unit : Nat) (s : State) : (stopUnit source unit s).stalls = s.stalls := by unfold stopUnit; split <;> rfl
theorem stopUnit_loft (source unit : Nat) (s : State) : (stopUnit source unit s).loft = s.loft := by unfold stopUnit; split <;> rfl

/-! ## Commands to a stopped unit, and gate packets in drill mode (R24, R27) -/

section Stopped
variable {s : State}

theorem bringAbort_stopped (tag : Nat) (hunit : unitStopped s 9 0 = true) : bringAbort tag s = s := by
  simp [bringAbort, bringRun, hunit]

theorem stateCommand_stopped (target : PState) (tag : Nat) (hunit : unitStopped s 8 4 = true) : stateCommand target tag s = s :=
  if_pos hunit

theorem yardsCommand_stopped (tag : Nat) (hunit : unitStopped s 8 4 = true) : yardsCommand tag s = s := if_pos hunit

theorem secCmd_stopped (f : State → State) (hunit : unitStopped s 7 0 = true) : secCmd f s = s := if_pos hunit

theorem signEnds_stopped (hunit : unitStopped s 7 0 = true) : signEnds s = s := by
  unfold signEnds
  cases s.sec.sign <;> simp [hunit]

/-- In drill mode a packet stays at the front of its gate. -/
theorem withFront_drill (g op : Nat) (f : GatePkt → State → State) (hdrill : s.bring.drill = true) : withFront g op f s = s := by
  unfold withFront
  cases frontPkt s g <;> simp [hdrill]

end Stopped

/-- Settles O12: each bring-up command by the lemma about it, an error in drill mode by `drillError_stops`, `drillError_records` and
`drillError_ignored`, and a stopped unit by the lemma about its commands. -/
theorem modesAndDrill : Obligations.ModesAndDrill := by
  refine ⟨fun s tag p hserves hrun hended => ⟨?main, ?ready, ?drill, ?unitReset⟩,
    fun s source unit code addr => ⟨?stops, ?records, fun h => congrArg _ (drillError_ignored h)⟩,
    fun s v tag n x => ⟨?hub, ?bring, ?power, ?security, ?gates⟩⟩
  case main =>
    intro hphase
    exact ⟨_, exec_bringMain_broadcast hserves hrun hended tag hphase, rfl, rfl, rfl, rfl, rfl, fun n hn => installMap_lmap _ hn, rfl⟩
  case ready =>
    intro hphase hconfirms
    exact ⟨_, exec_bringReady_qualified hserves hrun hended tag hphase hconfirms, rfl, rfl, rfl, rfl, rfl⟩
  case drill =>
    intro hphase hidle hmoving howned hresident
    exact ⟨_, exec_bringDrill_idle hserves hrun hended tag hphase hidle hmoving howned hresident, rfl, rfl, rfl, rfl, rfl, rfl⟩
  case unitReset =>
    intro hphase hdrill hp
    refine ⟨_, exec_bringUnitReset_drill hserves hrun hended tag hphase hdrill hp, ?_, fun q hq => ?_, rfl, rfl⟩
    · simp
    · simp [hq]
  case stops =>
    intro hdrill hup hdigest hcorrected
    refine ⟨_, congrArg Host.Outcome.next (drillError_stops hdrill hup hdigest hcorrected), ?_,
      ⟨drillRecord source unit code addr s, congrArg FltBlk.raised (stopUnit_flt _ _ _), rfl, rfl, rfl⟩, fun x y hne => ?_,
      pstAt_stopUnit source unit _, stopUnit_stalls _ _ _, stopUnit_loft _ _ _⟩
    · rw [unitDown_stopUnit, if_pos ⟨rfl, rfl⟩]
    · rw [unitDown_stopUnit, if_neg (not_and_or.2 hne), unitDown_sendRecord]
  case records =>
    intro hdrill hup hcode
    exact ⟨_, _, congrArg Host.Outcome.next (drillError_records hdrill hup hcode), rfl, rfl⟩
  case hub =>
    intro hstop
    have hup := hubServes_stopped hstop
    exact ⟨congrArg _ (regWrite_unserved hup), congrArg _ (regWrite_unserved hup), congrArg _ (registerWrite_unserved hup),
      congrArg _ (registerRead_unserved hup)⟩
  case bring =>
    intro hunit
    exact ⟨congrArg _ (regWrite_priv_unchanged (bringCmd_stopped hunit)),
      congrArg _ (regWrite_priv_unchanged (bringAbort_stopped _ hunit))⟩
  case power =>
    intro hunit
    exact ⟨congrArg _ (regWrite_priv_unchanged (stateCommand_stopped _ _ hunit)),
      congrArg _ (regWrite_priv_unchanged (yardsCommand_stopped _ hunit))⟩
  case security =>
    intro hunit
    exact ⟨congrArg _ (regWrite_priv_unchanged (secCmd_stopped _ hunit)), congrArg _ (regWrite_priv_unchanged (secCmd_stopped _ hunit)),
      congrArg _ (signEnds_stopped hunit)⟩
  case gates =>
    intro hdrill
    exact ⟨congrArg _ (withFront_drill _ _ _ hdrill), congrArg _ (withFront_drill _ _ _ hdrill),
      congrArg _ (withFront_drill _ _ _ hdrill)⟩

end Sys2Proof.Machine
end

section
/-! PROOFS. One step of the machine: the two cases of its queue, and the statement of O1. -/

namespace Sys2Proof.Machine

/-- A step takes the front command out of the queue before it runs it, so that the command sees the queue's rest. -/
theorem step_of_pending_cons {s : State} {c : Instr} {rest : List Instr} (hqueue : s.pending = c :: rest) :
    step s = exec c { s with pending := rest } := by
  simp only [step, hqueue]

/-- With no command waiting, the pace rings tick (log entry 6). -/
theorem step_of_pending_nil {s : State} (hqueue : s.pending = []) : step s = .next (tick s) := by
  simp only [step, hqueue]

/-- Settles O1, a waiting command by `step_of_pending_cons` and an empty queue by `step_of_pending_nil`. -/
theorem stepRunsFrontCommand : Obligations.StepRunsFrontCommand :=
  ⟨fun _ _ _ hqueue => step_of_pending_cons hqueue, fun _ hqueue => step_of_pending_nil hqueue⟩

end Sys2Proof.Machine
end

section
/-! PROOFS. Slots that leave the array: a command of a running stall, an operation replaced, transfers over the fabric, what a readout and
a chain transfer do to their stall, and the statement of O26. -/

namespace Sys2Proof.Machine

/-! ## Stalls replaced -/

theorem tset_tset {α : Type} (t : Table α) (i : Nat) (v w : α) : tset (tset t i v) i w = tset t i w := by
  induction t with
  | nil => simp [tset]
  | cons e r ih =>
    obtain ⟨j, u⟩ := e
    rcases Nat.lt_trichotomy i j with hlt | rfl | hgt
    · simp [tset, hlt]
    · simp [tset]
    · simp [tset, Nat.not_lt.2 hgt.le, hgt.ne', ih]

@[simp] theorem setStallP_setStallP (s : State) (p : Nat) (x y : Stall) : setStallP (setStallP s p x) p y = setStallP s p y := by
  simp [setStallP, tset_tset]

/-- Which stall serves a logical number, and so where a path ends, is the bring-up block's (R14, R305). -/
theorem pathEnd_congr {s t : State} (hbring : t.bring = s.bring) (u : Nat) : pathEnd t u = pathEnd s u := by
  simp only [pathEnd, physOf, hbring]

/-! ## An operation replaced in its stall's program -/

theorem opsOf_setOp (x : Stall) (k : Nat) (o : OpCtx) : opsOf (setOp x k o) = (opsOf x).set k o := by
  cases hprog : x.prog <;> simp [opsOf, setOp, hprog]

theorem setOp_setOp (x : Stall) (k : Nat) (o o' : OpCtx) : setOp (setOp x k o) k o' = setOp x k o' := by
  cases hprog : x.prog <;> simp [setOp, hprog]

theorem getD_opsOf_setOp {x : Stall} {k : Nat} (hk : k < (opsOf x).length) (o : OpCtx) : (opsOf (setOp x k o)).getD k {} = o := by
  simp [opsOf_setOp, List.getD_eq_getElem?_getD, hk]

theorem putOp_setStallP (s : State) (p k : Nat) (f : OpCtx → OpCtx) (x : Stall) :
    putOp p k f (setStallP s p x) = setStallP s p (setOp x k (f ((opsOf x).getD k {}))) := by
  simp [putOp, modStallP]

theorem putOp_putOp_setStallP (s : State) (p : Nat) {k : Nat} {x : Stall} (hk : k < (opsOf x).length) (f g : OpCtx → OpCtx) :
    putOp p k f (putOp p k g (setStallP s p x)) = setStallP s p (setOp x k (f (g ((opsOf x).getD k {})))) := by
  rw [putOp_setStallP, putOp_setStallP, setOp_setOp, getD_opsOf_setOp hk]

/-- The operation that a descriptor finds is one of the program's. -/
theorem opOfDesc_lt {x : Stall} {desc k : Nat} (hop : opOfDesc x desc = some k) : k < (opsOf x).length := by
  simp only [opOfDesc, findOp, Option.map_map, Option.map_eq_some_iff] at hop
  obtain ⟨⟨o, j⟩, hfind, rfl⟩ := hop
  exact List.snd_lt_of_mem_zipIdx (List.mem_of_find?_eq_some hfind) |>.trans_eq (by simp)

/-! ## A command of a running stall (R19) -/

theorem stallP_of_runningStall {s : State} {n p : Nat} {x : Stall} (hrun : runningStall s n = some (p, x)) : stallP s p = x := by
  unfold runningStall at hrun
  split at hrun
  · split_ifs at hrun
    cases hrun
    rfl
  · cases hrun

/-- A step that a running stall takes is taken with what SEC-DED found counted and recorded. -/
theorem onStall_of_ok {s t : State} {n p : Nat} {x : Stall} {sr : Secded} {f : Nat → Got State}
    (hrun : runningStall s n = some (p, x)) (hstep : f p = .ok t) : onStall n sr s f = sramUsed p sr t := by
  simp only [onStall, hrun, hstep, settleSram, settle]

@[simp] theorem stallP_sramCount (p : Nat) (sr : Secded) (s : State) (q : Nat) : stallP (sramCount p sr s) q =
    if q = p then { stallP s p with corrected := (stallP s p).corrected + sr.corrected } else stallP s q := by
  unfold sramCount
  by_cases hnone : sr.corrected = 0
  · rw [if_pos hnone, hnone]
    split_ifs with hq
    · rw [hq]
      rfl
    · rfl
  · rw [if_neg hnone, stallP_modStallP]

/-- Of the stalls, SEC-DED changes the count of corrected words of the one that read. -/
@[simp] theorem stallP_sramUsed (p : Nat) (sr : Secded) (s : State) (q : Nat) : stallP (sramUsed p sr s) q =
    if q = p then { stallP s p with corrected := (stallP s p).corrected + sr.corrected } else stallP s q := by
  rw [← stallP_sramCount]
  unfold sramUsed
  split_ifs <;> rfl

theorem stallP_sramUsed_setStallP (p : Nat) (sr : Secded) (s : State) (x : Stall) :
    stallP (sramUsed p sr (setStallP s p x)) p = { x with corrected := x.corrected + sr.corrected } := by
  rw [stallP_sramUsed, if_pos rfl, stallP_setStallP, if_pos rfl]

/-- An uncorrectable word is recorded. -/
theorem sramUsed_raises {sr : Secded} (huncorr : sr.uncorr = true) (p : Nat) (s : State) :
    ∃ r ∈ (sramUsed p sr s).flt.raised, r.code = 0x0403 := by
  simp [sramUsed, huncorr, scratchUncorrectable, raiseStall]

/-! ## Transfers over the fabric (R305, R309) -/

/-- The packets of a transfer to a logical stall that is served enter the fabric in their order. -/
theorem foldl_injectStall_net {α : Type} (cls src dst : Nat) (body : α → PktBody) (l : List α) {s : State}
    (hserved : (physOf s dst).isSome = true) :
    (l.foldl (fun s c => injectStall cls src dst (body c) s) s).fab.net = s.fab.net ++ l.map fun c =>
      { cls := cls, src := src, dst := dst, hops := pathHops (pathEnd s src) (pathEnd s dst), body := body c } := by
  induction l generalizing s with
  | nil => simp
  | cons c l ih =>
    obtain ⟨q, hq⟩ := Option.isSome_iff_exists.1 hserved
    have hinject : injectStall cls src dst (body c) s = inject cls src dst (body c) s := by simp only [injectStall, hq]
    have hpath := pathEnd_congr (inject_bring s cls src dst (body c))
    have hnet := ih (s := inject cls src dst (body c) s) hserved
    rw [hpath, hpath, inject_net] at hnet
    rw [List.foldl_cons, hinject, hnet, List.append_assoc]
    rfl

section SendData
variable (src n win key dest tile : Nat) (bs : List Byte) (ack : Option (Nat × Nat × Nat)) (s : State)

@[simp] theorem sendData_stalls : (sendData src n win key dest tile bs ack s).stalls = s.stalls :=
  foldl_keeps (fun s _ => injectStall_stalls s ..) _ s

@[simp] theorem sendData_loft : (sendData src n win key dest tile bs ack s).loft = s.loft :=
  foldl_keeps (fun s _ => injectStall_loft s ..) _ s

@[simp] theorem stallP_sendData (p : Nat) : stallP (sendData src n win key dest tile bs ack s) p = stallP s p := by
  simp only [stallP, sendData_stalls]

theorem sendData_net (hserved : (physOf s n).isSome = true) :
    (sendData src n win key dest tile bs ack s).fab.net = s.fab.net ++ (partsOf bs).map fun c =>
      { cls := 3, src := src, dst := n, hops := pathHops (pathEnd s src) (pathEnd s n),
        body := .data n win src key dest tile c.1 bs.length c.2 ack } :=
  foldl_injectStall_net _ _ _ _ _ hserved

end SendData

/-! ## Credits (R315) -/

theorem getD_setAt (l : List Nat) (i v : Nat) : (setAt l i v).getD i 0 = v := by
  have hlong : i < l.length + (i + 1 - l.length) := by omega
  simp [setAt, List.getD_eq_getElem?_getD, hlong]

theorem inUse_takeCredits (key dst : Nat) (x : Stall) : inUse (takeCredits key dst x) key dst = inUse x key dst + 1 := by
  simp only [inUse, takeCredits, tget_tset_same, getD_setAt]

/-! ## The stall after a slot has left it (R88, R96, R98) -/

/-- The stall with slot `i` read out to its operation `k`. -/
def stallReadOut (x : Stall) (i k : Nat) : Stall :=
  let o := (opsOf x).getD k {}
  let t := slotTileOut o (slotOf x i) i
  setOp { x with readQ := x.readQ.erase i, outQ := x.outQ ++ [(o.desc, o.inst)] } k
    { o with readouts := o.readouts ++ [t.1], satur := o.satur + t.2 }

/-- The stall with slot `i` poisoned and waiting for neither a readout nor a transfer. -/
def stallPoisoned (x : Stall) (i : Nat) : Stall :=
  { x with slots := tset x.slots i { slotOf x i with st := .poisoned }, readQ := x.readQ.erase i, sendQ := x.sendQ.erase i }

/-- The elements of slot `i` of operation `k` that became NaN (R70). -/
def slotNans (x : Stall) (i k : Nat) : Nat :=
  let o := (opsOf x).getD k {}
  let a := slotOf x i
  (validCells (validOf o a.it 1) (validOf o a.it 2) a.nan).length

/-- The stall with slot `i` of its operation `k` on its way to the next chain member. -/
def stallSent (x : Stall) (i k : Nat) : Stall :=
  let o := (opsOf x).getD k {}
  setOp (takeCredits (chainKey o.desc) 0 { x with slots := tdel x.slots i, sendQ := x.sendQ.erase i }) k
    { o with out := o.out + 1, nans := o.nans + slotNans x i k }

/-- The transfer of slot `i` of operation `k` to window `j` of stall `q`, the next chain member (R98). -/
def sendChain (n q j : Nat) (x : Stall) (i k : Nat) (s : State) : State :=
  let o := (opsOf x).getD k {}
  sendData n q (chainKey j) (chainKey o.desc) 0 (tileNumber o (slotOf x i).it) (chainBytes (slotOf x i).vals)
    (some (n, o.desc, o.inst)) s

theorem stallP_sendChain (n q j : Nat) (x : Stall) (i k : Nat) (s : State) (p : Nat) :
    stallP (sendChain n q j x i k s) p = stallP s p := stallP_sendData ..

/-- A value read out is its cell's, converted (R79, R80). -/
theorem getD_slotTileOut_vals (o : OpCtx) (a : AccSlot) (slot : Nat) {c : Nat} (hc : c < 4096) :
    (slotTileOut o a slot).1.vals.getD c 0 = BitVec.ofNat 32 (readCell o.d (a.vals.getD c 0)).bits := by
  simp [slotTileOut, List.getD_eq_getElem?_getD, hc]

theorem readouts_stallReadOut {x : Stall} {k : Nat} (hk : k < (opsOf x).length) (i : Nat) :
    ((opsOf (stallReadOut x i k)).getD k {}).readouts =
      ((opsOf x).getD k {}).readouts ++ [(slotTileOut ((opsOf x).getD k {}) (slotOf x i) i).1] :=
  congrArg OpCtx.readouts (getD_opsOf_setOp hk _)

theorem nans_stallSent {x : Stall} {k : Nat} (hk : k < (opsOf x).length) (i : Nat) :
    ((opsOf (stallSent x i k)).getD k {}).nans = ((opsOf x).getD k {}).nans + slotNans x i k :=
  congrArg OpCtx.nans (getD_opsOf_setOp hk _)

theorem slotOf_stallSent (x : Stall) (i k : Nat) : slotOf (stallSent x i k) i = {} :=
  (tget_tdel _ x.slots i i).trans (if_pos rfl)

theorem inUse_stallSent (x : Stall) (i k : Nat) : inUse (stallSent x i k) (chainKey ((opsOf x).getD k {}).desc) 0 =
    inUse x (chainKey ((opsOf x).getD k {}).desc) 0 + 1 :=
  inUse_takeCredits _ _ { x with slots := tdel x.slots i, sendQ := x.sendQ.erase i }

theorem slotOf_stallPoisoned (x : Stall) (i : Nat) : slotOf (stallPoisoned x i) i = { slotOf x i with st := .poisoned } :=
  tget_tset_same _ _ _ _

/-! ## SLOT_READOUT and CHAIN_OUT (R96, R98) -/

section Leaves
variable {s : State} {n p i k : Nat} {x : Stall} (hx : stallP s p = x) (hop : opOfDesc x (slotOf x i).desc = some k)
include hx hop

/-- The oldest slot in READOUT is read out, or poisoned where its read met an uncorrectable word. -/
theorem readoutSlot_front (hst : (slotOf x i).st = .readout) (hfront : x.readQ.head? = some i) (uncorr : Bool) :
    readoutSlot p i uncorr s = .ok (setStallP s p (if uncorr then stallPoisoned x i else stallReadOut x i k)) := by
  subst hx
  simp only [readoutSlot, hop]
  rw [if_neg (by simp [hst, hfront])]
  cases uncorr
  case true => rfl
  case false => exact congrArg Got.ok (putOp_setStallP ..)

/-- With a credit, a write to spare and its outputs not held, the stall sends the oldest slot in SENDING. -/
theorem sendSlot_sends {q j cap : Nat} (hst : (slotOf x i).st = .sending) (hfront : x.sendQ.head? = some i)
    (hnext : chainNext s (envAt s n p k) = some (q, j, cap)) (hfree : routesHeld s n = false)
    (hcredit : inUse x (chainKey ((opsOf x).getD k {}).desc) 0 < cap) (hwrites : writesOut x < 64) :
    sendSlot n p i false s = .ok (sendChain n q j x i k (setStallP s p (stallSent x i k))) := by
  subst hx
  simp only [sendSlot, hop, hnext]
  rw [if_neg (by simp [hst, hfront]), if_neg Bool.false_ne_true]
  have hgoes : ¬(routesHeld s n = true ∨ cap ≤ inUse (stallP s p) (chainKey (envAt s n p k).o.desc) 0 ∨
      64 ≤ writesOut (stallP s p)) := by
    rintro (hheld | hnone | hfull)
    · simp [hfree] at hheld
    · exact hnone.not_gt hcredit
    · exact hfull.not_gt hwrites
  rw [if_neg hgoes, addOut, putOp_putOp_setStallP]
  case hk => exact opOfDesc_lt hop
  rfl

theorem sendSlot_poisons (hst : (slotOf x i).st = .sending) (hfront : x.sendQ.head? = some i) :
    sendSlot n p i true s = .ok (setStallP s p (stallPoisoned x i)) := by
  subst hx
  simp only [sendSlot, hop]
  rw [if_neg (by simp [hst, hfront])]
  rfl

end Leaves

section Commands
variable {s : State} {n p i k : Nat} {x : Stall} {sr : Secded} (hrun : runningStall s n = some (p, x))
  (hop : opOfDesc x (slotOf x i).desc = some k)
include hrun hop

theorem exec_slotReadout_front (hst : (slotOf x i).st = .readout) (hfront : x.readQ.head? = some i) :
    exec (.slotReadout ⟨n, sr⟩ i) s =
      .next (sramUsed p sr (setStallP s p (if sr.uncorr then stallPoisoned x i else stallReadOut x i k))) :=
  congrArg Host.Outcome.next
    (onStall_of_ok hrun (readoutSlot_front (stallP_of_runningStall hrun) hop hst hfront sr.uncorr))

theorem exec_chainOut_sends {q j cap : Nat} (hst : (slotOf x i).st = .sending) (hfront : x.sendQ.head? = some i)
    (hcorr : sr.uncorr = false) (hnext : chainNext s (envAt s n p k) = some (q, j, cap)) (hfree : routesHeld s n = false)
    (hcredit : inUse x (chainKey ((opsOf x).getD k {}).desc) 0 < cap) (hwrites : writesOut x < 64) :
    exec (.chainOut ⟨n, sr⟩ i) s =
      .next (sramUsed p sr (sendChain n q j x i k (setStallP s p (stallSent x i k)))) := by
  have hsends := sendSlot_sends (stallP_of_runningStall hrun) hop hst hfront hnext hfree hcredit hwrites
  rw [← hcorr] at hsends
  exact congrArg Host.Outcome.next (onStall_of_ok hrun hsends)

theorem exec_chainOut_poisons (hst : (slotOf x i).st = .sending) (hfront : x.sendQ.head? = some i) (huncorr : sr.uncorr = true) :
    exec (.chainOut ⟨n, sr⟩ i) s = .next (sramUsed p sr (setStallP s p (stallPoisoned x i))) := by
  have hpoisons := sendSlot_poisons (n := n) (stallP_of_runningStall hrun) hop hst hfront
  rw [← huncorr] at hpoisons
  exact congrArg Host.Outcome.next (onStall_of_ok hrun hpoisons)

end Commands

/-- Settles O26: a readout by `exec_slotReadout_front`, a chain transfer by `exec_chainOut_sends`, and an uncorrectable word of either by
the slot that `stallPoisoned` holds and the record of `sramUsed_raises`. -/
theorem slotsLeaveTheArray : Obligations.SlotsLeaveTheArray := by
  intro s n p i k x sr hrun hop
  have hk : k < (opsOf x).length := opOfDesc_lt hop
  refine ⟨?readout, ?chain, ?poison⟩
  case readout =>
    intro hst hfront hcorr
    have hexec := exec_slotReadout_front (sr := sr) hrun hop hst hfront
    rw [hcorr, if_neg Bool.false_ne_true] at hexec
    refine ⟨_, hexec, ?_⟩
    rw [stallP_sramUsed_setStallP]
    exact ⟨rfl, rfl, ⟨_, readouts_stallReadOut hk i, rfl, rfl, fun c hc => getD_slotTileOut_vals _ _ _ hc⟩, rfl,
      fun q hq => by simp [hq], by simp, by simp⟩
  case chain =>
    intro q j cap hst hfront hcorr hnext hfree hcredit hwrites hserved
    refine ⟨_, exec_chainOut_sends hrun hop hst hfront hcorr hnext hfree hcredit hwrites, ?_⟩
    rw [stallP_sramUsed, if_pos rfl, stallP_sendChain, stallP_setStallP, if_pos rfl]
    refine ⟨slotOf_stallSent x i k, inUse_stallSent x i k, ?_, nans_stallSent hk i, rfl, fun r hr => ?_, ?_⟩
    · have hserved' : (physOf (setStallP s p (stallSent x i k)) q).isSome = true := hserved
      rw [sramUsed_fab, sendChain, sendData_net _ _ _ _ _ _ _ _ _ hserved']
      rfl
    · rw [stallP_sramUsed, if_neg hr, stallP_sendChain, stallP_setStallP, if_neg hr]
    · rw [sramUsed_loft, sendChain, sendData_loft, setStallP_loft]
  case poison =>
    intro c hcmd huncorr
    have hexec : exec c s = .next (sramUsed p sr (setStallP s p (stallPoisoned x i))) := by
      rcases hcmd with ⟨hst, hfront, rfl⟩ | ⟨hst, hfront, rfl⟩
      · rw [exec_slotReadout_front hrun hop hst hfront, if_pos huncorr]
      · exact exec_chainOut_poisons hrun hop hst hfront huncorr
    refine ⟨_, hexec, ?_⟩
    rw [stallP_sramUsed_setStallP]
    exact ⟨slotOf_stallPoisoned x i, sramUsed_raises huncorr _ _, rfl, by simp, by simp⟩

end Sys2Proof.Machine
end

section
/-! PROOFS. An operation that moves on: what fetching ahead, letting operand tiles go and taking iterations leave of its stall, of the other
stalls and of the loft (R173, R177). -/

namespace Sys2Proof.Machine

/-! ## Packets change no stall and no loft byte (R305, R324) -/

/-- The stalls and the loft of `t` are those of `s`. -/
def SameMemories (s t : State) : Prop := t.stalls = s.stalls ∧ t.loft = s.loft

section Packets
variable (s : State)

theorem gatePumpFuel_eq (f g : Nat) : gatePumpFuel f g s = { s with gate := (gatePumpFuel f g s).gate } := by
  induction f generalizing s with
  | zero => rfl
  | succ f ih =>
    unfold gatePumpFuel
    split
    · rfl
    · split_ifs
      · exact ih _
      · rfl

/-- A packet that joins those of a gate changes the gate block only. -/
theorem gateQueue_eq (q : GatePkt) (ack : Option (Nat × Nat × Nat)) (front : Bool) :
    gateQueue q ack front s = { s with gate := (gateQueue q ack front s).gate } := by
  unfold gateQueue
  by_cases hself : routeNseg q.routeHi = 0
  · rw [if_pos hself]
  · rw [if_neg hself]
    by_cases hdata : q.op = 1
    · rw [if_pos hdata]
      exact gatePumpFuel_eq ..
    · rw [if_neg hdata]
      exact gatePumpFuel_eq ..

theorem sameMemories_returnCredit (n w : Nat) (e : WinEntry) : SameMemories s (returnCredit n w e s) := by
  unfold returnCredit
  split
  · rw [sendCredit, gateQueue_eq]
    exact ⟨rfl, rfl⟩
  · exact ⟨injectStall_stalls .., injectStall_loft ..⟩

theorem sameMemories_injectLoft (own : Bool) (cls src dst : Nat) (body : PktBody) :
    SameMemories s (injectLoft own cls src dst body s) := by
  cases own <;> exact ⟨rfl, rfl⟩

theorem sameMemories_sendRead (n p desc inst opnd entry : Nat) (it : List Nat) (cells : List (Nat × Nat)) :
    SameMemories s (sendRead n p desc inst opnd entry it cells s) :=
  ⟨foldl_keeps (fun s _ => (sameMemories_injectLoft s ..).1) _ s, foldl_keeps (fun s _ => (sameMemories_injectLoft s ..).2) _ s⟩

end Packets

/-! ## Landing entries (R172) -/

theorem landingsOnly_refl (d : Desc) (m : Mem) : LandingsOnly d m m := ⟨fun _ _ _ => rfl, fun _ => rfl⟩

theorem landingsOnly_trans {d : Desc} {m m' m'' : Mem} (hwf : Memory.wf m = true → Memory.wf m' = true)
    (h : LandingsOnly d m m') (h' : LandingsOnly d m' m'') : LandingsOnly d m m'' :=
  ⟨fun hm a ha => (h'.1 (hwf hm) a ha).trans (h.1 hm a ha), fun hd => (h'.2 hd).trans (h.2 hd)⟩

/-- What a landing entry holds before its bytes arrive (R191). -/
def emptyLanding (o : OpCtx) (no : Nat) (key : List Nat) : List Byte :=
  if heldRaw o.d no then [] else if o.d.opcode = 2 ∧ no = 0 then padTile o key else zeros (tileBytes (landFmt o.d no))

theorem tileBytes_le_entryBytes (f : Nat) : tileBytes f ≤ entryBytes f := by
  unfold entryBytes
  omega

theorem length_leBytes (n x : Nat) : (leBytes n x).length = n := by
  induction n generalizing x with
  | zero => rfl
  | succ n ih => exact congrArg Nat.succ (ih _)

theorem length_padTile_le (o : OpCtx) (it : List Nat) : (padTile o it).length ≤ tileBytes o.d.afmt := by
  have hlen : (padTile o it).length = 4096 * (fmtBits o.d.afmt / 8) := by
    simp only [padTile, List.length_flatMap, length_leBytes, List.map_const', List.sum_replicate_nat, List.length_range]
  unfold tileBytes lineBytes
  omega

theorem length_emptyLanding_le (o : OpCtx) (no : Nat) (key : List Nat) :
    (emptyLanding o no key).length ≤ entryBytes (landFmt o.d no) := by
  refine le_trans ?_ (tileBytes_le_entryBytes _)
  unfold emptyLanding
  split_ifs with hraw hconv
  · exact Nat.zero_le _
  · rw [landFmt, if_pos hconv]
    exact length_padTile_le o key
  · exact (List.length_replicate).le

theorem landAt_succ (d : Desc) (no entry : Nat) : landAt d no (entry + 1) = landAt d no entry + entryBytes (landFmt d no) := by
  simp only [landAt, Nat.succ_mul, Nat.add_assoc]

theorem landAt_mono (d : Desc) (no : Nat) {i j : Nat} (h : i ≤ j) : landAt d no i ≤ landAt d no j :=
  Nat.add_le_add_left (Nat.mul_le_mul_right _ h) _

/-- A landing that begins writes inside its entry. -/
theorem landingsOnly_beginLand {o : OpCtx} {no entry : Nat} (hno : no ∈ [0, 1, 3]) (hloft : (opndWalk o.d no).opr.space = 2)
    (hentry : entry < (opndWalk o.d no).opr.id) (key : List Nat) (m : Mem) :
    LandingsOnly o.d m (memWrite m (landAt o.d no entry) (emptyLanding o no key)) := by
  refine ⟨fun hwf a ha => ?_, fun hnone => absurd hloft (hnone no hno)⟩
  rw [memGet_memWrite hwf, if_neg]
  rintro ⟨hlo, hhi⟩
  have hfirst := landAt_mono o.d no (Nat.zero_le entry)
  have hlast := landAt_mono o.d no (Nat.succ_le_of_lt hentry)
  rw [landAt_succ] at hlast
  have hlen := length_emptyLanding_le o no key
  rcases ha no hno hloft with hbelow | habove <;> omega

/-! ## What an operation that moves on leaves (R173) -/

theorem stallP_setStallP_same (s : State) (p : Nat) (x : Stall) : stallP (setStallP s p x) p = x := by
  rw [stallP_setStallP, if_pos rfl]

theorem stallP_modStallP_same (p : Nat) (f : Stall → Stall) (s : State) : stallP (modStallP p f s) p = f (stallP s p) := by
  rw [stallP_modStallP, if_pos rfl]

theorem stallP_putOp_same (p k : Nat) (f : OpCtx → OpCtx) (s : State) :
    stallP (putOp p k f s) p = setOp (stallP s p) k (f ((opsOf (stallP s p)).getD k {})) := by
  rw [stallP_putOp, if_pos rfl]

/-- Operation `k` of physical stall `p`. -/
abbrev opAt (s : State) (p k : Nat) : OpCtx := (opsOf (stallP s p)).getD k {}

/-- An operation's work without its place in its loops, the tiles fetched and staged for it, and its event counts. -/
def workOf (o : OpCtx) : OpCtx :=
  { o with it := [], walking := false, takeWait := false, takeSent := false, fetchA := none, fetchB := none, fetchX := none,
           lands := [], staged := none, satur := 0, under := 0, nans := 0 }

/-- A stall without its scratch, its program, its windows, its ledger and the credits it has in use, and whether it has stopped. -/
def stallRest (x : Stall) : Stall :=
  { x with scratch := [], prog := none, wins := [], winPos := [], ledger := [], used := [], jstop := false }

/-- From `s` to `t` operation `k` of stall `p` may have moved on in its loops: its work, its stall's slots and queues, scratch outside its
landing entries, every other stall and the loft are as they were. -/
structure MovesOn (p k : Nat) (s t : State) : Prop where
  rest : stallRest (stallP t p) = stallRest (stallP s p)
  work : workOf (opAt t p k) = workOf (opAt s p k)
  lands : LandingsOnly (opAt s p k).d (stallP s p).scratch (stallP t p).scratch
  wf : Memory.wf (stallP s p).scratch = true → Memory.wf (stallP t p).scratch = true
  others : ∀ q, q ≠ p → stallP t q = stallP s q
  loft : t.loft = s.loft

namespace MovesOn
variable {p k : Nat} {s t u : State}

theorem desc (h : MovesOn p k s t) : (opAt t p k).d = (opAt s p k).d := (congrArg OpCtx.d h.work :)
theorem readouts (h : MovesOn p k s t) : (opAt t p k).readouts = (opAt s p k).readouts := (congrArg OpCtx.readouts h.work :)
theorem slots (h : MovesOn p k s t) : (stallP t p).slots = (stallP s p).slots := (congrArg Stall.slots h.rest :)
theorem corrected (h : MovesOn p k s t) : (stallP t p).corrected = (stallP s p).corrected := (congrArg Stall.corrected h.rest :)

theorem refl (p k : Nat) (s : State) : MovesOn p k s s := ⟨rfl, rfl, landingsOnly_refl .., id, fun _ _ => rfl, rfl⟩

theorem trans (h : MovesOn p k s t) (h' : MovesOn p k t u) : MovesOn p k s u where
  rest := h'.rest.trans h.rest
  work := h'.work.trans h.work
  lands := landingsOnly_trans h.wf h.lands (h.desc ▸ h'.lands)
  wf := h'.wf ∘ h.wf
  others q hq := (h'.others q hq).trans (h.others q hq)
  loft := h'.loft.trans h.loft

theorem foldl {α : Type} {f : State → α → State} {l : List α} (h : ∀ s, ∀ a ∈ l, MovesOn p k s (f s a)) (s : State) :
    MovesOn p k s (l.foldl f s) := by
  induction l generalizing s with
  | nil => exact refl ..
  | cons a l ih => exact (h s a List.mem_cons_self).trans (ih (fun s b hb => h s b (List.mem_cons_of_mem a hb)) _)

/-- A stall whose scratch is as it was. -/
theorem of_sameScratch (hrest : stallRest (stallP t p) = stallRest (stallP s p)) (hwork : workOf (opAt t p k) = workOf (opAt s p k))
    (hscratch : (stallP t p).scratch = (stallP s p).scratch) (hothers : ∀ q, q ≠ p → stallP t q = stallP s q)
    (hloft : t.loft = s.loft) : MovesOn p k s t :=
  ⟨hrest, hwork, hscratch ▸ landingsOnly_refl .., fun hwf => hscratch ▸ hwf, hothers, hloft⟩

theorem of_sameMemories (h : SameMemories s t) : MovesOn p k s t := by
  obtain ⟨hstalls, hloft⟩ := h
  have hstall : ∀ q, stallP t q = stallP s q := fun q => by rw [stallP, hstalls, stallP]
  exact of_sameScratch (by rw [hstall]) (by rw [opAt, hstall]) (by rw [hstall]) (fun q _ => hstall q) hloft

/-- A stall changed outside its program and its scratch. -/
theorem of_modStallP {f : Stall → Stall} (hrest : stallRest (f (stallP s p)) = stallRest (stallP s p))
    (hprog : (f (stallP s p)).prog = (stallP s p).prog) (hscratch : (f (stallP s p)).scratch = (stallP s p).scratch) :
    MovesOn p k s (modStallP p f s) := by
  have hstall := stallP_modStallP_same p f s
  refine of_sameScratch (by rw [hstall, hrest]) ?_ (by rw [hstall, hscratch]) (fun q hq => by rw [stallP_modStallP, if_neg hq]) rfl
  rw [opAt, hstall, opsOf, hprog, opAt, opsOf]

end MovesOn

theorem opAt_putOp (p k : Nat) (f : OpCtx → OpCtx) (s : State) :
    opAt (putOp p k f s) p k = if k < (opsOf (stallP s p)).length then f (opAt s p k) else {} := by
  rw [opAt, stallP_putOp_same, opsOf_setOp, List.getD_eq_getElem?_getD, List.getElem?_set_self']
  split_ifs with hk <;> simp [hk]

/-- An operation changed in its place, its fetches and its counts. -/
theorem MovesOn.of_putOp {p k : Nat} {s : State} {f : OpCtx → OpCtx} (hwork : workOf (f (opAt s p k)) = workOf (opAt s p k)) :
    MovesOn p k s (putOp p k f s) := by
  have hstall := stallP_putOp_same p k f s
  refine .of_sameScratch (by rw [hstall]; rfl) ?_ (by rw [hstall]; rfl) (fun q hq => by rw [stallP_putOp, if_neg hq]) rfl
  rw [opAt_putOp]
  split_ifs with hk
  · exact hwork
  · rw [opAt, List.getD_eq_default _ _ (Nat.le_of_not_lt hk)]

section Moves
variable (n p k : Nat) (s : State)

theorem movesOn_stallFault (code : Nat) (detail : List Byte) : MovesOn p k s (stallFault p code detail s) := by
  refine MovesOn.trans (MovesOn.of_modStallP ?_ ?_ ?_) (.of_sameMemories ⟨raiseStall_stalls .., raiseStall_loft ..⟩) <;> rfl

theorem workOf_setFetch (no : Nat) (v : Option (List Nat)) (o : OpCtx) : workOf (setFetch no v o) = workOf o := by
  unfold setFetch
  split <;> rfl

/-- A stall with landing entry `entry` of an operand of operation `o` emptied for the tile that it names. -/
def landEmptied (o : OpCtx) (no : Nat) (key : List Nat) (entry : Nat) (x : Stall) : Stall :=
  { x with scratch := memWrite x.scratch (landAt o.d no entry) (emptyLanding o no key) }

/-- An operation that has asked for the tile `key` of an operand: its landing stands, and the fetch goes on with the next (R173). -/
def landBegun (no : Nat) (key : List Nat) (entry left : Nat) (o : OpCtx) : OpCtx :=
  { setFetch no (nextKey o no key) o with
    lands := o.lands ++ [{ opnd := no, it := key, entry := entry, st := if left = 0 then .full else .reserved, left := left }]
    satur := o.satur + (if no = 0 then padSatur o key else 0) }

theorem beginLand_eq (no : Nat) (key : List Nat) (entry left : Nat) : beginLand p k no key entry left s =
    putOp p k (landBegun no key entry left) (modStallP p (landEmptied (opAt s p k) no key entry) s) := rfl

theorem movesOn_beginLand {no entry : Nat} (hno : no ∈ [0, 1, 3]) (hloft : (opndWalk (opAt s p k).d no).opr.space = 2)
    (hentry : entry < (opndWalk (opAt s p k).d no).opr.id) (key : List Nat) (left : Nat) :
    MovesOn p k s (beginLand p k no key entry left s) := by
  have hstall := stallP_modStallP_same p (landEmptied (opAt s p k) no key entry) s
  have hempty : MovesOn p k s (modStallP p (landEmptied (opAt s p k) no key entry) s) := by
    refine ⟨by rw [hstall]; rfl, by rw [opAt, hstall]; rfl, ?_, ?_, fun q hq => by rw [stallP_modStallP, if_neg hq], rfl⟩
    · rw [hstall]
      exact landingsOnly_beginLand hno hloft hentry key _
    · rw [hstall]
      exact memWrite_wf _ _
  rw [beginLand_eq]
  exact hempty.trans (MovesOn.of_putOp (workOf_setFetch no (nextKey _ no key) _))

theorem movesOn_fetchOne {no : Nat} (hno : no ∈ [0, 1, 3]) {t : State} (hfetch : fetchOne n p k no s = some t) : MovesOn p k s t := by
  have hstop : ∀ code detail, MovesOn p k s (stallFault p code detail (putOp p k (setFetch no none) s)) := fun code detail =>
    (MovesOn.of_putOp (workOf_setFetch no none _)).trans (movesOn_stallFault ..)
  unfold fetchOne at hfetch
  dsimp only at hfetch
  split at hfetch
  · cases hfetch
  · next hroom =>
    have hloft : (opndWalk (opAt s p k).d no).opr.space = 2 := not_not.1 fun hother => hroom (.inl hother)
    split at hfetch
    · cases hfetch
    · split at hfetch
      · split at hfetch <;> cases hfetch
        exact hstop ..
      · next entry hfree =>
        have hentry := List.mem_range.1 (List.mem_of_find?_eq_some hfree)
        split at hfetch <;> cases hfetch
        · exact hstop ..
        · exact (movesOn_beginLand p k s hno hloft hentry _ _).trans (.of_sameMemories (sameMemories_sendRead ..))

theorem movesOn_fetchFuel {no : Nat} (hno : no ∈ [0, 1, 3]) (f : Nat) : MovesOn p k s (fetchFuel f n p k no s) := by
  induction f generalizing s with
  | zero => exact .refl ..
  | succ f ih =>
    unfold fetchFuel
    split
    · next t hfetch => exact (movesOn_fetchOne n p k s hno hfetch).trans (ih t)
    · exact .refl ..

theorem movesOn_fetchPump : MovesOn p k s (fetchPump n p k s) := by
  unfold fetchPump
  split_ifs
  · exact MovesOn.foldl (fun s _ hno => movesOn_fetchFuel n p k s hno _) s
  · exact .refl ..

theorem movesOn_takePump : MovesOn p k s (takePump n p k s) := by
  unfold takePump
  dsimp only
  split
  · split
    · refine MovesOn.trans (MovesOn.of_putOp ?_) (.of_sameMemories ⟨inject_stalls .., inject_loft ..⟩)
      rfl
    · exact .refl ..
  · exact .refl ..

theorem movesOn_winFree (w t : Nat) : MovesOn p k s (winFree n p k w t s) := by
  unfold winFree
  dsimp only
  split
  · exact .refl ..
  · refine MovesOn.trans (MovesOn.of_modStallP ?_ ?_ ?_) (.of_sameMemories (sameMemories_returnCredit ..)) <;> rfl

theorem movesOn_releaseOpnd (no : Nat) (it : List Nat) (next : Option (List Nat)) : MovesOn p k s (releaseOpnd n p k no it next s) := by
  unfold releaseOpnd
  dsimp only
  split
  · exact .refl ..
  · split
    · refine MovesOn.trans (MovesOn.of_putOp ?_) (movesOn_winFree ..)
      rfl
    · exact MovesOn.of_putOp rfl

/-- An operation at the iteration `next`, or at the end of its loop or of its TAKE level's iteration (R177). -/
def opMovedTo (next : Option (List Nat)) (o : OpCtx) : OpCtx :=
  match next with
  | some it => { o with it := it }
  | none => if (takeLevel o.d).isSome then { o with takeWait := true } else { o with walking := false }

theorem workOf_opMovedTo (next : Option (List Nat)) (o : OpCtx) : workOf (opMovedTo next o) = workOf o := by
  cases next with
  | some it => rfl
  | none =>
    unfold opMovedTo
    dsimp only
    split <;> rfl

theorem advanceTo_eq (opnds : List Nat) (next : Option (List Nat)) : advanceTo n p k opnds next s =
    fetchPump n p k (takePump n p k (putOp p k (opMovedTo next)
      (opnds.foldl (fun t no => releaseOpnd n p k no (opAt s p k).it next t) s))) := rfl

theorem movesOn_advanceTo (opnds : List Nat) (next : Option (List Nat)) : MovesOn p k s (advanceTo n p k opnds next s) := by
  rw [advanceTo_eq]
  have hreleased := MovesOn.foldl (fun t no (_ : no ∈ opnds) => movesOn_releaseOpnd n p k t no (opAt s p k).it next) s
  exact ((hreleased.trans (MovesOn.of_putOp (workOf_opMovedTo next _))).trans (movesOn_takePump ..)).trans (movesOn_fetchPump ..)

theorem movesOn_ledgerSend (i : Nat) : MovesOn p k s (ledgerSend n p i s) := by
  unfold ledgerSend
  dsimp only
  split
  · exact .refl ..
  · refine MovesOn.trans (MovesOn.of_modStallP ?_ ?_ ?_) (MovesOn.foldl (fun s c _ => ?_) _)
    case refine_4 =>
      refine MovesOn.trans (MovesOn.of_modStallP ?_ ?_ ?_) (.of_sameMemories ⟨injectStall_stalls .., injectStall_loft ..⟩) <;> rfl
    all_goals rfl

theorem movesOn_ledgerPump : MovesOn p k s (ledgerPump n p s) := MovesOn.foldl (fun s i _ => movesOn_ledgerSend n p k s i) s

end Moves

end Sys2Proof.Machine
end

section
/-! PROOFS. Matrix instructions and epilogues: the step that the oldest operation takes, the slot that a matrix instruction folds into, the
tile that an epilogue stores, and the statements of O25 and O28. -/

namespace Sys2Proof.Machine

/-! ## Stall fields that a write to another leaves -/

theorem opsOf_scratch (x : Stall) (m : Mem) : opsOf { x with scratch := m } = opsOf x := rfl

theorem opsOf_corrected (x : Stall) (c : Nat) : opsOf { x with corrected := c } = opsOf x := rfl

theorem slotOf_corrected (x : Stall) (c i : Nat) : slotOf { x with corrected := c } i = slotOf x i := rfl

/-! ## The oldest operation's step (R140, R163) -/

theorem opAt_zero {s : State} {p : Nat} {x : Stall} {o : OpCtx} {rest : List OpCtx} (hx : stallP s p = x)
    (hops : opsOf x = o :: rest) : opAt s p 0 = o := by
  rw [opAt, hx, hops]
  rfl

/-- A step that the oldest operation takes is the one that its stall takes. -/
theorem firstOp_oldest {s t : State} {p : Nat} {f : Nat → Got State} {o : OpCtx} {rest : List OpCtx}
    (hops : opsOf (stallP s p) = o :: rest) (hstep : f 0 = .ok t) : firstOp s p f = .ok t := by
  rw [firstOp, hops, List.length_cons, List.range_succ_eq_map, List.foldl_cons]
  dsimp only
  rw [hstep]
  exact List.foldl_fixed' (fun _ => rfl) _

/-- An epilogue that the oldest tile read out may run is the one that its stall runs (R140). -/
theorem epilogueStep_oldest {s t : State} {n p k : Nat} {uncorr : Bool} (hfront : (outOps (stallP s p)).head? = some k)
    (hstep : epilogueOne n p k uncorr s = .ok t) : epilogueStep n p uncorr s = .ok t := by
  obtain ⟨later, hout⟩ := List.head?_eq_some_iff.1 hfront
  rw [epilogueStep, hout, List.foldl_cons]
  dsimp only
  rw [hstep]
  exact List.foldl_fixed' (fun _ => rfl) _

/-! ## A matrix instruction (R84, R88, R93) -/

/-- The values of a slot after an instruction of an operation, with the cells that became NaN (R84). -/
def foldedVals (o : OpCtx) (a b : List (List Val)) (sl : AccSlot) : List (Acc × Bool) :=
  matrixInstr (halfPair o.d.afmt o.d.bfmt) a b (validOf o o.it 1) (validOf o o.it 2) (validOf o o.it 3) sl.vals

theorem slotAfter_vals (o : OpCtx) (sl : AccSlot) (vals : List (Acc × Bool)) (rows : List Nat) (uncorr : Bool) :
    (slotAfter o sl vals rows uncorr).vals = vals.map (·.1) := rfl

theorem slotAfter_st (o : OpCtx) (sl : AccSlot) (vals : List (Acc × Bool)) (rows : List Nat) (uncorr : Bool) :
    (slotAfter o sl vals rows uncorr).st = if uncorr = true ∨ sl.st = .poisoned then .poisoned
      else if lastK o o.it then (if o.d.kout then .sending else .readout) else .live := by
  simp [slotAfter]

theorem slotOf_issuedStall (i j : Nat) (a : AccSlot) (o : OpCtx) (x : Stall) :
    slotOf (issuedStall i a o x) j = if j = i then a else slotOf x j := tget_tset ..

theorem opsOf_issuedStall (i : Nat) (a : AccSlot) (o : OpCtx) (x : Stall) : opsOf (issuedStall i a o x) = opsOf x := rfl

/-- The state in which a matrix instruction has folded into its slot, and its CHAIN_IN window entry is free. -/
def issuedState (n p k i : Nat) (a : AccSlot) (o : OpCtx) (kin : Bool) (s : State) : State :=
  let s := modStallP p (issuedStall i a o) s
  if kin then winFree n p k (chainKey o.desc) (tileNumber o (outTile o.d o.it)) s else s

theorem movesOn_issuedState (n p k i : Nat) (a : AccSlot) (o : OpCtx) (kin : Bool) (s : State) :
    MovesOn p k (modStallP p (issuedStall i a o) s) (issuedState n p k i a o kin s) := by
  unfold issuedState
  dsimp only
  split
  · exact movesOn_winFree ..
  · exact .refl ..

theorem issueOne_folds {s : State} {n p k i : Nat} {uncorr kin : Bool} {o : OpCtx} {a : List (List Val) × List Nat}
    {b : List (List Val)} {sl : AccSlot} (hop : (envAt s n p k).o = o) (hmatrix : isMatrix o.d = true) (hwalks : o.walking = true)
    (htake : o.takeWait = false) (ha : aTile s (envAt s n p k) = .ok a) (hb : opndVals s (envAt s n p k) 1 o.it = .ok b)
    (hslot : startSlot s (envAt s n p k) = .ok (i, sl, kin)) :
    issueOne n p k uncorr s = .ok (advanceTo n p k (instrOpnds o) (nextIt o o.it)
      (issuedState n p k i (slotAfter o sl (foldedVals o a.1 b sl) a.2 uncorr) o kin s)) := by
  subst hop
  unfold issueOne
  dsimp only
  rw [if_neg (by simp [hmatrix, hwalks, htake]), ha, Got.bind, hb, Got.bind, hslot]
  rfl

/-- A step that the oldest operation of a running stall takes is taken with what SEC-DED found counted and recorded. -/
theorem onStall_oldest {s u : State} {n p : Nat} {x : Stall} {o : OpCtx} {rest : List OpCtx} {sr : Secded}
    {f : Nat → Nat → Got State} (hrun : runningStall s n = some (p, x)) (hops : opsOf x = o :: rest) (hstep : f p 0 = .ok u) :
    onStall n sr s (fun p => firstOp s p (f p)) = sramUsed p sr u := by
  rw [← stallP_of_runningStall hrun] at hops
  exact onStall_of_ok hrun (firstOp_oldest hops hstep)

/-- The command issues the oldest operation's instruction into its slot, and the operation moves on. -/
theorem exec_matrixInstructionIssue_oldest {s : State} {n p i : Nat} {x : Stall} {o : OpCtx} {rest : List OpCtx}
    {a : List (List Val) × List Nat} {b : List (List Val)} {sl : AccSlot} {kin : Bool} {sr : Secded}
    (hrun : runningStall s n = some (p, x)) (hops : opsOf x = o :: rest) (hmatrix : isMatrix o.d = true) (hwalks : o.walking = true)
    (htake : o.takeWait = false) (ha : aTile s (envAt s n p 0) = .ok a) (hb : opndVals s (envAt s n p 0) 1 o.it = .ok b)
    (hslot : startSlot s (envAt s n p 0) = .ok (i, sl, kin)) :
    ∃ u, exec (.matrixInstructionIssue n sr) s = .next (sramUsed p sr u) ∧
      MovesOn p 0 (setStallP s p (issuedStall i (slotAfter o sl (foldedVals o a.1 b sl) a.2 sr.uncorr) o x)) u := by
  have hx := stallP_of_runningStall hrun
  have hstep := issueOne_folds (uncorr := sr.uncorr) (opAt_zero hx hops) hmatrix hwalks htake ha hb hslot
  refine ⟨_, congrArg Host.Outcome.next (onStall_oldest (f := fun p k => issueOne n p k sr.uncorr s) hrun hops hstep), ?_⟩
  have hissued := movesOn_issuedState n p 0 i (slotAfter o sl (foldedVals o a.1 b sl) a.2 sr.uncorr) o kin s
  rw [modStallP, hx] at hissued
  exact hissued.trans (movesOn_advanceTo ..)

/-- Settles O25: the instruction's own change is `issuedStall`'s, by `exec_matrixInstructionIssue_oldest`, and the rest of the step is
what `MovesOn` allows. -/
theorem matrixInstructionsFold : Obligations.MatrixInstructionsFold := by
  intro s n p i x o rest a b sl kin sr hrun hops hmatrix hwalks htake ha hb hslot
  obtain ⟨u, hexec, hmoves⟩ := exec_matrixInstructionIssue_oldest (sr := sr) hrun hops hmatrix hwalks htake ha hb hslot
  have hissued := stallP_setStallP_same s p (issuedStall i (slotAfter o sl (foldedVals o a.1 b sl) a.2 sr.uncorr) o x)
  have hslots : ∀ j, slotOf (stallP u p) j = if j = i then slotAfter o sl (foldedVals o a.1 b sl) a.2 sr.uncorr else slotOf x j :=
    fun j => by rw [slotOf, hmoves.slots, hissued, ← slotOf_issuedStall, slotOf]
  have hlands := hmoves.lands
  rw [opAt_zero hissued ((opsOf_issuedStall ..).trans hops), hissued] at hlands
  refine ⟨_, hexec, ?_⟩
  rw [stallP_sramUsed, if_pos rfl]
  refine ⟨?vals, ?st, ?corrected, fun huncorr => sramUsed_raises huncorr p u, fun j hj => ?other, hlands,
    fun q hq => ?others, ?loft⟩
  case vals => rw [slotOf_corrected, hslots, if_pos rfl, slotAfter_vals, foldedVals]
  case st => rw [slotOf_corrected, hslots, if_pos rfl, slotAfter_st]
  case other => rw [slotOf_corrected, hslots, if_neg hj]
  case corrected =>
    rw [hmoves.corrected, hissued]
    rfl
  case others => rw [stallP_sramUsed, if_neg hq, hmoves.others q hq, stallP_setStallP, if_neg hq]
  case loft => rw [sramUsed_loft, hmoves.loft, setStallP_loft]

/-! ## An output tile stored in scratch (R93, R133, R181) -/

/-- The stall with an output tile's bytes at their planned addresses and its fill map entry written (R181). -/
def tileStored (e : Env) (t : Nat) (plan : List (Option Nat)) (bytes : List Byte) (x : Stall) : Stall :=
  { x with
    scratch := memWrite (memCells e.x.scratch (planCells plan bytes)) (e.o.d.fillmap + 8 * t) (fillEntry e.o.inst) }

theorem opsOf_tileStored (e : Env) (t : Nat) (plan : List (Option Nat)) (bytes : List Byte) (x : Stall) :
    opsOf (tileStored e t plan bytes x) = opsOf x := opsOf_scratch x _

section Store
variable {s : State} {e : Env} {it : List Nat} {t lines poss : Nat} {plan : List (Option Nat)}
  (htarget : ScratchTarget s e it t lines poss plan) (p k : Nat)
include htarget

theorem writeTile_scratch (bytes : List Byte) : writeTile p k e (walkC e.o.d) it t lines poss bytes s =
    .ok (modStallP p (tileStored e t plan bytes) s) := by
  obtain ⟨hscratch, hplan, hlo, hhi, hfresh⟩ := htarget
  have hspace : (walkC e.o.d).opr.space = 1 := hscratch
  have hplan' : tilePlan s e (walkC e.o.d) it true lines (writtenPoss (walkC e.o.d).opr.sfmt poss) = .ok plan := hplan
  unfold writeTile
  rw [hspace]
  dsimp only
  rw [hplan']
  show writeScratch p (e.o.d.fillmap + 8 * t) e it (planCells plan bytes) s = _
  unfold writeScratch
  dsimp only
  rw [if_neg (by omega), hfresh]
  rfl

/-- A tile of values is stored in C's format by the header's modes, and its events join the operation's counts. -/
theorem storeVals_scratch (stage nans : Nat) (vs : List (List Val)) :
    ∃ u, storeVals p k e (walkC e.o.d) it t lines poss stage nans vs s = .ok u ∧
      MovesOn p k (modStallP p (tileStored e t plan (headerBytes s e it t lines poss stage vs)) s) u := by
  unfold storeVals
  dsimp only
  rw [writeTile_scratch htarget, Got.bind]
  exact ⟨_, rfl, MovesOn.of_putOp rfl⟩

end Store

/-! ## The epilogue of a product without stages (R131, R140) -/

theorem epilogue_stores {s : State} {n p k : Nat} {it : List Nat} {plan : List (Option Nat)} {o : OpCtx} (hop : (envAt s n p k).o = o)
    (hstages : stageList o.d.epi = [])
    (htarget : ScratchTarget s (envAt s n p k) it (tileNumber o it) (validOf o it 1) (validOf o it 2) plan)
    (vs : List (List Val)) (nan : List Nat) :
    ∃ u, epilogue n p k it vs nan s = .ok (u, true) ∧
      MovesOn p k (modStallP p (tileStored (envAt s n p k) (tileNumber o it) plan
        (headerBytes s (envAt s n p k) it (tileNumber o it) (validOf o it 1) (validOf o it 2) 8 vs)) s) u := by
  subst hop
  obtain ⟨u, hstore, hmoves⟩ := storeVals_scratch htarget p k 8
    (validCells (validOf (envAt s n p k).o it 1) (validOf (envAt s n p k).o it 2) nan).length vs
  unfold epilogue epiTile
  dsimp only
  rw [hstages, List.getLast?_nil]
  dsimp only
  rw [hstore]
  exact ⟨_, rfl, ((hmoves.trans (movesOn_releaseOpnd ..)).trans (movesOn_fetchPump ..)).trans (movesOn_ledgerPump ..)⟩

section TileDone
variable (p k : Nat) (rt : ReadTile) (s : State)

theorem stallP_tileDone_scratch (q : Nat) : (stallP (tileDone p k rt s) q).scratch = (stallP s q).scratch := by
  unfold tileDone
  rw [stallP_putOp]
  split_ifs with hq
  · rw [stallP_modStallP_same, hq]
    rfl
  · rw [stallP_modStallP, if_neg hq]

theorem tileDone_loft : (tileDone p k rt s).loft = s.loft := rfl

theorem readouts_tileDone : (opAt (tileDone p k rt s) p k).readouts = (opAt s p k).readouts.drop 1 := by
  have hops : ∀ f : Stall → Stall, (f (stallP s p)).prog = (stallP s p).prog →
      opsOf (stallP (modStallP p f s) p) = opsOf (stallP s p) := fun f hprog => by
    rw [stallP_modStallP_same, opsOf, hprog, opsOf]
  unfold tileDone
  dsimp only
  rw [opAt_putOp, opAt, hops _ rfl]
  split_ifs with hk
  · rfl
  · rw [opAt, List.getD_eq_default _ _ (Nat.le_of_not_lt hk)]
    rfl

theorem slotOf_tileDone {i : Nat} (hslot : rt.slot = some i) : slotOf (stallP (tileDone p k rt s) p) i = {} := by
  unfold tileDone
  rw [stallP_putOp_same, stallP_modStallP_same, hslot]
  exact (tget_tdel _ _ i i).trans (if_pos rfl)

end TileDone

/-- The epilogue of an operation's oldest tile read out ends with the tile done. -/
theorem epilogueOne_stores {s u : State} {n p k : Nat} {uncorr : Bool} {o : OpCtx} {rt : ReadTile} {more : List ReadTile}
    (hop : (envAt s n p k).o = o) (hreads : o.readouts = rt :: more) (hfin : rt.fin = false) (hproduct : o.d.opcode ≠ 3)
    (hstep : epilogue n p k rt.it (readExact o.d rt.vals) rt.nan s = .ok (u, true)) :
    epilogueOne n p k uncorr s = .ok (tileDone p k rt u) := by
  subst hop
  unfold epilogueOne
  dsimp only
  rw [hreads]
  dsimp only
  rw [hfin, if_neg Bool.false_ne_true, if_neg hproduct, hstep]
  rfl

/-- The command runs the epilogue of the oldest operation's oldest tile read out: the tile is stored and done. -/
theorem exec_epilogueRun_oldest {s : State} {n p : Nat} {x : Stall} {o : OpCtx} {rest : List OpCtx} {rt : ReadTile}
    {more : List ReadTile} {plan : List (Option Nat)} {sr : Secded} (hrun : runningStall s n = some (p, x))
    (hops : opsOf x = o :: rest) (hfront : (outOps x).head? = some 0) (hreads : o.readouts = rt :: more) (hfin : rt.fin = false)
    (hproduct : o.d.opcode ≠ 3) (hstages : stageList o.d.epi = [])
    (htarget : ScratchTarget s (envAt s n p 0) rt.it (tileNumber o rt.it) (validOf o rt.it 1) (validOf o rt.it 2) plan) :
    ∃ u, exec (.epilogueRun ⟨n, sr⟩) s = .next (sramUsed p sr (tileDone p 0 rt u)) ∧
      MovesOn p 0 (setStallP s p (tileStored (envAt s n p 0) (tileNumber o rt.it) plan (headerBytes s (envAt s n p 0) rt.it
        (tileNumber o rt.it) (validOf o rt.it 1) (validOf o rt.it 2) 8 (readExact o.d rt.vals)) x)) u := by
  have hx := stallP_of_runningStall hrun
  have hop : (envAt s n p 0).o = o := opAt_zero hx hops
  obtain ⟨u, hepilogue, hmoves⟩ := epilogue_stores hop hstages htarget (readExact o.d rt.vals) rt.nan
  have hstep := epilogueStep_oldest (hx ▸ hfront) (epilogueOne_stores (uncorr := sr.uncorr) hop hreads hfin hproduct hepilogue)
  rw [modStallP, hx] at hmoves
  exact ⟨u, congrArg Host.Outcome.next (onStall_of_ok (sr := sr) hrun hstep), hmoves⟩

/-- Settles O28: the epilogue's own change is `tileStored`'s and `tileDone`'s, by `exec_epilogueRun_oldest`, and the rest of the step is
what `MovesOn` allows. -/
theorem epiloguesStore : Obligations.EpiloguesStore := by
  intro s n p x o rest rt more plan sr hrun hops hfront hreads hfin hproduct hstages htarget
  obtain ⟨u, hexec, hmoves⟩ := exec_epilogueRun_oldest (sr := sr) hrun hops hfront hreads hfin hproduct hstages htarget
  refine ⟨_, hexec, ?_⟩
  have hop : (envAt s n p 0).o = o := opAt_zero (stallP_of_runningStall hrun) hops
  generalize headerBytes s (envAt s n p 0) rt.it (tileNumber o rt.it) (validOf o rt.it 1) (validOf o rt.it 2) 8
    (readExact o.d rt.vals) = bytes at hmoves ⊢
  have hstored := stallP_setStallP_same s p (tileStored (envAt s n p 0) (tileNumber o rt.it) plan bytes x)
  have hsame := opAt_zero hstored ((opsOf_tileStored ..).trans hops)
  have hlands := hmoves.lands
  have hreadouts := hmoves.readouts
  rw [hsame] at hreadouts
  rw [hsame.trans hop.symm, hstored] at hlands
  rw [stallP_sramUsed, if_pos rfl]
  refine ⟨⟨?bytes, fun q hq => ?others, ?loft⟩, ?readouts, fun i hi => (slotOf_corrected ..).trans (slotOf_tileDone p 0 rt u hi)⟩
  case bytes =>
    rw [stallP_sramUsed, if_pos rfl, stallP_tileDone_scratch]
    exact hlands
  case others => rw [stallP_sramUsed, if_neg hq, stallP_tileDone_scratch, hmoves.others q hq, stallP_setStallP, if_neg hq]
  case loft => rw [sramUsed_loft, tileDone_loft, hmoves.loft, setStallP_loft]
  case readouts => rw [opsOf_corrected, readouts_tileDone, hreadouts, hreads, List.drop_one, List.tail_cons]

end Sys2Proof.Machine
end

section
/-! PROOFS. Prologues: the ledger rows that a prologue gives back, the tile that it stages, and the statement of O27. -/

namespace Sys2Proof.Machine

/-! ## Ledger entries that become FREE (R149, R151) -/

@[simp] theorem modStallP_modStallP (p : Nat) (f g : Stall → Stall) (s : State) :
    modStallP p f (modStallP p g s) = modStallP p (fun x => f (g x)) s := by
  rw [modStallP, stallP_modStallP_same, modStallP, setStallP_setStallP, modStallP]

theorem stallP_of_sameMemories {s t : State} (h : SameMemories s t) (q : Nat) : stallP t q = stallP s q := by
  rw [stallP, h.1, stallP]

/-- From `s` to `t` no stall has changed but the ledger of stall `p`, and no loft byte. -/
structure LedgerOnly (p : Nat) (s t : State) : Prop where
  stall : { stallP t p with ledger := [] } = { stallP s p with ledger := [] }
  others : ∀ q, q ≠ p → stallP t q = stallP s q
  loft : t.loft = s.loft

namespace LedgerOnly
variable {p : Nat} {s t u : State}

theorem scratch (h : LedgerOnly p s t) : (stallP t p).scratch = (stallP s p).scratch := (congrArg Stall.scratch h.stall :)
theorem prog (h : LedgerOnly p s t) : (stallP t p).prog = (stallP s p).prog := (congrArg Stall.prog h.stall :)

theorem opAt_eq (h : LedgerOnly p s t) (k : Nat) : opAt t p k = opAt s p k := by rw [opAt, opsOf, h.prog, opAt, opsOf]

theorem scratch_all (h : LedgerOnly p s t) (q : Nat) : (stallP t q).scratch = (stallP s q).scratch := by
  by_cases hq : q = p
  · rw [hq, h.scratch]
  · rw [h.others q hq]

theorem refl (p : Nat) (s : State) : LedgerOnly p s s := ⟨rfl, fun _ _ => rfl, rfl⟩

theorem trans (h : LedgerOnly p s t) (h' : LedgerOnly p t u) : LedgerOnly p s u :=
  ⟨h'.stall.trans h.stall, fun q hq => (h'.others q hq).trans (h.others q hq), h'.loft.trans h.loft⟩

theorem foldl {α : Type} {f : State → α → State} (h : ∀ s a, LedgerOnly p s (f s a)) (l : List α) (s : State) :
    LedgerOnly p s (l.foldl f s) := by
  induction l generalizing s with
  | nil => exact refl ..
  | cons a l ih => exact (h s a).trans (ih _)

theorem of_sameMemories (h : SameMemories s t) : LedgerOnly p s t :=
  ⟨by rw [stallP_of_sameMemories h], fun q _ => stallP_of_sameMemories h q, h.2⟩

theorem of_modLedger (p : Nat) (f : Stall → Table Ledger) (s : State) :
    LedgerOnly p s (modStallP p (fun x => { x with ledger := f x }) s) :=
  ⟨by rw [stallP_modStallP_same], fun q hq => by rw [stallP_modStallP, if_neg hq], rfl⟩

end LedgerOnly

theorem sameMemories_injectStall (cls src dst : Nat) (body : PktBody) (s : State) :
    SameMemories s (injectStall cls src dst body s) := ⟨injectStall_stalls .., injectStall_loft ..⟩

theorem ledgerOnly_ledgerFree (n p i : Nat) (s : State) : LedgerOnly p s (ledgerFree n p i s) := by
  have hfreed := LedgerOnly.of_modLedger p (fun x => tdel x.ledger i) s
  unfold ledgerFree
  dsimp only
  split
  · exact hfreed.trans (.of_sameMemories (sameMemories_injectStall ..))
  · exact hfreed

theorem ledgerOnly_freeNormRows (n p k : Nat) (rows : List Nat) (s : State) : LedgerOnly p s (freeNormRows n p k rows s) := by
  unfold freeNormRows
  split
  · refine LedgerOnly.foldl (fun s row => ?_) rows s
    split_ifs
    · exact ledgerOnly_ledgerFree ..
    · exact .refl ..
  · exact .refl ..

/-! ## The staged tile (R143) -/

/-- An operation whose landing entry `ent` holds the staged tile of iteration `it`. -/
def landStaged (it : List Nat) (ent : Nat) (r : ProOut) (o : OpCtx) : OpCtx :=
  { o with
    satur := o.satur + r.out.satur
    under := o.under + r.out.under
    lands := o.lands.map fun l => if l.opnd = 0 ∧ l.it = it ∧ some ent = some l.entry then { l with st := .staged, nan := r.nan } else l }

/-- A stall with the result of its operation's prologue in the staging area of landing entry `ent`. -/
def tileStaged (k : Nat) (it : List Nat) (ent : Nat) (r : ProOut) (x : Stall) : Stall :=
  let o := (opsOf x).getD k {}
  { setOp x k (landStaged it ent r o) with scratch := memWrite x.scratch (stageAt o.d ent) r.out.bytes }

theorem proStore_landing (n p k : Nat) (it : List Nat) (ent : Nat) (r : ProOut) (s : State) :
    LedgerOnly p (modStallP p (tileStaged k it ent r) s) (proStore n p k it (some ent) r s) := by
  have hput : modStallP p (fun x => { x with scratch := memWrite x.scratch (stageAt (opAt s p k).d ent) r.out.bytes })
      (putOp p k (landStaged it ent r) s) = modStallP p (tileStaged k it ent r) s := by
    rw [putOp, modStallP_modStallP]
    rfl
  rw [← hput]
  exact ledgerOnly_freeNormRows ..

/-- The landings that a staged tile fills are staged, with the lines where its prologue produced NaN. -/
theorem staged_of_landStaged {it : List Nat} {ent : Nat} {r : ProOut} {o : OpCtx} {l : Landing}
    (hl : l ∈ (landStaged it ent r o).lands) (hopnd : l.opnd = 0) (hit : l.it = it) (hent : l.entry = ent) :
    l.st = .staged ∧ l.nan = r.nan := by
  obtain ⟨l', -, rfl⟩ := List.mem_map.1 hl
  split_ifs at hopnd hit hent ⊢ with hfills
  · exact ⟨rfl, rfl⟩
  · exact absurd ⟨hopnd, hit, congrArg some hent.symm⟩ hfills

/-- With no epilogue ready, the command runs the prologue of the oldest operation's first waiting tile. -/
theorem exec_prologueRun_oldest {s : State} {n p : Nat} {x : Stall} {o : OpCtx} {rest : List OpCtx} {w : List Nat × Option Nat}
    {r : ProOut} {sr : Secded} (hrun : runningStall s n = some (p, x)) (hops : opsOf x = o :: rest) (hidle : epilogueIdle n p s = true)
    (hwaits : (proWaiting o).find? (fun w => !mustPark (envAt s n p 0) w.1) = some w)
    (hresult : proRun s (envAt s n p 0) w.1 = .ok r) :
    exec (.prologueRun ⟨n, sr⟩) s = .next (sramUsed p sr (proStore n p 0 w.1 w.2 r s)) := by
  have hop : (envAt s n p 0).o = o := opAt_zero (stallP_of_runningStall hrun) hops
  have hone : proOne n p 0 s = .ok (proStore n p 0 w.1 w.2 r s) := by
    unfold proOne
    dsimp only
    rw [hop, hwaits]
    dsimp only
    rw [hresult]
    rfl
  rw [← stallP_of_runningStall hrun] at hops
  refine congrArg Host.Outcome.next (onStall_of_ok hrun ?_)
  rw [if_pos hidle]
  exact firstOp_oldest hops hone

/-- Settles O27: the prologue's own change is `tileStaged`'s, by `exec_prologueRun_oldest`, and the rows that it gives back touch the
ledger alone. -/
theorem prologuesStage : Obligations.ProloguesStage := by
  intro s n p ent x o rest it r sr hrun hops hidle hwaits hresult
  refine ⟨_, exec_prologueRun_oldest hrun hops hidle hwaits hresult, ?_⟩
  have hx := stallP_of_runningStall hrun
  have hstored := proStore_landing n p 0 it ent r s
  generalize proStore n p 0 it (some ent) r s = u at hstored ⊢
  have hstaged := stallP_modStallP_same p (tileStaged 0 it ent r) s
  have hscratch := hstored.scratch
  have hop := hstored.opAt_eq 0
  rw [hstaged, hx, tileStaged, hops] at hscratch
  have hpos : 0 < (opsOf x).length := by simp [hops]
  have hkept : opAt (modStallP p (tileStaged 0 it ent r) s) p 0 = landStaged it ent r o := by
    rw [opAt, hstaged, hx, tileStaged, opsOf_scratch, getD_opsOf_setOp hpos, hops]
    rfl
  refine ⟨?scratch, fun l hl => ?lands, fun q hq => ?others, ?loft⟩
  case scratch =>
    rw [stallP_sramUsed, if_pos rfl]
    exact hscratch
  case lands =>
    rw [stallP_sramUsed, if_pos rfl, opsOf_corrected, ← opAt, hop, hkept] at hl
    exact staged_of_landStaged hl
  case others => rw [stallP_sramUsed, if_neg hq, hstored.others q hq, stallP_modStallP, if_neg hq]
  case loft => rw [sramUsed_loft, hstored.loft, modStallP_loft]

end Sys2Proof.Machine
end

section
/-! PROOFS. Vector operations: the step of the oldest operation, what each of its tiles stores or keeps, and the statement of O29. -/

namespace Sys2Proof.Machine

/-! ## What a vector tile leaves besides its own bytes (R173) -/

/-- From `s` to `t` operation `k` of stall `p` keeps its descriptor, and scratch outside its landing entries, every other stall and the
loft are as they were: `MovesOn` without the operation's work and the rest of its stall. -/
structure StoresOn (p k : Nat) (s t : State) : Prop where
  desc : (opAt t p k).d = (opAt s p k).d
  lands : LandingsOnly (opAt s p k).d (stallP s p).scratch (stallP t p).scratch
  wf : Memory.wf (stallP s p).scratch = true → Memory.wf (stallP t p).scratch = true
  others : ∀ q, q ≠ p → stallP t q = stallP s q
  loft : t.loft = s.loft

theorem MovesOn.storesOn {p k : Nat} {s t : State} (h : MovesOn p k s t) : StoresOn p k s t :=
  ⟨h.desc, h.lands, h.wf, h.others, h.loft⟩

namespace StoresOn
variable {p k : Nat} {s t u : State}

theorem trans (h : StoresOn p k s t) (h' : StoresOn p k t u) : StoresOn p k s u where
  desc := h'.desc.trans h.desc
  lands := landingsOnly_trans h.wf h.lands (h.desc ▸ h'.lands)
  wf := h'.wf ∘ h.wf
  others q hq := (h'.others q hq).trans (h.others q hq)
  loft := h'.loft.trans h.loft

/-- An operation changed but for its descriptor. -/
theorem of_putOp {f : OpCtx → OpCtx} (hdesc : (f (opAt s p k)).d = (opAt s p k).d) : StoresOn p k s (putOp p k f s) := by
  have hscratch : (stallP (putOp p k f s) p).scratch = (stallP s p).scratch := by
    rw [stallP_putOp_same]
    rfl
  refine ⟨?_, hscratch ▸ landingsOnly_refl .., fun hwf => hscratch ▸ hwf, fun q hq => by rw [stallP_putOp, if_neg hq], rfl⟩
  rw [opAt_putOp]
  split_ifs with hk
  · exact hdesc
  · rw [opAt, List.getD_eq_default _ _ (Nat.le_of_not_lt hk)]

theorem advanceTo (h : StoresOn p k s t) (n : Nat) (opnds : List Nat) (next : Option (List Nat)) :
    StoresOn p k s (advanceTo n p k opnds next t) := h.trans (movesOn_advanceTo ..).storesOn

end StoresOn

/-- The output tile of the environment's own iteration has its place in scratch. -/
abbrev TileTarget (s : State) (e : Env) (plan : List (Option Nat)) : Prop :=
  ScratchTarget s e e.o.it (tileNumber e.o e.o.it) (validOf e.o e.o.it 1) (validOf e.o e.o.it 2) plan

/-- Values of that tile in C's format (R133). -/
abbrev tileHeaderBytes (s : State) (e : Env) (stage : Nat) (vs : List (List Val)) : List Byte :=
  headerBytes s e e.o.it (tileNumber e.o e.o.it) (validOf e.o e.o.it 1) (validOf e.o e.o.it 2) stage vs

/-- A step of operation `k` stores tile `t`: its bytes at the planned addresses and its fill map entry; the rest as `StoresOn` says. -/
def StoresTile (s : State) (e : Env) (p k t : Nat) (plan : List (Option Nat)) (bytes : List Byte) (g : Got State) : Prop :=
  ∃ u, g = .ok u ∧ StoresOn p k (modStallP p (tileStored e t plan bytes) s) u

/-- A step of operation `k` keeps the partials `ps` of the rows of its iteration and stores nothing. -/
def KeepsRows (s : State) (e : Env) (p k : Nat) (ps : List Ledger) (g : Got State) : Prop :=
  ∃ u, g = .ok u ∧ MovesOn p k (putOp p k (keepRows (some ps) e.o.it) s) u

/-- The partials kept for a row group are those that are read there (R119). -/
theorem rowsKept_keepRows (ps : List Ledger) (it : List Nat) (o : OpCtx) (start : Ledger) :
    rowsKept (keepRows (some ps) it o) it start = ps := by
  simp [rowsKept, keepRows]

/-! ## The oldest operation's tile (R140, R163) -/

section Oldest
variable {s : State} {n p op t : Nat} {x : Stall} {rest : List OpCtx} {plan : List (Option Nat)} {bytes : List Byte} {sr : Secded}
  {c : Instr} {init : Nat → Nat → State → State} {f : Nat → Nat → Env → State → Got State}
  (hrun : runningStall s n = some (p, x)) (hops : opsOf x = (envAt s n p 0).o :: rest) (hwalks : (envAt s n p 0).o.walking = true)
  (htake : (envAt s n p 0).o.takeWait = false) (hidle : stagesIdle n p s = true) (hopcode : (envAt s n p 0).o.d.opcode = op)
  (hexec : exec c s = .next (vectorRun n op sr init f s))
include hrun hops hwalks htake hidle hopcode hexec

/-- A tile that the oldest operation may take is the one that the command of its opcode takes. -/
theorem exec_vector_oldest {u : State} (hstep : f p 0 (envAt s n p 0) s = .ok u) : exec c s = .next (sramUsed p sr u) := by
  have hfirst : (firstOp s p fun k =>
      let e := envAt s n p k
      if e.o.d.opcode = op && e.o.walking && !e.o.takeWait then f p k e s else .wait) = .ok u := by
    rw [← stallP_of_runningStall hrun] at hops
    refine firstOp_oldest hops ?_
    dsimp only
    rw [if_pos (by simp [hopcode, hwalks, htake]), hstep]
  rw [hexec, vectorRun, hrun]
  dsimp only
  rw [if_pos hidle, hfirst]
  rfl

theorem exec_vector_stores (hstores : StoresTile s (envAt s n p 0) p 0 t plan bytes (f p 0 (envAt s n p 0) s)) :
    ∃ u, exec c s = .next u ∧ StoredBytes s p (envAt s n p 0) t bytes plan u := by
  obtain ⟨u, hstep, hu⟩ := hstores
  have hstored := stallP_modStallP_same p (tileStored (envAt s n p 0) t plan bytes) s
  have hop : opAt (modStallP p (tileStored (envAt s n p 0) t plan bytes) s) p 0 = (envAt s n p 0).o := by
    rw [opAt, hstored, opsOf_tileStored]
    rfl
  have hlands := hu.lands
  rw [hop, hstored] at hlands
  refine ⟨_, exec_vector_oldest hrun hops hwalks htake hidle hopcode hexec hstep, ?scratch, fun q hq => ?others, ?loft⟩
  case scratch =>
    rw [stallP_sramUsed, if_pos rfl]
    exact hlands
  case others => rw [stallP_sramUsed, if_neg hq, hu.others q hq, stallP_modStallP, if_neg hq]
  case loft => rw [sramUsed_loft, hu.loft, modStallP_loft]

theorem exec_vector_keeps {ps : List Ledger} (hkeeps : KeepsRows s (envAt s n p 0) p 0 ps (f p 0 (envAt s n p 0) s)) :
    ∃ u, exec c s = .next u ∧ KeptRows s p (envAt s n p 0).o ps u := by
  obtain ⟨u, hstep, hu⟩ := hkeeps
  have hput := stallP_putOp_same p 0 (keepRows (some ps) (envAt s n p 0).o.it) s
  have hkept : opAt (putOp p 0 (keepRows (some ps) (envAt s n p 0).o.it) s) p 0 =
      keepRows (some ps) (envAt s n p 0).o.it (envAt s n p 0).o := by
    rw [opAt_putOp, if_pos (by simp [stallP_of_runningStall hrun, hops])]
    rfl
  have hlands := hu.lands
  have hrows := (congrArg OpCtx.rows hu.work :)
  have hdesc := hu.desc
  rw [hkept, hput] at hlands
  refine ⟨_, exec_vector_oldest hrun hops hwalks htake hidle hopcode hexec hstep, ?rows, ?scratch, fun q hq => ?others, ?loft⟩
  case rows =>
    rw [stallP_sramUsed, if_pos rfl, opsOf_corrected, ← opAt, rowsKept, hdesc]
    refine Eq.trans ?_ (rowsKept_keepRows ps (envAt s n p 0).o.it (envAt s n p 0).o {})
    rw [rowsKept, ← hkept]
    exact congrArg (fun rows => ((List.find? _ rows).map Prod.snd).getD _) hrows
  case scratch =>
    rw [stallP_sramUsed, if_pos rfl]
    exact hlands
  case others => rw [stallP_sramUsed, if_neg hq, hu.others q hq, stallP_putOp, if_neg hq]
  case loft => rw [sramUsed_loft, hu.loft, putOp_loft]

end Oldest

/-! ## Tiles stored with the header's conversion (R131, R162, R246, R247, R272) -/

/-- ELEMWISE without stages converts its tile by the header's modes (R131). -/
theorem elemwiseTile_stores {s : State} {n p k : Nat} {plan : List (Option Nat)} {vs : List (List Val)}
    (htarget : TileTarget s (envAt s n p k) plan) (hstages : stageList (envAt s n p k).o.d.epi = [])
    (ha : opndVals s (envAt s n p k) 0 (envAt s n p k).o.it = .ok vs) :
    StoresTile s (envAt s n p k) p k (tileNumber (envAt s n p k).o (envAt s n p k).o.it) plan
      (tileHeaderBytes s (envAt s n p k) 8 vs) (elemwiseTile n p k (envAt s n p k) s) := by
  obtain ⟨u, hepilogue, hmoves⟩ := epilogue_stores rfl hstages htarget vs []
  unfold elemwiseTile
  rw [ha, Got.bind, hepilogue]
  exact ⟨_, rfl, hmoves.storesOn.advanceTo ..⟩

section Stored
variable {s : State} {e : Env} {n p k : Nat} {plan : List (Option Nat)} (htarget : TileTarget s e plan)
include htarget

/-- MOVE, SEND and RECV between equal formats copy their tile's bytes (R162). -/
theorem copyTile_stores {bs : List Byte} (hfmt : e.o.d.afmt = e.o.d.cfmt) (ha : opndBytes s e 0 e.o.it = .ok bs) :
    StoresTile s e p k (tileNumber e.o e.o.it) plan bs (copyTile n p k e s) := by
  unfold copyTile
  dsimp only
  rw [if_pos hfmt, ha, Got.bind, writeTile_scratch htarget]
  exact ⟨_, rfl, (movesOn_advanceTo ..).storesOn⟩

theorem storeLanes_stores (stage : Nat) (opnds : List Nat) (r : List (List W32) × List Nat) :
    StoresTile s e p k (tileNumber e.o e.o.it) plan (tileHeaderBytes s e stage (exact r.1)) (storeLanes n p k stage e opnds r s) := by
  obtain ⟨u, hstore, hmoves⟩ := storeVals_scratch htarget p k stage r.2.length (exact r.1)
  unfold storeLanes
  dsimp only
  rw [hstore]
  exact ⟨_, rfl, hmoves.storesOn.advanceTo ..⟩

theorem guideTile_stores {a b : List (List Val)} (ha : opndVals s e 0 e.o.it = .ok a) (hb : opndVals s e 1 e.o.it = .ok b) :
    StoresTile s e p k (tileNumber e.o e.o.it) plan
      (tileHeaderBytes s e 10 (exact (laneMap (validOf e.o e.o.it 1) (validOf e.o e.o.it 2) fun l c =>
        guideElem (rowField e e.o.it 24) (round32 (atV a l c)) (round32 (atV b l c))).1)) (guideTile n p k e s) := by
  unfold guideTile
  dsimp only
  rw [ha, Got.bind, hb]
  exact storeLanes_stores htarget ..

/-- STEP without a draw (R247). -/
theorem stepTile_stores {a b h : List (List Val)} (hdraw : byteAt e.o.d.oparam 0 % 2 = 0) (ha : opndVals s e 0 e.o.it = .ok a)
    (hb : opndVals s e 1 e.o.it = .ok b) (hh : opndVals s e 3 e.o.it = .ok h) :
    StoresTile s e p k (tileNumber e.o e.o.it) plan
      (tileHeaderBytes s e 10 (exact (laneMap (validOf e.o e.o.it 1) (validOf e.o e.o.it 2) fun l c =>
        stepElem (rowField e e.o.it 28) (rowField e e.o.it 32) (rowField e e.o.it 36) (rowField e e.o.it 40)
          (round32 (atV a l c)) (round32 (atV b l c)) (round32 (atV h l c)) 0 false).1)) (stepTile n p k e s) := by
  unfold stepTile
  simp only [hdraw, ha, hb, hh, Got.bind, Nat.zero_ne_one, if_false, decide_false]
  exact storeLanes_stores htarget ..

theorem noiseTile_stores {a : List (List Val)} (ha : opndVals s e 0 e.o.it = .ok a) :
    StoresTile s e p k (tileNumber e.o e.o.it) plan
      (tileHeaderBytes s e 10 ((List.range 64).map fun l => (List.range 64).map fun c =>
        if l < validOf e.o e.o.it 1 ∧ c < validOf e.o e.o.it 2 then
          (noiseElem e.o.d (rngSrc s e e.o.it) (elemIndex (noiseBase e.o.d) e e.o.it l c) (round32 (atV a l c))).1
        else Val.zero)) (noiseTile n p k e s) := by
  unfold noiseTile
  dsimp only
  rw [ha, Got.bind]
  simp only [List.map_map, Function.comp_def, apply_ite Prod.fst]
  obtain ⟨u, hstore, hmoves⟩ := storeVals_scratch htarget p k 10 _ _
  rw [hstore]
  exact ⟨_, rfl, hmoves.storesOn.advanceTo ..⟩

/-! ## Row operations (R119 to R130) -/

/-- The second pass of a row operation on one tile (R126, R129). -/
theorem secondPass_stores {vs : List (List Val)} (ev : Ledger → Nat) (g : Ledger → Nat → W32 → FnRes)
    (ha : opndVals s e 0 e.o.it = .ok vs) :
    StoresTile s e p k (tileNumber e.o e.o.it) plan
      (tileHeaderBytes s e 8 (exact (laneMap (validOf e.o e.o.it 1) (validOf e.o e.o.it 2) fun l c =>
        g ((rowsKept e.o e.o.it {}).getD l {}) c (round32 (atV vs l c))).1)) (secondPass n p k e ev g s) := by
  unfold secondPass
  dsimp only
  rw [ha, Got.bind]
  obtain ⟨u, hstore, hmoves⟩ := storeVals_scratch htarget p k 8 _ _
  rw [hstore]
  refine ⟨_, rfl, StoresOn.advanceTo ?_ ..⟩
  split_ifs
  · exact hmoves.storesOn.trans (.of_putOp rfl)
  · exact hmoves.storesOn

theorem softmaxTile_stores {vs : List (List Val)} (hpass : e.o.it.getD 6 0 = 1) (ha : opndVals s e 0 e.o.it = .ok vs) :
    StoresTile s e p k (tileNumber e.o e.o.it) plan
      (tileHeaderBytes s e 8 (exact (laneMap (validOf e.o e.o.it 1) (validOf e.o e.o.it 2) fun l c =>
        softSecond ((rowsKept e.o e.o.it {}).getD l {}) (round32 (atV vs l c))).1)) (softmaxTile n p k e s) := by
  rw [softmaxTile, if_neg (by omega)]
  exact secondPass_stores htarget _ (fun l _ x => softSecond l x) ha

theorem normTile_stores {vs : List (List Val)} {gb : List (Option (W32 × W32))} (hpass : e.o.it.getD 6 0 = 1)
    (ha : opndVals s e 0 e.o.it = .ok vs) (hgb : normGammaBeta s e e.o.it = .ok gb) :
    StoresTile s e p k (tileNumber e.o e.o.it) plan
      (tileHeaderBytes s e 8 (exact (laneMap (validOf e.o e.o.it 1) (validOf e.o e.o.it 2) fun l c =>
        normOut (Config.normCentred e.o.d.oparam) (Config.normEps e.o.d.oparam) ((rowsKept e.o e.o.it {}).getD l {}) (gb.getD c none)
          (round32 (atV vs l c))).1)) (normTile n p k e s) := by
  unfold normTile
  dsimp only
  rw [if_neg (by omega), hgb, Got.bind]
  exact secondPass_stores htarget rowEvents
    (fun l c x => normOut (Config.normCentred e.o.d.oparam) (Config.normEps e.o.d.oparam) l (gb.getD c none) x) ha

end Stored

section Kept
variable {s : State} {e : Env} {n p k : Nat} {vs : List (List Val)} (ha : opndVals s e 0 e.o.it = .ok vs)
include ha

/-- The first pass of a row operation on one tile, no restore being under way (R119, R128). -/
theorem firstPass_keeps (start : Ledger) (f : Ledger → List W32 → Ledger) (hback : e.o.back = none) :
    KeepsRows s e p k (foldTile e.o start f (lanes vs)) (firstPass n p k e start f s) := by
  unfold firstPass
  dsimp only
  rw [ha, hback]
  exact ⟨_, rfl, movesOn_advanceTo ..⟩

theorem softmaxTile_keeps (hpass : e.o.it.getD 6 0 = 0) (hback : e.o.back = none) :
    KeepsRows s e p k (foldTile e.o softStart softFirst (lanes vs)) (softmaxTile n p k e s) := by
  rw [softmaxTile, if_pos hpass]
  exact firstPass_keeps ha _ _ hback

theorem normTile_keeps (hpass : e.o.it.getD 6 0 = 0) (hback : e.o.back = none) :
    KeepsRows s e p k (foldTile e.o {} (fun l xs => combinePart l (tilePart xs)) (lanes vs)) (normTile n p k e s) := by
  unfold normTile
  rw [if_pos hpass]
  exact firstPass_keeps ha _ _ hback

/-- A tile of ROWSTAT before the last of its row group (R119). -/
theorem rowstatTile_keeps (hlast : lastCol e.o = false) :
    KeepsRows s e p k (foldTile e.o {} (fun l xs => combinePart l (tilePart xs)) (lanes vs)) (rowstatTile n p k e s) := by
  unfold rowstatTile
  dsimp only
  rw [ha, Got.bind, hlast]
  exact ⟨_, rfl, movesOn_advanceTo ..⟩

/-- The last tile of a row group of ROWSTAT stores the six columns of its rows (R121). -/
theorem rowstatTile_stores {plan : List (Option Nat)} (hlast : lastCol e.o = true)
    (htarget : ScratchTarget s e (setN e.o.d e.o.it 0) (tileNumber e.o (setN e.o.d e.o.it 0)) (validOf e.o e.o.it 1) 6 plan) :
    StoresTile s e p k (tileNumber e.o (setN e.o.d e.o.it 0)) plan
      (headerBytes s e (setN e.o.d e.o.it 0) (tileNumber e.o (setN e.o.d e.o.it 0)) (validOf e.o e.o.it 1) 6 8
        ((foldTile e.o {} (fun l xs => combinePart l (tilePart xs)) (lanes vs)).map fun q => (List.range 64).map fun c =>
          if c < 6 then val32 ((rowStats q).getD (Config.rowstatColumn e.o.d.oparam c % 6) 0) else Val.zero))
      (rowstatTile n p k e s) := by
  unfold rowstatTile
  dsimp only
  rw [ha, Got.bind, if_pos hlast]
  obtain ⟨u, hstore, hmoves⟩ := storeVals_scratch htarget p k 8 _ _
  rw [hstore]
  exact ⟨_, rfl, (hmoves.storesOn.trans (.of_putOp rfl)).advanceTo ..⟩

end Kept

/-- Settles O29: each tile by the lemma about its operation, which `exec_vector_stores` and `exec_vector_keeps` carry to the command. -/
theorem vectorTilesStore : Obligations.VectorTilesStore := by
  intro s n p x o rest plan sr hrun hops hwalks htake hidle
  have hop : (envAt s n p 0).o = o := opAt_zero (stallP_of_runningStall hrun) hops
  subst hop
  refine ⟨?elemwise, ?copy, ?guide, ?step, ?noise, ?softmax, ?norm, ?rowstat⟩
  case elemwise =>
    intro vs hopcode hstages ha htarget
    exact exec_vector_stores hrun hops hwalks htake hidle hopcode rfl (elemwiseTile_stores htarget hstages ha)
  case copy =>
    intro c bs hc hfmt ha htarget
    have hcopies := copyTile_stores (n := n) (p := p) (k := 0) htarget hfmt ha
    simp only [List.mem_cons, List.not_mem_nil, or_false, Prod.mk.injEq] at hc
    rcases hc with ⟨hopcode, rfl⟩ | ⟨hopcode, rfl⟩ | ⟨hopcode, rfl⟩ <;>
      exact exec_vector_stores hrun hops hwalks htake hidle hopcode rfl hcopies
  case guide =>
    intro a b hopcode ha hb htarget
    exact exec_vector_stores hrun hops hwalks htake hidle hopcode rfl (guideTile_stores htarget ha hb)
  case step =>
    intro a b h hopcode hdraw ha hb hh htarget
    exact exec_vector_stores hrun hops hwalks htake hidle hopcode rfl (stepTile_stores htarget hdraw ha hb hh)
  case noise =>
    intro a hopcode ha htarget
    exact exec_vector_stores hrun hops hwalks htake hidle hopcode rfl (noiseTile_stores htarget ha)
  case softmax =>
    intro vs hopcode ha
    exact ⟨fun hpass hback =>
        exec_vector_keeps hrun hops hwalks htake hidle hopcode rfl (softmaxTile_keeps ha hpass hback),
      fun hpass htarget =>
        exec_vector_stores hrun hops hwalks htake hidle hopcode rfl (softmaxTile_stores htarget hpass ha)⟩
  case norm =>
    intro vs hopcode ha
    exact ⟨fun hpass hback =>
        exec_vector_keeps hrun hops hwalks htake hidle hopcode rfl (normTile_keeps ha hpass hback),
      fun gb hpass hgb htarget =>
        exec_vector_stores hrun hops hwalks htake hidle hopcode rfl (normTile_stores htarget hpass ha hgb)⟩
  case rowstat =>
    intro vs hopcode ha
    exact ⟨fun hlast =>
        exec_vector_keeps hrun hops hwalks htake hidle hopcode rfl (rowstatTile_keeps ha hlast),
      fun hlast htarget =>
        exec_vector_stores hrun hops hwalks htake hidle hopcode rfl (rowstatTile_stores ha hlast htarget)⟩

end Sys2Proof.Machine
end

section
/-! PROOFS. What the fabric delivers: each class of packet where it arrives, and the statement of O31. -/

namespace Sys2Proof.Machine

/-! ## Stalls and packets after a shared operation -/

@[simp] theorem stallP_dropPkt (k : Nat) (s : State) (q : Nat) : stallP (dropPkt k s) q = stallP s q := rfl

/-- A stall that stops at a fault of its own issues nothing further, and is otherwise as it was (R174). -/
theorem stallP_stallFault (p code : Nat) (detail : List Byte) (s : State) (q : Nat) :
    stallP (stallFault p code detail s) q = if q = p then { stallP s p with jstop := true } else stallP s q :=
  stallP_modStallP s p q fun x => { x with jstop := true }

/-- A stall that stops keeps its operations. -/
theorem opAt_stallFault (p code : Nat) (detail : List Byte) (s : State) (j : Nat) : opAt (stallFault p code detail s) p j = opAt s p j := by
  rw [opAt, stallP_stallFault, if_pos rfl]
  rfl

/-- A packet to a stall that is served is on the fabric. -/
theorem mem_net_injectStall {cls src dst : Nat} {body : PktBody} {s : State} (hserved : (physOf s dst).isSome = true) :
    ∃ r ∈ (injectStall cls src dst body s).fab.net, r.body = body := by
  obtain ⟨q, hq⟩ := Option.isSome_iff_exists.1 hserved
  simp only [injectStall, hq, inject_net]
  exact ⟨_, List.mem_append_right _ List.mem_cons_self, rfl⟩

/-- The place that a search of a stall's operations finds is one of its program's. -/
theorem findOp_lt {x : Stall} {f : OpCtx → Bool} {j : Nat} (hfind : (findOp x f).map (·.1) = some j) : j < (opsOf x).length := by
  simp only [findOp, Option.map_map, Option.map_eq_some_iff] at hfind
  obtain ⟨⟨o, i⟩, hfind, rfl⟩ := hfind
  exact List.snd_lt_of_mem_zipIdx (List.mem_of_find?_eq_some hfind) |>.trans_eq (by simp)

/-! ## ACK, and word that a partial was accepted (R149, R161) -/

theorem stallP_ledgerFree (n p i : Nat) (s : State) :
    stallP (ledgerFree n p i s) p = { stallP s p with ledger := tdel (stallP s p).ledger i } := by
  unfold ledgerFree
  dsimp only
  split
  · exact (stallP_of_sameMemories (sameMemories_injectStall ..) p).trans (stallP_modStallP_same ..)
  · exact stallP_modStallP_same ..

section Ack
variable {s : State} {k p n : Nat} {q : Packet} (hat : netAt s k = some q) (hphys : physOf s n = some p)
include hat hphys

theorem exec_fabAck_ack {desc inst : Nat} (hbody : q.body = .ack n desc inst) : exec (.fabAck k) s =
    .next (modStallP p (modOp desc inst fun o => { o with out := o.out - 1 }) (dropPkt k s)) := by
  obtain ⟨cls, src, dst, hops, fails, body⟩ := q
  obtain rfl : body = _ := hbody
  have hack : ackOp n desc inst (dropPkt k s) = modStallP p (modOp desc inst fun o => { o with out := o.out - 1 }) (dropPkt k s) := by
    have hphys' : physOf (dropPkt k s) n = some p := hphys
    rw [ackOp, hphys']
  refine congrArg Host.Outcome.next ?_
  unfold fabAck
  rw [hat]
  exact hack

theorem exec_fabAck_accept {entry : Nat} (hbody : q.body = .accept n entry) : exec (.fabAck k) s =
    .next (if (tget {} (stallP s p).ledger entry).todo = [] ∧ (tget {} (stallP s p).ledger entry).await ≤ 1 then
        ledgerFree n p entry (dropPkt k s)
      else modStallP p (fun x => { x with ledger := tset x.ledger entry { tget {} (stallP s p).ledger entry with
        await := (tget {} (stallP s p).ledger entry).await - 1 } }) (dropPkt k s)) := by
  obtain ⟨cls, src, dst, hops, fails, body⟩ := q
  obtain rfl : body = _ := hbody
  have hphys' : physOf (dropPkt k s) n = some p := hphys
  refine congrArg Host.Outcome.next ?_
  unfold fabAck
  rw [hat]
  dsimp only
  rw [hphys']
  exact if_congr (and_congr_left' List.isEmpty_iff) rfl rfl

/-- An entry is FREE with the last of its consumers, and changes nothing but the ledger (R149). -/
theorem fabAck_accept_ledger {entry : Nat} (hbody : q.body = .accept n entry) : ∃ t, exec (.fabAck k) s = .next t ∧
    LedgerOnly p s t ∧ tget {} (stallP t p).ledger entry =
      (if (tget {} (stallP s p).ledger entry).todo = [] ∧ (tget {} (stallP s p).ledger entry).await ≤ 1 then {}
       else { tget {} (stallP s p).ledger entry with await := (tget {} (stallP s p).ledger entry).await - 1 }) := by
  have hdrop : LedgerOnly p s (dropPkt k s) := .of_sameMemories ⟨rfl, rfl⟩
  refine ⟨_, exec_fabAck_accept hat hphys hbody, ?_⟩
  split_ifs
  · refine ⟨hdrop.trans (ledgerOnly_ledgerFree ..), ?_⟩
    rw [stallP_ledgerFree]
    exact (tget_tdel ..).trans (if_pos rfl)
  · refine ⟨hdrop.trans (.of_modLedger p _ _), ?_⟩
    rw [stallP_modStallP_same]
    exact tget_tset_same ..

end Ack

/-! ## RDATA (R141, R173, R291) -/

/-- An operation whose landing has taken in the bytes of an RDATA. -/
def rdataLanded (opnd entry : Nat) (it : List Nat) (cells : List (Nat × Byte)) (bad : Bool) (o : OpCtx) : OpCtx :=
  { o with
    lands := (o.lands.map fun l =>
      if landIs opnd entry it l then
        landed cells.length bad { l with raw := if heldRaw o.d opnd then memCells l.raw cells else l.raw }
      else l).filter fun l => !(l.st == .dropped && l.left = 0) }

/-- A stall with the bytes of an RDATA in the landing entry of its operation `j`. -/
def rdataStall (j opnd entry : Nat) (it : List Nat) (cells : List (Nat × Byte)) (x : Stall) : Stall :=
  let o := (opsOf x).getD j {}
  { setOp x j (rdataLanded opnd entry it cells false o) with
    scratch := if heldRaw o.d opnd then x.scratch
      else memCells x.scratch (cells.map fun c => (landAt o.d opnd entry + c.1, c.2)) }

theorem opOf_rdataStall {j : Nat} {x : Stall} (hj : j < (opsOf x).length) (opnd entry : Nat) (it : List Nat) (cells : List (Nat × Byte)) :
    (opsOf (rdataStall j opnd entry it cells x)).getD j {} = rdataLanded opnd entry it cells false ((opsOf x).getD j {}) := by
  rw [rdataStall, opsOf_scratch, getD_opsOf_setOp hj]

theorem rdataLands_clean (n p j opnd entry : Nat) (it : List Nat) (cells : List (Nat × Byte)) (s : State) :
    rdataLands n p j opnd entry it cells none s = fetchAll n p (modStallP p (rdataStall j opnd entry it cells) s) := by
  have hput : putOp p j (rdataLanded opnd entry it cells false) s =
      modStallP p (fun x => setOp x j (rdataLanded opnd entry it cells false ((opsOf x).getD j {}))) s := rfl
  by_cases hraw : heldRaw (opAt s p j).d opnd = true
  · have hstall : modStallP p (rdataStall j opnd entry it cells) s = putOp p j (rdataLanded opnd entry it cells false) s := by
      rw [hput, modStallP, rdataStall, if_pos hraw]
      rfl
    rw [hstall]
    unfold rdataLands
    dsimp only
    rw [if_pos (show heldRaw (envAt s n p j).o.d opnd = true from hraw)]
    rfl
  · have hstall : modStallP p (rdataStall j opnd entry it cells) s = modStallP p (fun x => { x with
        scratch := memCells x.scratch (cells.map fun c => (landAt (opAt s p j).d opnd entry + c.1, c.2)) })
        (putOp p j (rdataLanded opnd entry it cells false) s) := by
      rw [hput, modStallP_modStallP, modStallP, rdataStall, if_neg hraw]
      rfl
    rw [hstall]
    unfold rdataLands
    dsimp only
    rw [if_neg (show ¬heldRaw (envAt s n p j).o.d opnd = true from hraw)]
    rfl

theorem rdataLands_poisoned (n p j opnd entry : Nat) (it : List Nat) (cells : List (Nat × Byte)) (w : Nat) (s : State) :
    rdataLands n p j opnd entry it cells (some w) s =
      stallFault p 0x0402 (detA w 3) (putOp p j (rdataLanded opnd entry it cells true) s) := rfl

/-- The landing of a poisoned word no longer waits for its bytes, and is never used (R291). -/
theorem st_of_rdataLanded_poisoned {opnd entry : Nat} {it : List Nat} {cells : List (Nat × Byte)} {o : OpCtx} {l : Landing}
    (hl : l ∈ (rdataLanded opnd entry it cells true o).lands) (his : landIs opnd entry it l = true) : l.st ≠ .reserved := by
  obtain ⟨l', -, rfl⟩ := List.mem_map.1 (List.mem_of_mem_filter hl)
  by_cases hits : landIs opnd entry it l' = true
  · rw [if_pos hits]
    by_cases hst : l'.st = .reserved <;> simp [landed, hst]
  · rw [if_neg hits] at his
    exact absurd his hits

/-- RDATA for an operation in progress lands. -/
theorem exec_fabRdata_lands {s : State} {k p n desc inst opnd entry j : Nat} {it : List Nat} {cells : List (Nat × Byte)}
    {poisoned : Option Nat} {q : Packet} (hat : netAt s k = some q)
    (hbody : q.body = .rdata n desc inst opnd entry it cells poisoned) (hphys : physOf s n = some p)
    (hplace : opPlace s p desc inst = some j) :
    exec (.fabRdata k) s = .next (rdataLands n p j opnd entry it cells poisoned (dropPkt k s)) := by
  obtain ⟨cls, src, dst, hops, fails, body⟩ := q
  obtain rfl : body = _ := hbody
  have hphys' : physOf (dropPkt k s) n = some p := hphys
  have hplace' : opPlace (dropPkt k s) p desc inst = some j := hplace
  refine congrArg Host.Outcome.next ?_
  unfold fabRdata
  rw [hat]
  dsimp only
  rw [hphys']
  dsimp only
  rw [hplace']

/-! ## DATA into a receive window (R141, R161, R309, R315) -/

/-- The acknowledgement of a transfer that is whole. -/
def dataAcked (n : Nat) (ack : Option (Nat × Nat × Nat)) (s : State) : State :=
  match ack with
  | some (m, desc, inst) => injectStall 1 n m (.ack m desc inst) s
  | none => s

theorem sameMemories_dataAcked (n : Nat) (ack : Option (Nat × Nat × Nat)) (s : State) : SameMemories s (dataAcked n ack s) := by
  unfold dataAcked
  split
  · exact sameMemories_injectStall ..
  · exact ⟨rfl, rfl⟩

/-- Where a part of a tile lies in the scratch of stall `p`: `off` bytes into entry `i` of window `w`. -/
def partAddr (s : State) (n p w i off : Nat) : Nat :=
  (winPlace s (descEnv s n p (winDesc w)) w).1 + i * (winPlace s (descEnv s n p (winDesc w)) w).2 + off

/-- A stall with a further part of a tile in its window entry `h`. -/
def partJoined (w a : Nat) (bytes : List Byte) (h : WinEntry) (x : Stall) : Stall :=
  { x with
    wins := tset x.wins w ((tget [] x.wins w).map fun y => if y = h then { h with left := h.left - bytes.length } else y)
    scratch := memWrite x.scratch a bytes }

/-- A stall with the first part of a tile in a new entry `f` of its window. -/
def partEntered (w a c : Nat) (bytes : List Byte) (f : WinEntry) (x : Stall) : Stall :=
  { x with
    wins := tset x.wins w (tget [] x.wins w ++ [f])
    winCount := tset x.winCount (countKey w f.key) (c + 1)
    scratch := memWrite x.scratch a bytes }

/-- The entry of a tile whose parts are still to come. -/
abbrev partEntry (s : State) (p w : Nat) (f : WinEntry) : Option WinEntry :=
  (tget [] (stallP s p).wins w).find? fun h => 0 < h.left && h.src = f.src && h.key = f.key && h.tile = f.tile

/-- An arrival either leaves the window be or stops the stall at its overflow (R316). -/
theorem overflowCheck_eq (n p w cap : Nat) (s : State) :
    overflowCheck n p w cap s = s ∨ ∃ code detail, overflowCheck n p w cap s = stallFault p code detail s := by
  unfold overflowCheck
  split
  · exact .inr ⟨_, _, rfl⟩
  · exact .inl rfl

/-- From `s` to `t` stall `p` keeps its windows and its scratch, and the other stalls, the loft, the fabric and the map of the stalls are
as they were. -/
structure WindowKept (p : Nat) (s t : State) : Prop where
  wins : (stallP t p).wins = (stallP s p).wins
  scratch : (stallP t p).scratch = (stallP s p).scratch
  others : ∀ q, q ≠ p → stallP t q = stallP s q
  loft : t.loft = s.loft
  fab : t.fab = s.fab
  bring : t.bring = s.bring

theorem WindowKept.refl (p : Nat) (s : State) : WindowKept p s s := ⟨rfl, rfl, fun _ _ => rfl, rfl, rfl, rfl⟩

theorem windowKept_overflowCheck (n p w cap : Nat) (s : State) : WindowKept p s (overflowCheck n p w cap s) := by
  rcases overflowCheck_eq n p w cap s with heq | ⟨code, detail, heq⟩ <;> rw [heq]
  · exact .refl ..
  · have hstall := stallP_stallFault p code detail s
    exact ⟨by rw [hstall, if_pos rfl], by rw [hstall, if_pos rfl], fun q hq => by rw [hstall, if_neg hq], rfl, rfl, rfl⟩

section Part
variable {s : State} {n p w off total : Nat} {bytes : List Byte} {f : WinEntry}

theorem windowPart_joins {h : WinEntry} (hentry : partEntry s p w f = some h) :
    windowPart n p w off total bytes f s =
      (modStallP p (partJoined w (partAddr s n p w h.entry off) bytes h) s, decide (h.left - bytes.length = 0)) := by
  have hentry' : (tget [] (descEnv s n p (winDesc w)).x.wins w).find?
      (fun h => 0 < h.left && h.src = f.src && h.key = f.key && h.tile = f.tile) = some h := hentry
  unfold windowPart
  dsimp only
  rw [hentry']
  rfl

/-- The first part of a tile takes the next free entry of its sender's share. -/
theorem windowPart_enters {base size i : Nat} (hentry : partEntry s p w f = none)
    (hshare : winShare s (descEnv s n p (winDesc w)) w f.key (winCap s (descEnv s n p (winDesc w)) w) = (base, size))
    (hfree : ((List.range size).map fun j => base + (tget 0 (stallP s p).winCount (countKey w f.key) + j) % max 1 size).find?
      (fun i => (tget [] (stallP s p).wins w).all fun h => h.entry ≠ i) = some i) :
    ∃ u, windowPart n p w off total bytes f s = (u, decide (total - bytes.length = 0)) ∧
      WindowKept p (modStallP p (partEntered w (partAddr s n p w i off) (tget 0 (stallP s p).winCount (countKey w f.key)) bytes
        { f with entry := i, left := total - bytes.length }) s) u := by
  have hentry' : (tget [] (descEnv s n p (winDesc w)).x.wins w).find?
      (fun h => 0 < h.left && h.src = f.src && h.key = f.key && h.tile = f.tile) = none := hentry
  have hfree' : ((List.range size).map fun j =>
      base + (tget 0 (descEnv s n p (winDesc w)).x.winCount (countKey w f.key) + j) % max 1 size).find?
      (fun i => (tget [] (descEnv s n p (winDesc w)).x.wins w).all fun h => h.entry ≠ i) = some i := hfree
  unfold windowPart
  dsimp only
  rw [hentry']
  dsimp only
  rw [hshare, hfree']
  exact ⟨_, rfl, windowKept_overflowCheck ..⟩

end Part

section Data
variable {s : State} {k p n win src key dest tile off total : Nat} {bytes : List Byte} {ack : Option (Nat × Nat × Nat)} {q : Packet}
  (hat : netAt s k = some q) (hbody : q.body = .data n win src key dest tile off total bytes ack) (hphys : physOf s n = some p)
  (hwin : win < 16384)
include hat hbody hphys hwin

/-- A part for a receive window enters it; the part that makes its tile whole is acknowledged (R161). -/
theorem exec_fabData_window {u : State} {whole : Bool}
    (hpart : windowPart n p win off total bytes { entry := 0, tile := tile, src := src, key := key, dst := dest } (dropPkt k s) =
      (u, whole)) : exec (.fabData k) s = .next (if whole = true then dataAcked n ack u else u) := by
  obtain ⟨cls, source, dst, hops, fails, body⟩ := q
  obtain rfl : body = _ := hbody
  have hphys' : physOf (dropPkt k s) n = some p := hphys
  refine congrArg Host.Outcome.next ?_
  unfold fabData
  rw [hat]
  dsimp only
  rw [hphys']
  dsimp only
  rw [if_neg (by omega), hpart]
  rfl

/-- A part changes its stall as `g` says; the part that leaves no byte of its tile's `left` to come is acknowledged. -/
theorem fabData_delivers {u : State} {left : Nat} {g : Stall → Stall}
    (hpart : windowPart n p win off total bytes { entry := 0, tile := tile, src := src, key := key, dst := dest } (dropPkt k s) =
      (u, decide (left - bytes.length = 0))) (hkept : WindowKept p (modStallP p g (dropPkt k s)) u) :
    ∃ t, exec (.fabData k) s = .next t ∧ (stallP t p).wins = (g (stallP s p)).wins ∧
      (stallP t p).scratch = (g (stallP s p)).scratch ∧
      (left ≤ bytes.length → ∀ m d i, ack = some (m, d, i) → (physOf s m).isSome = true → ∃ r ∈ t.fab.net, r.body = .ack m d i) ∧
      (bytes.length < left → t.fab.net = s.fab.net.eraseIdx k) ∧
      (∀ r, r ≠ p → (stallP t r).scratch = (stallP s r).scratch) ∧ t.loft = s.loft := by
  obtain ⟨hwins, hscratch, hothers, hloft, hfab, hbring⟩ := hkept
  rw [stallP_modStallP_same, stallP_dropPkt] at hwins hscratch
  have hother : ∀ r, r ≠ p → stallP u r = stallP s r := fun r hr => by
    rw [hothers r hr, stallP_modStallP, if_neg hr, stallP_dropPkt]
  refine ⟨_, exec_fabData_window hat hbody hphys hwin hpart, ?_⟩
  by_cases hwhole : left ≤ bytes.length
  · have hacked := sameMemories_dataAcked n ack u
    have hstall := stallP_of_sameMemories hacked
    rw [if_pos (decide_eq_true (Nat.sub_eq_zero_of_le hwhole))]
    refine ⟨(congrArg Stall.wins (hstall p)).trans hwins, (congrArg Stall.scratch (hstall p)).trans hscratch,
      fun _ m d i hack hserved => ?sent, fun hmore => absurd hwhole hmore.not_ge, fun r hr => by rw [hstall, hother r hr],
      hacked.2.trans hloft⟩
    case sent =>
      rw [hack]
      exact mem_net_injectStall (by rw [physOf, hbring]; exact hserved)
  · have hmore : ¬decide (left - bytes.length = 0) = true := by rw [decide_eq_true_iff]; omega
    rw [if_neg hmore]
    exact ⟨hwins, hscratch, fun hall => absurd hall hwhole, fun _ => congrArg (·.net) hfab, fun r hr => by rw [hother r hr], hloft⟩

end Data

/-! ## CREDIT (R149, R315) -/

/-- What holds of every entry of a table and of its default holds of what is read. -/
theorem tget_of_forall {α : Type} {P : α → Prop} {t : Table α} {d : α} (hd : P d) (h : ∀ e ∈ t, P e.2) (i : Nat) : P (tget d t i) := by
  unfold tget
  cases hfind : tfind t i with
  | none => exact hd
  | some v => exact h _ (mem_of_tfind hfind)

/-- With no partial due, none is sent (R149). -/
theorem ledgerPump_idle (n p : Nat) {s : State} (hidle : ∀ e ∈ (stallP s p).ledger, e.2.todo = []) : ledgerPump n p s = s := by
  refine List.foldl_fixed' (fun i => ?_) _
  have htodo : (tget {} (stallP s p).ledger i).todo = [] := tget_of_forall (P := fun l : Ledger => l.todo = []) rfl hidle i
  unfold ledgerSend
  dsimp only
  rw [htodo]
  rfl

theorem exec_fabCredit_idle {s : State} {k p n key dest : Nat} {q : Packet} (hat : netAt s k = some q)
    (hbody : q.body = .credit n key dest) (hphys : physOf s n = some p) (hidle : ∀ e ∈ (stallP s p).ledger, e.2.todo = []) :
    exec (.fabCredit k) s = .next (modStallP p (giveCredit key dest) (dropPkt k s)) := by
  obtain ⟨cls, source, dst, hops, fails, body⟩ := q
  obtain rfl : body = _ := hbody
  have hphys' : physOf (dropPkt k s) n = some p := hphys
  refine congrArg Host.Outcome.next ?_
  unfold fabCredit
  rw [hat]
  dsimp only
  rw [hphys']
  refine ledgerPump_idle n p ?_
  rw [stallP_modStallP_same]
  exact hidle

/-! ## Ledger partials (R148, R149) -/

theorem exec_fabLedger {s : State} {k p n entry desc : Nat} {part : Ledger} {complete : Bool} {q : Packet} (hat : netAt s k = some q)
    (hbody : q.body = .ledger n entry desc part complete) (hphys : physOf s n = some p) :
    exec (.fabLedger k) s = .next (ledgerArrives k n p entry desc part complete s) := by
  obtain ⟨cls, source, dst, hops, fails, body⟩ := q
  obtain rfl : body = _ := hbody
  refine congrArg Host.Outcome.next ?_
  unfold fabLedger
  rw [hat]
  dsimp only
  rw [hphys]

/-- The entry that a partial accepted as `l` takes. -/
def acceptedAs (l part : Ledger) : Ledger := { l with todo := [], await := 0, from_ := part.from_ }

theorem sameMemories_ledgerAccept (k n p entry : Nat) (l part : Ledger) (s : State) :
    SameMemories (modStallP p (fun x => { x with ledger := tset x.ledger entry (acceptedAs l part) }) (dropPkt k s))
      (ledgerAccept k n p entry l part s) := by
  unfold ledgerAccept
  dsimp only
  split
  · exact sameMemories_injectStall ..
  · exact ⟨rfl, rfl⟩

/-- A partial accepted is in its entry, its sender learns so, and nothing else of a stall or of the loft changes. -/
theorem ledgerAccept_enters (k n p entry : Nat) (l part : Ledger) (s : State) :
    LedgerOnly p s (ledgerAccept k n p entry l part s) ∧
    tget {} (stallP (ledgerAccept k n p entry l part s) p).ledger entry = acceptedAs l part ∧
    (∀ m i, part.from_ = some (m, i) → (physOf s m).isSome = true →
      ∃ r ∈ (ledgerAccept k n p entry l part s).fab.net, r.body = .accept m i) := by
  have hsame := sameMemories_ledgerAccept k n p entry l part s
  have hdrop : LedgerOnly p s (dropPkt k s) := .of_sameMemories ⟨rfl, rfl⟩
  refine ⟨(hdrop.trans (.of_modLedger p _ _)).trans (.of_sameMemories hsame), ?entry, fun m i hsent hserved => ?sent⟩
  case entry =>
    rw [stallP_of_sameMemories hsame, stallP_modStallP_same]
    exact tget_tset_same ..
  case sent =>
    unfold ledgerAccept
    dsimp only
    rw [hsent]
    exact mem_net_injectStall hserved

section LedgerArrives
variable (k n entry desc : Nat) {p : Nat} {part : Ledger} {s : State}

theorem ledgerArrives_complete_free (hfree : (tget {} (stallP s p).ledger entry).st = 0) :
    ledgerArrives k n p entry desc part true s = ledgerAccept k n p entry { part with st := 2 } part s := by
  unfold ledgerArrives
  dsimp only
  rw [if_pos rfl, if_pos hfree]

theorem ledgerArrives_complete_held (hheld : (tget {} (stallP s p).ledger entry).st ≠ 0) :
    ledgerArrives k n p entry desc part true s = s := by
  unfold ledgerArrives
  dsimp only
  rw [if_pos rfl, if_neg hheld]

/-- A partial that goes on with no operation in progress waits in its entry (R148). -/
theorem ledgerArrives_open_free (hfree : (tget {} (stallP s p).ledger entry).st = 0) (hnone : opPlace s p desc part.own.2 = none) :
    ledgerArrives k n p entry desc part false s =
      ledgerAccept k n p entry { part with st := 1, own := (desc, part.own.2) } part s := by
  have hsame : opPlace (ledgerAccept k n p entry { part with st := 1, own := (desc, part.own.2) } part s) p desc part.own.2 = none := by
    have hprog := (ledgerAccept_enters k n p entry { part with st := 1, own := (desc, part.own.2) } part s).1.prog
    rw [← hnone, opPlace, findOp, opsOf, hprog, opPlace, findOp, opsOf]
  unfold ledgerArrives
  dsimp only
  rw [if_neg Bool.false_ne_true, if_pos (by rw [hfree]; rfl), hsame]

/-- A partial for an entry that neither is FREE nor waits for its row waits at the fabric. -/
theorem ledgerArrives_open_held (hheld : (tget {} (stallP s p).ledger entry).st ≠ 0)
    (hother : ¬((tget {} (stallP s p).ledger entry).st = 1 ∧ (tget {} (stallP s p).ledger entry).n = 0 ∧
      (tget {} (stallP s p).ledger entry).row = part.row ∧ (tget {} (stallP s p).ledger entry).own = (desc, part.own.2) ∧
      (tget {} (stallP s p).ledger entry).from_ = none)) :
    ledgerArrives k n p entry desc part false s = s := by
  unfold ledgerArrives
  dsimp only
  generalize tget {} (stallP s p).ledger entry = old at hheld hother
  rw [if_neg Bool.false_ne_true, if_neg]
  simpa [hheld, and_assoc] using hother

end LedgerArrives

/-! ## READY (R198) -/

theorem exec_fabReady_held {s : State} {k p n side desc inst : Nat} {q : Packet} (hat : netAt s k = some q)
    (hbody : q.body = .ready n side desc inst) (hphys : physOf s n = some p) (hnone : runningHalo (stallP s p) = none) :
    exec (.fabReady k) s =
      .next (modStallP p (fun x => { x with haloReady := x.haloReady ++ [(side, desc, inst)] }) (dropPkt k s)) := by
  obtain ⟨cls, source, dst, hops, fails, body⟩ := q
  obtain rfl : body = _ := hbody
  have hphys' : physOf (dropPkt k s) n = some p := hphys
  have hnone' : runningHalo (stallP (modStallP p (fun x => { x with haloReady := x.haloReady ++ [(side, desc, inst)] })
      (dropPkt k s)) p) = none := by
    rw [stallP_modStallP_same]
    exact hnone
  refine congrArg Host.Outcome.next ?_
  unfold fabReady
  rw [hat]
  dsimp only
  rw [hphys']
  dsimp only
  rw [hnone']

/-- Settles O31: a packet for one stall by the equation of its command, RDATA by `rdataLands_clean` and `rdataLands_poisoned`, DATA by
`fabData_delivers`, and a ledger partial by `ledgerAccept_enters` where its entry can take it. -/
theorem fabricDelivers : Obligations.FabricDelivers := by
  intro s k p q hat
  refine ⟨?ack, ?accept, ?rdata, ?poisoned, ?data, ?credit, ?complete, ?goesOn, ?ready⟩
  case ack => exact fun n desc inst hbody hphys => exec_fabAck_ack hat hphys hbody
  case accept =>
    intro n entry hbody hphys
    obtain ⟨t, hexec, honly, hentry⟩ := fabAck_accept_ledger hat hphys hbody
    exact ⟨t, hexec, honly.scratch, honly.loft, hentry⟩
  case rdata =>
    intro n desc inst opnd entry it cells j hbody hphys hplace
    have hj : j < (opsOf (stallP s p)).length := findOp_lt hplace
    have hstall := stallP_modStallP_same p (rdataStall j opnd entry it cells) (dropPkt k s)
    refine ⟨modStallP p (rdataStall j opnd entry it cells) (dropPkt k s),
      (exec_fabRdata_lands hat hbody hphys hplace).trans (congrArg _ (rdataLands_clean ..)), ?scratch, ?lands,
      fun r hr => by rw [stallP_modStallP, if_neg hr, stallP_dropPkt], rfl, rfl, rfl⟩
    case scratch =>
      rw [hstall]
      rfl
    case lands =>
      rw [hstall, stallP_dropPkt, opOf_rdataStall hj]
      rfl
  case poisoned =>
    intro n desc inst opnd entry it cells w j hbody hphys hplace
    have hj : j < (opsOf (stallP s p)).length := findOp_lt hplace
    refine ⟨_, (exec_fabRdata_lands hat hbody hphys hplace).trans (congrArg _ (rdataLands_poisoned ..)), ?stops, ?scratch,
      fun l hl his => ?lands, ⟨_, raise_raised .., rfl⟩, rfl⟩
    case stops => rw [stallP_stallFault, if_pos rfl]
    case scratch =>
      rw [stallP_stallFault, if_pos rfl, stallP_putOp_same]
      rfl
    case lands =>
      rw [← opAt, opAt_stallFault, opAt_putOp, stallP_dropPkt, if_pos hj] at hl
      exact st_of_rdataLanded_poisoned hl his
  case data =>
    intro n win src key dest tile off total bytes ack hbody hphys hwin
    refine ⟨fun h hentry => ?joins, fun base size i hentry hshare hfree => ?enters⟩
    case joins =>
      have hpart := windowPart_joins (s := dropPkt k s) (n := n) (off := off) (total := total) (bytes := bytes)
        (f := { entry := 0, tile := tile, src := src, key := key, dst := dest }) hentry
      obtain ⟨t, hexec, hwins, hscratch, hrest⟩ := fabData_delivers hat hbody hphys hwin hpart (.refl ..)
      exact ⟨t, hexec, by rw [hwins]; exact tget_tset_same .., hscratch, hrest⟩
    case enters =>
      obtain ⟨u, hpart, hkept⟩ := windowPart_enters (s := dropPkt k s) (n := n) (off := off) (total := total) (bytes := bytes)
        (f := { entry := 0, tile := tile, src := src, key := key, dst := dest }) hentry hshare hfree
      obtain ⟨t, hexec, hwins, hscratch, hrest⟩ := fabData_delivers hat hbody hphys hwin hpart hkept
      exact ⟨t, hexec, by rw [hwins]; exact tget_tset_same .., hscratch, hrest⟩
  case credit =>
    exact fun n key dest hbody hphys hidle => exec_fabCredit_idle hat hbody hphys hidle
  case complete =>
    intro n entry desc part hbody hphys
    have hexec := exec_fabLedger hat hbody hphys
    refine ⟨fun hheld => ?_, fun hfree => ?_⟩
    · rw [hexec, ledgerArrives_complete_held k n entry desc hheld]
    · rw [ledgerArrives_complete_free k n entry desc hfree] at hexec
      obtain ⟨honly, hentry, hsent⟩ := ledgerAccept_enters k n p entry { part with st := 2 } part s
      exact ⟨_, hexec, hentry, hsent, honly.scratch_all, honly.loft⟩
  case goesOn =>
    intro n entry desc part hbody hphys
    have hexec := exec_fabLedger hat hbody hphys
    refine ⟨fun hheld hother => ?_, fun hfree hnone => ?_⟩
    · rw [hexec, ledgerArrives_open_held k n entry desc hheld hother]
    · rw [ledgerArrives_open_free k n entry desc hfree hnone] at hexec
      obtain ⟨honly, hentry, hsent⟩ := ledgerAccept_enters k n p entry { part with st := 1, own := (desc, part.own.2) } part s
      exact ⟨_, hexec, hentry, hsent, honly.scratch_all, honly.loft⟩
  case ready => exact fun n side desc inst hbody hphys hnone => exec_fabReady_held hat hbody hphys hnone

end Sys2Proof.Machine
end

section
/-! PROOFS. Operations that start: what the loop engine leaves of a stall's program while it fetches, takes and exchanges rows, what each
opcode begins with, and the statement of O24. -/

namespace Sys2Proof.Machine

/-! ## The program around an operation (R161, R173, R177) -/

/-- An operation's name and its place in its loops. -/
def placeOf (o : OpCtx) : OpCtx := { desc := o.desc, inst := o.inst, it := o.it, takeWait := o.takeWait }

/-- A stall's program with the places of its operations, its tokens, its counts of starts and the value it took last. -/
def programOf (x : Stall) : Stall :=
  { prog := x.prog.map fun g => { g with ops := g.ops.map placeOf }, tokens := x.tokens, inst := x.inst, takeV := x.takeV }

/-- What the loop engine leaves of a state while it works for one stall: that stall's program, the other stalls, the loft, the host link and
the work counters. -/
structure ProgFrame where
  program : Stall
  others : Nat → Stall
  loft : LoftBlk
  host : HostBlk
  hubCtr : Table Counter
  yardCtr : Table Counter

/-- The frame of physical stall `p`. -/
def frameOf (p : Nat) (s : State) : ProgFrame where
  program := programOf (stallP s p)
  others q := if q = p then {} else stallP s q
  loft := s.loft
  host := s.host
  hubCtr := s.hubCtr
  yardCtr := s.yardCtr

/-- The frame of a stall with its scratch. -/
def memFrame (p : Nat) (s : State) : ProgFrame × Mem := (frameOf p s, (stallP s p).scratch)

theorem stallP_of_frame {p q : Nat} {s t : State} (h : frameOf p t = frameOf p s) (hq : q ≠ p) : stallP t q = stallP s q := by
  have hother := congrFun (congrArg ProgFrame.others h) q
  simp only [frameOf, if_neg hq] at hother
  exact hother

/-- In equal frames the operations of the stall have equal places. -/
theorem placeOf_opAt_of_frame {p : Nat} {s t : State} (h : frameOf p t = frameOf p s) (k : Nat) :
    placeOf (opAt t p k) = placeOf (opAt s p k) := by
  have hops : ∀ x : Stall, (opsOf x).map placeOf = opsOf (programOf x) := fun x => by
    cases hprog : x.prog <;> simp [opsOf, programOf, hprog]
  have hplace : ∀ u : State, placeOf (opAt u p k) = (opsOf (programOf (stallP u p))).getD k {} := fun u => by
    rw [← hops]
    exact (List.getD_map _ _ placeOf).symm
  rw [hplace, hplace, show programOf (stallP t p) = programOf (stallP s p) from congrArg ProgFrame.program h]

section Frames
variable (p : Nat) (s : State)

theorem frameOf_modStallP {f : Stall → Stall} (hf : programOf (f (stallP s p)) = programOf (stallP s p)) :
    frameOf p (modStallP p f s) = frameOf p s := by
  have hothers : (fun q => if q = p then {} else stallP (modStallP p f s) q) = fun q => if q = p then ({} : Stall) else stallP s q :=
    funext fun q => by
      split_ifs with hq
      · rfl
      · rw [stallP_modStallP, if_neg hq]
  rw [frameOf, stallP_modStallP_same, hf, hothers]
  rfl

theorem memFrame_modStallP {f : Stall → Stall} (hf : programOf (f (stallP s p)) = programOf (stallP s p))
    (hscratch : (f (stallP s p)).scratch = (stallP s p).scratch) : memFrame p (modStallP p f s) = memFrame p s := by
  rw [memFrame, frameOf_modStallP p s hf, stallP_modStallP_same, hscratch, memFrame]

theorem programOf_setOp {x : Stall} {k : Nat} {o : OpCtx} (ho : placeOf o = placeOf ((opsOf x).getD k {})) :
    programOf (setOp x k o) = programOf x := by
  cases hprog : x.prog with
  | none => simp [programOf, setOp, hprog]
  | some g =>
    have hops : opsOf x = g.ops := by simp [opsOf, hprog]
    have hset : (g.ops.set k o).map placeOf = g.ops.map placeOf := by
      rw [hops] at ho
      rw [List.map_set, ho, ← List.map_set]
      refine congrArg _ (List.ext_getElem? fun i => ?_)
      rw [List.getElem?_set]
      split_ifs with hi hlen
      · subst hi
        simp [List.getD_eq_getElem?_getD, hlen]
      · subst hi
        exact (List.getElem?_eq_none (Nat.le_of_not_lt hlen)).symm
      · rfl
    simp only [programOf, setOp, hprog, Option.map_some, hset]

theorem memFrame_putOp {k : Nat} {f : OpCtx → OpCtx} (hf : placeOf (f (opAt s p k)) = placeOf (opAt s p k)) :
    memFrame p (putOp p k f s) = memFrame p s :=
  memFrame_modStallP p s (programOf_setOp hf) rfl

theorem memFrame_injectStall (cls src dst : Nat) (body : PktBody) : memFrame p (injectStall cls src dst body s) = memFrame p s := by
  unfold injectStall
  split <;> rfl

theorem memFrame_injectLoft (own : Bool) (cls src dst : Nat) (body : PktBody) :
    memFrame p (injectLoft own cls src dst body s) = memFrame p s := by
  cases own <;> rfl

theorem memFrame_sendRead (n p' desc inst opnd entry : Nat) (it : List Nat) (cells : List (Nat × Nat)) :
    memFrame p (sendRead n p' desc inst opnd entry it cells s) = memFrame p s :=
  foldl_keeps (fun s _ => memFrame_injectLoft p s ..) _ s

theorem memFrame_sendData (src n win key dest tile : Nat) (bs : List Byte) (ack : Option (Nat × Nat × Nat)) :
    memFrame p (sendData src n win key dest tile bs ack s) = memFrame p s :=
  foldl_keeps (fun s _ => memFrame_injectStall p s ..) _ s

theorem memFrame_stallFault (code : Nat) (detail : List Byte) : memFrame p (stallFault p code detail s) = memFrame p s :=
  memFrame_modStallP p s (f := fun x => { x with jstop := true }) rfl rfl

theorem memFrame_sramUsed (sr : Secded) : memFrame p (sramUsed p sr s) = memFrame p s := by
  have hcount : memFrame p (sramCount p sr s) = memFrame p s := by
    unfold sramCount
    split_ifs
    · rfl
    · exact memFrame_modStallP p s rfl rfl
  rw [← hcount]
  unfold sramUsed
  split_ifs <;> rfl

/-! ## Fetching ahead and taking (R173, R177) -/

theorem placeOf_setFetch (no : Nat) (v : Option (List Nat)) (o : OpCtx) : placeOf (setFetch no v o) = placeOf o := by
  unfold setFetch
  split <;> rfl

theorem frameOf_beginLand (k no : Nat) (key : List Nat) (entry left : Nat) :
    frameOf p (beginLand p k no key entry left s) = frameOf p s := by
  rw [beginLand_eq]
  have hput := memFrame_putOp p (modStallP p (landEmptied (opAt s p k) no key entry) s) (k := k) (f := landBegun no key entry left)
    (placeOf_setFetch no (nextKey _ no key) _)
  exact (congrArg Prod.fst hput).trans (frameOf_modStallP p s rfl)

theorem frameOf_fetchOne {n k no : Nat} {t : State} (hfetch : fetchOne n p k no s = some t) : frameOf p t = frameOf p s := by
  have hstop : ∀ code detail, frameOf p (stallFault p code detail (putOp p k (setFetch no none) s)) = frameOf p s := fun code detail =>
    congrArg Prod.fst ((memFrame_stallFault ..).trans (memFrame_putOp p s (placeOf_setFetch no none _)))
  unfold fetchOne at hfetch
  dsimp only at hfetch
  split at hfetch
  · cases hfetch
  · split at hfetch
    · cases hfetch
    · split at hfetch
      · split at hfetch <;> cases hfetch
        exact hstop ..
      · split at hfetch <;> cases hfetch
        · exact hstop ..
        · exact (congrArg Prod.fst (memFrame_sendRead ..)).trans (frameOf_beginLand ..)

theorem frameOf_fetchFuel (f n k no : Nat) : frameOf p (fetchFuel f n p k no s) = frameOf p s := by
  induction f generalizing s with
  | zero => rfl
  | succ f ih =>
    unfold fetchFuel
    split
    · next t hfetch => exact (ih t).trans (frameOf_fetchOne p s hfetch)
    · rfl

theorem frameOf_fetchPump (n k : Nat) : frameOf p (fetchPump n p k s) = frameOf p s := by
  unfold fetchPump
  split_ifs
  · exact foldl_keeps (fun s _ => frameOf_fetchFuel p s ..) _ s
  · rfl

theorem memFrame_takePump (n k : Nat) : memFrame p (takePump n p k s) = memFrame p s := by
  unfold takePump
  dsimp only
  split
  · split
    · exact memFrame_putOp p s (f := fun o => { o with takeSent := true }) rfl
    · rfl
  · rfl

end Frames

/-! ## The exchanges of a HALO (R198) -/

/-- A step that may wait or fault leaves the frame and the scratch of stall `p` where it is taken. -/
def StepKeeps (p : Nat) (s : State) (g : Got State) : Prop := ∀ t, g = .ok t → memFrame p t = memFrame p s

theorem stepKeeps_ok {p : Nat} {s t : State} (h : memFrame p t = memFrame p s) : StepKeeps p s (.ok t) := by
  rintro _ ⟨⟩
  exact h

theorem stepKeeps_bind {α : Type} {p : Nat} {s : State} {g : Got α} {f : α → Got State} (h : ∀ a, g = .ok a → StepKeeps p s (f a)) :
    StepKeeps p s (g.bind f) := by
  cases g with
  | ok a => exact h a rfl
  | wait => rintro _ ⟨⟩
  | fault code detail => rintro _ ⟨⟩

section Halo
variable (n p k side : Nat) (s : State)

theorem memFrame_haloReady : memFrame p (haloReady n p k side s) = memFrame p s := by
  unfold haloReady
  dsimp only
  split
  · rfl
  · split
    · rfl
    · exact (memFrame_injectStall ..).trans (memFrame_modStallP p s rfl rfl)

theorem memFrame_haloSee : memFrame p (haloSee n p k side s) = memFrame p s := by
  unfold haloSee
  refine foldl_keeps (fun u r => ?_) _ s
  refine (memFrame_injectStall ..).trans (memFrame_modStallP p u ?_ ?_) <;> split <;> rfl

theorem stepKeeps_haloSend : StepKeeps p s (haloSend n p k side s) := by
  have hsend : ∀ q win key tile bs ack, memFrame p (sendData n q win key 0 tile bs ack
      (modStallP p (fun x => setHalo side 2 (takeCredits (haloKey side) 0 x)) (addOut p k 1 s))) = memFrame p s :=
    fun q win key tile bs ack => (memFrame_sendData ..).trans ((memFrame_modStallP p _ rfl rfl).trans (memFrame_putOp p s rfl))
  unfold haloSend
  dsimp only
  split
  · exact stepKeeps_ok rfl
  · split
    · exact stepKeeps_ok rfl
    · refine stepKeeps_bind fun plan _ => ?_
      split
      · exact stepKeeps_ok (hsend ..)
      · split
        · split
          · exact stepKeeps_ok rfl
          · exact stepKeeps_ok ((memFrame_sendRead ..).trans (memFrame_putOp p s rfl))
        · split
          · exact stepKeeps_ok ((memFrame_putOp p _ rfl).trans (hsend ..))
          · exact stepKeeps_ok rfl

theorem stepKeeps_haloPump : StepKeeps p s (haloPump n p k s) := by
  unfold haloPump
  dsimp only
  have hsides : ∀ (sides : List Nat) (g : Got State), StepKeeps p s g → StepKeeps p s (sides.foldl (fun g side =>
      g.bind fun s => haloSend n p k side (haloSee n p k side (haloReady n p k side s))) g) := by
    intro sides
    induction sides with
    | nil => exact fun g hg => hg
    | cons side sides ih =>
      refine fun g hg => ih _ (stepKeeps_bind fun u hu t ht => ?_)
      rw [stepKeeps_haloSend n p k side _ t ht, memFrame_haloSee, memFrame_haloReady, hg u hu]
  refine stepKeeps_bind fun u hu => ?_
  have hu' := hsides _ _ (stepKeeps_ok rfl) u hu
  split
  · exact stepKeeps_ok ((memFrame_putOp p u rfl).trans hu')
  · exact stepKeeps_ok hu'

theorem memFrame_settleSram {g : Got State} (hg : StepKeeps p s g) (sr : Secded) :
    memFrame p (settleSram p sr s g) = memFrame p s := by
  cases g with
  | wait => rfl
  | fault code detail => exact (memFrame_sramUsed ..).trans (memFrame_stallFault ..)
  | ok t => exact (memFrame_sramUsed ..).trans (hg t rfl)

end Halo

/-! ## What an operation begins with (R161, R173, R177) -/

/-- What an operation of a stall begins with leaves the stall's program, and scratch outside the operation's landing entries. -/
def Begins (init : Nat → Nat → State → State) : Prop :=
  ∀ p k s, k < (opsOf (stallP s p)).length → frameOf p (init p k s) = frameOf p s ∧
    LandingsOnly (opAt s p k).d (stallP s p).scratch (stallP (init p k s) p).scratch

/-- A beginning that writes no scratch. -/
theorem begins_of_memFrame {init : Nat → Nat → State → State} (h : ∀ p k s, memFrame p (init p k s) = memFrame p s) : Begins init := by
  intro p k s _
  obtain ⟨hframe, hscratch⟩ := Prod.mk.inj (h p k s)
  exact ⟨hframe, hscratch ▸ landingsOnly_refl ..⟩

/-- An operation that is to fetch from its iteration, and, if it is a reducing COLLECT, to send its tiles down. -/
def opBegun (s : State) (o : OpCtx) : OpCtx := beginDown s (beginFetch o)

theorem opBegun_keeps (s : State) (o : OpCtx) : placeOf (opBegun s o) = placeOf o ∧ (opBegun s o).d = o.d := by
  have hfetch : placeOf (beginFetch o) = placeOf o ∧ (beginFetch o).d = o.d := by
    unfold beginFetch
    split <;> exact ⟨rfl, rfl⟩
  unfold opBegun beginDown
  dsimp only
  split
  · exact hfetch
  · exact hfetch

theorem begins_beginOp (n : Nat) : Begins (beginOp n) := by
  intro p k s hk
  have heq : beginOp n p k s = fetchPump n p k (takePump n p k (putOp p k (opBegun s) s)) := rfl
  have hput := memFrame_putOp p s (opBegun_keeps s (opAt s p k)).1
  have hmoves := (movesOn_takePump n p k (putOp p k (opBegun s) s)).trans (movesOn_fetchPump n p k _)
  have hlands := hmoves.lands
  rw [opAt_putOp, if_pos hk, (opBegun_keeps s (opAt s p k)).2] at hlands
  rw [heq]
  refine ⟨(frameOf_fetchPump ..).trans (congrArg Prod.fst ((memFrame_takePump ..).trans hput)), ?_⟩
  rw [stallP_putOp_same] at hlands
  exact hlands

/-- The first exchanges of a HALO, no bit of its sides set. -/
def haloInit (n : Nat) (sr : Secded) (p k : Nat) (s : State) : State :=
  settleSram p sr s (haloPump n p k (modStallP p (fun x => { x with haloBits := 0 }) s))

theorem begins_haloInit (n : Nat) (sr : Secded) : Begins (haloInit n sr) :=
  begins_of_memFrame fun p k s => memFrame_settleSram p s
    (fun t ht => (stepKeeps_haloPump n p k _ t ht).trans (memFrame_modStallP p s rfl rfl)) sr

/-- A FENCE walks no loop. -/
def fenceInit (p k : Nat) (s : State) : State := putOp p k (fun o => { o with walking := false }) s

theorem begins_fenceInit : Begins fenceInit :=
  begins_of_memFrame fun p _ s => memFrame_putOp p s (f := fun o => { o with walking := false }) rfl

/-! ## The start of an operation (R161, R163) -/

theorem startable_spec {s : State} {n op p : Nat} {x : Stall} {g : Prog} {d : Desc} (hstart : startable s n op = some (p, x, g, d)) :
    runningStall s n = some (p, x) ∧ x.prog = some g := by
  unfold startable at hstart
  split at hstart
  · cases hstart
  · next p' x' hrun =>
    split at hstart
    · cases hstart
    · next g' hprog =>
      split_ifs at hstart with hend
      dsimp only at hstart
      split_ifs at hstart
      cases hstart
      exact ⟨hrun, hprog⟩

/-- A step that every operation of a stall waits for is not taken. -/
theorem firstOp_waits {s : State} {p : Nat} {f : Nat → Got State} (hwait : ∀ k < (opsOf (stallP s p)).length, f k = .wait) :
    firstOp s p f = .wait := by
  refine List.foldlRecOn (motive := fun g : Got State => g = .wait) _ _ rfl fun g hg k hk => ?_
  rw [hg]
  exact hwait k (List.mem_range.1 hk)

section Starts
variable {s : State} {n p op : Nat} {x : Stall} (hrun : runningStall s n = some (p, x)) (hnone : ∀ o ∈ opsOf x, o.d.opcode ≠ op)
include hrun hnone

/-- No operation in progress has the opcode. -/
theorem opcode_opAt_ne {k : Nat} (hk : k < (opsOf (stallP s p)).length) : (opAt s p k).d.opcode ≠ op := by
  rw [stallP_of_runningStall hrun] at hk
  rw [opAt, stallP_of_runningStall hrun, List.getD_eq_getElem _ _ hk]
  exact hnone _ (List.getElem_mem hk)

theorem vectorRun_starts (sr : Secded) (init : Nat → Nat → State → State) (f : Nat → Nat → Env → State → Got State) :
    vectorRun n op sr init f s = startOp n op init s := by
  have hwaits : firstOp s p (fun k => let e := envAt s n p k
      if e.o.d.opcode = op && e.o.walking && !e.o.takeWait then f p k e s else .wait) = .wait := by
    refine firstOp_waits fun k hk => ?_
    have hother : (envAt s n p k).o.d.opcode ≠ op := opcode_opAt_ne hrun hnone hk
    dsimp only
    rw [if_neg (by simp [hother])]
  rw [vectorRun, hrun]
  dsimp only
  rw [hwaits, ite_self]

end Starts

theorem convRun_starts {s : State} {n p : Nat} {x : Stall} (hrun : runningStall s n = some (p, x))
    (hnone : ∀ o ∈ opsOf x, o.d.opcode ≠ 2) : convRun n s = startOp n 2 (beginOp n) s := by
  have hwaits : firstOp s p (fun k => poolOne n p k s) = .wait := by
    refine firstOp_waits fun k hk => ?_
    have hother : (envAt s n p k).o.d.opcode ≠ 2 := opcode_opAt_ne hrun hnone hk
    unfold poolOne
    dsimp only
    rw [if_pos (.inl (by simp [isPool, hother]))]
  rw [convRun, hrun]
  dsimp only
  rw [hwaits, ite_self]

theorem haloRun_starts {s : State} {n p : Nat} {x : Stall} (hrun : runningStall s n = some (p, x)) (hempty : opsOf x = [])
    (sr : Secded) : haloRun n sr s = startOp n 0x33 (haloInit n sr) s := by
  have hhalo : runningHalo x = none := by rw [runningHalo, findOp, hempty]; rfl
  rw [haloRun, hrun]
  dsimp only
  rw [hhalo, hempty]
  rfl

/-- The state in which stall `p` has started the operation of descriptor `d`, on a round of `size` samples. -/
def startedState (s : State) (p : Nat) (x : Stall) (g : Prog) (d : Desc) (size : Nat) : State :=
  setStallP s p (startedStall x g d (freshOp x g d size))

theorem startOp_begins {s : State} {n op p : Nat} {x : Stall} {g : Prog} {d : Desc} (hstart : startable s n op = some (p, x, g, d))
    (hdyn : dynTooLarge d (roundSize (envOf s n p x {})) = false) (init : Nat → Nat → State → State) :
    startOp n op init s = init p g.ops.length (startedState s p x g d (roundSize (envOf s n p x {}))) := by
  rw [startOp, hstart]
  dsimp only
  rw [hdyn]
  rfl

/-- The opcodes and their commands for logical stall `n`. -/
def startCommands (n : Nat) (sr : Secded) : List (Nat × Instr) :=
  [(0x01, .matmul n), (0x02, .conv n), (0x03, .chain n), (0x10, .elemwise ⟨n, sr⟩), (0x11, .rowstat ⟨n, sr⟩),
    (0x12, .softmax ⟨n, sr⟩), (0x13, .norm ⟨n, sr⟩), (0x20, .draw ⟨n, sr⟩), (0x21, .noise ⟨n, sr⟩), (0x30, .move ⟨n, sr⟩),
    (0x31, .send ⟨n, sr⟩), (0x32, .recv ⟨n, sr⟩), (0x33, .halo ⟨n, sr⟩), (0x34, .collect ⟨n, sr⟩ false), (0x40, .stepOp ⟨n, sr⟩),
    (0x41, .guide ⟨n, sr⟩), (0x7F, .fence n)]

/-- The command of an opcode starts its operation, where none of it is in progress. -/
theorem exec_starts {s : State} {n p op : Nat} {sr : Secded} {c : Instr} {x : Stall} {g : Prog} (hc : (op, c) ∈ startCommands n sr)
    (hrun : runningStall s n = some (p, x)) (hprog : x.prog = some g) (hnone : ∀ o ∈ g.ops, o.d.opcode ≠ op)
    (hhalo : op = 0x33 → g.ops = []) : ∃ init, Begins init ∧ exec c s = .next (startOp n op init s) := by
  have hops : opsOf x = g.ops := by simp [opsOf, hprog]
  rw [← hops] at hnone hhalo
  have hvector : ∀ f, exec c s = .next (vectorRun n op sr (beginOp n) f s) →
      ∃ init, Begins init ∧ exec c s = .next (startOp n op init s) := fun f hexec =>
    ⟨_, begins_beginOp n, hexec.trans (congrArg _ (vectorRun_starts hrun hnone ..))⟩
  simp only [startCommands, List.mem_cons, List.not_mem_nil, or_false, Prod.mk.injEq] at hc
  rcases hc with ⟨rfl, rfl⟩ | ⟨rfl, rfl⟩ | ⟨rfl, rfl⟩ | ⟨rfl, rfl⟩ | ⟨rfl, rfl⟩ | ⟨rfl, rfl⟩ | ⟨rfl, rfl⟩ | ⟨rfl, rfl⟩ | ⟨rfl, rfl⟩ |
    ⟨rfl, rfl⟩ | ⟨rfl, rfl⟩ | ⟨rfl, rfl⟩ | ⟨rfl, rfl⟩ | ⟨rfl, rfl⟩ | ⟨rfl, rfl⟩ | ⟨rfl, rfl⟩ | ⟨rfl, rfl⟩
  · exact ⟨_, begins_beginOp n, rfl⟩
  · exact ⟨_, begins_beginOp n, congrArg Host.Outcome.next (convRun_starts hrun hnone)⟩
  · exact ⟨_, begins_beginOp n, rfl⟩
  · exact hvector (elemwiseTile n) rfl
  · exact hvector (rowstatTile n) rfl
  · exact hvector (softmaxTile n) rfl
  · exact hvector (normTile n) rfl
  · exact hvector (drawTile n) rfl
  · exact hvector (noiseTile n) rfl
  · exact hvector (copyTile n) rfl
  · exact hvector (copyTile n) rfl
  · exact hvector (copyTile n) rfl
  · exact ⟨_, begins_haloInit n sr, congrArg Host.Outcome.next (haloRun_starts hrun (hhalo rfl) sr)⟩
  · exact hvector (collectUp n) rfl
  · exact hvector (stepTile n) rfl
  · exact hvector (guideTile n) rfl
  · exact ⟨_, begins_fenceInit, rfl⟩

/-- Settles O24: every opcode's command is a `startOp` by `exec_starts`, whose stall `startedStall` gives, and what the operation begins with
leaves its program, by `Begins`. -/
theorem operationsStart : Obligations.OperationsStart := by
  intro s n p op sr c x g d hc hstart hnone hhalo hdyn
  obtain ⟨hrun, hprog⟩ := startable_spec hstart
  obtain ⟨init, hbegins, hexec⟩ := exec_starts hc hrun hprog hnone hhalo
  rw [startOp_begins hstart hdyn] at hexec
  set o := freshOp x g d (roundSize (envOf s n p x {})) with ho
  have hstall : stallP (startedState s p x g d (roundSize (envOf s n p x {}))) p = startedStall x g d o := stallP_setStallP_same ..
  have hops : opsOf (startedStall x g d o) = g.ops ++ [o] := rfl
  have hlen : g.ops.length < (opsOf (startedStall x g d o)).length := by simp [hops]
  have hop : opAt (startedState s p x g d (roundSize (envOf s n p x {}))) p g.ops.length = o := by
    rw [opAt, hstall, hops]
    simp
  rw [← hstall] at hlen
  obtain ⟨hframe, hlands⟩ := hbegins p g.ops.length _ hlen
  rw [hop, hstall] at hlands
  have hprogram := congrArg ProgFrame.program hframe
  simp only [frameOf, hstall] at hprogram
  refine ⟨_, hexec, (congrArg Stall.tokens hprogram :), ?inst, ?prog, hlands, fun q hq => ?others,
    (congrArg ProgFrame.loft hframe :), (congrArg ProgFrame.host hframe :)⟩
  case inst =>
    rw [show (stallP _ p).inst = _ from (congrArg Stall.inst hprogram :)]
    exact tget_tset_same ..
  case prog =>
    obtain ⟨g', hg', hplaces⟩ := Option.map_eq_some_iff.1 (congrArg Stall.prog hprogram :)
    refine ⟨g', hg', (congrArg Prog.round hplaces :), (congrArg Prog.next hplaces :), ?_⟩
    have hnames := congrArg (List.map fun o : OpCtx => (o.desc, o.inst)) (congrArg Prog.ops hplaces :)
    simpa [placeOf, Function.comp_def, ho, freshOp] using hnames
  case others => rw [stallP_of_frame hframe hq, startedState, stallP_setStallP, if_neg hq]

end Sys2Proof.Machine
end

section
/-! PROOFS. Work counters: the take that a counter serves, the iteration that its result gives a stall, and the statement of O32. -/

namespace Sys2Proof.Machine

/-! ## A counter serves a take (R177) -/

section Take
variable {s : State} {k n desc inst ctr count : Nat} {q : Packet} (hat : netAt s k = some q)
include hat

theorem exec_fabTake_hub (hbody : q.body = .take n desc inst true ctr count) : exec (.fabTake k) s =
    .next (inject 1 q.dst q.src (.taken n desc inst (takeFrom (tget {} s.hubCtr ctr) inst count).1)
      { dropPkt k s with hubCtr := tset s.hubCtr ctr (takeFrom (tget {} s.hubCtr ctr) inst count).2 }) := by
  obtain ⟨cls, src, dst, hops, fails, body⟩ := q
  obtain rfl : body = _ := hbody
  refine congrArg Host.Outcome.next ?_
  unfold fabTake
  rw [hat]
  rfl

theorem exec_fabTake_yard (hbody : q.body = .take n desc inst false ctr count) : exec (.fabTake k) s =
    .next (inject 1 q.dst q.src (.taken n desc inst (takeFrom (tget {} s.yardCtr (n / 30 * 64 + ctr)) inst count).1)
      (yardWorks (n / 30) { dropPkt k s with
        yardCtr := tset s.yardCtr (n / 30 * 64 + ctr) (takeFrom (tget {} s.yardCtr (n / 30 * 64 + ctr)) inst count).2 })) := by
  obtain ⟨cls, src, dst, hops, fails, body⟩ := q
  obtain rfl : body = _ := hbody
  refine congrArg Host.Outcome.next ?_
  unfold fabTake
  rw [hat]
  rfl

/-- The result of a take reaches the operation that asked. -/
theorem exec_fabTake_taken {v p j : Nat} (hbody : q.body = .taken n desc inst v) (hphys : physOf s n = some p)
    (hplace : opPlace s p desc inst = some j) : exec (.fabTake k) s = .next (taken n p j v (dropPkt k s)) := by
  obtain ⟨cls, src, dst, hops, fails, body⟩ := q
  obtain rfl : body = _ := hbody
  have hphys' : physOf (dropPkt k s) n = some p := hphys
  have hplace' : opPlace (dropPkt k s) p desc inst = some j := hplace
  refine congrArg Host.Outcome.next ?_
  unfold fabTake
  rw [hat]
  dsimp only
  rw [hphys']
  dsimp only
  rw [hplace']

end Take

/-! ## The value that a stall takes (R177) -/

section Taken
variable (n p k : Nat) (s : State)

theorem frameOf_ledgerFree (i : Nat) : frameOf p (ledgerFree n p i s) = frameOf p s := by
  have hfreed := frameOf_modStallP p s (f := fun x => { x with ledger := tdel x.ledger i }) rfl
  unfold ledgerFree
  dsimp only
  split
  · exact (congrArg Prod.fst (memFrame_injectStall ..)).trans hfreed
  · exact hfreed

theorem frameOf_freeNormRows (rows : List Nat) : frameOf p (freeNormRows n p k rows s) = frameOf p s := by
  unfold freeNormRows
  split
  · refine foldl_keeps (fun s row => ?_) rows s
    split_ifs
    · exact frameOf_ledgerFree ..
    · rfl
  · rfl

/-- An operation whose TAKE level has ended. -/
def opTakeEnded (o : OpCtx) : OpCtx := { o with walking := false, takeWait := false, takeSent := false }

/-- The end of a TAKE level gives back ledger rows, and changes nothing else but the operation whose level it is (R151). -/
theorem takeEnds_keeps : LedgerOnly p (putOp p k opTakeEnded s) (takeEnds n p k s) ∧
    frameOf p (takeEnds n p k s) = frameOf p (putOp p k opTakeEnded s) := by
  unfold takeEnds
  dsimp only
  split
  · split
    · exact ⟨.refl .., rfl⟩
    · exact ⟨ledgerOnly_freeNormRows .., frameOf_freeNormRows ..⟩
  · exact ⟨.refl .., rfl⟩

/-- An operation that runs iteration `v` of its TAKE level `l` next. -/
def opTaken (s : State) (l v : Nat) (o : OpCtx) : OpCtx :=
  opBegun s { o with it := firstIt.set l v, takeWait := false, takeSent := false }

variable {n p k s}

theorem taken_runs {l v : Nat} (hlevel : takeLevel (opAt s p k).d = some l) (hv : v < levelCount (opAt s p k) l) :
    taken n p k v s = fetchPump n p k (putOp p k (opTaken (modStallP p (fun x => { x with takeV := v }) s) l v)
      (modStallP p (fun x => { x with takeV := v }) s)) := by
  have hlevel' : takeLevel (envAt s n p k).o.d = some l := hlevel
  have hv' : v < levelCount (envAt s n p k).o l := hv
  unfold taken
  dsimp only
  rw [hlevel']
  dsimp only
  rw [if_pos hv']
  rfl

theorem taken_ends {l v : Nat} (hlevel : takeLevel (opAt s p k).d = some l) (hv : levelCount (opAt s p k) l ≤ v) :
    taken n p k v s = takeEnds n p k s := by
  have hlevel' : takeLevel (envAt s n p k).o.d = some l := hlevel
  have hv' : levelCount (envAt s n p k).o l ≤ v := hv
  unfold taken
  dsimp only
  rw [hlevel']
  dsimp only
  rw [if_neg hv'.not_gt]

/-- A value within the level is the iteration that the operation runs next. -/
theorem taken_runs_spec {l v : Nat} (hk : k < (opsOf (stallP s p)).length) (hlevel : takeLevel (opAt s p k).d = some l)
    (hv : v < levelCount (opAt s p k) l) :
    (opAt (taken n p k v s) p k).it = firstIt.set l v ∧ (opAt (taken n p k v s) p k).takeWait = false ∧
      (stallP (taken n p k v s) p).takeV = v ∧ (taken n p k v s).hubCtr = s.hubCtr ∧ (taken n p k v s).yardCtr = s.yardCtr ∧
      (taken n p k v s).loft = s.loft := by
  rw [taken_runs hlevel hv]
  set u := modStallP p (fun x => { x with takeV := v }) s with hu
  have hstall : stallP u p = { stallP s p with takeV := v } := stallP_modStallP_same ..
  have hframe := frameOf_fetchPump p (putOp p k (opTaken u l v) u) n k
  have hplace := placeOf_opAt_of_frame hframe k
  rw [opAt_putOp, if_pos (by rw [hstall]; exact hk), show placeOf (opTaken u l v _) = _ from (opBegun_keeps ..).1] at hplace
  have htakeV := congrArg Stall.takeV (congrArg ProgFrame.program hframe)
  simp only [frameOf, programOf, stallP_putOp_same, hstall] at htakeV
  exact ⟨(congrArg OpCtx.it hplace :), (congrArg OpCtx.takeWait hplace :), htakeV, (congrArg ProgFrame.hubCtr hframe :),
    (congrArg ProgFrame.yardCtr hframe :), (congrArg ProgFrame.loft hframe :)⟩

/-- A value beyond the level ends the operation's loop. -/
theorem taken_ends_spec {l v : Nat} (hk : k < (opsOf (stallP s p)).length) (hlevel : takeLevel (opAt s p k).d = some l)
    (hv : levelCount (opAt s p k) l ≤ v) :
    (opAt (taken n p k v s) p k).walking = false ∧ (taken n p k v s).hubCtr = s.hubCtr ∧ (taken n p k v s).yardCtr = s.yardCtr ∧
      (taken n p k v s).loft = s.loft := by
  rw [taken_ends hlevel hv]
  obtain ⟨hledger, hframe⟩ := takeEnds_keeps n p k s
  refine ⟨?_, (congrArg ProgFrame.hubCtr hframe :), (congrArg ProgFrame.yardCtr hframe :), hledger.loft⟩
  rw [hledger.opAt_eq, opAt_putOp, if_pos hk]
  rfl

end Taken

/-- Settles O32: a hub counter by `exec_fabTake_hub`, a yard counter by `exec_fabTake_yard`, and a result by `taken_runs_spec` and
`taken_ends_spec`. -/
theorem countersServeTakes : Obligations.CountersServeTakes := by
  intro s k q n desc inst ctr count hat
  refine ⟨?hub, ?yard, ?result⟩
  case hub =>
    intro hbody
    exact ⟨_, exec_fabTake_hub hat hbody, rfl, rfl, rfl, tget_tset_same .., fun i hi => (tget_tset ..).trans (if_neg hi),
      _, inject_net .., rfl, rfl, rfl, rfl⟩
  case yard =>
    intro hbody
    exact ⟨_, exec_fabTake_yard hat hbody, rfl, rfl, rfl, tget_tset_same .., fun i hi => (tget_tset ..).trans (if_neg hi),
      _, inject_net .., rfl, rfl, rfl, rfl⟩
  case result =>
    intro v p j l hbody hphys hplace hlevel
    have hj : j < (opsOf (stallP (dropPkt k s) p)).length := findOp_lt hplace
    refine ⟨_, exec_fabTake_taken hat hbody hphys hplace, ?_⟩
    by_cases hv : v < levelCount (opAt s p j) l
    · obtain ⟨hit, hwait, htakeV, hhub, hyard, hloft⟩ := taken_runs_spec (n := n) (s := dropPkt k s) hj hlevel hv
      exact ⟨hhub, hyard, hloft, fun _ => ⟨hit, hwait, htakeV⟩, fun hend => absurd hv hend.not_gt⟩
    · obtain ⟨hends, hhub, hyard, hloft⟩ := taken_ends_spec (n := n) (s := dropPkt k s) hj hlevel (Nat.le_of_not_lt hv)
      exact ⟨hhub, hyard, hloft, fun hwithin => absurd hwithin hv, fun _ => hends⟩

end Sys2Proof.Machine
end

section
/-! PROOFS. Loft controllers: the packets that answer a READ, what a WRITE does to the loft once it is whole, and the statement of O30. -/

namespace Sys2Proof.Machine

/-! ## Packets between a controller and a stall (R281, R306, R309) -/

theorem injectLoft_net (own : Bool) (cls src dst : Nat) (body : PktBody) (s : State) : (injectLoft own cls src dst body s).fab.net =
    s.fab.net ++ [{ cls := cls, src := src, dst := dst, body := body,
                    hops := if own then [] else pathHops (pathEnd s src) (pathEnd s dst) }] := by
  cases own <;> rfl

theorem injectLoft_flt (own : Bool) (cls src dst : Nat) (body : PktBody) (s : State) :
    (injectLoft own cls src dst body s).flt = s.flt := by
  cases own <;> rfl

theorem injectLoft_bring (own : Bool) (cls src dst : Nat) (body : PktBody) (s : State) :
    (injectLoft own cls src dst body s).bring = s.bring := by
  cases own <;> rfl

/-- Packets whose contents come from the loft enter the fabric in their order. -/
theorem foldl_injectLoft_net {α : Type} (own : Bool) (cls src dst : Nat) {body : State → α → PktBody}
    (hbody : ∀ {s t : State}, t.loft = s.loft → body t = body s) (l : List α) (s : State) :
    (l.foldl (fun s c => injectLoft own cls src dst (body s c) s) s).fab.net = s.fab.net ++ l.map fun c =>
      { cls := cls, src := src, dst := dst, hops := if own then [] else pathHops (pathEnd s src) (pathEnd s dst), body := body s c } := by
  induction l generalizing s with
  | nil => simp
  | cons c l ih =>
    have hpath := pathEnd_congr (injectLoft_bring own cls src dst (body s c) s)
    rw [List.foldl_cons, ih, hpath, hpath, hbody (sameMemories_injectLoft ..).2, injectLoft_net, List.append_assoc]
    rfl

/-! ## READ (R288 to R291) -/

/-- The RDATA of some cells of a READ: their bytes, and the first poisoned word among them. -/
def readAnswer (n desc inst opnd entry : Nat) (it : List Nat) (s : State) (part : List (Nat × Nat)) : PktBody :=
  .rdata n desc inst opnd entry it (part.map fun c => (c.1, memGet s.loft.mem c.2)) (poisonIn s (part.map (·.2)))

theorem readAnswer_congr {n desc inst opnd entry : Nat} {it : List Nat} {s t : State} (h : t.loft = s.loft) :
    readAnswer n desc inst opnd entry it t = readAnswer n desc inst opnd entry it s := by
  funext part
  simp only [readAnswer, poisonIn, poisonedWord, h]

/-- The state in which a controller has read the words of a READ that it took off the fabric. -/
def wordsRead (k : Nat) (ecc : EccReport) (cells : List (Nat × Nat)) (s : State) : State :=
  eccApply ecc (fun w => (cells.map fun c => wordOf c.2).contains w) 3 (dropPkt k s)

theorem poisonedWord_wordsRead (k : Nat) (ecc : EccReport) (cells : List (Nat × Nat)) (s : State) (w : Nat) :
    poisonedWord (wordsRead k ecc cells s) w = true ↔
      (w ∈ ecc.uncorrectable ∧ w ∈ cells.map fun c => wordOf c.2) ∨ poisonedWord s w = true := by
  rw [wordsRead, poisonedWord_eccApply, List.contains_iff_mem]
  rfl

/-- A READ is answered by RDATA packets, after what the decoder found in its words. -/
theorem fabRead_answers {s : State} {k n desc inst opnd entry : Nat} {it : List Nat} {cells : List (Nat × Nat)} {q : Packet}
    (hat : netAt s k = some q) (hbody : q.body = .read n desc inst opnd entry it cells) (ecc : EccReport) :
    ∃ t, exec (.fabRead k ecc) s = .next t ∧ t.loft = (wordsRead k ecc cells s).loft ∧ t.stalls = s.stalls ∧
      t.fab.net = s.fab.net.eraseIdx k ++ (chunks 496 cells).map fun part =>
        { cls := 1, src := q.dst, dst := q.src, hops := if q.hops.isEmpty then [] else pathHops (pathEnd s q.dst) (pathEnd s q.src),
          body := readAnswer n desc inst opnd entry it t part } := by
  obtain ⟨cls, src, dst, hops, fails, body⟩ := q
  obtain rfl : body = _ := hbody
  have hexec : exec (.fabRead k ecc) s = .next ((chunks 496 cells).foldl
      (fun s part => injectLoft hops.isEmpty 1 dst src (readAnswer n desc inst opnd entry it s part) s)
      (wordsRead k ecc cells s)) := by
    refine congrArg Host.Outcome.next ?_
    unfold fabRead
    rw [hat]
    rfl
  have hloft := foldl_keeps (g := State.loft) (fun s part => (sameMemories_injectLoft s hops.isEmpty 1 dst src
    (readAnswer n desc inst opnd entry it s part)).2) (chunks 496 cells) (wordsRead k ecc cells s)
  have hpath := pathEnd_congr (s := s) (t := wordsRead k ecc cells s) (by simp [wordsRead])
  refine ⟨_, hexec, hloft, ?stalls, ?net⟩
  case stalls =>
    exact (foldl_keeps (g := State.stalls) (fun s _ => (sameMemories_injectLoft s ..).1) _ _).trans (eccApply_stalls ..)
  case net =>
    rw [readAnswer_congr hloft, foldl_injectLoft_net _ _ _ _ readAnswer_congr, hpath, hpath]
    simp [wordsRead]

/-! ## WRITE (R181, R287, R288, R291) -/

/-- Cells none of whose words is poisoned are written as they are (R287, R291). -/
theorem mergeCells_clean (n : Nat) {cells : List (Nat × Byte)} {s : State}
    (hclean : ∀ c ∈ cells, poisonedWord s (wordOf c.1) = false) :
    mergeCells n cells s = { s with loft.mem := memCells s.loft.mem cells } := by
  have hblocked : blockedWord s cells (coversWord cells) = none := by
    simp only [blockedWord, Option.map_eq_none_iff, List.find?_eq_none]
    exact fun c hc => by simp [hclean c hc]
  have hcells : (cells.filter fun c => !poisonedWord s (wordOf c.1) || coversWord cells (wordOf c.1)) = cells :=
    List.filter_eq_self.2 fun c hc => by simp [hclean c hc]
  have hpoison : (s.loft.poison.filter fun w => !(coversWord cells w && cells.any fun c => wordOf c.1 = w)) = s.loft.poison := by
    refine List.filter_eq_self.2 fun w hw => ?_
    have hnone : (cells.any fun c => wordOf c.1 = w) = false := by
      refine List.any_eq_false.2 fun c hc heq => ?_
      have hword := hclean c hc
      rw [of_decide_eq_true heq, poisonedWord, List.contains_eq_mem] at hword
      exact of_decide_eq_false hword hw
    simp [hnone]
  unfold mergeCells
  dsimp only
  rw [hblocked, loftPut, hcells, hpoison]

theorem mem_cellsAt {a : Nat} {bs : List Byte} {c : Nat × Byte} (hc : c ∈ cellsAt a bs) : a ≤ c.1 ∧ c.1 < a + bs.length := by
  obtain ⟨b, hb, rfl⟩ := List.mem_map.1 hc
  have hlt := List.snd_lt_of_mem_zipIdx hb
  dsimp only
  omega

theorem length_fillEntry (inst : Nat) : (fillEntry inst).length = 8 := length_leBytes ..

/-- A fill map entry lies in one word (R181, R287). -/
theorem wordOf_fillEntry {a inst : Nat} (ha : a % 8 = 0) {c : Nat × Byte} (hc : c ∈ cellsAt a (fillEntry inst)) :
    wordOf c.1 = wordOf a := by
  have hrange := mem_cellsAt hc
  rw [length_fillEntry] at hrange
  unfold wordOf
  omega

section Rule
variable {n desc : Nat} {cells : List (Nat × Byte)} {f : FillRef} {s : State}

/-- The first write that is newer than the fill map entry is performed with its own entry (R181). -/
theorem loftWrite_fresh (hcase : fillCase (leNat (loftRead s f.addr 8)) f.inst = .fresh) (haligned : f.addr % 8 = 0)
    (hfill : poisonedWord s (wordOf f.addr) = false) (hclean : ∀ c ∈ cells, poisonedWord s (wordOf c.1) = false) :
    loftWrite n desc cells (some f) s =
      { s with loft.mem := memCells s.loft.mem (cells ++ cellsAt f.addr (fillEntry f.inst)) } := by
  have hclean' : ∀ c ∈ cells ++ cellsAt f.addr (fillEntry f.inst), poisonedWord s (wordOf c.1) = false := by
    intro c hc
    rcases List.mem_append.1 hc with hcell | hentry
    · exact hclean c hcell
    · rw [wordOf_fillEntry haligned hentry, hfill]
  unfold loftWrite
  dsimp only
  rw [hfill, if_neg Bool.false_ne_true, hcase]
  exact mergeCells_clean n hclean'

/-- A replay of equal bytes changes nothing (R181). -/
theorem loftWrite_replay (hcase : fillCase (leNat (loftRead s f.addr 8)) f.inst = .replay)
    (hfill : poisonedWord s (wordOf f.addr) = false) (hclean : ∀ c ∈ cells, poisonedWord s (wordOf c.1) = false)
    (hequal : ∀ c ∈ cells, memGet s.loft.mem c.1 = c.2) : loftWrite n desc cells (some f) s = s := by
  have hpoison : poisonIn s (cells.map (·.1)) = none := by
    simp only [poisonIn, Option.map_eq_none_iff, List.find?_eq_none, List.forall_mem_map]
    exact fun c hc => by simp [hclean c hc]
  have hall : (cells.all fun c => memGet s.loft.mem c.1 = c.2) = true := List.all_eq_true.2 fun c hc => decide_eq_true (hequal c hc)
  unfold loftWrite
  dsimp only
  rw [hfill, if_neg Bool.false_ne_true, hcase]
  dsimp only
  rw [hpoison]
  dsimp only
  rw [if_pos hall]

/-- A write that is older than the fill map entry is refused (R181). -/
theorem loftWrite_older (hcase : fillCase (leNat (loftRead s f.addr 8)) f.inst = .older)
    (hfill : poisonedWord s (wordOf f.addr) = false) : loftWrite n desc cells (some f) s = loftConflict n desc f.addr f.it s := by
  unfold loftWrite
  dsimp only
  rw [hfill, if_neg Bool.false_ne_true, hcase]

end Rule

section Write
variable {s : State} {k n desc inst id total : Nat} {part : List (Nat × Byte)} {fill : Option FillRef} {q : Packet}
  (hat : netAt s k = some q) (hbody : q.body = .write n desc inst id total part fill)
include hat hbody

/-- A part of a transfer that is not whole waits at the controller. -/
theorem exec_fabWrite_waits (hmore : 0 < (writeParts s id total part).left) (ecc : EccReport) :
    exec (.fabWrite k ecc) s = .next { dropPkt k s with
      loft.writes := (s.loft.writes.filter fun w => w.id ≠ id) ++ [writeParts s id total part] } := by
  obtain ⟨cls, src, dst, hops, fails, body⟩ := q
  obtain rfl : body = _ := hbody
  refine congrArg Host.Outcome.next ?_
  unfold fabWrite
  rw [hat]
  dsimp only
  rw [if_pos hmore]

/-- The state in which a controller has taken the last part of transfer `id` off the fabric. -/
def partsTaken (k id : Nat) (s : State) : State :=
  { dropPkt k s with loft.writes := s.loft.writes.filter fun w => w.id ≠ id }

/-- The last part of a transfer has it written, and acknowledged whatever the write did (R181). -/
theorem fabWrite_acknowledges {u : State} (hwhole : (writeParts s id total part).left = 0)
    (hwrite : loftWrite n desc (writeParts s id total part).cells fill (partsTaken k id s) = u) (hfab : u.fab = (dropPkt k s).fab) :
    ∃ t, exec (.fabWrite k { corrected := [], uncorrectable := [] }) s = .next t ∧ t.loft = u.loft ∧ t.stalls = u.stalls ∧
      t.flt = u.flt ∧ ∃ r, t.fab.net = s.fab.net.eraseIdx k ++ [r] ∧ r.dst = q.src ∧ r.body = .ack n desc inst := by
  obtain ⟨cls, src, dst, hops, fails, body⟩ := q
  obtain rfl : body = _ := hbody
  obtain ⟨hstalls, hloft⟩ := sameMemories_injectLoft u hops.isEmpty 1 dst src (.ack n desc inst)
  have hexec : exec (.fabWrite k { corrected := [], uncorrectable := [] }) s =
      .next (injectLoft hops.isEmpty 1 dst src (.ack n desc inst) u) := by
    refine congrArg Host.Outcome.next ?_
    unfold fabWrite
    rw [hat]
    dsimp only
    rw [if_neg (by omega), ← hwrite]
    rfl
  have hnet := injectLoft_net hops.isEmpty 1 dst src (.ack n desc inst) u
  rw [hfab] at hnet
  exact ⟨_, hexec, hloft, hstalls, injectLoft_flt .., _, hnet, rfl, rfl⟩

end Write

/-- Settles O30: a READ by `exec_fabRead_answers`; a WRITE by `exec_fabWrite_waits` until its last part, and then by
`fabWrite_acknowledges` with what the write-once rule says of it. -/
theorem loftControllersServe : Obligations.LoftControllersServe := by
  intro s k q hat
  refine ⟨?read, ?waits, ?plain, ?filled⟩
  case read =>
    intro n desc inst opnd entry it cells ecc hbody
    obtain ⟨t, hexec, hloft, hstalls, hnet⟩ := fabRead_answers hat hbody ecc
    have hmem : t.loft.mem = s.loft.mem := by rw [hloft]; exact eccApply_mem ..
    have hpoison : ∀ w, poisonedWord t w = poisonedWord (wordsRead k ecc cells s) w := fun w => by
      rw [poisonedWord, hloft, poisonedWord]
    refine ⟨t, hexec, hmem, hstalls, ?net, fun w hw hread => ?found, fun w hw => ?kept⟩
    case net =>
      rw [hnet, ← hmem]
      rfl
    case found => rw [hpoison, poisonedWord_wordsRead]; exact .inl ⟨hw, hread⟩
    case kept => rw [hpoison, poisonedWord_wordsRead]; exact .inr hw
  case waits => exact fun n desc inst id total part fill hbody hmore ecc => exec_fabWrite_waits hat hbody hmore ecc
  case plain =>
    intro n desc inst id total part hbody hwhole hclean
    obtain ⟨t, hexec, hloft, hstalls, hflt, hack⟩ := fabWrite_acknowledges hat hbody hwhole (mergeCells_clean n hclean) rfl
    exact ⟨t, hexec, hloft, hack, hstalls, hflt⟩
  case filled =>
    intro n desc inst id total part f hbody hwhole haligned hfill hclean
    refine ⟨fun hcase => ?fresh, fun hcase hequal => ?replay, fun hcase => ?older⟩
    case fresh =>
      obtain ⟨t, hexec, hloft, hstalls, hflt, hack⟩ :=
        fabWrite_acknowledges hat hbody hwhole (loftWrite_fresh (s := partsTaken k id s) hcase haligned hfill hclean) rfl
      refine ⟨t, hexec, hloft, fun hwf a hcells hentry => ?_, hack, hstalls, hflt⟩
      rw [hloft]
      refine memGet_memCells_other hwf _ a fun c hc => ?_
      rcases List.mem_append.1 hc with hcell | hfilled
      · exact hcells c hcell
      · have hrange := mem_cellsAt hfilled
        rw [length_fillEntry] at hrange
        omega
    case replay =>
      obtain ⟨t, hexec, hloft, -, hflt, r, hnet, -, hack⟩ :=
        fabWrite_acknowledges hat hbody hwhole (loftWrite_replay (s := partsTaken k id s) hcase hfill hclean hequal) rfl
      exact ⟨t, hexec, hloft, hflt, r, hnet, hack⟩
    case older =>
      obtain ⟨t, hexec, hloft, -, hflt, r, hnet, -, hack⟩ :=
        fabWrite_acknowledges hat hbody hwhole (loftWrite_older (s := partsTaken k id s) hcase hfill) rfl
      exact ⟨t, hexec, hloft, ⟨_, by rw [hflt]; exact raise_raised .., rfl⟩, r, hnet, hack⟩

end Sys2Proof.Machine
end

section
/-! PROOFS. The SYL block: how a command of its two engines ends, the commands of the stage engine, the policy and the keys, and the
statements of O16 and O18. -/

namespace Sys2Proof.Machine

/-! ## A command that the block takes (R221, R382, R424) -/

theorem regWrite_of_reaches {s : State} {v : View} {addr : Nat} (hreach : Reaches s v addr) (f : State → State) :
    regWrite v addr f s = f s := regWrite_reaches s f hreach.1 hreach.2

theorem next_of_reaches {s t : State} {v : View} {addr : Nat} {f : State → State} (hreach : Reaches s v addr) (heffect : f s = t) :
    (.next (regWrite v addr f s) : Host.Outcome State Fault Refusal) = .next t := by rw [regWrite_of_reaches hreach, heffect]

theorem stageCmd_of_no_bar {s : State} (hbar : jobBar false s = none) (iss : Issuer) (f : State → State) : stageCmd iss f s = f s := by
  rw [stageCmd, hbar]

theorem loadCmd_of_no_bar {s : State} {busy : Bool} (hbar : jobBar busy s = none) (hidle : s.syl.load = none) (iss : Issuer)
    (f : State → State) : loadCmd busy iss f s = f s := by
  simp only [loadCmd, hbar, hidle, Option.isSome_none, Bool.false_eq_true, if_false]

/-- The end of a register command is its completion record in EVQ and nothing else. -/
theorem completed_postCmd (tag status : Nat) (body : List Byte) (u : State) :
    Completed tag status body u (postCmd (regIssuer tag) status body u) := by
  refine ⟨rfl, fun q => ?_⟩
  rw [queueAt_postCmd_reg]
  split_ifs with hq
  · rw [hq]
  · rfl

theorem completed_stageDone (tag result : Nat) (s : State) :
    Completed tag result [] { s with syl.stageTag := tag % 256, syl.stageResult := result } (stageDone (regIssuer tag) result s) := by
  rw [stageDone, stageOver, show (regIssuer tag).tag % 256 = tag % 256 from Nat.mod_mod ..]
  exact completed_postCmd ..

theorem completed_loadDone (tag result : Nat) (s : State) :
    Completed tag result [] { s with syl.loadTag := tag % 256, syl.loadResult := result } (loadDone (regIssuer tag) result s) := by
  rw [loadDone, loadOver, show (regIssuer tag).tag % 256 = tag % 256 from Nat.mod_mod ..]
  exact completed_postCmd ..

/-! ## Bytes that the hub writes (R203, R287) -/

theorem hubWrite_wf {s : State} (hwf : Memory.wf s.loft.mem = true) (a : Nat) (bs : List Byte) :
    Memory.wf (hubWrite a bs s).loft.mem = true := memCells_wf _ hwf

theorem memGet_hubWrite_outside {s : State} {a b : Nat} {bs : List Byte} (hwf : Memory.wf s.loft.mem = true)
    (hb : b < a ∨ a + bs.length ≤ b) : memGet (hubWrite a bs s).loft.mem b = memGet s.loft.mem b := by
  refine memGet_memCells_other hwf _ b fun c hc => ?_
  have hrange := mem_cellsAt (List.mem_filter.1 hc).1
  omega

/-- The bytes of an image written into the loft, run by run: a run's loft address, first byte and length. -/
def placeBytes (b : List Byte) (runs : List (Nat × Nat × Nat)) (s : State) : State :=
  runs.foldl (fun s r => hubWrite r.1 (slice b r.2.1 r.2.2) s) s

theorem placeBytes_syl (b : List Byte) (runs : List (Nat × Nat × Nat)) (s : State) : (placeBytes b runs s).syl = s.syl :=
  foldl_keeps (fun s _ => hubWrite_syl s ..) runs s

theorem setSlot_placeBytes (k : Nat) (x : CacheSlot) (b : List Byte) (runs : List (Nat × Nat × Nat)) (s : State) :
    setSlot k x (placeBytes b runs s) = { placeBytes b runs s with syl.slots := tset s.syl.slots k x } := by
  simp only [setSlot, placeBytes_syl]

/-- An image that no run changes may be read anew for each run. -/
theorem foldl_hubWrite_eq_placeBytes {image : State → List Byte} (hkept : ∀ a bs s, image (hubWrite a bs s) = image s)
    (runs : List (Nat × Nat × Nat)) (s : State) :
    runs.foldl (fun s r => hubWrite r.1 (slice (image s) r.2.1 r.2.2) s) s = placeBytes (image s) runs s := by
  induction runs generalizing s with
  | nil => rfl
  | cons r runs ih => rw [List.foldl_cons, ih, hkept, placeBytes, placeBytes, List.foldl_cons]

/-- The loft is as it was outside the runs. -/
theorem memGet_placeBytes_outside {b : List Byte} {runs : List (Nat × Nat × Nat)} {s : State} {a : Nat}
    (hwf : Memory.wf s.loft.mem = true) (ha : ∀ r ∈ runs, a < r.1 ∨ r.1 + (slice b r.2.1 r.2.2).length ≤ a) :
    memGet (placeBytes b runs s).loft.mem a = memGet s.loft.mem a := by
  unfold placeBytes
  induction runs generalizing s with
  | nil => rfl
  | cons r runs ih =>
    obtain ⟨hfirst, hrest⟩ := List.forall_mem_cons.1 ha
    rw [List.foldl_cons, ih (hubWrite_wf hwf ..) hrest, memGet_hubWrite_outside hwf hfirst]

/-! ## The commands of the stage engine (R222 to R224) -/

/-- The condition of R222 as the stage engine checks it. -/
theorem stage_at_fill_point {x : CacheSlot} {off : Nat} (hfill : x.st = .empty ∧ off = 0 ∨ x.st = .filling ∧ off = x.bytes.length) :
    (x.st == .empty && off = 0 || x.st == .filling && off = x.bytes.length) = true := by
  rcases hfill with ⟨hst, hoff⟩ | ⟨hst, hoff⟩
  · simp [hst, hoff]
  · simp [hst, hoff]

section Stage
variable {s : State} {k : Nat} (iss : Issuer) (hbar : jobBar false s = none)
include hbar

/-- The slot takes the bytes of a STAGE that the cache partition has room for. -/
theorem sylStage_places {len off : Nat} {bs b : List Byte} {pages : List CachePage} {runs : List (Nat × Nat × Nat)} (addr : Nat)
    (hlen : len ≠ 0) (hfill : (slotAt s k).st = .empty ∧ off = 0 ∨ (slotAt s k).st = .filling ∧ off = (imgAt s k).length)
    (hbytes : imgAt s k ++ padTo len bs = b) (hplace : cachePlace s k (imgAt s k).length b = some (pages, runs))
    (hfits : 256 ≤ b.length → b.length ≤ imgLength b) : sylStage iss k addr off len (some bs) s =
      stageDone iss 0 (setSlot k { slotAt s k with st := .filling, bytes := b, pages := pages } (placeBytes b runs s)) := by
  have hwhole : ¬ (256 ≤ b.length ∧ imgLength b < b.length) := fun ⟨hhead, hlong⟩ => Nat.not_le.2 hlong (hfits hhead)
  unfold imgAt at *
  rw [sylStage, stageCmd_of_no_bar hbar]
  simp only [hlen, stage_at_fill_point hfill, hbytes, hplace, hwhole, Bool.not_true, Bool.false_eq_true, if_false]
  rfl

/-- A STAGE that the cache partition has no room for ends with result 3. -/
theorem sylStage_no_room {len off : Nat} {bs : List Byte} (addr : Nat)
    (hlen : len ≠ 0) (hfill : (slotAt s k).st = .empty ∧ off = 0 ∨ (slotAt s k).st = .filling ∧ off = (imgAt s k).length)
    (hplace : cachePlace s k (imgAt s k).length (imgAt s k ++ padTo len bs) = none) :
    sylStage iss k addr off len (some bs) s = stageDone iss 3 s := by
  unfold imgAt at *
  rw [sylStage, stageCmd_of_no_bar hbar]
  simp only [hlen, stage_at_fill_point hfill, hplace, Bool.not_true, Bool.false_eq_true, if_false]

theorem sylFinish_stages (hfilling : (slotAt s k).st = .filling)
    (hpass : finishFault s.syl.require s.syl.keyv s.syl.keys (imgAt s k) = none) :
    sylFinish iss k s = stageDone iss 0
      (setSlot k { slotAt s k with st := .staged, signed := s.syl.require || imgSigLen (imgAt s k) ≠ 0 } s) := by
  unfold imgAt at hpass
  rw [sylFinish, stageCmd_of_no_bar hbar]
  simp only [hfilling, beq_self_eq_true, if_true, hpass]
  rfl

theorem sylEvict_empties (hfree : pinned s k = false) (hst : (slotAt s k).st = .staged ∨ (slotAt s k).st = .bad) :
    sylEvict iss k s = stageDone iss 0 (emptySlot k s) := by
  rw [sylEvict, stageCmd_of_no_bar hbar]
  rcases hst with hst | hst <;> simp only [hfree, hst, Bool.false_eq_true, if_false]

theorem sylAbort_empties (hst : (slotAt s k).st = .filling ∨ (slotAt s k).st = .bad) :
    sylAbort iss k s = stageDone iss 0 (emptySlot k s) := by
  rw [sylAbort, stageCmd_of_no_bar hbar]
  rcases hst with hst | hst <;> simp only [hst]

end Stage

/-- Settles O16: each command by the lemma that says what it does where its rule's conditions hold, and the end that its engine gives it;
the bytes outside a STAGE's runs by `memGet_hubWrites_outside`. -/
theorem syllabusStaging : Obligations.SyllabusStaging := by
  intro s v slot tag hreach hbar
  refine ⟨fun bs hlen hfill => ⟨fun pages runs hplace hfits => ?placed, fun hplace => ?full⟩, fun hfilling hpass => ?finish,
    fun hfree hst => ?evict, fun hst => ?abort⟩
  case placed =>
    refine ⟨_, next_of_reaches hreach (sylStage_places _ hbar _ hlen hfill rfl hplace hfits), ?ends, fun hwf a ha => ?outside⟩
    case ends =>
      rw [foldl_hubWrite_eq_placeBytes (image := fun u => imgAt u (slot % 64) ++ padTo u.syl.argLen bs) fun _ _ _ => rfl]
      rw [setSlot_placeBytes]
      exact completed_stageDone tag 0 _
    case outside => exact memGet_placeBytes_outside hwf ha
  case full =>
    exact ⟨_, next_of_reaches hreach (sylStage_no_room _ hbar _ hlen hfill hplace),
      completed_stageDone tag 3 s⟩
  case finish =>
    exact ⟨_, next_of_reaches hreach (sylFinish_stages _ hbar hfilling hpass),
      completed_stageDone tag 0 _⟩
  case evict =>
    exact ⟨_, next_of_reaches hreach (sylEvict_empties _ hbar hfree hst),
      completed_stageDone tag 0 _⟩
  case abort =>
    exact ⟨_, next_of_reaches hreach (sylAbort_empties _ hbar hst),
      completed_stageDone tag 0 _⟩

/-! ## Policy and keys (R232, R233) -/

section Policy
variable {s : State}

theorem policyWrite_of_lock (hlock : s.syl.lock = true) (value : W64) : policyWrite value s = s := if_pos hlock

/-- A one-bit field is 1 where its bit is set. -/
theorem fld_bit_eq_one_iff (w : W64) (i : Nat) : fld w i i = 1 ↔ w.getLsbD i = true := by
  have hlt : fld w i i < 2 := by simpa using fld_lt w i i
  rw [← Bool.not_eq_false, ← fld_bit_eq_zero_iff]
  omega

theorem policyWrite_of_no_lock (hlock : s.syl.lock = false) (value : W64) : policyWrite value s = { s with
    syl.lock := value.getLsbD 9, syl.require := value.getLsbD 8, syl.keyv := (value.extractLsb' 0 4).toNat } := by
  have hkeyv : fld value 3 0 = (value.extractLsb' 0 4).toNat := by simp [fld, bits]
  simp only [policyWrite, hlock, Bool.false_eq_true, if_false, fld_bit_eq_one_iff, Bool.decide_eq_true, hkeyv]

theorem keyWrite_ignored {k : Nat} (hshut : s.syl.lock = true ∨ s.syl.keyv.testBit k = true) (w : Nat) (value : W64) :
    keyWrite k w value s = s := if_pos (by simpa using hshut)

theorem keyWrite_taken {k : Nat} (hlock : s.syl.lock = false) (hkeyv : s.syl.keyv.testBit k = false) (w : Nat) (value : W64) :
    keyWrite k w value s = { s with syl.keys := tset s.syl.keys (7 * k + w) value } := if_neg (by simp [hlock, hkeyv])

end Policy

/-- Settles O18: a privileged write reaches the registers, and what it does there depends on LOCK and the key's KEYV bit alone. -/
theorem syllabusPolicyAndKeys : Obligations.SyllabusPolicyAndKeys := by
  intro s k w value hup
  have hpolicy : exec (.sylPolicyWrite .priv value) s = .next (policyWrite value s) := congrArg _ (regWrite_priv s _ hup)
  have hkey : exec (.sylKeyWrite .priv k w value) s = .next (keyWrite k w value s) := congrArg _ (regWrite_priv s _ hup)
  rw [hpolicy, hkey]
  exact ⟨fun hlock => by rw [policyWrite_of_no_lock hlock],
    fun hlock => ⟨by rw [policyWrite_of_lock hlock], by rw [keyWrite_ignored (.inl hlock)]⟩,
    fun hkeyv => by rw [keyWrite_ignored (.inr hkeyv)], fun hlock hkeyv => by rw [keyWrite_taken hlock hkeyv]⟩

end Sys2Proof.Machine
end

section
/-! PROOFS. Loads: what LOAD starts, what the stalls, the counters and the circuits hold at its commit, what CLEAR and UNLOAD leave, and the
statement of O17. -/

namespace Sys2Proof.Machine

/-! ## Tables changed at several indices -/

theorem tget_foldl_tdel {α : Type} (d : α) (l : List Nat) (t : Table α) (i : Nat) :
    tget d (l.foldl tdel t) i = if i ∈ l then d else tget d t i := by
  induction l generalizing t with
  | nil => simp
  | cons j l ih =>
    rw [List.foldl_cons, ih, tget_tdel]
    by_cases hi : i = j <;> simp [hi]

/-- An index that is set to one value again and again reads that value. -/
theorem tget_foldl_tset {α β : Type} (d v : α) (key : β → Nat) (l : List β) (t : Table α) (i : Nat) :
    tget d (l.foldl (fun t c => tset t (key c) v) t) i = if i ∈ l.map key then v else tget d t i := by
  induction l generalizing t with
  | nil => simp
  | cons c l ih =>
    rw [List.foldl_cons, ih, tget_tset]
    by_cases hi : i = key c <;> simp [hi]

/-! ## The stalls of an image (R14, R211) -/

/-- The physical stall that serves each of some logical stalls, changed by `f`. -/
def modServing (f : Nat → Stall → Stall) (ns : List Nat) (s : State) : State :=
  ns.foldl (fun s n =>
    match physOf s n with
    | some p => modStallP p (f n) s
    | none => s) s

/-- Only the stalls change. -/
theorem modServing_eq (f : Nat → Stall → Stall) (ns : List Nat) (s : State) :
    modServing f ns s = { s with stalls := (modServing f ns s).stalls } := by
  unfold modServing
  induction ns generalizing s with
  | nil => rfl
  | cons n ns ih =>
    rw [List.foldl_cons]
    split
    · exact ih (modStallP ..)
    · exact ih s

/-- A physical stall takes the changes of the logical stalls that it serves, in their order. -/
theorem stallP_modServing (f : Nat → Stall → Stall) (ns : List Nat) (s : State) (p : Nat) :
    stallP (modServing f ns s) p = (ns.filter fun n => physOf s n = some p).foldl (fun x n => f n x) (stallP s p) := by
  unfold modServing
  induction ns generalizing s with
  | nil => rfl
  | cons n ns ih =>
    rw [List.foldl_cons, ih]
    cases hphys : physOf s n with
    | none => simp [hphys]
    | some q =>
      have hmap : ∀ m, physOf (modStallP q (f n) s) m = physOf s m := fun _ => rfl
      by_cases hq : q = p
      · subst hq; simp [hphys, hmap]
      · simp [hphys, hmap, hq, Ne.symm hq]

section Serving
variable {f : Nat → Stall → Stall} {ns : List Nat} {s : State} {p : Nat}

theorem stallP_modServing_other (hp : ∀ n ∈ ns, physOf s n ≠ some p) : stallP (modServing f ns s) p = stallP s p := by
  rw [stallP_modServing, List.filter_eq_nil_iff.2 fun n hn => by simpa using hp n hn, List.foldl_nil]

/-- What each change leaves behind holds of a stall that serves one of the logical stalls. -/
theorem stallP_modServing_of_mem {P : Stall → Prop} (hf : ∀ n x, P (f n x)) {n : Nat} (hn : n ∈ ns) (hphys : physOf s n = some p) :
    P (stallP (modServing f ns s) p) := by
  rw [stallP_modServing]
  have hmem : n ∈ ns.filter fun n => physOf s n = some p := List.mem_filter.2 ⟨hn, decide_eq_true hphys⟩
  obtain ⟨init, last, heq⟩ := List.eq_nil_or_concat _ |>.resolve_left (List.ne_nil_of_mem hmem)
  rw [heq, List.concat_eq_append, List.foldl_append, List.foldl_cons, List.foldl_nil]
  exact hf ..

/-- A field that no change reaches is as it was. -/
theorem stallP_modServing_keeps {β : Type} {g : Stall → β} (hg : ∀ n x, g (f n x) = g x) :
    g (stallP (modServing f ns s) p) = g (stallP s p) := by
  rw [stallP_modServing]
  generalize ns.filter _ = l
  generalize stallP s p = x
  induction l generalizing x with
  | nil => rfl
  | cons n l ih => rw [List.foldl_cons, ih, hg]

end Serving

/-! ## What a commit makes live (R227) -/

/-- The device with its stalls, loft, fabric and gates set aside: the blocks that a commit writes piece by piece. -/
def besideMemories (s : State) : State := { s with stalls := [], loft := {}, fab := {}, gate := {} }

theorem besideMemories_zeroFillMap (f : FillRec) (s : State) : besideMemories (zeroFillMap f s) = besideMemories s := by
  unfold zeroFillMap
  split_ifs
  · rfl
  · split <;> rfl

/-- The credits of an image's gate windows change the gate block only (R337). -/
theorem grantWindows_eq (b : List Byte) (s : State) : grantWindows b s = { s with gate := (grantWindows b s).gate } := by
  unfold grantWindows
  generalize gateWins s b = ws
  induction ws generalizing s with
  | nil => rfl
  | cons w ws ih =>
    rw [List.foldl_cons, ih, sendCredit, gateQueue_eq]

/-- The stalls of an image, its LOFTDATA and its fill maps at its commit. -/
def commitMemories (b : List Byte) (k : Nat) (s : State) : State :=
  (fillMapsOf b).foldl (fun s f => zeroFillMap f s)
    ((loftDataOf b).foldl (fun s d => hubWrite d.1 d.2 s) (modServing (committedStall b k) (stallSet b) s))

/-- The counters, the roll, the circuits, the RNG base and the slot of an image at its commit. -/
def commitRegisters (b : List Byte) (k : Nat) (s : State) : State :=
  { s with
    hubCtr := (hubCounters b).foldl tdel s.hubCtr
    yardCtr := (yardCounters b).foldl tdel s.yardCtr
    roll.entries := if imgPartial b then s.roll.entries else []
    roll.circuits := (circuitsOf b).foldl (fun t (c : CircRec) => tset t c.circuit { st := .stopped }) s.roll.circuits
    rng.seed0 := s.rng.seed
    rng.base0 := s.rng.base
    syl.slots := tset s.syl.slots k { slotAt s k with st := .resident } }

theorem commitImage_eq (k : Nat) (s : State) :
    commitImage k s = grantWindows (imgAt s k) (commitRegisters (imgAt s k) k (commitMemories (imgAt s k) k s)) := by
  unfold commitImage
  extract_lets +onlyGivenNames b s₁ s₂ s₃
  have hmemories : commitMemories b k s = s₃ := rfl
  show _ = grantWindows b (commitRegisters b k (commitMemories b k s))
  rw [hmemories]
  clear_value s₃ b
  unfold commitRegisters zeroCounters
  generalize circuitsOf b = cs, hubCounters b = hs, yardCounters b = ys
  cases imgPartial b
  · rfl
  · rfl

theorem besideMemories_hubWrite (a : Nat) (bs : List Byte) (s : State) : besideMemories (hubWrite a bs s) = besideMemories s := by
  simp [besideMemories]

theorem besideMemories_hubWrites (ds : List (Nat × List Byte)) (s : State) :
    besideMemories (ds.foldl (fun s d => hubWrite d.1 d.2 s) s) = besideMemories s :=
  foldl_keeps (fun s (d : Nat × List Byte) => besideMemories_hubWrite d.1 d.2 s) ds s

theorem besideMemories_zeroFillMaps (fs : List FillRec) (s : State) :
    besideMemories (fs.foldl (fun s f => zeroFillMap f s) s) = besideMemories s :=
  foldl_keeps (fun s f => besideMemories_zeroFillMap f s) fs s

theorem besideMemories_modServing (f : Nat → Stall → Stall) (ns : List Nat) (s : State) :
    besideMemories (modServing f ns s) = besideMemories s := by
  rw [modServing_eq]
  rfl

theorem besideMemories_commitMemories (b : List Byte) (k : Nat) (s : State) : besideMemories (commitMemories b k s) = besideMemories s := by
  rw [commitMemories, besideMemories_zeroFillMaps, besideMemories_hubWrites, besideMemories_modServing]

theorem besideMemories_commitRegisters (b : List Byte) (k : Nat) (s : State) :
    besideMemories (commitRegisters b k s) = commitRegisters b k (besideMemories s) := by
  unfold commitRegisters
  generalize circuitsOf b = cs, hubCounters b = hs, yardCounters b = ys
  rfl

theorem besideMemories_grantWindows (b : List Byte) (s : State) : besideMemories (grantWindows b s) = besideMemories s := by
  rw [grantWindows_eq]
  simp only [besideMemories]

theorem besideMemories_commitImage (k : Nat) (s : State) :
    besideMemories (commitImage k s) = besideMemories (commitRegisters (imgAt s k) k s) := by
  rw [commitImage_eq, besideMemories_grantWindows, besideMemories_commitRegisters, besideMemories_commitMemories,
    besideMemories_commitRegisters]

/-- Outside the memories, a commit leaves what `commitRegisters` says. -/
theorem commitImage_reads {β : Type} {g : State → β} (hg : ∀ u, g (besideMemories u) = g u) (k : Nat) (s : State) :
    g (commitImage k s) = g (commitRegisters (imgAt s k) k s) := by
  rw [← hg, besideMemories_commitImage, hg]

/-! ## The stalls at a commit (R212, R227) -/

/-- A physical stall with its scratch set aside. -/
def besideScratch (p : Nat) (s : State) : Stall := { stallP s p with scratch := [] }

theorem besideScratch_zeroFillMap (p : Nat) (f : FillRec) (s : State) : besideScratch p (zeroFillMap f s) = besideScratch p s := by
  unfold zeroFillMap
  split_ifs
  · rfl
  · split
    · rw [besideScratch, stallP_modStallP]
      split_ifs with hp
      · rw [hp]
        rfl
      · rfl
    · rfl

theorem besideScratch_zeroFillMaps (p : Nat) (fs : List FillRec) (s : State) :
    besideScratch p (fs.foldl (fun s f => zeroFillMap f s) s) = besideScratch p s :=
  foldl_keeps (fun s f => besideScratch_zeroFillMap p f s) fs s

theorem besideScratch_congr {p : Nat} {s t : State} (hstalls : t.stalls = s.stalls) : besideScratch p t = besideScratch p s := by
  simp only [besideScratch, stallP, hstalls]

theorem hubWrites_stalls (ds : List (Nat × List Byte)) (s : State) :
    (ds.foldl (fun s d => hubWrite d.1 d.2 s) s).stalls = s.stalls :=
  foldl_keeps (fun s (d : Nat × List Byte) => hubWrite_stalls s d.1 d.2) ds s

theorem grantWindows_commitRegisters_stalls (b : List Byte) (k : Nat) (s : State) :
    (grantWindows b (commitRegisters b k s)).stalls = s.stalls := by
  rw [grantWindows_eq, commitRegisters]

/-- But for their scratch, the stalls after a commit are as `committedStall` leaves them. -/
theorem besideScratch_commitImage (p k : Nat) (s : State) : besideScratch p (commitImage k s) =
    besideScratch p (modServing (committedStall (imgAt s k) k) (stallSet (imgAt s k)) s) := by
  rw [commitImage_eq, besideScratch_congr (grantWindows_commitRegisters_stalls ..), commitMemories, besideScratch_zeroFillMaps,
    besideScratch_congr (hubWrites_stalls ..)]

/-- A stall that has run nothing: no program, no slot in use, no token and no descriptor to run. -/
def Fresh (x : Stall) : Prop := x.prog = none ∧ x.slots = [] ∧ x.tokens = 0 ∧ x.ring = []

theorem fresh_besideScratch (p : Nat) (s : State) : Fresh (besideScratch p s) ↔ Fresh (stallP s p) := Iff.rfl

theorem fresh_committedStall (b : List Byte) (k n : Nat) (x : Stall) : Fresh (committedStall b k n x) := by
  unfold committedStall
  split
  · exact ⟨rfl, rfl, rfl, rfl⟩
  · exact ⟨rfl, rfl, rfl, rfl⟩

theorem fresh_commitImage {k n p : Nat} {s : State} (hn : n ∈ stallSet (imgAt s k)) (hphys : physOf s n = some p) :
    Fresh (stallP (commitImage k s) p) := by
  rw [← fresh_besideScratch, besideScratch_commitImage, fresh_besideScratch]
  exact stallP_modServing_of_mem (fun n x => fresh_committedStall _ _ n x) hn hphys

/-! ## The registers at a commit (R227) -/

section Commit
variable (k : Nat) (s : State)

theorem commitImage_syl : (commitImage k s).syl =
    { s.syl with slots := tset s.syl.slots k { slotAt s k with st := .resident } } := by
  rw [commitImage_reads (g := State.syl) fun _ => rfl]
  simp only [commitRegisters]

theorem commitImage_flt : (commitImage k s).flt = s.flt := by
  rw [commitImage_reads (g := State.flt) fun _ => rfl]
  simp only [commitRegisters]

theorem commitImage_bring : (commitImage k s).bring = s.bring := by
  rw [commitImage_reads (g := State.bring) fun _ => rfl]
  simp only [commitRegisters]

theorem commitImage_circuits (c : Nat) : circAt (commitImage k s) c =
    if c ∈ (circuitsOf (imgAt s k)).map CircRec.circuit then { st := .stopped } else circAt s c := by
  rw [commitImage_reads (g := fun u => circAt u c) fun _ => rfl]
  simp only [circAt, commitRegisters, tget_foldl_tset]

theorem commitImage_hubCtr (i : Nat) :
    tget {} (commitImage k s).hubCtr i = if i ∈ hubCounters (imgAt s k) then {} else tget {} s.hubCtr i := by
  rw [commitImage_reads (g := State.hubCtr) fun _ => rfl]
  simp only [commitRegisters, tget_foldl_tdel]

theorem commitImage_yardCtr (i : Nat) :
    tget {} (commitImage k s).yardCtr i = if i ∈ yardCounters (imgAt s k) then {} else tget {} s.yardCtr i := by
  rw [commitImage_reads (g := State.yardCtr) fun _ => rfl]
  simp only [commitRegisters, tget_foldl_tdel]

theorem commitImage_entries :
    (commitImage k s).roll.entries = if imgPartial (imgAt s k) then s.roll.entries else [] := by
  rw [commitImage_reads (g := fun u => u.roll.entries) fun _ => rfl]
  simp only [commitRegisters]

end Commit

/-! ## The end of a command of the load engine (R221) -/

/-- State `t` is `u` with a command of the load engine ended: its TAG and result, the queue of its record, and a pre-emption that waited for
it. -/
def LoadEnded (iss : Issuer) (result : Nat) (u t : State) : Prop :=
  ∃ host ctx, t = { u with host := host, ctx := ctx, syl.loadTag := iss.tag % 256, syl.loadResult := result }

section Ended
variable {iss : Issuer} {result : Nat} {u t : State}

theorem loadEnded_loadDone : LoadEnded iss result u (loadDone iss result u) := by
  obtain ⟨via, tag⟩ := iss
  cases via <;> exact ⟨_, _, rfl⟩

theorem loadEnded_deferredPreempt (hended : LoadEnded iss result u t) : LoadEnded iss result u (deferredPreempt t) := by
  obtain ⟨host, ctx, rfl⟩ := hended
  unfold deferredPreempt
  split_ifs
  · exact ⟨_, _, rfl⟩
  · exact ⟨_, _, rfl⟩

theorem LoadEnded.syl_eq (hended : LoadEnded iss result u t) :
    t.syl = { u.syl with loadTag := iss.tag % 256, loadResult := result } := by
  obtain ⟨host, ctx, rfl⟩ := hended
  rfl

theorem LoadEnded.slotAt_eq (hended : LoadEnded iss result u t) (k : Nat) : slotAt t k = slotAt u k := by
  obtain ⟨host, ctx, rfl⟩ := hended
  rfl

theorem LoadEnded.reads (hended : LoadEnded iss result u t) {β : Type} (g : State → β)
    (hg : ∀ u host syl ctx, g { u with host := host, syl := syl, ctx := ctx } = g u) : g t = g u := by
  obtain ⟨host, ctx, rfl⟩ := hended
  exact hg ..

theorem LoadEnded.reads_released {v : State} (hended : LoadEnded iss result (releaseHold v) t) {β : Type} (g : State → β)
    (hg : ∀ u host syl ctx, g { u with host := host, syl := syl, ctx := ctx } = g u) : g t = g v :=
  (hended.reads g hg).trans (hg v v.host _ v.ctx)

end Ended

/-! ## LOAD, its commit and CLEAR (R225 to R229) -/

/-- The load engine at rest, with the beats that its load took (R226). -/
def loadStopped (l : LoadRun) (s : State) : State :=
  { s with syl.load := none, syl.loadBeats := (s.dev.paceHub + 2 ^ 64 - l.start) % 2 ^ 64 }

/-- The slot of a load holds the image as the loft holds it (R225). -/
def imageTaken (l : LoadRun) (s : State) : State :=
  setSlot l.slot { slotAt s l.slot with bytes := cachedImage s (slotAt s l.slot) } (loadStopped l s)

/-- A load that fails in its phases, before its end is recorded: its slot is BAD, and what it holds counts as failed (R229). -/
def loadBroken (l : LoadRun) (s : State) : State :=
  setSlot l.slot { slotAt s l.slot with st := .bad }
    { loadStopped l s with syl.loadFailed := true, syl.failFull := s.syl.heldFull, syl.failStalls := s.syl.heldStalls }

section LoadCommit
variable {s : State} {l : LoadRun} (hload : s.syl.load = some l)
include hload

theorem exec_sylLoadCommit_sound (hsound : ∀ w ∈ cachedWords (slotAt s l.slot), poisonedWord s w = false) :
    ∃ t, exec (.sylLoadCommit { corrected := [], uncorrectable := [] }) s = .next t ∧
      LoadEnded l.issuer 0 (releaseHold (commitImage l.slot (imageTaken l s))) t := by
  refine ⟨_, congrArg Host.Outcome.next ?_, loadEnded_deferredPreempt loadEnded_loadDone⟩
  have hnone : (cachedWords (slotAt s l.slot)).any (poisonedWord s) = false :=
    List.any_eq_false.2 fun w hw => by simp [hsound w hw]
  unfold loadCommit
  rw [hload]
  exact if_neg (by rw [Bool.not_eq_true]; exact hnone)

theorem exec_sylLoadCommit_damaged {ecc : EccReport}
    (hbad : ∃ w ∈ cachedWords (slotAt s l.slot), poisonedWord s w = true ∨ w ∈ ecc.uncorrectable) :
    ∃ t, exec (.sylLoadCommit ecc) s = .next t ∧ LoadEnded l.issuer 4 (sylFault 0x0102 l.slot 0xFFFF 32 0x14
      (loadBroken l (eccApply ecc (cachedWords (slotAt s l.slot)).contains 0 s))) t := by
  refine ⟨_, congrArg Host.Outcome.next ?_, loadEnded_deferredPreempt loadEnded_loadDone⟩
  obtain ⟨w, hw, hdamage⟩ := hbad
  have hany : (cachedWords (slotAt s l.slot)).any (poisonedWord (eccApply ecc (cachedWords (slotAt s l.slot)).contains 0 s)) = true := by
    refine List.any_eq_true.2 ⟨w, hw, (poisonedWord_eccApply ..).2 ?_⟩
    rw [List.contains_iff_mem]
    exact hdamage.symm.imp_left fun hfound => ⟨hfound, hw⟩
  have hslot : slotAt (eccApply ecc (cachedWords (slotAt s l.slot)).contains 0 s) l.slot = slotAt s l.slot := by
    rw [slotAt, eccApply_syl, slotAt]
  unfold loadCommit
  rw [hload, loadBroken, hslot]
  exact if_pos hany

end LoadCommit

theorem sylLoad_starts {s : State} {k : Nat} (iss : Issuer) (hbar : jobBar true s = none) (hidle : s.syl.load = none)
    (hpass : loadBar s k = none) : sylLoad iss k s = { s with
      syl.load := some { slot := k, issuer := iss, start := s.dev.paceHub }
      syl.held := true
      syl.heldFull := s.syl.failFull || !imgPartial (cachedImage s (slotAt s k))
      syl.heldStalls := s.syl.failStalls ++ stallSet (cachedImage s (slotAt s k)) } := by
  rw [sylLoad, loadCmd_of_no_bar hbar hidle]
  simp only [hpass]

theorem sylClear_ends {s : State} (iss : Issuer) (hbar : jobBar false s = none) (hidle : s.syl.load = none)
    (hfailed : s.syl.loadFailed = true) : sylClear iss s = loadDone iss 0 (clearHold s) := by
  rw [sylClear, loadCmd_of_no_bar hbar hidle, if_pos hfailed]

/-- The commit of a sound image ends its hold, and its slot is RESIDENT with the image as the loft holds it (R227, R228; log entry 51). -/
theorem syl_of_sound_load {s t : State} {l : LoadRun} {iss : Issuer}
    (hended : LoadEnded iss 0 (releaseHold (commitImage l.slot (imageTaken l s))) t) : t.syl = { s.syl with
      slots := tset s.syl.slots l.slot { slotAt s l.slot with st := .resident, bytes := cachedImage s (slotAt s l.slot) }
      load := none
      loadBeats := (s.dev.paceHub + 2 ^ 64 - l.start) % 2 ^ 64
      held := s.syl.loadFailed
      heldFull := s.syl.failFull
      heldStalls := s.syl.failStalls
      loadTag := iss.tag % 256
      loadResult := 0 } := by
  rw [hended.syl_eq]
  simp only [releaseHold, commitImage_syl, imageTaken, setSlot, loadStopped, slotAt, tget_tset_same, tset_tset]

/-- A damaged copy makes its slot BAD and keeps the hold as that of a failed load (R229, R290). -/
theorem syl_of_damaged_load {s t : State} {l : LoadRun} {iss : Issuer}
    (hended : LoadEnded iss 4 (sylFault 0x0102 l.slot 0xFFFF 32 0x14 (loadBroken l s)) t) : t.syl = { s.syl with
      slots := tset s.syl.slots l.slot { slotAt s l.slot with st := .bad }
      load := none
      loadBeats := (s.dev.paceHub + 2 ^ 64 - l.start) % 2 ^ 64
      loadFailed := true
      failFull := s.syl.heldFull
      failStalls := s.syl.heldStalls
      faultCode := 0x0102
      loadTag := iss.tag % 256
      loadResult := 4 } := by
  rw [hended.syl_eq]
  simp only [sylFault, raiseHub_syl, loadBroken, setSlot, loadStopped]

theorem sylFault_raised (code slot sec off check : Nat) (s : State) :
    ∃ r, (sylFault code slot sec off check s).flt.raised = s.flt.raised ++ [r] ∧ r.code = code := by
  obtain ⟨r, hflt, hcode, -, -⟩ := raiseHub_raised { s with syl.faultCode := code } code (detS slot sec off check)
  exact ⟨r, by rw [sylFault, hflt], hcode⟩

/-- Where nothing was corrected, what the decoder found raises no record (R290, R291). -/
theorem eccApply_flt_of_no_correction (bad : List Nat) (reads : Nat → Bool) (access : Nat) (s : State) :
    (eccApply { corrected := [], uncorrectable := bad } reads access s).flt = s.flt :=
  foldl_keeps (fun s w => poisonOne_flt s w) _ s

/-! ## UNLOAD (R230) -/

/-- The circuits and the slot of an image that is unloaded. -/
def unloadRegisters (b : List Byte) (k : Nat) (s : State) : State :=
  { s with
    roll.circuits := ((circuitsOf b).map (·.circuit)).foldl tdel s.roll.circuits
    syl.slots := tset s.syl.slots k { slotAt s k with st := .staged } }

/-- An UNLOAD frees the image's stalls and its registers, and else changes gates and JSTOPPED only. -/
theorem unloadImage_eq (k : Nat) (s : State) : ∃ gate flt, unloadImage k s =
    { unloadRegisters (imgAt s k) k (modServing (fun _ => freedStall) (stallSet (imgAt s k)) s) with gate := gate, flt := flt } := by
  unfold unloadImage
  extract_lets +onlyGivenNames b s₁
  have hserving : modServing (fun _ => freedStall) (stallSet b) s = s₁ := rfl
  show ∃ gate flt, _ =
    { unloadRegisters b k (modServing (fun _ => freedStall) (stallSet b) s) with gate := gate, flt := flt }
  rw [hserving]
  clear_value s₁ b
  unfold unloadRegisters
  generalize circuitsOf b = cs, stallSet b = ns
  dsimp only
  split_ifs
  · exact ⟨_, _, rfl⟩
  · exact ⟨_, _, rfl⟩

theorem unloadImage_reads {k : Nat} {s : State} {β : Type} {g : State → β}
    (hg : ∀ u gate flt, g { u with gate := gate, flt := flt } = g u) :
    g (unloadImage k s) = g (unloadRegisters (imgAt s k) k (modServing (fun _ => freedStall) (stallSet (imgAt s k)) s)) := by
  obtain ⟨gate, flt, heq⟩ := unloadImage_eq k s
  rw [heq, hg]

section Unload
variable (k : Nat) (s : State)

theorem unloadImage_slot : slotAt (unloadImage k s) k = { slotAt s k with st := .staged } := by
  rw [unloadImage_reads (g := fun u => slotAt u k) fun _ _ _ => rfl, modServing_eq]
  simp only [slotAt, unloadRegisters, tget_tset_same]

theorem unloadImage_stallP (p : Nat) :
    stallP (unloadImage k s) p = stallP (modServing (fun _ => freedStall) (stallSet (imgAt s k)) s) p := by
  rw [unloadImage_reads (g := fun u => stallP u p) fun _ _ _ => rfl]
  simp only [stallP, unloadRegisters]

theorem unloadImage_circuits (c : Nat) : circAt (unloadImage k s) c =
    if c ∈ (circuitsOf (imgAt s k)).map CircRec.circuit then {} else circAt s c := by
  rw [unloadImage_reads (g := fun u => circAt u c) fun _ _ _ => rfl, modServing_eq]
  simp only [circAt, unloadRegisters, tget_foldl_tdel]

theorem unloadImage_loft : (unloadImage k s).loft = s.loft := by
  rw [unloadImage_reads (g := State.loft) fun _ _ _ => rfl, modServing_eq]
  simp only [unloadRegisters]

theorem unloadImage_entries : (unloadImage k s).roll.entries = s.roll.entries := by
  rw [unloadImage_reads (g := fun u => u.roll.entries) fun _ _ _ => rfl, modServing_eq]
  simp only [unloadRegisters]

end Unload

theorem exec_sylUnload_frees {s : State} {v : View} {slot tag : Nat} (hreach : Reaches s v sylBase) (hbar : jobBar true s = none)
    (hidle : s.syl.load = none) (hresident : (slotAt s (slot % 64)).st = .resident)
    (hquiet : unloadBusy s (imgAt s (slot % 64)) = false) :
    ∃ t, exec (.sylUnload v slot tag) s = .next t ∧ LoadEnded (regIssuer tag) 0 (unloadImage (slot % 64) s) t := by
  refine ⟨_, next_of_reaches hreach ?_, loadEnded_loadDone⟩
  rw [sylUnload, loadCmd_of_no_bar hbar hidle]
  simp only [hresident, hquiet, bne_self_eq_false, Bool.false_eq_true, if_false]

/-- Settles O17: LOAD and CLEAR by what they do where they are taken; the end of the load phases by `exec_sylLoadCommit_sound` and
`exec_sylLoadCommit_damaged`, read off one block at a time; UNLOAD by `exec_sylUnload_frees` and what `unloadImage` leaves. -/
theorem syllabusLoads : Obligations.SyllabusLoads := by
  refine ⟨fun s v slot tag hreach hidle => ⟨fun hbar hpass => ?load, fun hbar hfailed => ?clear⟩,
    fun s l hload => ⟨fun hsound => ?sound, fun bad hbad => ?damaged⟩, fun s v slot tag hreach hbar hidle hresident hquiet => ?unload⟩
  case load => exact next_of_reaches hreach (sylLoad_starts _ hbar hidle hpass)
  case clear =>
    exact ⟨_, next_of_reaches hreach (sylClear_ends _ hbar hidle hfailed),
      completed_loadDone tag 0 (clearHold s)⟩
  case sound =>
    obtain ⟨t, hexec, hended⟩ := exec_sylLoadCommit_sound hload hsound
    have hsyl := syl_of_sound_load hended
    have htaken : imgAt (imageTaken l s) l.slot = cachedImage s (slotAt s l.slot) := by
      simp only [imgAt, slotAt, imageTaken, setSlot, tget_tset_same]
    have hslot : slotAt t l.slot = { slotAt s l.slot with st := .resident, bytes := cachedImage s (slotAt s l.slot) } := by
      simp only [slotAt, hsyl, tget_tset_same]
    have himage : imgAt t l.slot = imgAt (imageTaken l s) l.slot := by rw [htaken, imgAt, hslot]
    refine ⟨t, hexec, by rw [hslot], himage.trans htaken, by rw [hsyl], by rw [hsyl], by rw [hsyl], by rw [hsyl], by rw [hsyl],
      by rw [hsyl], ?_⟩
    rw [himage]
    refine ⟨fun r hr => ?circuits, fun i hi => ?hub, fun i hi => ?yard, fun hfull => ?entries, fun n hn p hphys => ?stalls,
      ?flt, ?bring⟩
    case circuits =>
      rw [hended.reads_released (fun u => circAt u r.circuit) fun _ _ _ _ => rfl, commitImage_circuits,
        if_pos (List.mem_map_of_mem hr)]
    case hub => rw [hended.reads_released State.hubCtr fun _ _ _ _ => rfl, commitImage_hubCtr, if_pos hi]
    case yard => rw [hended.reads_released State.yardCtr fun _ _ _ _ => rfl, commitImage_yardCtr, if_pos hi]
    case entries =>
      rw [hended.reads_released (fun u => u.roll.entries) fun _ _ _ _ => rfl, commitImage_entries, hfull, if_neg Bool.false_ne_true]
    case stalls =>
      rw [hended.reads_released (fun u => stallP u p) fun _ _ _ _ => rfl]
      exact fresh_commitImage hn hphys
    case flt => rw [hended.reads_released State.flt fun _ _ _ _ => rfl, commitImage_flt, imageTaken, setSlot, loadStopped]
    case bring => rw [hended.reads_released State.bring fun _ _ _ _ => rfl, commitImage_bring, imageTaken, setSlot, loadStopped]
  case damaged =>
    obtain ⟨t, hexec, hended⟩ := exec_sylLoadCommit_damaged (ecc := { corrected := [], uncorrectable := bad }) hload hbad
    have hsyl := syl_of_damaged_load hended
    rw [eccApply_syl] at hsyl
    refine ⟨t, hexec, ?slot, by rw [hsyl], by rw [hsyl], by rw [hsyl], by rw [hsyl], by rw [hsyl], by rw [hsyl], by rw [hsyl],
      ?stalls, ?mem, ?roll, ?raised⟩
    case slot => simp only [slotAt, hsyl, tget_tset_same]
    case stalls =>
      rw [hended.reads State.stalls fun _ _ _ _ => rfl]
      simp only [sylFault, raiseHub_stalls, loadBroken, setSlot, loadStopped, eccApply_stalls]
    case mem =>
      rw [hended.reads (fun u => u.loft.mem) fun _ _ _ _ => rfl]
      simp only [sylFault, raiseHub_loft, loadBroken, setSlot, loadStopped, eccApply_mem]
    case roll =>
      rw [hended.reads State.roll fun _ _ _ _ => rfl]
      simp only [sylFault, raiseHub_roll, loadBroken, setSlot, loadStopped, eccApply_roll]
    case raised =>
      rw [hended.reads State.flt fun _ _ _ _ => rfl]
      have hflt : (loadBroken l (eccApply { corrected := [], uncorrectable := bad } (cachedWords (slotAt s l.slot)).contains 0 s)).flt =
          s.flt := eccApply_flt_of_no_correction ..
      rw [← hflt]
      exact sylFault_raised ..
  case unload =>
    obtain ⟨t, hexec, hended⟩ := exec_sylUnload_frees hreach hbar hidle hresident hquiet
    have hslot := hended.slotAt_eq (slot % 64)
    rw [unloadImage_slot] at hslot
    have hstall : ∀ p, stallP t p = stallP (modServing (fun _ => freedStall) (stallSet (imgAt s (slot % 64))) s) p := fun p => by
      rw [hended.reads (fun u => stallP u p) fun _ _ _ _ => rfl, unloadImage_stallP]
    refine ⟨t, hexec, by rw [hslot], by rw [imgAt, hslot, imgAt], by rw [hended.syl_eq], ?tag, fun n hn p hphys => ?freed,
      fun p hp => ?other, fun r hr => ?circuits, fun p => ?scratch, ?loft, ?entries⟩
    case tag =>
      rw [hended.syl_eq]
      exact Nat.mod_mod ..
    case freed =>
      rw [hstall]
      exact stallP_modServing_of_mem (P := fun x => x.loaded = none ∧ x.prog = none) (fun _ _ => ⟨rfl, rfl⟩) hn hphys
    case other => rw [hstall, stallP_modServing_other hp]
    case circuits =>
      rw [hended.reads (fun u => circAt u r.circuit) fun _ _ _ _ => rfl, unloadImage_circuits, if_pos (List.mem_map_of_mem hr)]
    case scratch =>
      rw [hstall]
      exact stallP_modServing_keeps (g := Stall.scratch) fun _ _ => rfl
    case loft => rw [hended.reads State.loft fun _ _ _ _ => rfl, unloadImage_loft]
    case entries => rw [hended.reads (fun u => u.roll.entries) fun _ _ _ _ => rfl, unloadImage_entries]

end Sys2Proof.Machine
end

section
/-! PROOFS. The host-set fields: what their range reads, and how the loft, the gates, the fault records and the roll keep it. -/

namespace Sys2Proof.Machine

/-! ## What the range reads, and steps that may wait or fault

Each function of the model has one lemma here, which says that it leaves `ranged` as it was; the few that write a field in range, or
reset one, come last, with the command that runs them. -/

/-- What `FieldsInRange` reads of a state: the roll-driven marks, the core set point and the scrub tick. -/
def ranged (s : State) : BitVec 32 × Nat × Nat := (s.roll.mark, s.pwr.vset, s.loft.tick)

/-- What `g` gives satisfies `P`, where it neither waits nor faults. -/
def Got.Gives {α : Type} (P : α → Prop) (g : Got α) : Prop := ∀ a, g = .ok a → P a

section Rules
variable {α β : Type} {P : α → Prop} {s u : State}

@[simp] theorem ranged_mk (pending free pins dev host pwr bring sec syl roll rng loft stalls yardCtr yardBeats hubCtr fab gate vid ctx
    snap flt smb) :
    ranged ⟨pending, free, pins, dev, host, pwr, bring, sec, syl, roll, rng, loft, stalls, yardCtr, yardBeats, hubCtr, fab, gate, vid, ctx,
      snap, flt, smb⟩ = (roll.mark, pwr.vset, loft.tick) := rfl

@[simp] theorem ranged_fold : (s.roll.mark, s.pwr.vset, s.loft.tick) = ranged s := rfl

@[simp] theorem ranged_ite (c : Prop) [Decidable c] : ranged (if c then s else u) = if c then ranged s else ranged u := apply_ite ..

@[simp] theorem ranged_foldl {f : State → α → State} (h : ∀ u a, ranged (f u a) = ranged u) (l : List α) (s : State) :
    ranged (l.foldl f s) = ranged s := foldl_keeps h l s

@[simp] theorem gives_ok {a : α} : (Got.ok a).Gives P ↔ P a :=
  ⟨fun h => h a rfl, fun h b hb => by cases hb; exact h⟩

@[simp] theorem gives_wait : (Got.wait : Got α).Gives P := nofun
@[simp] theorem gives_fault (code : Nat) (detail : List Byte) : (Got.fault code detail : Got α).Gives P := nofun
@[simp] theorem gives_true (g : Got α) : g.Gives fun _ => True := fun _ _ => trivial

@[simp] theorem gives_bind (g : Got β) (f : β → Got α) : (g.bind f).Gives P ↔ g.Gives fun b => (f b).Gives P := by
  cases g <;> simp [Got.bind]

@[simp] theorem gives_ite (c : Prop) [Decidable c] (g h : Got α) :
    (if c then g else h).Gives P ↔ if c then g.Gives P else h.Gives P := by
  split_ifs <;> rfl

theorem gives_from {f : α → State} {g : Got α} (hu : ranged u = ranged s) (hg : g.Gives fun a => ranged (f a) = ranged u) :
    g.Gives fun a => ranged (f a) = ranged s := hu ▸ hg

end Rules

/-! ## Shared operations, the loft and the gates -/

section SharedOperations
variable {s : State} {p n a tag g addr q c i result op len w e code status desc inst access cls grp member loft : Nat} {iss : Issuer}
  {v : View} {value : W64} {ecc : EccReport} {bs detail : List Byte} {data : HostRead} {cells : List (Nat × Byte)}

@[simp] theorem ranged_takeFree : ranged (takeFree s).2 = ranged s := rfl
@[simp] theorem ranged_setStallP {x : Stall} : ranged (setStallP s p x) = ranged s := by simp [setStallP]
@[simp] theorem ranged_modStallP {f : Stall → Stall} : ranged (modStallP p f s) = ranged s := by simp [modStallP]
@[simp] theorem ranged_raise {source unit lstall : Nat} : ranged (raise code source unit lstall detail s) = ranged s := by simp [raise]
@[simp] theorem ranged_raiseHub : ranged (raiseHub code detail s) = ranged s := by simp [raiseHub]
@[simp] theorem ranged_raiseStall : ranged (raiseStall code p detail s) = ranged s := by simp [raiseStall]
@[simp] theorem ranged_scratchUncorrectable : ranged (scratchUncorrectable p s) = ranged s := by simp [scratchUncorrectable]
@[simp] theorem ranged_sramCount {r : Secded} : ranged (sramCount p r s) = ranged s := by simp [sramCount]
@[simp] theorem ranged_sramUsed {r : Secded} : ranged (sramUsed p r s) = ranged s := by simp [sramUsed]
@[simp] theorem ranged_viewViolation : ranged (viewViolation addr access s) = ranged s := by simp [viewViolation]

@[simp] theorem ranged_ackOp : ranged (ackOp n desc inst s) = ranged s := by
  unfold ackOp
  split <;> rfl

@[simp] theorem ranged_hostSend {ts : List HostTxn} : ranged (hostSend ts s) = ranged s := by simp [hostSend]

@[simp] theorem ranged_hostRead {use : ReadUse} : ranged (hostRead addr len use s) = ranged s := by
  unfold hostRead
  split <;> simp

@[simp] theorem ranged_modQueue {f : Queue → Queue} : ranged (modQueue q f s) = ranged s := by simp [modQueue]
@[simp] theorem ranged_post {via : Via} {r : CplRec} : ranged (post via r s) = ranged s := by simp [post]

@[simp] theorem ranged_doneInflight {via : Via} : ranged (doneInflight via s) = ranged s := by
  unfold doneInflight
  split <;> rfl

@[simp] theorem ranged_postCmd {body : List Byte} : ranged (postCmd iss status body s) = ranged s := by simp [postCmd]

@[simp] theorem ranged_regWrite {f : State → State} (hf : ranged (f s) = ranged s) : ranged (regWrite v addr f s) = ranged s := by
  unfold regWrite
  split_ifs <;> simp [hf]

@[simp] theorem ranged_tick : ranged (tick s) = ranged s := by simp [tick]
@[simp] theorem ranged_correctAt : ranged (correctAt c access a s) = ranged s := by simp [correctAt]
@[simp] theorem ranged_correctOne : ranged (correctOne access a s) = ranged s := by simp [correctOne]
@[simp] theorem ranged_poisonOne : ranged (poisonOne a s) = ranged s := by simp [poisonOne]
@[simp] theorem ranged_eccApply {reads : Nat → Bool} : ranged (eccApply ecc reads access s) = ranged s := by simp [eccApply]
@[simp] theorem ranged_loftPut {whole : Nat → Bool} : ranged (loftPut cells whole s) = ranged s := by simp [loftPut]
@[simp] theorem ranged_countPkts : ranged (countPkts cls c s) = ranged s := by simp [countPkts]
@[simp] theorem ranged_hubPkts {data answer : Nat} : ranged (hubPkts data answer a n s) = ranged s := by simp [hubPkts]
@[simp] theorem ranged_hubWrite : ranged (hubWrite a bs s) = ranged s := by simp [hubWrite]
@[simp] theorem ranged_hubRead : ranged (hubRead ecc access a n s) = ranged s := by simp [hubRead]
@[simp] theorem ranged_remapped {loc cloc : Nat} : ranged (remapped loc cloc s) = ranged s := by simp [remapped]
@[simp] theorem ranged_loftMapSet : ranged (loftMapSet value s) = ranged s := by simp [loftMapSet]
@[simp] theorem ranged_loftPartSet {v : W64} : ranged (loftPartSet i v s) = ranged s := by simp [loftPartSet]

@[simp] theorem ranged_scrubSpare {slice : Nat} : ranged (scrubSpare slice ecc s) = ranged s := by
  rw [scrubSpare, ranged_mk, ranged_fold, ranged_foldl fun _ _ => ranged_correctAt.trans ranged_takeFree]

@[simp] theorem ranged_plogAdd : ranged (plogAdd w s) = ranged s := by
  unfold plogAdd
  split <;> rfl

@[simp] theorem ranged_scrubTick {slice : Nat} : ranged (scrubTick slice ecc s) = ranged s := by simp [scrubTick]
@[simp] theorem ranged_refresh {slice : Nat} {hot : Bool} : ranged (refresh slice hot s) = ranged s := by simp [refresh]
@[simp] theorem ranged_loftDone : ranged (loftDone iss result s) = ranged s := by simp [loftDone]
@[simp] theorem ranged_loftBarred {b : Nat × Nat} : ranged (loftBarred iss b s) = ranged s := by simp [loftBarred]

@[simp] theorem ranged_zero {view : View} {entry : Nat} : ranged (zero view iss entry s) = ranged s := by
  unfold zero
  (repeat' split) <;> simp

@[simp] theorem ranged_loftZeroed {lo hi : Nat} : ranged (loftZeroed lo hi s) = ranged s := by simp [loftZeroed]

@[simp] theorem ranged_copyRun {tag host loft len : Nat} {hostOk : Bool} {f : Issuer → State → State}
    (hf : ∀ iss u, ranged (f iss u) = ranged u) : ranged (copyRun q tag host loft len hostOk f s) = ranged s := by
  unfold copyRun
  dsimp only
  split_ifs
  · simp
  · split <;> simp [hf]

@[simp] theorem ranged_copyIn : ranged (copyIn loft bs ecc iss s) = ranged s := by
  unfold copyIn
  dsimp only
  (repeat' split) <;> simp

@[simp] theorem ranged_copyTo {host : Nat} : ranged (copyTo q tag host loft len data ecc s) = ranged s := by simp [copyTo]

@[simp] theorem ranged_copyOut {host : Nat} : ranged (copyOut host loft len ecc iss s) = ranged s := by
  unfold copyOut
  dsimp only
  (repeat' split) <;> simp

@[simp] theorem ranged_copyFrom {host : Nat} {hostOk : Bool} : ranged (copyFrom q tag host loft len hostOk ecc s) = ranged s := by
  simp [copyFrom]

@[simp] theorem ranged_modEngine {f : Engine → Engine} : ranged (modEngine e f s) = ranged s := by simp [modEngine]
@[simp] theorem ranged_modGate {f : Gate → Gate} : ranged (modGate g f s) = ranged s := by simp [modGate]
@[simp] theorem ranged_popPkt {p : GatePkt} : ranged (popPkt g p s) = ranged s := by simp [popPkt]

@[simp] theorem ranged_gatePumpFuel {f : Nat} : ranged (gatePumpFuel f g s) = ranged s := by
  rw [gatePumpFuel_eq]
  rfl

@[simp] theorem ranged_gatePump : ranged (gatePump g s) = ranged s := by simp [gatePump]
@[simp] theorem ranged_countTx : ranged (countTx g s) = ranged s := by simp [countTx]
@[simp] theorem ranged_countRx : ranged (countRx g s) = ranged s := by simp [countRx]

@[simp] theorem ranged_gateQueue {p : GatePkt} {ack : Option (Nat × Nat × Nat)} {front : Bool} :
    ranged (gateQueue p ack front s) = ranged s := by
  simp [gateQueue]

@[simp] theorem ranged_sendCredit {stall window : Nat} : ranged (sendCredit grp member stall window n s) = ranged s := by
  simp [sendCredit]

@[simp] theorem ranged_abortGroup : ranged (abortGroup s grp) = ranged s := by simp [abortGroup]
@[simp] theorem ranged_abortGroups : ranged (abortGroups s) = ranged s := by simp [abortGroups]
@[simp] theorem ranged_laneLocks : ranged (laneLocks e w s) = ranged s := by simp [laneLocks]
@[simp] theorem ranged_gateDown {wl : Nat} : ranged (gateDown g wl s) = ranged s := by simp [gateDown]
@[simp] theorem ranged_laneErrClear : ranged (laneErrClear e s) = ranged s := by simp [laneErrClear]
@[simp] theorem ranged_retrained {e : Engine} : ranged (retrained g e s) = ranged s := by simp [retrained]

@[simp] theorem ranged_gateLaneLost : ranged (gateLaneLost g w s) = ranged s := by
  unfold gateLaneLost
  (repeat' split) <;> simp

@[simp] theorem ranged_farRetrains {proposal : List Nat} : ranged (farRetrains g proposal s) = ranged s := by simp [farRetrains]
@[simp] theorem ranged_berWarn {corrected : Nat} : ranged (berWarn g w corrected s) = ranged s := by simp [berWarn]
@[simp] theorem ranged_startTraining : ranged (startTraining g s) = ranged s := by simp [startTraining]
@[simp] theorem ranged_retrainGate : ranged (retrainGate g s) = ranged s := by simp [retrainGate]
@[simp] theorem ranged_gateCtlWrite : ranged (gateCtlWrite g value s) = ranged s := by simp [gateCtlWrite]
@[simp] theorem ranged_gateRetrainWrite : ranged (gateRetrainWrite g s) = ranged s := by simp [gateRetrainWrite]

@[simp] theorem ranged_trainReceive {node pgate : Nat} {proposal : List Nat} {farLocks txfail : Nat} :
    ranged (trainReceive g node pgate proposal farLocks txfail s) = ranged s := by
  simp [trainReceive]

@[simp] theorem ranged_trainDone : ranged (trainDone g s) = ranged s := by
  unfold trainDone
  (repeat' split) <;> simp

@[simp] theorem ranged_ackFrames {ack : Nat} : ranged (ackFrames g ack s) = ranged s := by
  unfold ackFrames
  dsimp only
  split_ifs
  · refine (ranged_foldl (fun u f => ?_) _ _).trans ranged_modGate
    split <;> simp
  · rfl

@[simp] theorem ranged_readControl {ctrl : BitVec 48} : ranged (readControl g ctrl s) = ranged s := by simp [readControl]
@[simp] theorem ranged_countUncorr {bad : List Nat} : ranged (countUncorr g bad s) = ranged s := by simp [countUncorr]

@[simp] theorem ranged_frameReceive {bad : List Nat} {seq : Nat} {ctrl : BitVec 48} {payload : List Byte} :
    ranged (frameReceive g bad seq ctrl payload s) = ranged s := by
  simp [frameReceive]

@[simp] theorem ranged_repeatOldest : ranged (repeatOldest g s) = ranged s := by
  unfold repeatOldest
  dsimp only
  (repeat' split) <;> simp

@[simp] theorem ranged_relay {out : Nat} {straight : Bool} {p p' : GatePkt} : ranged (relay g out straight p p' s) = ranged s := by
  simp [relay]

@[simp] theorem ranged_withFront {f : GatePkt → State → State} (hf : ∀ r, ranged (f r s) = ranged s) :
    ranged (withFront g op f s) = ranged s := by
  unfold withFront
  (repeat' split) <;> simp [hf]

@[simp] theorem ranged_takeCredit {p : GatePkt} : ranged (takeCredit g p s) = ranged s := by simp [takeCredit]
@[simp] theorem ranged_takeAbort {p : GatePkt} : ranged (takeAbort g p s) = ranged s := by simp [takeAbort]
@[simp] theorem ranged_nodeWrite : ranged (nodeWrite value s) = ranged s := by simp [nodeWrite]
@[simp] theorem ranged_groupWrite : ranged (groupWrite g value s) = ranged s := by simp [groupWrite]
@[simp] theorem ranged_routeWrite {r : Nat} {hi : Bool} : ranged (routeWrite r hi value s) = ranged s := by simp [routeWrite]

end SharedOperations

/-! ## Fault records, the RNG and the roll -/

section FaultsAndRoll
variable {s : State} {n addr c i result t e status slot : Nat} {iss : Issuer} {value : W64} {bs : List Byte} {record : HostRead}

@[simp] theorem ranged_stopStalls : ranged (stopStalls s) = ranged s := by
  refine ranged_foldl (fun u n => ?_) _ s
  split <;> rfl

@[simp] theorem ranged_makeReady : ranged (makeReady i s) = ranged s := by simp [makeReady]
@[simp] theorem ranged_stopCircuits : ranged (stopCircuits s) = ranged s := by simp [stopCircuits]
@[simp] theorem ranged_ctxDone : ranged (ctxDone iss result s) = ranged s := by simp [ctxDone]

@[simp] theorem ranged_ctxOnFault : ranged (ctxOnFault s) = ranged s := by
  unfold ctxOnFault
  split <;> simp

@[simp] theorem ranged_snapDone : ranged (snapDone iss result s) = ranged s := by simp [snapDone]

@[simp] theorem ranged_snapAbandon : ranged (snapAbandon s) = ranged s := by
  unfold snapAbandon
  dsimp only
  (repeat' split) <;> simp

@[simp] theorem ranged_abortDrained : ranged (abortDrained s) = ranged s := by simp [abortDrained]

@[simp] theorem ranged_snapOnJobFault : ranged (snapOnJobFault s) = ranged s := by
  unfold snapOnJobFault
  split <;> simp

@[simp] theorem ranged_jobStop : ranged (jobStop s) = ranged s := by simp [jobStop]

@[simp] theorem ranged_bringOnStop : ranged (bringOnStop s) = ranged s := by
  unfold bringOnStop
  split <;> rfl

@[simp] theorem ranged_snapOnStop : ranged (snapOnStop s) = ranged s := by
  unfold snapOnStop
  split <;> simp

@[simp] theorem ranged_deviceStop : ranged (deviceStop s) = ranged s := by simp [deviceStop]
@[simp] theorem ranged_logRecord {r : FRec} : ranged (logRecord r s) = ranged s := by simp [logRecord]
@[simp] theorem ranged_faultAlert {r : FRec} {written : Bool} : ranged (faultAlert r written s) = ranged s := by simp [faultAlert]
@[simp] theorem ranged_classEffect {r : FRec} : ranged (classEffect r s) = ranged s := by simp [classEffect]
@[simp] theorem ranged_commitRecord {r : FRec} : ranged (commitRecord r s) = ranged s := by simp [commitRecord]

theorem ranged_drillGrant {r : FRec} {u : State} (hgrant : drillGrant i r s = some u) : ranged u = ranged s := by
  unfold drillGrant at hgrant
  dsimp only at hgrant
  split at hgrant
  · cases hgrant
  · cases hgrant
    rfl

@[simp] theorem ranged_commitAt : ranged (commitAt i s) = ranged s := by
  unfold commitAt
  split
  · rfl
  · split_ifs
    · split
      · next u hgrant => simp [ranged_drillGrant hgrant]
      · rfl
    · simp

@[simp] theorem ranged_fltStatWrite {device : Bool} : ranged (fltStatWrite device value s) = ranged s := by simp [fltStatWrite]
@[simp] theorem ranged_seedWrite : ranged (seedWrite value s) = ranged s := by simp [seedWrite]
@[simp] theorem ranged_baseWrite : ranged (baseWrite c value s) = ranged s := by simp [baseWrite]
@[simp] theorem ranged_modEntry {f : RollEntry → RollEntry} : ranged (modEntry i f s) = ranged s := by simp [modEntry]
@[simp] theorem ranged_modCirc {f : Circ → Circ} : ranged (modCirc c f s) = ranged s := by simp [modCirc]
@[simp] theorem ranged_rollOver {body : List Byte} : ranged (rollOver iss result status body s) = ranged s := by simp [rollOver]
@[simp] theorem ranged_rollDone : ranged (rollDone iss result s) = ranged s := by simp [rollDone]

@[simp] theorem ranged_rollCmd {f : State → State} (hf : ranged (f s) = ranged s) : ranged (rollCmd iss f s) = ranged s := by
  unfold rollCmd
  split <;> simp [hf]

@[simp] theorem ranged_rollJobCmd {f : State → State} (hf : ranged (f s) = ranged s) : ranged (rollJobCmd iss f s) = ranged s := by
  unfold rollJobCmd
  split <;> simp [hf]

@[simp] theorem ranged_rollRead : ranged (rollRead iss i s) = ranged s := by
  refine ranged_rollCmd ?_
  dsimp only
  split <;> simp

@[simp] theorem ranged_rollWrite {e : RollEntry} : ranged (rollWrite iss i e s) = ranged s := by
  refine ranged_rollJobCmd ?_
  (repeat' split) <;> simp

@[simp] theorem ranged_rollPause : ranged (rollPause iss i s) = ranged s := by
  refine ranged_rollJobCmd ?_
  split <;> simp

@[simp] theorem ranged_rollResume : ranged (rollResume iss i s) = ranged s := by
  refine ranged_rollJobCmd ?_
  split <;> simp

@[simp] theorem ranged_rollRelease : ranged (rollRelease iss i s) = ranged s := by
  refine ranged_rollJobCmd ?_
  split <;> simp

@[simp] theorem ranged_rollRun : ranged (rollRun iss c s) = ranged s := by
  refine ranged_rollJobCmd ?_
  (repeat' split) <;> simp

@[simp] theorem ranged_discardPending : ranged (discardPending c s) = ranged s := by simp [discardPending]

@[simp] theorem ranged_rollDrain : ranged (rollDrain iss c s) = ranged s := by
  refine ranged_rollJobCmd ?_
  split <;> simp

@[simp] theorem ranged_rollWorklist : ranged (rollWorklist iss addr record s) = ranged s := by
  refine ranged_rollJobCmd ?_
  split
  · simp
  · dsimp only
    split <;> simp

@[simp] theorem ranged_boundary : ranged (boundary s) = ranged s := by
  unfold boundary
  dsimp only
  (repeat' split) <;> simp

@[simp] theorem ranged_stepCompleted : ranged (stepCompleted c t s) = ranged s := by simp [stepCompleted]

@[simp] theorem ranged_ringWrite {r : CircRec} {num : Nat} : ranged (ringWrite r num bs n s) = ranged s := by
  unfold ringWrite
  split <;> rfl

@[simp] theorem ranged_issue {r : CircRec} {es : List Nat} {work : Option (Nat × Via)} : ranged (issue slot r es work s) = ranged s := by
  simp [issue]

@[simp] theorem ranged_roundIssue : ranged (roundIssue c s) = ranged s := by
  unfold roundIssue
  dsimp only
  (repeat' split) <;> simp

@[simp] theorem ranged_sampleDone : ranged (sampleDone c i s) = ranged s := by simp [sampleDone]

@[simp] theorem ranged_roundComplete : ranged (roundComplete c s) = ranged s := by
  unfold roundComplete
  split
  · dsimp only
    split_ifs
    · rfl
    · rw [ranged_stepCompleted]
      split <;> simp
  · rfl

@[simp] theorem ranged_programStart : ranged (programStart n s) = ranged s := by
  unfold programStart
  (repeat' split) <;> simp

end FaultsAndRoll

end Sys2Proof.Machine
end

section
/-! PROOFS. The host-set fields and the stalls: every operation of a stall, its array, the fabric and the power of its yard keep them. -/

namespace Sys2Proof.Machine

/-! ## Operations, tiles and the array -/

section Stalls
variable {s : State} {p k n g c i op t w e code desc inst cls no lines poss src dst grp member stage : Nat} {v : View} {it : List Nat}
  {bs detail : List Byte} {sram : Secded} {cells : List (Nat × Byte)} {uncorr : Bool}

@[simp] theorem ranged_stallFault : ranged (stallFault p code detail s) = ranged s := by simp [stallFault]

@[simp] theorem ranged_startOp {f : Nat → Nat → State → State} (hf : ∀ p k u, ranged (f p k u) = ranged u) :
    ranged (startOp n op f s) = ranged s := by
  unfold startOp
  split <;> simp [hf]

@[simp] theorem ranged_opEvents {o : OpCtx} {round : Nat} : ranged (opEvents p o round s) = ranged s := by simp [opEvents]
@[simp] theorem ranged_programEnds {round : Nat} : ranged (programEnds n c round s) = ranged s := by simp [programEnds]

@[simp] theorem ranged_operationComplete : ranged (operationComplete n k s) = ranged s := by
  unfold operationComplete
  dsimp only
  (repeat' split) <;> simp

@[simp] theorem ranged_putOp {f : OpCtx → OpCtx} : ranged (putOp p k f s) = ranged s := by simp [putOp]
@[simp] theorem ranged_inject {body : PktBody} : ranged (inject cls src dst body s) = ranged s := by simp [inject]
@[simp] theorem ranged_injectOwn {body : PktBody} : ranged (injectOwn cls src dst body s) = ranged s := by simp [injectOwn]

@[simp] theorem ranged_injectLoft {own : Bool} {body : PktBody} : ranged (injectLoft own cls src dst body s) = ranged s := by
  simp [injectLoft]

@[simp] theorem ranged_injectStall {body : PktBody} : ranged (injectStall cls src dst body s) = ranged s := by
  unfold injectStall
  split <;> rfl

@[simp] theorem ranged_sendData {win key dest tile : Nat} {ack : Option (Nat × Nat × Nat)} :
    ranged (sendData src n win key dest tile bs ack s) = ranged s := by
  simp [sendData]

@[simp] theorem ranged_sendWrite {fill : Option FillRef} : ranged (sendWrite n p desc inst cells fill s) = ranged s := by simp [sendWrite]

@[simp] theorem ranged_sendRead {opnd entry : Nat} {cells : List (Nat × Nat)} :
    ranged (sendRead n p desc inst opnd entry it cells s) = ranged s := by
  simp [sendRead]

@[simp] theorem ranged_returnCredit {e : WinEntry} : ranged (returnCredit n w e s) = ranged s := by
  unfold returnCredit
  split <;> simp

@[simp] theorem ranged_winFree : ranged (winFree n p k w t s) = ranged s := by
  unfold winFree
  dsimp only
  (repeat' split) <;> simp

@[simp] theorem ranged_beginLand {key : List Nat} {entry left : Nat} : ranged (beginLand p k no key entry left s) = ranged s := by
  simp [beginLand]

theorem ranged_fetchOne {u : State} (hfetch : fetchOne n p k no s = some u) : ranged u = ranged s := by
  unfold fetchOne at hfetch
  dsimp only at hfetch
  (repeat' split at hfetch) <;> cases hfetch <;> simp

@[simp] theorem ranged_fetchFuel {f : Nat} : ranged (fetchFuel f n p k no s) = ranged s := by
  induction f generalizing s with
  | zero => rfl
  | succ f ih =>
    unfold fetchFuel
    split
    · next u hfetch => rw [ih, ranged_fetchOne hfetch]
    · rfl

@[simp] theorem ranged_fetchPump : ranged (fetchPump n p k s) = ranged s := by simp [fetchPump]
@[simp] theorem ranged_fetchAll : ranged (fetchAll n p s) = ranged s := by simp [fetchAll]

@[simp] theorem ranged_takePump : ranged (takePump n p k s) = ranged s := by
  unfold takePump
  dsimp only
  (repeat' split) <;> simp

@[simp] theorem ranged_beginOp : ranged (beginOp n p k s) = ranged s := by simp [beginOp]

@[simp] theorem ranged_ledgerFree : ranged (ledgerFree n p i s) = ranged s := by
  unfold ledgerFree
  dsimp only
  (repeat' split) <;> simp

@[simp] theorem ranged_freeNormRows {rows : List Nat} : ranged (freeNormRows n p k rows s) = ranged s := by
  unfold freeNormRows
  split <;> simp

@[simp] theorem ranged_takeEnds : ranged (takeEnds n p k s) = ranged s := by
  unfold takeEnds
  dsimp only
  (repeat' split) <;> simp

@[simp] theorem ranged_taken {v : Nat} : ranged (taken n p k v s) = ranged s := by
  unfold taken
  dsimp only
  (repeat' split) <;> simp

@[simp] theorem ranged_releaseOpnd {next : Option (List Nat)} : ranged (releaseOpnd n p k no it next s) = ranged s := by
  simp [releaseOpnd]

@[simp] theorem ranged_advanceTo {opnds : List Nat} {next : Option (List Nat)} : ranged (advanceTo n p k opnds next s) = ranged s := by
  simp [advanceTo]

@[simp] theorem ranged_writeScratch {fill : Nat} {e : Env} : (writeScratch p fill e it cells s).Gives fun t => ranged t = ranged s := by
  unfold writeScratch
  dsimp only
  (repeat' split) <;> simp

@[simp] theorem ranged_addOut : ranged (addOut p k c s) = ranged s := by simp [addOut]

@[simp] theorem ranged_writeLoft {fill : Nat} {e : Env} : (writeLoft p k fill e it cells s).Gives fun t => ranged t = ranged s := by
  unfold writeLoft
  (repeat' split) <;> simp

@[simp] theorem ranged_sendFabric {e : Env} {r : RouteRec} : (sendFabric p k t e r bs s).Gives fun t => ranged t = ranged s := by
  unfold sendFabric
  dsimp only
  (repeat' split) <;> simp

@[simp] theorem ranged_gateTile {entry : Nat} {ack : Option (Nat × Nat × Nat)} :
    ranged (gateTile grp member n w entry t bs ack s) = ranged s := by
  simp [gateTile]

@[simp] theorem ranged_sendMember {cap : Nat} {e : Env} : (sendMember p k t grp member w cap e bs s).Gives fun t => ranged t = ranged s
    := by
  unfold sendMember
  dsimp only
  (repeat' split) <;> simp

@[simp] theorem ranged_sendRoute {e : Env} : (sendRoute p k t e bs s).Gives fun t => ranged t = ranged s := by
  unfold sendRoute
  (repeat' split) <;> simp

@[simp] theorem ranged_writeTile {e : Env} {w : Walk} : (writeTile p k e w it t lines poss bs s).Gives fun t => ranged t = ranged s := by
  unfold writeTile
  split <;> simp

@[simp] theorem ranged_storeVals {e : Env} {w : Walk} {nans : Nat} {vs : List (List Val)} : (storeVals p k e w it t lines poss stage
    nans vs s).Gives fun t => ranged t = ranged s := by
  simp [storeVals]

@[simp] theorem ranged_ledgerEnd {r : StageRec} : ranged (ledgerEnd n p k i r s) = ranged s := by
  unfold ledgerEnd
  dsimp only
  (repeat' split) <;> simp

@[simp] theorem ranged_ledgerFolded {r : StageRec} : ranged (ledgerFolded n p k i r s) = ranged s := by simp [ledgerFolded]

@[simp] theorem ranged_ledgerRow {r : StageRec} {row : Nat} {vals : List W32} : (ledgerRow n p k r it row poss vals s).Gives fun t =>
    ranged t = ranged s := by
  unfold ledgerRow
  dsimp only
  (repeat' split) <;> simp

@[simp] theorem ranged_ledgerGo {items : List LedgerItem} :
    (ledgerGo n p k it poss items c s).Gives fun t => ranged t.1 = ranged s := by
  induction items generalizing c s with
  | nil => simp [ledgerGo]
  | cons x items ih =>
    unfold ledgerGo
    split
    · simp
    · simp
    · next u hrow =>
      have hu : ranged u = ranged s := ranged_ledgerRow u hrow
      rw [← hu]
      exact ih

@[simp] theorem ranged_ledgerSend : ranged (ledgerSend n p i s) = ranged s := by simp [ledgerSend]
@[simp] theorem ranged_ledgerPump : ranged (ledgerPump n p s) = ranged s := by simp [ledgerPump]

@[simp] theorem ranged_proStore {entry : Option Nat} {r : ProOut} : ranged (proStore n p k it entry r s) = ranged s := by
  unfold proStore
  (repeat' split) <;> simp

@[simp] theorem ranged_proOne : (proOne n p k s).Gives fun t => ranged t = ranged s := by
  unfold proOne
  dsimp only
  (repeat' split) <;> simp

@[simp] theorem ranged_settle {g : Got State} (hg : g.Gives fun t => ranged t = ranged s) : ranged (settle p s g) = ranged s := by
  cases g with
  | wait => rfl
  | fault code detail => exact ranged_stallFault
  | ok t => exact hg t rfl

@[simp] theorem gives_firstOp {P : State → Prop} {f : Nat → Got State} (hf : ∀ k, (f k).Gives P) : (firstOp s p f).Gives P := by
  refine List.foldlRecOn (motive := Got.Gives P) _ _ gives_wait fun g hg k _ => ?_
  split
  · exact hf k
  · exact hg

@[simp] theorem ranged_settleSram {g : Got State} (hg : g.Gives fun t => ranged t = ranged s) :
    ranged (settleSram p sram s g) = ranged s := by
  unfold settleSram
  split <;> simp [hg]

@[simp] theorem ranged_onStall {f : Nat → Got State} (hf : ∀ p, (f p).Gives fun t => ranged t = ranged s) :
    ranged (onStall n sram s f) = ranged s := by
  unfold onStall
  split <;> simp [hf]

@[simp] theorem ranged_pairSend {e : Env} {r : StageRec} : (pairSend p k t e r bs s).Gives fun t => ranged t = ranged s := by
  unfold pairSend
  dsimp only
  (repeat' split) <;> simp

@[simp] theorem ranged_epiOut {g : StageEnv} {w : Walk} {r : StageRec} {x : LaneTile} : (epiOut p k t g w r stage x s).Gives fun t =>
    ranged t = ranged s := by
  simp [epiOut]

@[simp] theorem ranged_afterLedger {g : StageEnv} {items : List LedgerItem} {f : State → Got State}
    (hf : ∀ u, (f u).Gives fun t => ranged t = ranged u) :
    (afterLedger n p k g items s f).Gives fun t => ranged t.1 = ranged s := by
  rw [afterLedger, gives_bind]
  intro r hgo
  have hr : ranged r.1 = ranged s := ranged_ledgerGo r hgo
  dsimp only
  split_ifs
  · split
    · simp
    · simp
    · next u hu => simp [(hf _ u hu).trans ranged_putOp, hr]
  · split
    · simp [hr]
    · simp
    · next u hu => simp [(hf _ u hu).trans ranged_putOp, hr]
  · simp
  · simp [hr]

@[simp] theorem ranged_freePair {st : List StageRec} : ranged (freePair n p k t st s) = ranged s := by simp [freePair]

@[simp] theorem ranged_epiTile {w : Walk} {st : List StageRec} {base : Nat} {vs : List (List Val)} {nan : List Nat} : (epiTile n p k w
    it t lines poss st base vs nan s).Gives fun t => ranged t.1 = ranged s := by
  unfold epiTile
  split <;> simp

@[simp] theorem ranged_epilogue {vs : List (List Val)} {nan : List Nat} : (epilogue n p k it vs nan s).Gives fun t => ranged t.1 =
    ranged s := by
  simp [epilogue]

@[simp] theorem ranged_issueOne : (issueOne n p k uncorr s).Gives fun t => ranged t = ranged s := by simp [issueOne]
@[simp] theorem ranged_matrixIssue : ranged (matrixIssue n sram s) = ranged s := by simp [matrixIssue]
@[simp] theorem ranged_poisonSlot : ranged (poisonSlot p i s) = ranged s := by simp [poisonSlot]

@[simp] theorem ranged_readoutSlot : (readoutSlot p i uncorr s).Gives fun t => ranged t = ranged s := by
  unfold readoutSlot
  dsimp only
  (repeat' split) <;> simp

@[simp] theorem ranged_sendSlot : (sendSlot n p i uncorr s).Gives fun t => ranged t = ranged s := by
  unfold sendSlot
  dsimp only
  (repeat' split) <;> simp

@[simp] theorem ranged_chainPut {e : Env} {r : StageRec} {pv oCells : List (Nat × Byte)} {c : ChainOut} :
    ranged (chainPut n p k e it r pv oCells c s) = ranged s := by
  simp [chainPut]

@[simp] theorem ranged_chainStep {rt : ReadTile} : (chainStep n p k rt uncorr s).Gives fun t => ranged t.1 = ranged s := by
  unfold chainStep
  dsimp only
  (repeat' split) <;> simp

@[simp] theorem ranged_tileDone {rt : ReadTile} : ranged (tileDone p k rt s) = ranged s := by simp [tileDone]
@[simp] theorem ranged_chainFinal {rt : ReadTile} : (chainFinal n p k rt s).Gives fun t => ranged t.1 = ranged s := by simp [chainFinal]

@[simp] theorem ranged_epilogueOne : (epilogueOne n p k uncorr s).Gives fun t => ranged t = ranged s := by
  unfold epilogueOne
  dsimp only
  (repeat' split) <;> simp

@[simp] theorem ranged_epilogueStep : (epilogueStep n p uncorr s).Gives fun t => ranged t = ranged s := by
  refine List.foldlRecOn (motive := Got.Gives _) _ _ gives_wait fun g hg k _ => ?_
  split
  · exact ranged_epilogueOne
  · exact hg

@[simp] theorem ranged_prologueStep : (prologueStep n p s).Gives fun t => ranged t = ranged s := by simp [prologueStep]
@[simp] theorem ranged_epilogueRun : ranged (epilogueRun n sram s) = ranged s := by simp [epilogueRun]
@[simp] theorem ranged_prologueRun : ranged (prologueRun n sram s) = ranged s := by simp [prologueRun]
@[simp] theorem ranged_poolOne : (poolOne n p k s).Gives fun t => ranged t = ranged s := by simp [poolOne]
@[simp] theorem ranged_matmulStart : ranged (matmulStart n s) = ranged s := by simp [matmulStart]

@[simp] theorem ranged_convRun : ranged (convRun n s) = ranged s := by
  unfold convRun
  split
  · rfl
  · split
    · simp
    · exact ranged_settle (by simp)

@[simp] theorem ranged_chainStart : ranged (chainStart n s) = ranged s := by simp [chainStart]

end Stalls

/-! ## Power and bring-up -/

section Power
variable {s : State} {p n a tag addr q c result op code y : Nat} {v : View} {detail : List Byte}

@[simp] theorem ranged_bootStart : ranged (bootStart s) = ranged s := by simp [bootStart]
@[simp] theorem ranged_hubBootEnds {ok : Bool} : ranged (hubBootEnds ok s) = ranged s := by simp [hubBootEnds]
@[simp] theorem ranged_supplyFault {which mv : Nat} : ranged (supplyFault which mv s) = ranged s := by simp [supplyFault]
@[simp] theorem ranged_thermalTrip {die : Nat} {temp : Int} : ranged (thermalTrip die temp s) = ranged s := by simp [thermalTrip]
@[simp] theorem ranged_coreFall : ranged (coreFall s) = ranged s := by simp [coreFall]

@[simp] theorem ranged_sensorsRead {temps : List Int} {vcore : List Nat} : ranged (sensorsRead temps vcore s) = ranged s := by
  unfold sensorsRead
  dsimp only
  (repeat' split) <;> simp

@[simp] theorem ranged_averageEnds {power : Nat} {temps : List Int} {vcore : List Nat} :
    ranged (averageEnds power temps vcore s) = ranged s := by
  simp [averageEnds]

@[simp] theorem ranged_clearYards {mask : BitVec 40} : ranged (clearYards mask s) = ranged s := by simp [clearYards]

@[simp] theorem ranged_losesAtStart {target : PState} : ranged (losesAtStart target s) = ranged s := by
  unfold losesAtStart
  split <;> rfl

@[simp] theorem ranged_powerRefused : ranged (powerRefused op tag s) = ranged s := by simp [powerRefused]
@[simp] theorem ranged_dropMoves : ranged (dropMoves s) = ranged s := by simp [dropMoves]
@[simp] theorem ranged_startState {target : PState} : ranged (startState target s) = ranged s := by simp [startState]

@[simp] theorem ranged_stateCommand {target : PState} : ranged (stateCommand target tag s) = ranged s := by
  unfold stateCommand
  (repeat' split) <;> simp

@[simp] theorem ranged_startUngates : ranged (startUngates s) = ranged s := by simp [startUngates]
@[simp] theorem ranged_startYards {set : BitVec 40} : ranged (startYards set tag s) = ranged s := by simp [startYards]
@[simp] theorem ranged_yardsCommand : ranged (yardsCommand tag s) = ranged s := by simp [yardsCommand]

@[simp] theorem ranged_startPending : ranged (startPending s) = ranged s := by
  unfold startPending
  split <;> simp

@[simp] theorem ranged_startQueuedYards : ranged (startQueuedYards s) = ranged s := by
  unfold startQueuedYards
  split <;> simp

@[simp] theorem ranged_startPendingYard : ranged (startPendingYard y s) = ranged s := by simp [startPendingYard]
@[simp] theorem ranged_afterYard : ranged (afterYard s) = ranged s := by simp [afterYard]
@[simp] theorem ranged_gateDone : ranged (gateDone y s) = ranged s := by simp [gateDone]
@[simp] theorem ranged_ungateDone : ranged (ungateDone y s) = ranged s := by simp [ungateDone]
@[simp] theorem ranged_bringDone : ranged (bringDone tag result s) = ranged s := by simp [bringDone]

@[simp] theorem ranged_bringCmd {accept : State → Bool} {f : State → State} (hf : ranged (f s) = ranged s) :
    ranged (bringCmd tag accept f s) = ranged s := by
  unfold bringCmd
  split_ifs <;> simp [hf]

@[simp] theorem ranged_gatesOff : ranged (gatesOff s) = ranged s := by simp [gatesOff]
@[simp] theorem ranged_refuse : ranged (refuse code tag detail s) = ranged s := by simp [refuse]
@[simp] theorem ranged_disagree {sel v : Nat} : ranged (disagree sel v s) = ranged s := by simp [disagree]
@[simp] theorem ranged_fuseApply {c : List Byte} : ranged (fuseApply c s) = ranged s := by simp [fuseApply]
@[simp] theorem ranged_fuseRead {a b : List Byte} : ranged (fuseRead tag a b s) = ranged s := by simp [fuseRead]
@[simp] theorem ranged_selftest : ranged (selftest tag s) = ranged s := by simp [selftest]

@[simp] theorem ranged_waveEnds : ranged (waveEnds s) = ranged s := by
  unfold waveEnds
  split <;> simp

@[simp] theorem ranged_stallReport {r : TestResult} : ranged (stallReport p r s) = ranged s := by
  unfold stallReport
  split <;> simp

@[simp] theorem ranged_bringAbort : ranged (bringAbort tag s) = ranged s := by
  unfold bringAbort
  split <;> simp

@[simp] theorem ranged_reconcile : ranged (reconcile tag s) = ranged s := by
  refine ranged_bringCmd ?_
  dsimp only
  split
  · rw [ranged_refuse, ranged_mk, ranged_fold, ranged_foldl fun _ _ => ranged_disagree]
  · rw [ranged_bringDone, ranged_mk, ranged_fold, ranged_foldl fun _ _ => ranged_disagree]

@[simp] theorem ranged_fwBcast : ranged (fwBcast tag s) = ranged s := ranged_bringCmd rfl

@[simp] theorem ranged_digestFails {lo hi : Nat} {fs : List (Nat × Nat)} : ranged (digestFails lo hi fs s p) = ranged s := by
  simp [digestFails]

@[simp] theorem ranged_moveStall {f : Nat} {fs : List (Nat × Nat)} : ranged (moveStall f fs n s).1 = ranged s := by
  induction f generalizing s with
  | zero => rfl
  | succ f ih =>
    unfold moveStall
    dsimp only
    split
    · rfl
    · split_ifs <;> simp [ih]

@[simp] theorem ranged_moveAll {fs : List (Nat × Nat)} {ns : List Nat} : ranged (moveAll fs ns s).1 = ranged s := by
  induction ns generalizing s with
  | nil => rfl
  | cons n ns ih =>
    have hmove : ranged (moveStall 320 fs n s).1 = ranged s := ranged_moveStall
    unfold moveAll
    split
    · next u hu =>
      rw [hu] at hmove
      exact ih.trans hmove
    · next u hu =>
      rw [hu] at hmove
      exact hmove

@[simp] theorem ranged_bcastEnds {fs : List (Nat × Nat)} : ranged (bcastEnds fs s) = ranged s := by
  unfold bcastEnds
  split
  · dsimp only
    split
    · rw [ranged_bringDone]
      split <;> rw [ranged_mk, ranged_fold, ranged_foldl fun _ _ => ranged_digestFails, ranged_foldl fun _ _ => ranged_digestFails,
        ranged_mk, ranged_fold]
    · split
      all_goals
        next heq =>
          have hmove := ranged_moveAll.symm.trans (congrArg (fun r => ranged r.1) heq)
          rw [ranged_mk, ranged_fold, ranged_foldl fun _ _ => ranged_digestFails, ranged_foldl fun _ _ => ranged_digestFails,
            ranged_mk, ranged_fold] at hmove
          simp [hmove]
  · rfl

@[simp] theorem ranged_installMap : ranged (installMap s) = ranged s := by
  rw [installMap, ranged_mk, ranged_fold]

@[simp] theorem ranged_toMain : ranged (toMain tag s) = ranged s := by simp [toMain]
@[simp] theorem ranged_loftTest : ranged (loftTest tag s) = ranged s := ranged_bringCmd rfl

@[simp] theorem ranged_loftTestEnds {pages spares : List (Nat × Nat × Nat)} : ranged (loftTestEnds pages spares s) = ranged s := by
  unfold loftTestEnds
  dsimp only
  (repeat' split) <;> simp

@[simp] theorem ranged_linkQual {arg : Nat} : ranged (linkQual tag arg s) = ranged s := by simp [linkQual]
@[simp] theorem ranged_recordEngine {q : EngineQual} : ranged (recordEngine q s) = ranged s := by simp [recordEngine]
@[simp] theorem ranged_qualFail {gate wl : Nat} : ranged (qualFail gate wl s) = ranged s := by simp [qualFail]
@[simp] theorem ranged_hostLanes : ranged (hostLanes s) = ranged s := by simp [hostLanes]

@[simp] theorem ranged_qualEnds {r : LinkResults} : ranged (qualEnds r s) = ranged s := by
  unfold qualEnds
  split <;> simp

@[simp] theorem ranged_bringReady : ranged (bringReady tag s) = ranged s := by simp [bringReady]
@[simp] theorem ranged_drill : ranged (drill tag s) = ranged s := by simp [drill]
@[simp] theorem ranged_unitReset : ranged (unitReset tag p s) = ranged s := by simp [unitReset]
@[simp] theorem ranged_drillError {source unit : Nat} : ranged (drillError source unit code addr s) = ranged s := by simp [drillError]

end Power

/-! ## Vector operations, exchanges and the fabric -/

section Vectors
variable {s : State} {p k n a g off q op t w e slot desc inst y side src member stage : Nat} {ecc : EccReport} {it : List Nat}
  {bs : List Byte} {sram : Secded} {cells : List (Nat × Byte)}

@[simp] theorem ranged_vectorRun {init : Nat → Nat → State → State} {f : Nat → Nat → Env → State → Got State}
    (hinit : ∀ p k u, ranged (init p k u) = ranged u) (hf : ∀ p k e u, (f p k e u).Gives fun t => ranged t = ranged u) :
    ranged (vectorRun n op sram init f s) = ranged s := by
  unfold vectorRun
  split
  · rfl
  · dsimp only
    split
    · exact ranged_startOp hinit
    · exact ranged_settleSram (by simp [hf])

@[simp] theorem ranged_storeLanes {e : Env} {opnds : List Nat} {r : List (List W32) × List Nat} : (storeLanes n p k stage e opnds r
    s).Gives fun t => ranged t = ranged s := by
  simp [storeLanes]

@[simp] theorem ranged_elemwiseTile {e : Env} : (elemwiseTile n p k e s).Gives fun t => ranged t = ranged s := by simp [elemwiseTile]
@[simp] theorem ranged_copyTile {e : Env} : (copyTile n p k e s).Gives fun t => ranged t = ranged s := by simp [copyTile]
@[simp] theorem ranged_guideTile {e : Env} : (guideTile n p k e s).Gives fun t => ranged t = ranged s := by simp [guideTile]
@[simp] theorem ranged_stepTile {e : Env} : (stepTile n p k e s).Gives fun t => ranged t = ranged s := by simp [stepTile]
@[simp] theorem ranged_noiseTile {e : Env} : (noiseTile n p k e s).Gives fun t => ranged t = ranged s := by simp [noiseTile]
@[simp] theorem ranged_rowstatTile {e : Env} : (rowstatTile n p k e s).Gives fun t => ranged t = ranged s := by simp [rowstatTile]

@[simp] theorem ranged_firstPass {e : Env} {start : Ledger} {f : Ledger → List W32 → Ledger} : (firstPass n p k e start f s).Gives fun
    t => ranged t = ranged s := by
  unfold firstPass
  dsimp only
  (repeat' split) <;> simp

@[simp] theorem ranged_secondPass {e : Env} {ev : Ledger → Nat} {g : Ledger → Nat → W32 → FnRes} : (secondPass n p k e ev g s).Gives
    fun t => ranged t = ranged s := by
  simp [secondPass]

@[simp] theorem ranged_softmaxTile {e : Env} : (softmaxTile n p k e s).Gives fun t => ranged t = ranged s := by
  unfold softmaxTile
  split <;> simp

@[simp] theorem ranged_normTile {e : Env} : (normTile n p k e s).Gives fun t => ranged t = ranged s := by simp [normTile]
@[simp] theorem ranged_drawScanTile {e : Env} : (drawScanTile n p k e s).Gives fun t => ranged t = ranged s := by simp [drawScanTile]
@[simp] theorem ranged_drawFinal {e : Env} : (drawFinal n p k e s).Gives fun t => ranged t = ranged s := by simp [drawFinal]

@[simp] theorem ranged_drawTile {e : Env} : (drawTile n p k e s).Gives fun t => ranged t = ranged s := by
  unfold drawTile
  split <;> simp

@[simp] theorem ranged_haloReady : ranged (haloReady n p k side s) = ranged s := by
  unfold haloReady
  dsimp only
  (repeat' split) <;> simp

@[simp] theorem ranged_haloSee : ranged (haloSee n p k side s) = ranged s := by simp [haloSee]

@[simp] theorem ranged_haloSend : (haloSend n p k side s).Gives fun t => ranged t = ranged s := by
  unfold haloSend
  dsimp only
  (repeat' split) <;> simp

@[simp] theorem ranged_haloPump : (haloPump n p k s).Gives fun t => ranged t = ranged s := by
  rw [haloPump, gives_bind]
  refine List.foldlRecOn (motive := Got.Gives _) _ _ ?_ fun g hg side _ => ?_
  · simp
  · rw [gives_bind]
    intro u hu t hsend
    have ht : ranged t = ranged u := by simpa using ranged_haloSend t hsend
    simpa [ht] using hg u hu

@[simp] theorem ranged_haloRun : ranged (haloRun n sram s) = ranged s := by
  have hbegin : ∀ p k u, ranged (haloInit n sram p k u) = ranged u := fun p k u =>
    ranged_settleSram (gives_from ranged_modStallP ranged_haloPump)
  unfold haloRun
  split
  · rfl
  · split
    · simp
    · split_ifs
      · exact ranged_startOp hbegin
      · rfl

@[simp] theorem ranged_haloWrite : (haloWrite n p k side bs s).Gives fun t => ranged t = ranged s := by simp [haloWrite]

@[simp] theorem ranged_collectSend {e : Env} : (collectSend p k t member w e bs s).Gives fun t => ranged t = ranged s := by
  simp [collectSend]

@[simp] theorem ranged_collectGive {here : Bool} {next : Option Nat} {e : Env} :
    (collectGive p k t e it here next w bs s).Gives fun t => ranged t = ranged s := by
  have hhere : (if here then writeTile p k e (walkC e.o.d) it t (validOf e.o it 1) (validOf e.o it 2) bs s else .ok s).Gives
      fun t => ranged t = ranged s := by simp
  rw [collectGive, gives_bind]
  intro u hu
  rw [← hhere u hu]
  split <;> simp

@[simp] theorem ranged_collectCount {satur under nans : Nat} : ranged (collectCount p k satur under nans s) = ranged s := by
  simp [collectCount]

@[simp] theorem ranged_reduceUp {e : Env} : (reduceUp n p k e s).Gives fun t => ranged t = ranged s := by
  unfold reduceUp
  dsimp only
  refine (gives_bind ..).2 fun a _ => ?_
  split
  · exact ranged_collectSend
  · refine (gives_bind ..).2 fun bs _ => ?_
    have hfree {satur nans w} : ranged (collectCount p k satur 0 nans (winFree n p k w 0 s)) = ranged s :=
      ranged_collectCount.trans ranged_winFree
    split
    · exact gives_from hfree ranged_collectSend
    · exact (gives_bind ..).2 fun u hu => gives_ok.2 (ranged_collectCount.trans ((ranged_collectGive u hu).trans hfree))

@[simp] theorem ranged_copyUp {e : Env} : (copyUp n p k e s).Gives fun t => ranged t = ranged s := by
  unfold copyUp
  extract_lets o d w self nm t first next
  split
  · exact (gives_bind ..).2 fun bs _ => ranged_collectGive
  · exact (gives_bind ..).2 fun bs _ => gives_from ranged_winFree ranged_collectGive

@[simp] theorem ranged_collectUp {e : Env} : (collectUp n p k e s).Gives fun t => ranged t = ranged s := by simp [collectUp]

@[simp] theorem ranged_collectDown {e : Env} : (collectDown n p k e s).Gives fun t => ranged t = ranged s := by
  unfold collectDown
  dsimp only
  split
  · exact gives_wait
  · split
    · exact gives_ok.2 (ranged_takePump.trans ranged_putOp)
    · refine (gives_bind ..).2 fun bs _ => (gives_bind ..).2 fun u hu => gives_ok.2 ?_
      rw [ranged_takePump, ranged_putOp, ranged_collectGive u hu, ranged_winFree]

@[simp] theorem ranged_collectRun {down : Bool} : ranged (collectRun n down sram s) = ranged s := by simp [collectRun]
@[simp] theorem ranged_dropPkt : ranged (dropPkt k s) = ranged s := by simp [dropPkt]

@[simp] theorem ranged_flitRetry {flit hop : Nat} : ranged (flitRetry k flit hop s) = ranged s := by
  unfold flitRetry
  (repeat' split) <;> simp

@[simp] theorem ranged_fabRead : ranged (fabRead k ecc s) = ranged s := by
  unfold fabRead
  split <;> simp

@[simp] theorem ranged_rdataLands {opnd entry : Nat} {poisoned : Option Nat} :
    ranged (rdataLands n p k opnd entry it cells poisoned s) = ranged s := by
  unfold rdataLands
  split <;> simp

@[simp] theorem ranged_fabRdata : ranged (fabRdata k s) = ranged s := by
  unfold fabRdata
  dsimp only
  (repeat' split) <;> simp

@[simp] theorem ranged_mergeCells : ranged (mergeCells n cells s) = ranged s := by
  unfold mergeCells
  dsimp only
  (repeat' split) <;> simp

@[simp] theorem ranged_loftConflict : ranged (loftConflict n desc a it s) = ranged s := by simp [loftConflict]

@[simp] theorem ranged_loftWrite {fill : Option FillRef} : ranged (loftWrite n desc cells fill s) = ranged s := by
  unfold loftWrite
  dsimp only
  (repeat' split) <;> simp

@[simp] theorem ranged_fabWrite : ranged (fabWrite k ecc s) = ranged s := by
  unfold fabWrite
  split <;> simp

@[simp] theorem ranged_fabAck : ranged (fabAck k s) = ranged s := by
  unfold fabAck
  dsimp only
  (repeat' split) <;> simp

@[simp] theorem ranged_yardWorks : ranged (yardWorks y s) = ranged s := by simp [yardWorks]

@[simp] theorem ranged_fabTake : ranged (fabTake k s) = ranged s := by
  unfold fabTake
  dsimp only
  (repeat' split) <;> simp

@[simp] theorem ranged_overflowCheck {cap : Nat} : ranged (overflowCheck n p w cap s) = ranged s := by
  unfold overflowCheck
  split <;> rfl

@[simp] theorem ranged_windowPart {total : Nat} {bytes : List Byte} {f : WinEntry} :
    ranged (windowPart n p w off total bytes f s).1 = ranged s := by
  unfold windowPart
  dsimp only
  (repeat' split) <;> simp

@[simp] theorem ranged_haloRowsArrive {total : Nat} {bytes : List Byte} :
    ranged (haloRowsArrive n p side inst src off total bytes s) = ranged s := by
  unfold haloRowsArrive
  split
  · rfl
  · dsimp only
    split
    · rfl
    · split
      · exact ranged_putOp
      · exact ranged_settle (gives_from ranged_putOp ranged_haloWrite)

@[simp] theorem ranged_fabData : ranged (fabData k s) = ranged s := by
  unfold fabData
  dsimp only
  (repeat' split) <;> simp

@[simp] theorem ranged_fabCredit : ranged (fabCredit k s) = ranged s := by
  unfold fabCredit
  dsimp only
  (repeat' split) <;> simp

@[simp] theorem ranged_ledgerAccept {entry : Nat} {l part : Ledger} : ranged (ledgerAccept k n p entry l part s) = ranged s := by
  unfold ledgerAccept
  split <;> simp

@[simp] theorem ranged_ledgerArrives {entry : Nat} {part : Ledger} {complete : Bool} :
    ranged (ledgerArrives k n p entry desc part complete s) = ranged s := by
  unfold ledgerArrives
  dsimp only
  (repeat' split) <;> simp

@[simp] theorem ranged_fabLedger : ranged (fabLedger k s) = ranged s := by
  unfold fabLedger
  (repeat' split) <;> simp

@[simp] theorem ranged_fabReady : ranged (fabReady k s) = ranged s := by
  unfold fabReady
  dsimp only
  (repeat' split) <;> simp

@[simp] theorem ranged_gateStore {slot : Nat} {q : GatePkt} : ranged (gateStore n p slot q s) = ranged s := by
  unfold gateStore
  split
  · rfl
  · dsimp only
    split <;> simp

@[simp] theorem ranged_gateDeliver {q : GatePkt} : ranged (gateDeliver g q s) = ranged s := by
  unfold gateDeliver
  dsimp only
  (repeat' split) <;> simp

end Vectors

end Sys2Proof.Machine
end

section
/-! PROOFS. The host-set fields and the hub's blocks: links, security, syllabi, video, contexts, snapshots and registers keep them. -/

namespace Sys2Proof.Machine

/-! ## The host link, security, syllabi and video -/

section Links
variable {s : State} {p k a tag off addr q c result len w e code status slot src : Nat} {iss : Issuer} {value : W64} {ecc : EccReport}
  {detail : List Byte} {data record : HostRead} {cells : List (Nat × Byte)}

@[simp] theorem ranged_flitReceive {header : W64} {crcOk : Bool} : ranged (flitReceive header crcOk s) = ranged s := by simp [flitReceive]
@[simp] theorem ranged_hostLinkDown : ranged (hostLinkDown s) = ranged s := by simp [hostLinkDown]

@[simp] theorem ranged_firmwareArrives {data : List Byte} : ranged (firmwareArrives off status data s) = ranged s := by
  simp [firmwareArrives]

@[simp] theorem ranged_firmwarePump {f : Nat} : ranged (firmwarePump f len s) = ranged s := by
  induction f generalizing s with
  | zero => rfl
  | succ f ih =>
    unfold firmwarePump
    split_ifs <;> simp [ih]

@[simp] theorem ranged_hostCplArrives {data : List Byte} : ranged (hostCplArrives tag status data s) = ranged s := by
  unfold hostCplArrives
  (repeat' split) <;> simp

@[simp] theorem ranged_doorbell : ranged (doorbell q value s) = ranged s := by simp [doorbell]
@[simp] theorem ranged_discardWaiting : ranged (discardWaiting q s) = ranged s := by simp [discardWaiting]
@[simp] theorem ranged_sqWrite : ranged (sqWrite q value s) = ranged s := by simp [sqWrite]
@[simp] theorem ranged_cqWrite : ranged (cqWrite q value s) = ranged s := by simp [cqWrite]

@[simp] theorem ranged_writeRecord : ranged (writeRecord q s) = ranged s := by
  unfold writeRecord
  dsimp only
  (repeat' split) <;> simp

@[simp] theorem ranged_smbAnswer {pecOk : Bool} {resp : List Byte} : ranged (smbAnswer pecOk resp s) = ranged s := by simp [smbAnswer]
@[simp] theorem ranged_attestExhausted {why : Nat} : ranged (attestExhausted why s) = ranged s := by simp [attestExhausted]
@[simp] theorem ranged_secDone : ranged (secDone tag result s) = ranged s := by simp [secDone]

@[simp] theorem ranged_secCmd {f : State → State} (hf : ranged (f s) = ranged s) : ranged (secCmd f s) = ranged s := by
  unfold secCmd
  split_ifs <;> simp [hf]

@[simp] theorem ranged_verify : ranged (verify tag len s) = ranged s := by simp [verify]
@[simp] theorem ranged_secRefuse : ranged (secRefuse code tag detail s) = ranged s := by simp [secRefuse]
@[simp] theorem ranged_takeEpoch {burnOk : Bool} : ranged (takeEpoch burnOk s) = ranged s := by simp [takeEpoch]
@[simp] theorem ranged_fwStart {burnOk : Bool} {b : List Byte} : ranged (fwStart tag burnOk b s) = ranged s := by simp [fwStart]

@[simp] theorem ranged_verifyEnds {burnOk : Bool} : ranged (verifyEnds burnOk s) = ranged s := by
  unfold verifyEnds
  split <;> simp

@[simp] theorem ranged_svnCommit : ranged (svnCommit tag s) = ranged s := by simp [svnCommit]

@[simp] theorem ranged_svnBurnt : ranged (svnBurnt s) = ranged s := by
  unfold svnBurnt
  split <;> rfl

@[simp] theorem ranged_treeBuilt : ranged (treeBuilt s) = ranged s := by simp [treeBuilt]
@[simp] theorem ranged_signOver : ranged (signOver tag result s) = ranged s := by simp [signOver]

@[simp] theorem ranged_sign {view : View} {nonce : HostRead} : ranged (sign view tag nonce s) = ranged s := by
  unfold sign
  (repeat' split) <;> simp

@[simp] theorem ranged_signEnds : ranged (signEnds s) = ranged s := by
  unfold signEnds
  split <;> simp

@[simp] theorem ranged_clearJob : ranged (clearJob s) = ranged s := by
  unfold clearJob
  dsimp only
  rw [ranged_mk]
  exact ranged_foldl (fun _ _ => ranged_discardWaiting) _ s

@[simp] theorem ranged_jobWrite {owned : Bool} {jobid : Nat} : ranged (jobWrite owned jobid s) = ranged s := by simp [jobWrite]
@[simp] theorem ranged_stageOver {body : List Byte} : ranged (stageOver iss result status body s) = ranged s := by simp [stageOver]
@[simp] theorem ranged_stageDone : ranged (stageDone iss result s) = ranged s := by simp [stageDone]
@[simp] theorem ranged_loadOver {body : List Byte} : ranged (loadOver iss result status body s) = ranged s := by simp [loadOver]
@[simp] theorem ranged_loadDone : ranged (loadDone iss result s) = ranged s := by simp [loadDone]
@[simp] theorem ranged_sylFault {sec check : Nat} : ranged (sylFault code slot sec off check s) = ranged s := by simp [sylFault]

@[simp] theorem ranged_stageCmd {f : State → State} (hf : ranged (f s) = ranged s) : ranged (stageCmd iss f s) = ranged s := by
  unfold stageCmd
  split <;> simp [hf]

@[simp] theorem ranged_loadCmd {busy : Bool} {f : State → State} (hf : ranged (f s) = ranged s) :
    ranged (loadCmd busy iss f s) = ranged s := by
  unfold loadCmd
  (repeat' split) <;> simp [hf]

@[simp] theorem ranged_setSlot {x : CacheSlot} : ranged (setSlot k x s) = ranged s := by simp [setSlot]

@[simp] theorem ranged_sylStage : ranged (sylStage iss k addr off len data s) = ranged s := by
  refine ranged_stageCmd ?_
  dsimp only
  (repeat' split) <;> simp

@[simp] theorem ranged_sylFinish : ranged (sylFinish iss k s) = ranged s := by
  refine ranged_stageCmd ?_
  dsimp only
  split
  · simp
  · split <;> simp

@[simp] theorem ranged_emptySlot : ranged (emptySlot k s) = ranged s := by simp [emptySlot]

@[simp] theorem ranged_sylEvict : ranged (sylEvict iss k s) = ranged s := by
  refine ranged_stageCmd ?_
  split
  · simp
  · split <;> simp

@[simp] theorem ranged_sylAbort : ranged (sylAbort iss k s) = ranged s := by
  refine ranged_stageCmd ?_
  split <;> simp

@[simp] theorem ranged_sylLoad : ranged (sylLoad iss k s) = ranged s := by
  refine ranged_loadCmd ?_
  split
  · rw [ranged_loadDone, ranged_sylFault, ranged_mk, ranged_fold]
  · rw [ranged_mk, ranged_fold]

@[simp] theorem ranged_releaseHold : ranged (releaseHold s) = ranged s := by simp [releaseHold]
@[simp] theorem ranged_clearHold : ranged (clearHold s) = ranged s := by simp [clearHold]

@[simp] theorem ranged_zeroFillMap {f : FillRec} : ranged (zeroFillMap f s) = ranged s := by
  unfold zeroFillMap
  (repeat' split) <;> simp

@[simp] theorem ranged_grantWindows {b : List Byte} : ranged (grantWindows b s) = ranged s := by
  rw [grantWindows_eq, ranged_mk, ranged_fold]

@[simp] theorem ranged_zeroCounters {b : List Byte} : ranged (zeroCounters b s) = ranged s := by
  rw [zeroCounters, ranged_mk, ranged_fold]

theorem ranged_modServing {f : Nat → Stall → Stall} {ns : List Nat} : ranged (modServing f ns s) = ranged s := by
  rw [modServing_eq, ranged_mk, ranged_fold]

theorem ranged_commitMemories {b : List Byte} : ranged (commitMemories b k s) = ranged s := by
  rw [commitMemories, ranged_foldl fun _ _ => ranged_zeroFillMap, ranged_foldl fun _ _ => ranged_hubWrite, ranged_modServing]

theorem ranged_commitRegisters {b : List Byte} : ranged (commitRegisters b k s) = ranged s := rfl

@[simp] theorem ranged_commitImage : ranged (commitImage k s) = ranged s := by
  rw [commitImage_eq, ranged_grantWindows, ranged_commitRegisters, ranged_commitMemories]

@[simp] theorem ranged_deferredPreempt : ranged (deferredPreempt s) = ranged s := by simp [deferredPreempt]

@[simp] theorem ranged_loadCommit : ranged (loadCommit ecc s) = ranged s := by
  unfold loadCommit
  split
  · rfl
  · dsimp only
    split
    · rw [ranged_deferredPreempt, ranged_loadDone, ranged_sylFault, ranged_setSlot, ranged_mk, ranged_fold, ranged_mk, ranged_fold,
        ranged_eccApply]
    · rw [ranged_deferredPreempt, ranged_loadDone, ranged_releaseHold, ranged_commitImage, ranged_setSlot, ranged_mk, ranged_fold,
        ranged_eccApply]

theorem ranged_unloadRegisters {b : List Byte} : ranged (unloadRegisters b k s) = ranged s := rfl

@[simp] theorem ranged_unloadImage : ranged (unloadImage k s) = ranged s := by
  obtain ⟨gate, flt, heq⟩ := unloadImage_eq k s
  rw [heq, ranged_mk, ranged_fold, ranged_unloadRegisters, ranged_modServing]

@[simp] theorem ranged_sylUnload : ranged (sylUnload iss k s) = ranged s := by simp [sylUnload]
@[simp] theorem ranged_sylClear : ranged (sylClear iss s) = ranged s := by simp [sylClear]
@[simp] theorem ranged_policyWrite : ranged (policyWrite value s) = ranged s := by simp [policyWrite]
@[simp] theorem ranged_keyWrite : ranged (keyWrite k w value s) = ranged s := by simp [keyWrite]
@[simp] theorem ranged_modStream {f : Stream → Stream} : ranged (modStream k f s) = ranged s := by simp [modStream]
@[simp] theorem ranged_vidOver {body : List Byte} : ranged (vidOver iss result status body s) = ranged s := by simp [vidOver]
@[simp] theorem ranged_vidDone : ranged (vidDone iss result s) = ranged s := by simp [vidDone]

@[simp] theorem ranged_vidCmd {busy : Bool} {f : State → State} (hf : ranged (f s) = ranged s) :
    ranged (vidCmd busy iss f s) = ranged s := by
  unfold vidCmd
  (repeat' split) <;> simp [hf]

@[simp] theorem ranged_vidOpen : ranged (vidOpen iss k addr record s) = ranged s := by
  unfold vidOpen
  split <;> simp

@[simp] theorem ranged_makeEligible : ranged (makeEligible k s) = ranged s := by simp [makeEligible]

@[simp] theorem ranged_vidSubmit : ranged (vidSubmit iss k addr record s) = ranged s := by
  unfold vidSubmit
  split <;> simp

@[simp] theorem ranged_encodeCmd {f : Stream → Option Stream} : ranged (encodeCmd iss k f s) = ranged s := by
  refine ranged_vidCmd ?_
  dsimp only
  split_ifs
  · simp
  · split <;> simp

@[simp] theorem ranged_vidKey : ranged (vidKey iss k s) = ranged s := by simp [vidKey]
@[simp] theorem ranged_vidLtrMark {j : Nat} : ranged (vidLtrMark iss k j s) = ranged s := by simp [vidLtrMark]
@[simp] theorem ranged_vidLtrUse {j : Nat} : ranged (vidLtrUse iss k j s) = ranged s := by simp [vidLtrUse]

@[simp] theorem ranged_postPicture {p : PicDesc} {stream picno order bytes flags reftag : Nat} :
    ranged (postPicture p stream picno order bytes flags reftag s) = ranged s := by
  simp [postPicture]

@[simp] theorem ranged_discardPicture {stream : Nat} {p : PicDesc} : ranged (discardPicture stream p s) = ranged s := by
  simp [discardPicture]

@[simp] theorem ranged_closeStream {closer : Option Issuer} : ranged (closeStream k closer s) = ranged s := by simp [closeStream]
@[simp] theorem ranged_vidClose : ranged (vidClose iss k s) = ranged s := by simp [vidClose]

@[simp] theorem ranged_pictureStart : ranged (pictureStart e s) = ranged s := by
  unfold pictureStart
  (repeat' split) <;> simp

@[simp] theorem ranged_putDst {a : W64} : ranged (putDst a cells s) = ranged s := by simp [putDst]
@[simp] theorem ranged_vidReads {c : VidCtx} {p : PicDesc} : ranged (vidReads c p ecc s) = ranged s := by simp [vidReads]

@[simp] theorem ranged_storeRef {c : VidCtx} {store : Nat} {byte : Nat → Byte} : ranged (storeRef c store byte s) = ranged s := by
  simp [storeRef]

@[simp] theorem ranged_vidEvent {r : RunPic} : ranged (vidEvent e code k r s) = ranged s := by simp [vidEvent]
@[simp] theorem ranged_encodeEnds {r : RunPic} {src : EntryData} : ranged (encodeEnds e r src s) = ranged s := by simp [encodeEnds]
@[simp] theorem ranged_decodeEnds {r : RunPic} {src : EntryData} : ranged (decodeEnds e r src s) = ranged s := by simp [decodeEnds]

@[simp] theorem ranged_closeEnds : ranged (closeEnds k s) = ranged s := by
  unfold closeEnds
  dsimp only
  (repeat' split) <;> simp

@[simp] theorem ranged_pictureComplete {src : EntryData} : ranged (pictureComplete e src s) = ranged s := by
  unfold pictureComplete
  split <;> simp

end Links

/-! ## Contexts, snapshots and registers -/

section Contexts
variable {s : State} {p k n a tag off addr q c result op len w e code status slot step src : Nat} {iss : Issuer} {v : View} {value : W64}
  {ecc : EccReport} {bs : List Byte} {sram : Secded} {data : HostRead}

@[simp] theorem ranged_stallLinked {c : List Byte} : ranged (stallLinked n p c s) = ranged s := by simp [stallLinked]

@[simp] theorem ranged_putStalls {b hub : List Byte} : ranged (putStalls b hub s) = ranged s := by
  refine ranged_foldl (fun u q => ?_) _ s
  dsimp only
  split
  · rw [ranged_stallLinked, ranged_modStallP]
  · rfl

@[simp] theorem ranged_putGateCredits {b : List Byte} : ranged (putGateCredits b s) = ranged s := by
  unfold putGateCredits
  refine ranged_foldl (fun u q => ranged_foldl (fun u w => ?_) _ u) _ s
  dsimp only
  split_ifs <;> rfl

@[simp] theorem ranged_putHub {b : List Byte} : ranged (putHub b s) = ranged s := by
  rw [putHub, ranged_mk, ranged_fold]

@[simp] theorem ranged_putExtents {rs : List (Nat × Nat)} : ranged (putExtents rs bs s) = ranged s := by
  induction rs generalizing bs s with
  | nil => rfl
  | cons r rs ih => simp [putExtents, ih]

@[simp] theorem ranged_ctxOver {body : List Byte} : ranged (ctxOver iss result status body s) = ranged s := by simp [ctxOver]

@[simp] theorem ranged_ctxCmd {f : State → State} (hf : ranged (f s) = ranged s) : ranged (ctxCmd iss f s) = ranged s := by
  unfold ctxCmd
  (repeat' split) <;> simp [hf]

@[simp] theorem ranged_ctxPreempt : ranged (ctxPreempt iss s) = ranged s := by simp [ctxPreempt]

@[simp] theorem ranged_stallPreemptStop : ranged (stallPreemptStop n s) = ranged s := by
  unfold stallPreemptStop
  (repeat' split) <;> simp

@[simp] theorem ranged_ctxStopped : ranged (ctxStopped s) = ranged s := by
  unfold ctxStopped
  split
  · split_ifs <;> simp
  · rfl

@[simp] theorem ranged_markCtx : ranged (markCtx s) = ranged s := by simp [markCtx]
@[simp] theorem ranged_storeError {sel : Nat} : ranged (storeError sel status s) = ranged s := by simp [storeError]

@[simp] theorem ranged_saveEnds {label : W64} {whole store : Bool} {outcome : SaveOutcome} :
    ranged (saveEnds iss addr label whole store outcome s) = ranged s := by
  unfold saveEnds
  (repeat' split) <;> simp

@[simp] theorem ranged_ctxSave {label : W64} {whole store : Bool} {outcome : SaveOutcome} :
    ranged (ctxSave iss addr len label whole store outcome s) = ranged s := by
  simp [ctxSave]

@[simp] theorem ranged_scrambleExtents {es : List (Nat × Nat)} : ranged (scrambleExtents es s) = ranged s := by simp [scrambleExtents]

@[simp] theorem ranged_restoreRefused {store : Bool} : ranged (restoreRefused iss code step store s) = ranged s := by
  simp [restoreRefused]

@[simp] theorem ranged_restoreSteps {store : Bool} {b : List Byte} : ranged (restoreSteps iss len store b s) = ranged s := by
  simp [restoreSteps]

@[simp] theorem ranged_ctxRestore {store : Bool} : ranged (ctxRestore iss addr len store data s) = ranged s := by
  unfold ctxRestore
  split <;> simp

@[simp] theorem ranged_stallResumes : ranged (stallResumes s n) = ranged s := by
  unfold stallResumes
  split <;> simp

@[simp] theorem ranged_ctxResume : ranged (ctxResume iss s) = ranged s := by simp [ctxResume]

@[simp] theorem ranged_recommitStalls : ranged (recommitStalls k s) = ranged s := by
  rw [recommitStalls, ranged_zeroCounters, ranged_foldl fun _ _ => ranged_zeroFillMap]
  refine ranged_foldl (fun u n => ?_) _ s
  split
  · exact ranged_modStallP
  · rfl

@[simp] theorem ranged_toCommit : ranged (toCommit s) = ranged s := by simp [toCommit]
@[simp] theorem ranged_ctxClear : ranged (ctxClear iss s) = ranged s := by simp [ctxClear]
@[simp] theorem ranged_vacDone : ranged (vacDone iss result status s) = ranged s := by simp [vacDone]
@[simp] theorem ranged_vacEnds : ranged (vacEnds iss s) = ranged s := by simp [vacEnds]

@[simp] theorem ranged_vacNext {es : List Nat} : ranged (vacNext iss es s) = ranged s := by
  induction es generalizing s with
  | nil => simp [vacNext]
  | cons e es ih =>
    unfold vacNext
    split_ifs <;> simp [ih]

@[simp] theorem ranged_vacDiscard : ranged (vacDiscard s) = ranged s := by simp [vacDiscard]

@[simp] theorem ranged_ctxVacate {zmask : Nat} : ranged (ctxVacate iss zmask s) = ranged s := by
  unfold ctxVacate
  (repeat' split) <;> simp

@[simp] theorem ranged_zeroDone : ranged (zeroDone s) = ranged s := by
  unfold zeroDone
  dsimp only
  (repeat' split) <;> simp

@[simp] theorem ranged_snapOver {body : List Byte} : ranged (snapOver iss result status body s) = ranged s := by simp [snapOver]

@[simp] theorem ranged_snapCmd {f : State → State} (hf : ranged (f s) = ranged s) : ranged (snapCmd iss f s) = ranged s := by
  unfold snapCmd
  (repeat' split) <;> simp [hf]

@[simp] theorem ranged_snapConfig {a : StoreAnswers} : ranged (snapConfig iss a s) = ranged s := by simp [snapConfig]

@[simp] theorem ranged_storePump : ranged (storePump s) = ranged s := by
  unfold storePump
  (repeat' split) <;> simp

@[simp] theorem ranged_snapTake : ranged (snapTake iss s) = ranged s := by simp [snapTake]
@[simp] theorem ranged_drainPoisoned : ranged (drainPoisoned a s) = ranged s := by simp [drainPoisoned]

theorem ranged_poisonedOrPumped {poisoned : Option Nat} {u : State} (hu : ranged u = ranged s) :
    ranged (match poisoned with
      | some w => drainPoisoned w u
      | none => storePump u) = ranged s := by
  cases poisoned <;> simp [hu]

@[simp] theorem ranged_snapCapture : ranged (snapCapture s) = ranged s := by
  unfold snapCapture
  split
  · rfl
  · split
    · rfl
    · split
      · rfl
      · refine ranged_poisonedOrPumped ?_
        rw [ranged_mk, ranged_fold, ranged_foldl fun _ _ => ranged_hubPkts, ranged_hubWrite]

@[simp] theorem ranged_snapLossRead : ranged (snapLossRead s) = ranged s := by
  unfold snapLossRead
  (repeat' split) <;> simp

@[simp] theorem ranged_scheduleNext : ranged (scheduleNext step s) = ranged s := by simp [scheduleNext]

@[simp] theorem ranged_snapCommit : ranged (snapCommit s) = ranged s := by
  unfold snapCommit
  split <;> simp

@[simp] theorem ranged_snapAbort : ranged (snapAbort iss s) = ranged s := by simp [snapAbort]

@[simp] theorem ranged_drainEcc : ranged (drainEcc ecc s).1 = ranged s := by
  unfold drainEcc
  split <;> simp

@[simp] theorem ranged_storeCpl {cid : Nat} {answer : StoreDone} : ranged (storeCpl cid answer s) = ranged s := by
  unfold storeCpl
  dsimp only
  (repeat' split) <;> simp

@[simp] theorem ranged_storeLinkDown : ranged (storeLinkDown s) = ranged s := by simp [storeLinkDown]

@[simp] theorem ranged_laneLossOfLock : ranged (laneLossOfLock e w s) = ranged s := by
  unfold laneLossOfLock
  dsimp only
  (repeat' split) <;> simp

@[simp] theorem ranged_snapReadFails {host : Bool} : ranged (snapReadFails iss addr host s) = ranged s := by simp [snapReadFails]
@[simp] theorem ranged_putGroups {keepRoutes : Bool} {b : List Byte} : ranged (putGroups keepRoutes b s) = ranged s := by simp [putGroups]

@[simp] theorem ranged_snapGroups {slot : Nat} {host keepRoutes : Bool} :
    ranged (snapGroups iss addr slot host keepRoutes data s) = ranged s := by
  refine ranged_snapCmd ?_
  split
  · simp
  · split
    · simp
    · split <;> simp

@[simp] theorem ranged_putRecords {b : List Byte} : ranged (putRecords b s) = ranged s := by
  refine ranged_foldl (fun u q => ?_) _ s
  split
  · rw [ranged_modStallP]
  · rfl

@[simp] theorem ranged_putSnapHub {b : List Byte} : ranged (putSnapHub b s) = ranged s := by
  rw [putSnapHub, ranged_mk, ranged_fold, ranged_putHub]

@[simp] theorem ranged_snapWrite {b : List Byte} : ranged (snapWrite b step s) = ranged s := by
  rw [snapWrite, ranged_putExtents, ranged_mk, ranged_fold, ranged_hubWrite, ranged_putSnapHub, ranged_putRecords]

@[simp] theorem ranged_snapRefused {v : Nat} : ranged (snapRefused iss code src step v s) = ranged s := by simp [snapRefused]
@[simp] theorem ranged_snapSteps {host : Bool} {b : List Byte} : ranged (snapSteps iss host slot b s) = ranged s := by simp [snapSteps]

@[simp] theorem ranged_snapRestore {host : Bool} : ranged (snapRestore iss addr slot host data s) = ranged s := by
  unfold snapRestore
  split <;> simp

@[simp] theorem ranged_replayCheck : ranged (replayCheck s) = ranged s := by
  unfold replayCheck
  dsimp only
  (repeat' split) <;> simp

@[simp] theorem ranged_snapClear : ranged (snapClear iss s) = ranged s := by simp [snapClear]
@[simp] theorem ranged_configSet {v : W64} : ranged (configSet off v s) = ranged s := by simp [configSet]
@[simp] theorem ranged_configWrite {v : W64} : ranged (configWrite off v s) = ranged s := by simp [configWrite]

@[simp] theorem ranged_aperRead : ranged (aperRead n p k sram s).2 = ranged s := by
  unfold aperRead
  dsimp only
  (repeat' split) <;> simp

@[simp] theorem ranged_aperWrite : ranged (aperWrite p k value s) = ranged s := by simp [aperWrite]
@[simp] theorem ranged_regPackets : ranged (regPackets s) = ranged s := by simp [regPackets]

@[simp] theorem ranged_stwRead : ranged (stwRead n off sram s).2 = ranged s := by
  unfold stwRead
  (repeat' split) <;> simp

@[simp] theorem ranged_stwWrite : ranged (stwWrite n off value s) = ranged s := by
  unfold stwWrite
  split <;> simp

@[simp] theorem ranged_sylCommand : ranged (sylCommand iss op k addr off len data s) = ranged s := by
  unfold sylCommand
  split <;> simp

@[simp] theorem ranged_rollCommand {idx : Nat} {e : RollEntry} : ranged (rollCommand iss op idx addr e data s) = ranged s := by
  unfold rollCommand
  split <;> simp

@[simp] theorem ranged_vidCommand : ranged (vidCommand iss op k slot addr data s) = ranged s := by
  unfold vidCommand
  split <;> simp

@[simp] theorem ranged_loftCommand {entry : Nat} : ranged (loftCommand v iss op entry s) = ranged s := by simp [loftCommand]

@[simp] theorem ranged_ctxCommand {label : W64} {whole store : Bool} :
    ranged (ctxCommand iss op addr len label whole store data s) = ranged s := by
  unfold ctxCommand
  split <;> simp

@[simp] theorem ranged_snapCommand {host keep : Bool} : ranged (snapCommand iss op addr slot host keep data s) = ranged s := by
  unfold snapCommand
  split <;> simp

@[simp] theorem ranged_pwrCommand : ranged (pwrCommand op tag s) = ranged s := by
  unfold pwrCommand
  split <;> simp

@[simp] theorem ranged_bringCommand {arg : Nat} : ranged (bringCommand op tag arg data s) = ranged s := by
  unfold bringCommand
  split <;> simp

@[simp] theorem ranged_fwCommand : ranged (fwCommand op tag len s) = ranged s := by
  unfold fwCommand
  split <;> simp

@[simp] theorem ranged_attCommand : ranged (attCommand v op tag data s) = ranged s := by simp [attCommand]
@[simp] theorem ranged_vacCommand {zmask : Nat} : ranged (vacCommand iss op zmask s) = ranged s := by simp [vacCommand]
@[simp] theorem ranged_devSet {w : W64} : ranged (devSet off w s) = ranged s := by simp [devSet]
@[simp] theorem ranged_ptrWrite {w : W64} : ranged (ptrWrite q w s) = ranged s := by simp [ptrWrite]

@[simp] theorem ranged_hostSet {w : W64} : ranged (hostSet off w s) = ranged s := by
  unfold hostSet
  (repeat' split) <;> simp

@[simp] theorem ranged_bringSet {w : W64} : ranged (bringSet off w data s) = ranged s := by simp [bringSet]
@[simp] theorem ranged_secSet {w : W64} : ranged (secSet v off w data s) = ranged s := by simp [secSet]
@[simp] theorem ranged_sylSet {w : W64} : ranged (sylSet off w data s) = ranged s := by simp [sylSet]
@[simp] theorem ranged_rngSet {w : W64} : ranged (rngSet off w s) = ranged s := by simp [rngSet]
@[simp] theorem ranged_gateSet {w : W64} : ranged (gateSet off w s) = ranged s := by simp [gateSet]
@[simp] theorem ranged_vidSet {w : W64} : ranged (vidSet off w data s) = ranged s := by simp [vidSet]
@[simp] theorem ranged_ctxSet {w : W64} : ranged (ctxSet off w data s) = ranged s := by simp [ctxSet]
@[simp] theorem ranged_snapSet {w : W64} : ranged (snapSet off w data s) = ranged s := by simp [snapSet]
@[simp] theorem ranged_fltSet {w : W64} : ranged (fltSet off w s) = ranged s := by simp [fltSet]

@[simp] theorem ranged_wordRead : ranged (wordRead v addr s).2 = ranged s := by
  unfold wordRead
  (repeat' split) <;> simp

@[simp] theorem ranged_burstRead : ranged (burstRead v n addr s).2 = ranged s := by
  induction n generalizing addr s with
  | zero => rfl
  | succ n ih => simp [burstRead, ih]

@[simp] theorem ranged_registerRead : ranged (registerRead v tag addr len s) = ranged s := by simp [registerRead]

@[simp] theorem ranged_apertureRead : ranged (apertureRead v tag n k sram s) = ranged s := by
  unfold apertureRead
  dsimp only
  (repeat' split) <;> simp

@[simp] theorem ranged_fabReg {write : Option W64} : ranged (fabReg v n off write s) = ranged s := by
  unfold fabReg
  (repeat' split) <;> simp

@[simp] theorem ranged_servedQueue : ranged (servedQueue q s) = ranged s := by simp [servedQueue]
@[simp] theorem ranged_advanceHead : ranged (advanceHead q s) = ranged s := by simp [advanceHead]

@[simp] theorem ranged_zeroOutside : ranged (zeroOutside iss s) = ranged s := by
  unfold zeroOutside
  (repeat' split) <;> simp

@[simp] theorem ranged_entryCommand {e : List Byte} : ranged (entryCommand q e data s) = ranged s := by
  unfold entryCommand
  split <;> simp

@[simp] theorem ranged_entryRun {e : List Byte} : ranged (entryRun q e data ecc s) = ranged s := by
  unfold entryRun
  split <;> simp

@[simp] theorem ranged_queueTake {entry : HostRead} : ranged (queueTake q entry data ecc s) = ranged s := by
  unfold queueTake
  (repeat' split) <;> simp

end Contexts

end Sys2Proof.Machine
end

section
/-! PROOFS. The host-set fields in range: the writes that set one, the resets, every command, and the statements of O57 and O60. -/

namespace Sys2Proof.Machine

section Sets
variable {s t : State} {v : View} {addr off : Nat} {w : W64} {data : HostRead}

theorem fieldsInRange_of_ranged (hsame : ranged t = ranged s) (hs : FieldsInRange s) : FieldsInRange t := by
  simp only [ranged, Prod.mk.injEq] at hsame
  obtain ⟨hmark, hvset, htick⟩ := hsame
  rwa [FieldsInRange, hmark, hvset, htick]

theorem fieldsInRange_reset : FieldsInRange State.reset := by
  rw [FieldsInRange]
  decide

theorem fieldsInRange_resetState : FieldsInRange (resetState s) :=
  fieldsInRange_of_ranged (s := State.reset) rfl fieldsInRange_reset

/-- AUX resets the marks and the tick, and keeps the set point. -/
theorem fieldsInRange_auxEntry (hs : FieldsInRange s) : FieldsInRange (auxEntry s) := by
  obtain ⟨hmarks, -, -, hticks⟩ := fieldsInRange_reset
  obtain ⟨-, hlow, hhigh, -⟩ := hs
  exact ⟨hmarks, hlow, hhigh, hticks⟩

theorem fieldsInRange_transitionDone (hs : FieldsInRange s) : FieldsInRange (transitionDone s) := by
  unfold transitionDone
  split
  · exact hs
  · refine fieldsInRange_of_ranged (ranged_startQueuedYards.trans ranged_startPending) ?_
    split
    · exact fieldsInRange_auxEntry hs
    · exact hs

theorem setBits_setWidth : setBits 32 (w.setWidth 32).toNat = setBits 32 w.toNat := by
  refine List.filter_congr fun i hi => ?_
  rw [BitVec.toNat_setWidth, Nat.testBit_mod_two_pow, decide_eq_true (List.mem_range.1 hi), Bool.true_and]

theorem fieldsInRange_drivenWrite (hs : FieldsInRange s) : FieldsInRange (drivenWrite w s) := by
  unfold drivenWrite
  split_ifs with hmany
  · exact hs
  · obtain ⟨-, hrest⟩ := hs
    refine ⟨?_, hrest⟩
    rw [setBits_setWidth]
    exact Nat.not_lt.1 hmany

theorem fieldsInRange_pwrSet (hs : FieldsInRange s) : FieldsInRange (pwrSet off w s) := by
  unfold pwrSet
  split_ifs with _ _ _ hvset
  · exact fieldsInRange_of_ranged ranged_pwrCommand hs
  · exact hs
  · obtain ⟨hmarks, -, -, hticks⟩ := hs
    exact ⟨hmarks, hvset.1, hvset.2, hticks⟩
  · exact hs
  · exact hs

theorem fieldsInRange_loftSet (hs : FieldsInRange s) : FieldsInRange (loftSet v off w s) := by
  unfold loftSet
  dsimp only
  split
  · exact fieldsInRange_of_ranged ranged_loftMapSet hs
  split
  · exact hs
  split
  · exact fieldsInRange_of_ranged ranged_loftCommand hs
  split
  · obtain ⟨hmarks, hlow, hhigh, hticks⟩ := hs
    refine ⟨hmarks, hlow, hhigh, ?_⟩
    dsimp only
    split_ifs with htick
    · exact htick
    · exact hticks
  split
  · split_ifs <;> exact hs
  split
  · exact fieldsInRange_of_ranged ranged_loftPartSet hs
  · exact hs

theorem fieldsInRange_rollSet (hs : FieldsInRange s) : FieldsInRange (rollSet off w data s) := by
  unfold rollSet
  split_ifs
  · exact fieldsInRange_of_ranged ranged_rollCommand hs
  · exact hs
  · exact hs
  · exact hs
  · exact fieldsInRange_drivenWrite hs
  · exact hs

theorem fieldsInRange_regSet (hs : FieldsInRange s) : FieldsInRange (regSet v addr w data s) := by
  unfold regSet
  dsimp only
  split
  case h_3 => exact fieldsInRange_pwrSet hs
  case h_7 => exact fieldsInRange_rollSet hs
  case h_9 => exact fieldsInRange_loftSet hs
  all_goals exact fieldsInRange_of_ranged (by simp) hs

theorem fieldsInRange_burstWrite {ws : List W64} (hs : FieldsInRange s) : FieldsInRange (burstWrite v data ws addr s) := by
  induction ws generalizing addr s with
  | nil => exact hs
  | cons w ws ih =>
    refine ih ?_
    unfold wordWrite
    split_ifs
    · exact fieldsInRange_of_ranged ranged_viewViolation hs
    · exact fieldsInRange_of_ranged ranged_stwWrite hs
    · exact fieldsInRange_regSet hs

theorem fieldsInRange_registerWrite {ws : List W64} (hs : FieldsInRange s) : FieldsInRange (registerWrite v addr ws data s) := by
  unfold registerWrite
  split_ifs
  · exact hs
  · exact hs
  · exact fieldsInRange_burstWrite hs

theorem fieldsInRange_exec {c : Instr} (hs : FieldsInRange s) (hexec : exec c s = .next t) : FieldsInRange t := by
  cases c
  case resetNAssert => cases hexec; exact fieldsInRange_resetState
  case pwrgdAuxFall =>
    cases hexec
    split_ifs
    · exact fieldsInRange_resetState
    · exact hs
  case powerTransitionDone => cases hexec; exact fieldsInRange_transitionDone hs
  case rollDrivenWrite =>
    cases hexec
    unfold regWrite
    split_ifs
    · exact hs
    · exact fieldsInRange_of_ranged ranged_viewViolation hs
    · exact fieldsInRange_drivenWrite hs
  case hostQueueConfigWrite =>
    cases hexec
    refine fieldsInRange_of_ranged (ranged_regWrite ?_) hs
    split_ifs <;> simp
  case registerWrite => cases hexec; exact fieldsInRange_registerWrite hs
  all_goals
    cases hexec
    exact fieldsInRange_of_ranged (by simp) hs

end Sets

/-- Settles O57: every command but a reset, AUX and the writes of these fields leaves `ranged` as it was, and each of those keeps the range
by the lemma about it. -/
theorem fieldsStayInRange : Obligations.FieldsStayInRange := by
  unfold Obligations.FieldsStayInRange
  intro s t hs hstep
  cases hqueue : s.pending with
  | nil =>
    rw [step_of_pending_nil hqueue] at hstep
    cases hstep
    exact fieldsInRange_of_ranged ranged_tick hs
  | cons c rest =>
    rw [step_of_pending_cons hqueue] at hstep
    exact fieldsInRange_exec (s := { s with pending := rest }) hs hstep

/-- Settles O60: the fields by `fieldsInRange_reset`; the memories are empty and every yard mask is 0. -/
theorem resetMeetsInvariants : Obligations.ResetMeetsInvariants := by
  refine ⟨fieldsInRange_reset, ⟨rfl, nofun⟩, ?_⟩
  rw [YardsConsistent]
  decide

end Sys2Proof.Machine
end

section
/-! PROOFS. The roll's commands: how they end, what each does to its entry or circuit, and the statements of O19 to O21. -/

namespace Sys2Proof.Machine

/-! ## A command that the roll takes (R251, R382) -/

theorem rollCmd_of_no_bar {s : State} (hbar : unitBar s = none) (iss : Issuer) (f : State → State) : rollCmd iss f s = f s := by
  rw [rollCmd, hbar]

theorem rollJobCmd_of_no_bar {s : State} (hbar : jobBar true s = none) (iss : Issuer) (f : State → State) : rollJobCmd iss f s = f s := by
  rw [rollJobCmd, hbar]

theorem completed_rollOver (tag result status : Nat) (body : List Byte) (s : State) :
    Completed tag status body { s with roll.tag := tag % 256, roll.result := result } (rollOver (regIssuer tag) result status body s) := by
  rw [rollOver, show (regIssuer tag).tag % 256 = tag % 256 from Nat.mod_mod ..]
  exact completed_postCmd ..

theorem completed_rollDone (tag result : Nat) (s : State) :
    Completed tag result [] { s with roll.tag := tag % 256, roll.result := result } (rollDone (regIssuer tag) result s) :=
  completed_rollOver ..

/-! ## Entries and circuits after a change (R249, R250) -/

section Reads
variable (s : State) (i j c d : Nat)

theorem entryAt_modEntry (f : RollEntry → RollEntry) :
    entryAt (modEntry i f s) j = if j = i then f (entryAt s i) else entryAt s j := tget_tmod ..

theorem entryAt_makeReady : entryAt (makeReady i s) j =
    if j = i then { entryAt s i with st := .ready, ppend := false, order := s.roll.readyCount } else entryAt s j :=
  tget_tmod ({} : RollEntry) s.roll.entries i j fun e => { e with st := .ready, ppend := false, order := s.roll.readyCount }

theorem circAt_modCirc (f : Circ → Circ) : circAt (modCirc c f s) d = if d = c then f (circAt s c) else circAt s d := tget_tmod ..

@[simp] theorem entryAt_modCirc (f : Circ → Circ) : entryAt (modCirc c f s) i = entryAt s i := rfl
@[simp] theorem circAt_modEntry (f : RollEntry → RollEntry) : circAt (modEntry i f s) c = circAt s c := rfl
@[simp] theorem circAt_makeReady : circAt (makeReady i s) c = circAt s c := rfl

end Reads

/-- A state whose roll alone may differ. -/
def RollOnly (s t : State) : Prop := t = { s with roll := t.roll }

/-- The entries of a worklist or a selection made INFLIGHT. -/
def setInflight (es : List Nat) (s : State) : State := es.foldl (fun s i => modEntry i (fun e => { e with st := .inflight }) s) s

/-- The entries of discarded worklists made READY again. -/
def setReady (es : List Nat) (s : State) : State := es.foldl (fun s i => makeReady i s) s

theorem rollOnly_setInflight (es : List Nat) (s : State) : RollOnly s (setInflight es s) := by
  unfold RollOnly setInflight
  induction es generalizing s with
  | nil => rfl
  | cons i es ih => exact ih (modEntry ..)

theorem rollOnly_setReady (es : List Nat) (s : State) : RollOnly s (setReady es s) := by
  unfold RollOnly setReady
  induction es generalizing s with
  | nil => rfl
  | cons i es ih => exact ih (makeReady ..)

theorem circAt_setInflight (es : List Nat) (s : State) (c : Nat) : circAt (setInflight es s) c = circAt s c :=
  foldl_keeps (g := fun u => circAt u c) (fun u i => circAt_modEntry u i c _) es s

theorem circAt_setReady (es : List Nat) (s : State) (c : Nat) : circAt (setReady es s) c = circAt s c :=
  foldl_keeps (g := fun u => circAt u c) (fun u i => circAt_makeReady u i c) es s

theorem entryAt_setInflight (es : List Nat) (s : State) (i : Nat) :
    entryAt (setInflight es s) i = if i ∈ es then { entryAt s i with st := .inflight } else entryAt s i := by
  unfold setInflight
  induction es generalizing s with
  | nil => simp
  | cons j es ih =>
    rw [List.foldl_cons, ih, entryAt_modEntry]
    by_cases hij : i = j
    · subst hij
      simp
    · simp [hij]

theorem entryAt_setReady_outside {es : List Nat} {i : Nat} (hi : i ∉ es) (s : State) : entryAt (setReady es s) i = entryAt s i := by
  unfold setReady
  induction es generalizing s with
  | nil => rfl
  | cons j es ih =>
    rw [List.mem_cons, not_or] at hi
    rw [List.foldl_cons, ih hi.2, entryAt_makeReady, if_neg hi.1]

theorem entryAt_setReady_step (es : List Nat) (s : State) (i : Nat) : (entryAt (setReady es s) i).step = (entryAt s i).step := by
  refine foldl_keeps (g := fun u => (entryAt u i).step) (fun u j => ?_) es s
  rw [entryAt_makeReady]
  split_ifs with hij
  · rw [hij]
  · rfl

theorem entryAt_setReady_st {es : List Nat} {i : Nat} (hi : i ∈ es) (s : State) : (entryAt (setReady es s) i).st = .ready := by
  unfold setReady
  induction es generalizing s with
  | nil => cases hi
  | cons j es ih =>
    by_cases hrest : i ∈ es
    · exact ih hrest _
    · obtain rfl : i = j := (List.mem_cons.1 hi).resolve_right hrest
      rw [List.foldl_cons, ← setReady, entryAt_setReady_outside hrest, entryAt_makeReady, if_pos rfl]

/-! ## What each command does to its entry (R251, R252, R255) -/

/-- State `s` with roll entry `i` written. -/
def putEntry (i : Nat) (e : RollEntry) (s : State) : State := { s with roll.entries := tset s.roll.entries i e }

theorem modEntry_eq_putEntry (i : Nat) (f : RollEntry → RollEntry) (s : State) : modEntry i f s = putEntry i (f (entryAt s i)) s := rfl

/-- An entry written and made READY takes the next place of the order. -/
theorem makeReady_putEntry (i : Nat) (e : RollEntry) (s : State) : makeReady i (putEntry i e s) = { s with
    roll.entries := tset s.roll.entries i { e with st := .ready, ppend := false, order := s.roll.readyCount }
    roll.readyCount := s.roll.readyCount + 1 } := by
  simp only [makeReady, putEntry, tmod, tget_tset_same, tset_tset]

section Entry
variable {s : State} {i : Nat} (iss : Issuer)

theorem rollRead_reads (hbar : unitBar s = none) (tag : Nat) : rollRead (regIssuer tag) i s =
    rollOver (regIssuer tag) 0 0 (zeros 8 ++ (entryWords (entryAt s i)).flatMap fun w => leBytes 8 w.toNat)
      { s with roll.regs := entryAt s i } := by
  rw [rollRead, rollCmd_of_no_bar hbar]
  rfl

variable (hbar : jobBar true s = none)
include hbar

theorem rollWrite_writes {e : RollEntry} (hst : (entryAt s i).st = .free ∨ (entryAt s i).st = .done ∨ (entryAt s i).st = .paused)
    (hok : entryOk s i e = true) : rollWrite iss i e s = rollDone iss 0 (makeReady i (putEntry i { e with via := iss.via } s)) := by
  rw [rollWrite, rollJobCmd_of_no_bar hbar]
  rcases hst with hst | hst | hst <;> simp only [hst, hok, if_true] <;> rfl

theorem rollPause_ready (hst : (entryAt s i).st = .ready) :
    rollPause iss i s = rollDone iss 0 (modEntry i (fun e => { e with st := .paused }) s) := by
  simp only [rollPause, rollJobCmd_of_no_bar hbar, hst]

theorem rollPause_inflight (hst : (entryAt s i).st = .inflight) :
    rollPause iss i s = rollDone iss 0 (modEntry i (fun e => { e with ppend := true }) s) := by
  simp only [rollPause, rollJobCmd_of_no_bar hbar, hst]

theorem rollResume_paused (hst : (entryAt s i).st = .paused) : rollResume iss i s = rollDone iss 0 (makeReady i s) := by
  simp only [rollResume, rollJobCmd_of_no_bar hbar, hst]

theorem rollResume_inflight (hst : (entryAt s i).st = .inflight) :
    rollResume iss i s = rollDone iss 0 (modEntry i (fun e => { e with ppend := false }) s) := by
  simp only [rollResume, rollJobCmd_of_no_bar hbar, hst]

theorem rollRelease_frees (hst : (entryAt s i).st = .ready ∨ (entryAt s i).st = .paused ∨ (entryAt s i).st = .done) :
    rollRelease iss i s = rollDone iss 0 (modEntry i (fun e => { e with st := .free, ppend := false }) s) := by
  rcases hst with hst | hst | hst <;> simp only [rollRelease, rollJobCmd_of_no_bar hbar, hst]

theorem rollRelease_inflight (hst : (entryAt s i).st = .inflight) : rollRelease iss i s = rollDone iss 1 s := by
  simp only [rollRelease, rollJobCmd_of_no_bar hbar, hst]

end Entry

/-- Settles O19: each command by the lemma that says what it does to its entry, and the end that the roll gives it. -/
theorem rollEntryCommands : Obligations.RollEntryCommands := by
  intro s v tag i hreach
  refine ⟨fun hbar => ?read, fun hbar hst hok => ?write, fun hbar hst => ?pauseReady, fun hbar hst => ?pauseInflight,
    fun hbar hst => ?resumePaused, fun hbar hst => ?resumeInflight, fun hbar hst => ?release, fun hbar hst => ?releaseInflight⟩
  case read => exact ⟨_, next_of_reaches hreach (rollRead_reads hbar tag), completed_rollOver ..⟩
  case write =>
    refine ⟨_, next_of_reaches hreach (rollWrite_writes _ hbar hst hok), ?_⟩
    rw [makeReady_putEntry]
    exact completed_rollDone ..
  case pauseReady => exact ⟨_, next_of_reaches hreach (rollPause_ready _ hbar hst), completed_rollDone ..⟩
  case pauseInflight => exact ⟨_, next_of_reaches hreach (rollPause_inflight _ hbar hst), completed_rollDone ..⟩
  case resumePaused => exact ⟨_, next_of_reaches hreach (rollResume_paused _ hbar hst), completed_rollDone ..⟩
  case resumeInflight => exact ⟨_, next_of_reaches hreach (rollResume_inflight _ hbar hst), completed_rollDone ..⟩
  case release => exact ⟨_, next_of_reaches hreach (rollRelease_frees _ hbar hst), completed_rollDone ..⟩
  case releaseInflight => exact ⟨_, next_of_reaches hreach (rollRelease_inflight _ hbar hst), completed_rollDone ..⟩

/-! ## What each command does to its circuit (R250, R253, R254) -/

section Done
variable (tag result : Nat) (s : State)

theorem rollDone_tag : (rollDone (regIssuer tag) result s).roll.tag = tag % 256 := Nat.mod_mod ..
theorem rollDone_result : (rollDone (regIssuer tag) result s).roll.result = result := rfl
@[simp] theorem entryAt_rollDone (i : Nat) : entryAt (rollDone (regIssuer tag) result s) i = entryAt s i := rfl
@[simp] theorem circAt_rollDone (c : Nat) : circAt (rollDone (regIssuer tag) result s) c = circAt s c := rfl

/-- A command that changed the roll alone leaves the stalls, the loft and the fault records when it completes. -/
theorem rollDone_frame {s u : State} (hu : RollOnly s u) : (rollDone (regIssuer tag) result u).stalls = s.stalls ∧
    (rollDone (regIssuer tag) result u).loft = s.loft ∧ (rollDone (regIssuer tag) result u).flt = s.flt := by
  rw [hu]
  exact ⟨rfl, rfl, rfl⟩

end Done

/-- The entries that a circuit's pending worklists list. -/
def pendingEntries (s : State) (c : Nat) : List Nat := (circAt s c).pending.flatMap (·.entries)

/-- What DRAIN does to its circuit. -/
def drained (c : Nat) (s : State) : State :=
  modCirc c (fun x => { x with st := if x.flight.isEmpty then .stopped else .draining }) (discardPending c s)

theorem drained_eq (c : Nat) (s : State) : drained c s = modCirc c
    (fun x => { x with pending := [], st := if x.flight.isEmpty then .stopped else .draining }) (setReady (pendingEntries s c) s) := by
  simp only [drained, modCirc, discardPending, tmod, tget_tset_same, tset_tset]
  rfl

theorem circAt_drained (c d : Nat) (s : State) : circAt (drained c s) d =
    if d = c then { circAt s c with pending := [], st := if (circAt s c).flight = [] then .stopped else .draining } else circAt s d := by
  simp only [drained_eq, circAt_modCirc, circAt_setReady, List.isEmpty_iff]

theorem rollOnly_drained (c : Nat) (s : State) : RollOnly s (drained c s) := by
  rw [drained_eq]
  exact congrArg (modCirc c _) (rollOnly_setReady ..)

theorem entryAt_drained (c i : Nat) (s : State) : entryAt (drained c s) i = entryAt (setReady (pendingEntries s c) s) i := rfl

/-- What WORKLIST does to its circuit. -/
def worklisted (c : Nat) (w : Worklist) (s : State) : State :=
  modCirc c (fun x => { x with pending := x.pending ++ [w] }) (setInflight w.entries s)

section Circuit
variable {s : State} {c : Nat} (iss : Issuer) (hbar : jobBar true s = none)
include hbar

theorem rollRun_starts (hrun : s.flt.jstopped = false) (hst : (circAt s c).st = .stopped) : rollRun iss c s =
    rollDone iss 0 (modCirc c (fun x => { x with st := .running, driven := s.roll.mark.getLsbD c }) s) := by
  simp only [rollRun, rollJobCmd_of_no_bar hbar, hrun, hst, Bool.false_eq_true, if_false]

theorem rollDrain_drains (hst : (circAt s c).st = .running ∨ (circAt s c).st = .draining) :
    rollDrain iss c s = rollDone iss 0 (drained c s) := by
  rcases hst with hst | hst <;> simp only [rollDrain, rollJobCmd_of_no_bar hbar, hst] <;> rfl

theorem rollWorklist_queues {b : List Byte} {es : List Nat} (addr : Nat)
    (hes : es = (List.range (byteAt b 1)).map fun i => leAt b (16 + 2 * i) 2) (hok : worklistBar s (byteAt b 0) (byteAt b 1) es = none) :
    rollWorklist iss addr (some b) s =
      rollDone iss 0 (worklisted (byteAt b 0) { tag := leAt b 4 4, via := iss.via, entries := es } s) := by
  subst hes
  simp only [rollWorklist, rollJobCmd_of_no_bar hbar, hok]
  rfl

end Circuit

/-- Settles O20: RUN by `rollRun_starts`, DRAIN by what `drained` leaves of the circuit and of the entries, and WORKLIST by what
`worklisted` leaves of them. -/
theorem rollCircuitCommands : Obligations.RollCircuitCommands := by
  intro s v tag c hreach hbar
  refine ⟨fun hrun hst => ?run, fun hst => ?drain, fun b es hes hok => ?worklist⟩
  case run => exact ⟨_, next_of_reaches hreach (rollRun_starts _ hbar hrun hst), completed_rollDone ..⟩
  case drain =>
    refine ⟨_, next_of_reaches hreach (rollDrain_drains _ hbar hst), rollDone_result .., rollDone_tag .., ?circuit, fun d hd => ?others,
      fun w hw i hi => ?listed, fun i hi => ?unlisted, rollDone_frame _ _ (rollOnly_drained ..)⟩
    case circuit => rw [circAt_rollDone, circAt_drained, if_pos rfl]
    case others => rw [circAt_rollDone, circAt_drained, if_neg hd]
    case listed =>
      rw [entryAt_rollDone, entryAt_drained]
      exact ⟨entryAt_setReady_st (List.mem_flatMap.2 ⟨w, hw, hi⟩) s, entryAt_setReady_step ..⟩
    case unlisted =>
      rw [entryAt_rollDone, entryAt_drained]
      refine entryAt_setReady_outside (fun hmem => ?_) s
      obtain ⟨w, hw, hlisted⟩ := List.mem_flatMap.1 hmem
      exact hi w hw hlisted
  case worklist =>
    refine ⟨_, next_of_reaches hreach (rollWorklist_queues _ hbar _ hes hok), rollDone_result .., rollDone_tag .., ?circuit,
      fun d hd => ?others, fun i => ?entries, rollDone_frame _ _ (congrArg (modCirc _ _) (rollOnly_setInflight ..))⟩
    case circuit => rw [circAt_rollDone, worklisted, circAt_modCirc, if_pos rfl, circAt_setInflight]; rfl
    case others => rw [circAt_rollDone, worklisted, circAt_modCirc, if_neg hd, circAt_setInflight]
    case entries => rw [entryAt_rollDone, worklisted, entryAt_modCirc, entryAt_setInflight]

/-- Settles O21: a write that reaches ROLL_DRIVEN does what `drivenWrite` does with its marks. -/
theorem rollDrivenKeepsEightMarks : Obligations.RollDrivenKeepsEightMarks := by
  intro s value hup
  have hwrite : exec (.rollDrivenWrite .priv value) s = .next (drivenWrite value s) := congrArg _ (regWrite_priv s _ hup)
  refine ⟨fun hmany => ?_, fun hfew => ?_⟩
  · rw [hwrite, drivenWrite, if_pos hmany]
  · rw [hwrite, drivenWrite, if_neg (Nat.not_lt.2 hfew)]

end Sys2Proof.Machine
end

section
/-! PROOFS. Rounds: what the issue of a round leaves in its stalls, its circuit and its samples, what its completion makes of them, and
the statement of O22. -/

namespace Sys2Proof.Machine

/-! ## A round entry in the rings of its stalls (R238, R240) -/

theorem length_roundEntry (s : State) (slot : Nat) (r : CircRec) (num : Nat) (es : List Nat) :
    (roundEntry s slot r num es).length = roundBytes r := by
  rw [roundEntry, padTo, slice, List.length_append, List.length_replicate]
  exact Nat.add_sub_cancel' (List.length_take_le ..)

theorem memRead_memWrite {m : List (Nat × Byte)} (hwf : Memory.wf m = true) (a : Nat) (bs : List Byte) :
    memRead (memWrite m a bs) a bs.length = bs := by
  refine List.ext_getElem (by simp [memRead]) fun i hi hbs => ?_
  simp [memRead, memGet_memWrite hwf, hbs]

/-- A stall with a round entry in its ring, to run next. -/
def ringed (r : CircRec) (num : Nat) (bs : List Byte) (x : Stall) : Stall :=
  { x with scratch := memWrite x.scratch (r.rring + num % r.rdepth * roundBytes r) bs, ring := x.ring ++ [num] }

theorem foldl_ringWrite (r : CircRec) (num : Nat) (bs : List Byte) (ns : List Nat) (s : State) :
    ns.foldl (fun s n => ringWrite r num bs n s) s = modServing (fun _ => ringed r num bs) ns s := by
  unfold modServing
  congr 1
  funext s n
  unfold ringWrite
  cases physOf s n <;> rfl

section Ringed
variable {r : CircRec} {num : Nat} {bs : List Byte} {ns : List Nat} {s : State} {n p : Nat} (hn : n ∈ ns) (hphys : physOf s n = some p)
include hn hphys

theorem ringed_has_round : num ∈ (stallP (modServing (fun _ => ringed r num bs) ns s) p).ring :=
  stallP_modServing_of_mem (P := fun x => num ∈ x.ring) (fun _ _ => List.mem_append_right _ (List.mem_singleton.2 rfl)) hn hphys

/-- What each change leaves of a stall in good order holds of one that serves a logical stall. -/
theorem stallP_modServing_of_mem_inv {f : Nat → Stall → Stall} {I P : Stall → Prop} (hI : ∀ n x, I x → I (f n x))
    (hP : ∀ n x, I x → P (f n x)) (hs : I (stallP s p)) : P (stallP (modServing f ns s) p) := by
  rw [stallP_modServing]
  have hmem : n ∈ ns.filter fun n => physOf s n = some p := List.mem_filter.2 ⟨hn, decide_eq_true hphys⟩
  obtain ⟨init, last, heq⟩ := List.eq_nil_or_concat _ |>.resolve_left (List.ne_nil_of_mem hmem)
  rw [heq, List.concat_eq_append, List.foldl_append, List.foldl_cons, List.foldl_nil]
  exact hP _ _ (List.foldlRecOn (motive := I) init _ hs fun x hx n _ => hI n x hx)

theorem ringed_entry (hbs : bs.length = roundBytes r) (hwf : Memory.wf (stallP s p).scratch = true) :
    memRead (stallP (modServing (fun _ => ringed r num bs) ns s) p).scratch (r.rring + num % r.rdepth * roundBytes r) (roundBytes r) =
      bs := by
  rw [← hbs]
  refine stallP_modServing_of_mem_inv (I := fun x => Memory.wf x.scratch = true)
    (P := fun x => memRead x.scratch (r.rring + num % r.rdepth * bs.length) bs.length = bs) hn hphys (fun _ x hx => memWrite_wf _ _ hx)
    (fun _ x hx => ?_) hwf
  rw [ringed, ← hbs]
  exact memRead_memWrite hx ..

end Ringed

/-! ## The issue of a round (R238, R253, R255) -/

theorem circOf_circuit {s : State} {c slot : Nat} {r : CircRec} (hcirc : circOf s c = some (slot, r)) : r.circuit = c := by
  obtain ⟨k, -, hk⟩ := List.exists_of_findSome?_eq_some hcirc
  obtain ⟨x, hx, heq⟩ := Option.map_eq_some_iff.1 hk
  cases heq
  simpa using List.find?_some hx

/-- A round's entry written into the ring of every stall of its circuit. -/
def roundWritten (c slot : Nat) (r : CircRec) (es : List Nat) (s : State) : State :=
  modServing (fun _ => ringed r (circAt s c).next (roundEntry s slot r (circAt s c).next es)) (circStalls (imgAt s slot) c) s

/-- A round issued: its entry in every ring, its samples INFLIGHT, and the round in flight. -/
def issued (c slot : Nat) (r : CircRec) (es : List Nat) (work : Option (Nat × Via)) (s : State) : State :=
  modCirc c (fun x => { x with
      next := ((circAt s c).next + 1) % 2 ^ 32
      flight := x.flight ++ [{ num := (circAt s c).next, samples := es, ended := [], work := work }] })
    (setInflight es (roundWritten c slot r es s))

theorem issue_eq {c slot : Nat} {r : CircRec} (hc : r.circuit = c) (es : List Nat) (work : Option (Nat × Via)) (s : State) :
    issue slot r es work s = issued c slot r es work s := by
  subst hc
  rw [issued, roundWritten, ← foldl_ringWrite]
  rfl

section Reads
variable (f : Nat → Stall → Stall) (ns es : List Nat) (s : State) (i c p : Nat)

theorem circAt_modServing : circAt (modServing f ns s) c = circAt s c := by rw [modServing_eq]; rfl
theorem entryAt_modServing : entryAt (modServing f ns s) i = entryAt s i := by rw [modServing_eq]; rfl

theorem stallP_setInflight : stallP (setInflight es s) p = stallP s p := by
  have heq : setInflight es s = { s with roll := (setInflight es s).roll } := rollOnly_setInflight es s
  rw [heq]
  rfl

theorem setInflight_frame : (setInflight es s).loft = s.loft ∧ (setInflight es s).flt = s.flt ∧ (setInflight es s).host = s.host := by
  have heq : setInflight es s = { s with roll := (setInflight es s).roll } := rollOnly_setInflight es s
  rw [heq]
  exact ⟨rfl, rfl, rfl⟩

theorem modServing_frame :
    (modServing f ns s).loft = s.loft ∧ (modServing f ns s).flt = s.flt ∧ (modServing f ns s).host = s.host := by
  rw [modServing_eq]
  exact ⟨rfl, rfl, rfl⟩

end Reads

section Issued
variable {c slot : Nat} {r : CircRec} {es : List Nat} {work : Option (Nat × Via)} {s : State}

theorem circAt_issued : circAt (issued c slot r es work s) c = { circAt s c with
    next := ((circAt s c).next + 1) % 2 ^ 32
    flight := (circAt s c).flight ++ [{ num := (circAt s c).next, samples := es, ended := [], work := work }] } := by
  rw [issued, circAt_modCirc, if_pos rfl, circAt_setInflight, roundWritten, circAt_modServing]

theorem entryAt_issued (i : Nat) :
    entryAt (issued c slot r es work s) i = if i ∈ es then { entryAt s i with st := .inflight } else entryAt s i := by
  rw [issued, entryAt_modCirc, entryAt_setInflight, roundWritten, entryAt_modServing]

theorem stallP_issued (p : Nat) : stallP (issued c slot r es work s) p = stallP (roundWritten c slot r es s) p :=
  stallP_setInflight ..

theorem issued_frame : (issued c slot r es work s).loft = s.loft ∧ (issued c slot r es work s).flt = s.flt ∧
    (issued c slot r es work s).host = s.host := by
  obtain ⟨hloft, hflt, hhost⟩ := setInflight_frame es (roundWritten c slot r es s)
  obtain ⟨hloft', hflt', hhost'⟩ : (roundWritten c slot r es s).loft = s.loft ∧ (roundWritten c slot r es s).flt = s.flt ∧
      (roundWritten c slot r es s).host = s.host := modServing_frame ..
  exact ⟨hloft.trans hloft', hflt.trans hflt', hhost.trans hhost'⟩

end Issued

/-- A state with other circuits, as a round's issue leaves it once it has taken the round's worklist. -/
def withCircuits (circuits : Table Circ) (s : State) : State := { s with roll.circuits := circuits }

theorem roundIssue_issues {c slot : Nat} {r : CircRec} {es : List Nat} {s : State} (hcirc : circOf s c = some (slot, r))
    (hrun : (circAt s c).st = .running) (hopen : issueBarred s c = false) (hring : (circAt s c).flight.length < r.rdepth)
    (hdriven : (circAt s c).driven = true → selection s c r = some es)
    (hworklist : (circAt s c).driven = false → ∃ w rest, (circAt s c).pending = w :: rest ∧ w.entries = es) :
    ∃ work circuits, roundIssue c s = issued c slot r es work (withCircuits circuits s) ∧ circAt (withCircuits circuits s) c =
      { circAt s c with pending := if (circAt s c).driven then (circAt s c).pending else (circAt s c).pending.tail } := by
  have hissue : ¬ ((circAt s c).st ≠ .running ∨ issueBarred s c = true ∨ r.rdepth ≤ (circAt s c).flight.length) := by
    simp [hrun, hopen, hring]
  simp only [roundIssue, hcirc, if_neg hissue, issue_eq (circOf_circuit hcirc)]
  by_cases hmark : (circAt s c).driven = true
  · simp only [if_pos hmark, hdriven hmark]
    exact ⟨none, s.roll.circuits, rfl, rfl⟩
  · obtain ⟨w, rest, hpending, rfl⟩ := hworklist (Bool.eq_false_iff.2 hmark)
    simp only [if_neg hmark, hpending]
    refine ⟨some (w.tag, w.via), tmod {} s.roll.circuits c fun x => { x with pending := rest }, rfl, ?_⟩
    exact (circAt_modCirc s c c fun x => { x with pending := rest }).trans (if_pos rfl)

/-! ## The end of a round (R239) -/

/-- What the end of a round makes of one of its samples. -/
def Advanced (e e' : RollEntry) : Prop :=
  e'.step = e.step + 1 ∧ e'.st = (if e.step + 1 = e.nsteps then .done else if e.ppend then .paused else .ready) ∧ e'.ppend = false

section Sample
variable (c i : Nat) (s : State)

theorem entryAt_post (via : Via) (r : CplRec) : entryAt (post via r s) i = entryAt s i := rfl

theorem entryAt_sampleDone_same : Advanced (entryAt s i) (entryAt (sampleDone c i s) i) := by
  unfold sampleDone Advanced
  dsimp only
  split_ifs with hlast hpause
  · simp [entryAt_post, entryAt_modEntry]
  · simp [entryAt_modEntry]
  · simp [entryAt_makeReady, entryAt_modEntry, hpause]

theorem entryAt_sampleDone_other {j : Nat} (hj : j ≠ i) : entryAt (sampleDone c i s) j = entryAt s j := by
  unfold sampleDone
  dsimp only
  split_ifs
  · rw [entryAt_post, entryAt_modEntry, if_neg hj, entryAt_modEntry, if_neg hj]
  · rw [entryAt_modEntry, if_neg hj, entryAt_modEntry, if_neg hj]
  · rw [entryAt_makeReady, if_neg hj, entryAt_modEntry, if_neg hj]

theorem circAt_sampleDone (d : Nat) : circAt (sampleDone c i s) d = circAt s d := by
  unfold sampleDone
  dsimp only
  split_ifs <;> rfl

end Sample

/-- The end of a round changes the roll, the host's queues and the snapshot block, and nothing else. -/
def RoundEnded (s t : State) : Prop := t = { s with roll := t.roll, host := t.host, snap := t.snap }

theorem RoundEnded.trans {s t u : State} (hst : RoundEnded s t) (htu : RoundEnded t u) : RoundEnded s u := by
  unfold RoundEnded at *
  rw [htu, hst]

theorem roundEnded_sampleDone (c i : Nat) (s : State) : RoundEnded s (sampleDone c i s) := by
  unfold RoundEnded sampleDone
  dsimp only
  split_ifs <;> rfl

theorem boundary_eq (s : State) : ∃ snap, boundary s = { s with snap := snap } := by
  rcases hmeasuring : s.snap.measuring with _ | _ | _ | n <;> (simp only [boundary, hmeasuring]; exact ⟨_, rfl⟩)

theorem stepCompleted_eq (c n : Nat) (s : State) : ∃ snap, stepCompleted c n s = { s with snap := snap } := by
  unfold stepCompleted
  split_ifs
  · exact ⟨s.snap, rfl⟩
  · exact boundary_eq s
  · exact ⟨s.snap, rfl⟩

theorem roundEnded_stepCompleted (c n : Nat) (s : State) : RoundEnded s (stepCompleted c n s) := by
  obtain ⟨snap, heq⟩ := stepCompleted_eq c n s
  rw [heq]
  rfl

/-- The samples of a round, each at its next step. -/
def samplesDone (c : Nat) (is : List Nat) (s : State) : State := is.foldl (fun s i => sampleDone c i s) s

theorem roundEnded_samplesDone (c : Nat) (is : List Nat) (s : State) : RoundEnded s (samplesDone c is s) := by
  unfold samplesDone
  induction is generalizing s with
  | nil => rfl
  | cons i is ih => exact (roundEnded_sampleDone c i s).trans (ih _)

theorem circAt_samplesDone (c : Nat) (is : List Nat) (s : State) (d : Nat) : circAt (samplesDone c is s) d = circAt s d :=
  foldl_keeps (g := fun u => circAt u d) (fun u i => circAt_sampleDone c i u d) is s

theorem entryAt_samplesDone_other {is : List Nat} {i : Nat} (hi : i ∉ is) (c : Nat) (s : State) :
    entryAt (samplesDone c is s) i = entryAt s i := by
  unfold samplesDone
  induction is generalizing s with
  | nil => rfl
  | cons j is ih =>
    rw [List.mem_cons, not_or] at hi
    rw [List.foldl_cons, ih hi.2, entryAt_sampleDone_other _ _ _ hi.1]

theorem entryAt_samplesDone_same {is : List Nat} {i : Nat} (hi : i ∈ is) (hnodup : is.Nodup) (c : Nat) (s : State) :
    Advanced (entryAt s i) (entryAt (samplesDone c is s) i) := by
  induction is generalizing s with
  | nil => cases hi
  | cons j is ih =>
    obtain ⟨hj, hrest⟩ := List.nodup_cons.1 hnodup
    rcases List.mem_cons.1 hi with rfl | hmem
    · have hsame : entryAt (samplesDone c (i :: is) s) i = entryAt (sampleDone c i s) i := entryAt_samplesDone_other hj ..
      rw [hsame]
      exact entryAt_sampleDone_same ..
    · have hne : i ≠ j := fun heq => hj (heq ▸ hmem)
      rw [← entryAt_sampleDone_other c j s hne]
      exact ih hmem hrest _

theorem stepCompleted_roll (c n : Nat) (s : State) : (stepCompleted c n s).roll = s.roll := by
  obtain ⟨snap, heq⟩ := stepCompleted_eq c n s
  rw [heq]

/-- The oldest round of a circuit complete, its samples not yet. -/
def roundPopped (c : Nat) (rest : List Round) (s : State) : State :=
  modCirc c (fun x => { x with
    flight := rest
    rounds := (x.rounds + 1) % 2 ^ 32
    st := if x.st == .draining && rest.isEmpty then .stopped else x.st }) s

/-- The command of a worklist completes with its round. -/
def workDone (c : Nat) (f : Round) (s : State) : State :=
  match f.work with
  | some (tag, via) => post via { tag := tag, status := 0, kind := 1, body := leBytes 1 c ++ zeros 3 ++ leBytes 4 f.num } s
  | none => s

theorem workDone_roll (c : Nat) (f : Round) (s : State) : (workDone c f s).roll = s.roll := by
  unfold workDone
  split <;> rfl

theorem roundEnded_workDone (c : Nat) (f : Round) (s : State) : RoundEnded s (workDone c f s) := by
  unfold RoundEnded workDone
  split <;> rfl

/-- What the end of the oldest round leaves, once every stall has ended its program for it. -/
def roundEnd (c : Nat) (f : Round) (rest : List Round) (s : State) : State :=
  stepCompleted c (trainStep (workDone c f (samplesDone c f.samples (roundPopped c rest s))) c f.num)
    (workDone c f (samplesDone c f.samples (roundPopped c rest s)))

section Ended
variable {c slot : Nat} {r : CircRec} {f : Round} {rest : List Round} {s : State}

theorem roundComplete_ends (hcirc : circOf s c = some (slot, r)) (hflight : (circAt s c).flight = f :: rest)
    (hended : ∀ n ∈ circStalls (imgAt s slot) c, n ∈ f.ended) : roundComplete c s = roundEnd c f rest s := by
  have hall : ((circStalls (imgAt s slot) c).all fun n => f.ended.contains n) = true := by simpa using hended
  simp only [roundComplete, hcirc, hflight, hall, Bool.not_true, Bool.false_eq_true, if_false]
  rfl

theorem roundEnd_roll : (roundEnd c f rest s).roll = (samplesDone c f.samples (roundPopped c rest s)).roll := by
  rw [roundEnd, stepCompleted_roll, workDone_roll]

theorem entryAt_roundEnd (i : Nat) : entryAt (roundEnd c f rest s) i = entryAt (samplesDone c f.samples (roundPopped c rest s)) i :=
  congrArg (fun b : RollBlk => tget ({} : RollEntry) b.entries i) roundEnd_roll

theorem circAt_roundEnd : circAt (roundEnd c f rest s) c = { circAt s c with
    flight := rest
    rounds := ((circAt s c).rounds + 1) % 2 ^ 32
    st := if (circAt s c).st == .draining && rest.isEmpty then .stopped else (circAt s c).st } := by
  have hroll : circAt (roundEnd c f rest s) c = circAt (samplesDone c f.samples (roundPopped c rest s)) c :=
    congrArg (fun b : RollBlk => tget ({} : Circ) b.circuits c) roundEnd_roll
  rw [hroll, circAt_samplesDone, roundPopped, circAt_modCirc, if_pos rfl]

theorem roundEnded_roundEnd : RoundEnded s (roundEnd c f rest s) :=
  have hpopped : RoundEnded s (roundPopped c rest s) := rfl
  ((hpopped.trans (roundEnded_samplesDone ..)).trans (roundEnded_workDone ..)).trans (roundEnded_stepCompleted ..)

end Ended

/-- Settles O22: a round's issue by what `issued` leaves of the circuit, the samples and the rings; its end by what `roundEnd` leaves of
them. -/
theorem roundsIssueAndComplete : Obligations.RoundsIssueAndComplete := by
  refine ⟨fun s c slot r es hcirc hrun hopen hring hdriven hworklist => ?issue,
    fun s c slot r f rest hcirc hflight hended hnodup => ?complete⟩
  case issue =>
    obtain ⟨work, circuits, heq, hpending⟩ := roundIssue_issues hcirc hrun hopen hring hdriven hworklist
    have hissued := circAt_issued (c := c) (slot := slot) (r := r) (es := es) (work := work) (s := withCircuits circuits s)
    rw [hpending] at hissued
    refine ⟨_, congrArg Host.Outcome.next heq, ?next,
      ⟨{ num := (circAt s c).next, samples := es, ended := [], work := work }, ?flight, rfl, rfl, rfl⟩, ?pending,
      fun i => entryAt_issued i, fun n hn p hphys => ?rings, issued_frame⟩
    case next => rw [hissued]
    case flight => rw [hissued]
    case pending => rw [hissued]
    case rings =>
      rw [stallP_issued, roundWritten, hpending]
      exact ⟨ringed_has_round hn hphys, fun hwf => ringed_entry hn hphys (length_roundEntry ..) hwf⟩
  case complete =>
    have hframe : roundEnd c f rest s = { s with
        roll := (roundEnd c f rest s).roll, host := (roundEnd c f rest s).host, snap := (roundEnd c f rest s).snap } :=
      roundEnded_roundEnd
    refine ⟨_, congrArg Host.Outcome.next (roundComplete_ends hcirc hflight hended), by rw [circAt_roundEnd], by rw [circAt_roundEnd],
      fun i hi => ?samples, fun i hi => ?others, ?frame⟩
    case samples =>
      rw [entryAt_roundEnd]
      exact entryAt_samplesDone_same hi hnodup c (roundPopped c rest s)
    case others =>
      rw [entryAt_roundEnd]
      exact entryAt_samplesDone_other hi c (roundPopped c rest s)
    case frame =>
      rw [hframe]
      exact ⟨rfl, rfl, rfl⟩

end Sys2Proof.Machine
end

section
/-! PROOFS. Programs: how a stall starts the program of its next round, what the completion of an operation leaves, and the statement of
O23. -/

namespace Sys2Proof.Machine

theorem programStart_starts {s : State} {n p : Nat} {x : Stall} {l : Loaded} {r : Nat} {rest : List Nat}
    (hrun : runningStall s n = some (p, x)) (hidle : x.prog = none) (hloaded : x.loaded = some l) (hring : x.ring = r :: rest)
    (hctx : s.ctx.st = .run) : programStart n s =
      setStallP s p { x with prog := some { round := r, next := l.entry, ops := [] }, ring := rest, lastRound := r } := by
  simp only [programStart, hrun, hidle, hloaded, hring, hctx]

/-! ## The completion of an operation (R161, R237, R483) -/

/-- The program without operation `k`, or none where it was the last one at the program's end. -/
def remaining (g : Prog) (k : Nat) : Option Prog :=
  if g.ops.eraseIdx k = [] ∧ g.next = 0xFFFF then none else some { g with ops := g.ops.eraseIdx k }

/-- The stall of an operation that completes. -/
def completedStall (x : Stall) (g : Prog) (k : Nat) (o : OpCtx) : Stall :=
  { x with tokens := x.tokens ||| o.d.signal, prog := remaining g k }

/-- The state once an operation has left its program and its events are raised. -/
def opLeft (p k : Nat) (g : Prog) (o : OpCtx) (s : State) : State :=
  opEvents p o g.round (setStallP s p (completedStall (stallP s p) g k o))

/-- The same, with the round ended in the stall where that was the last operation at the program's end. -/
def opEnd (n p k : Nat) (g : Prog) (o : OpCtx) (s : State) : State :=
  if g.ops.eraseIdx k = [] ∧ g.next = 0xFFFF then
    programEnds n (((stallP s p).loaded.map (·.circuit)).getD 0) g.round (opLeft p k g o s)
  else opLeft p k g o s

section Events
variable (p : Nat) (o : OpCtx) (round : Nat) (s : State)

/-- The events of an operation are records and nothing else. -/
theorem opEvents_eq : opEvents p o round s = { s with flt := (opEvents p o round s).flt } := by
  unfold opEvents
  generalize [(0x0301, o.satur), (0x0302, o.under), (0x0303, o.nans)] = cs
  induction cs generalizing s with
  | nil => rfl
  | cons c cs ih =>
    rw [List.foldl_cons]
    split_ifs
    · exact ih s
    · exact ih (raiseStall c.1 p (detO o.desc o.inst c.2 round) s)

theorem stallP_opEvents (q : Nat) : stallP (opEvents p o round s) q = stallP s q := by
  rw [opEvents_eq]
  rfl

theorem opEvents_loft : (opEvents p o round s).loft = s.loft := by rw [opEvents_eq]

end Events

/-- Once a program has ended, each round of its circuit with the program's number has the stall among those that ended it. -/
theorem programEnds_ended {n c round : Nat} {s : State} {f : Round} (hf : f ∈ (circAt (programEnds n c round s) c).flight)
    (hnum : f.num = round) : n ∈ f.ended := by
  rw [programEnds, circAt_modCirc, if_pos rfl] at hf
  obtain ⟨f', -, rfl⟩ := List.mem_map.1 hf
  split_ifs at hnum ⊢ with hround
  · exact List.mem_append_right _ (List.mem_singleton.2 rfl)
  · exact absurd hnum hround

section Completes
variable {s : State} {n k p : Nat} {g : Prog} {o : OpCtx}

theorem operationComplete_completes (hphys : physOf s n = some p) (hprog : (stallP s p).prog = some g) (hop : g.ops[k]? = some o)
    (hdevice : stopped s = false) (hjob : (stallP s p).jstop = false) (hctx : s.ctx.st = .run ∨ s.ctx.st = .stopping)
    (hfinished : opFinished (stallP s p) o = true) (hfence : o.d.opcode = 0x7F → k = 0) :
    operationComplete n k s = opEnd n p k g o s := by
  have hfree : ¬ (stopped s = true ∨ (stallP s p).jstop = true ∨ (s.ctx.st ≠ .run ∧ s.ctx.st ≠ .stopping) ∨
      (!opFinished (stallP s p) o) = true ∨ o.d.opcode = 0x7F ∧ k ≠ 0) := by
    rcases hctx with hctx | hctx <;> simpa [hdevice, hjob, hctx, hfinished] using hfence
  have hops : (opsOf (stallP s p))[k]? = some o := by rw [opsOf, hprog]; exact hop
  simp only [operationComplete, hphys, hprog, hops, if_neg hfree, Bool.and_eq_true, List.isEmpty_iff, decide_eq_true_eq]
  rfl

theorem stallP_opEnd_same : stallP (opEnd n p k g o s) p = completedStall (stallP s p) g k o := by
  have hleft : stallP (opLeft p k g o s) p = completedStall (stallP s p) g k o := by
    rw [opLeft, stallP_opEvents, stallP_setStallP_same]
  unfold opEnd
  split_ifs <;> exact hleft

theorem stallP_opEnd_other {q : Nat} (hq : q ≠ p) : stallP (opEnd n p k g o s) q = stallP s q := by
  have hleft : stallP (opLeft p k g o s) q = stallP s q := by
    rw [opLeft, stallP_opEvents, stallP_setStallP, if_neg hq]
  unfold opEnd
  split_ifs <;> exact hleft

theorem opEnd_loft : (opEnd n p k g o s).loft = s.loft := by
  have hleft : (opLeft p k g o s).loft = s.loft := opEvents_loft ..
  unfold opEnd
  split_ifs <;> exact hleft

end Completes

/-- Settles O23: a program's start by `programStart_starts`, and an operation's completion by what `opEnd` leaves of its stall and
`programEnds` of the rounds. -/
theorem operationsStartAndComplete : Obligations.OperationsStartAndComplete := by
  refine ⟨fun s n p x l r rest hrun hidle hloaded hring hctx => ?start,
    fun s n k p g o hphys hprog hop hdevice hjob hctx hfinished hfence => ?complete⟩
  case start => exact congrArg Host.Outcome.next (programStart_starts hrun hidle hloaded hring hctx)
  case complete =>
    refine ⟨opEnd n p k g o s, congrArg Host.Outcome.next
      (operationComplete_completes hphys hprog hop hdevice hjob hctx hfinished hfence), ?tokens, ?prog,
      fun hlast hend l hloaded f hf hnum => ?ended, ?scratch, fun q hq => stallP_opEnd_other hq, opEnd_loft⟩
    case tokens => rw [stallP_opEnd_same, completedStall]
    case prog => rw [stallP_opEnd_same, completedStall, remaining]
    case ended =>
      rw [opEnd, if_pos ⟨hlast, hend⟩, hloaded] at hf
      exact programEnds_ended hf hnum
    case scratch => rw [stallP_opEnd_same, completedStall]

end Sys2Proof.Machine
end

section
/-! PROOFS. Fault records: what a committed record leaves in the logs, what stopping the job or the device leaves, the arbiters of drill
mode, and the statement of O51. -/

namespace Sys2Proof.Machine

/-! ## Messages and commands that end (R383, R385, R440, R470) -/

theorem linkPump_alert (ts left : List HostTxn) (pOk nOk : Bool) (h : HostBlk) : (linkPump ts left pOk nOk h).alert = h.alert := by
  induction ts generalizing left pOk nOk h with
  | nil => rfl
  | cons t ts ih =>
    unfold linkPump
    dsimp only
    split_ifs
    · rfl
    · exact ih ..
    · exact ih ..

theorem hostSend_eq (ts : List HostTxn) (s : State) : hostSend ts s = { s with host := (hostSend ts s).host } := by
  unfold hostSend
  split_ifs <;> rfl

theorem hostSend_alert (ts : List HostTxn) (s : State) : (hostSend ts s).host.alert = s.host.alert := by
  unfold hostSend
  split_ifs
  · exact linkPump_alert ..
  · rfl

/-- Commands of the context and snapshot blocks have ended, with their records in the queues, and nothing else changed. -/
def CommandsEnded (s t : State) : Prop := t = { s with host.queues := t.host.queues, ctx := t.ctx, snap := t.snap }

theorem CommandsEnded.trans {s t u : State} (hst : CommandsEnded s t) (htu : CommandsEnded t u) : CommandsEnded s u := by
  unfold CommandsEnded at *
  rw [htu, hst]

theorem commandsEnded_postCmd (iss : Issuer) (status : Nat) (body : List Byte) (s : State) :
    CommandsEnded s (postCmd iss status body s) := by
  unfold CommandsEnded postCmd doneInflight
  split <;> rfl

theorem commandsEnded_ctxOnFault (s : State) : CommandsEnded s (ctxOnFault s) := by
  unfold ctxOnFault
  split
  · exact .trans (t := { s with ctx := _ }) rfl (commandsEnded_postCmd ..)
  · rfl

theorem commandsEnded_snapAbandon (s : State) : CommandsEnded s (snapAbandon s) := by
  unfold snapAbandon
  dsimp only
  split
  · exact .trans (t := { s with snap := _ }) rfl (commandsEnded_postCmd ..)
  · rfl

theorem commandsEnded_abortDrained (s : State) : CommandsEnded s (abortDrained s) := by
  unfold abortDrained
  split_ifs
  · exact commandsEnded_snapAbandon s
  · rfl
  · rfl

theorem commandsEnded_snapOnJobFault (s : State) : CommandsEnded s (snapOnJobFault s) := by
  unfold snapOnJobFault
  split
  · exact commandsEnded_snapAbandon s
  · split
    · rfl
    · exact .trans (t := { s with snap := _ }) rfl (commandsEnded_abortDrained _)
  · rfl

theorem commandsEnded_snapOnStop (s : State) : CommandsEnded s (snapOnStop s) := by
  unfold snapOnStop
  split
  · exact commandsEnded_snapAbandon s
  · exact commandsEnded_snapAbandon s
  · rfl

/-! ## The job stops (R481, R257) -/

theorem abortGroups_eq (s : State) : abortGroups s = { s with gate := (abortGroups s).gate } := by
  unfold abortGroups
  generalize namedGroups s = gs
  induction gs generalizing s with
  | nil => rfl
  | cons g gs ih => rw [List.foldl_cons, ih, abortGroup, gateQueue_eq, gateQueue_eq]

theorem stopStalls_eq (s : State) : stopStalls s = modServing (fun _ x => { x with jstop := true }) (residentStalls s) s := rfl

/-- A circuit stopped, its rounds and its worklists discarded. -/
def stoppedCirc (x : Circ) : Circ := if x.st == .absent then x else { x with st := .stopped, flight := [], pending := [] }

theorem stoppedCirc_of_present {x : Circ} (hx : x.st ≠ .absent) :
    stoppedCirc x = { x with st := .stopped, flight := [], pending := [] } := if_neg (by simpa using hx)

theorem tget_map {α : Type} {d : α} {f : α → α} (hd : f d = d) (t : Table α) (i : Nat) :
    tget d (t.map fun e => (e.1, f e.2)) i = f (tget d t i) := by
  unfold tget
  rw [tfind_map t (fun _ => f)]
  cases tfind t i with
  | none => exact hd.symm
  | some v => rfl

theorem circAt_stopCircuits (s : State) (c : Nat) : circAt (stopCircuits s) c = stoppedCirc (circAt s c) :=
  (tget_map (f := stoppedCirc) rfl _ c).trans (congrArg stoppedCirc (circAt_setReady (inflightEntries s) s c))

theorem entryAt_stopCircuits (s : State) (j : Nat) : entryAt (stopCircuits s) j = entryAt (setReady (inflightEntries s) s) j := rfl

theorem rollOnly_stopCircuits (s : State) : RollOnly s (stopCircuits s) := by
  have hready : setReady (inflightEntries s) s = { s with roll := (setReady (inflightEntries s) s).roll } := rollOnly_setReady ..
  unfold RollOnly stopCircuits
  rw [← setReady, hready]

theorem mem_inflightEntries {s : State} {j : Nat} (hst : (entryAt s j).st = .inflight) : j ∈ inflightEntries s := by
  unfold entryAt tget at hst
  cases hfind : tfind s.roll.entries j with
  | none => rw [hfind] at hst; cases hst
  | some e =>
    rw [hfind] at hst
    exact List.mem_map.2 ⟨(j, e), List.mem_filter.2 ⟨mem_of_tfind hfind, by simpa using hst⟩, rfl⟩

theorem not_mem_inflightEntries {s : State} {j : Nat} (hst : ∀ e ∈ s.roll.entries, e.1 = j → e.2.st ≠ .inflight) :
    j ∉ inflightEntries s := by
  intro hmem
  obtain ⟨e, he, hj⟩ := List.mem_map.1 hmem
  obtain ⟨hentry, hinflight⟩ := List.mem_filter.1 he
  exact hst e hentry hj (by simpa using hinflight)

/-- What the job's stop does before JSTOPPED. -/
def jobEnded (s : State) : State := snapOnJobFault (ctxOnFault (stopCircuits (stopStalls (abortGroups s))))

/-- What a stop of the job changes: queues, gates, stalls, the roll, the context and the snapshot blocks. -/
def JobEnded (s t : State) : Prop := t = { s with
  host.queues := t.host.queues, gate := t.gate, stalls := t.stalls, roll := t.roll, ctx := t.ctx, snap := t.snap }

theorem JobEnded.trans {s t u : State} (hst : JobEnded s t) (htu : JobEnded t u) : JobEnded s u := by
  unfold JobEnded at *
  rw [htu, hst]

section Reads
variable {s t : State} (hst : JobEnded s t)
include hst

theorem JobEnded.flt : t.flt = s.flt := by
  unfold JobEnded at hst
  rw [hst]

theorem JobEnded.loft : t.loft = s.loft := by
  unfold JobEnded at hst
  rw [hst]

theorem JobEnded.alert : t.host.alert = s.host.alert := by
  unfold JobEnded at hst
  rw [hst]

theorem JobEnded.residents : residentCount t = residentCount s := by
  unfold JobEnded at hst
  rw [hst]
  rfl

end Reads

theorem CommandsEnded.stalls {s t : State} (hst : CommandsEnded s t) : t.stalls = s.stalls := by
  unfold CommandsEnded at hst
  rw [hst]

theorem CommandsEnded.roll {s t : State} (hst : CommandsEnded s t) : t.roll = s.roll := by
  unfold CommandsEnded at hst
  rw [hst]

theorem RollOnly.stalls {s t : State} (hst : RollOnly s t) : t.stalls = s.stalls := by
  unfold RollOnly at hst
  rw [hst]

theorem stallP_congr {s t : State} (hst : t.stalls = s.stalls) (p : Nat) : stallP t p = stallP s p := by
  rw [stallP, stallP, hst]

theorem CommandsEnded.jobEnded {s t : State} (hst : CommandsEnded s t) : JobEnded s t := by
  unfold JobEnded CommandsEnded at *
  rw [hst]

theorem commandsEnded_jobEnded (s : State) : CommandsEnded (stopCircuits (stopStalls (abortGroups s))) (jobEnded s) :=
  (commandsEnded_ctxOnFault _).trans (commandsEnded_snapOnJobFault _)

theorem jobEnded_jobEnded (s : State) : JobEnded s (jobEnded s) := by
  have hgates : JobEnded s (abortGroups s) := by
    unfold JobEnded
    rw [abortGroups_eq]
  have hstalls : JobEnded (abortGroups s) (stopStalls (abortGroups s)) := by
    unfold JobEnded
    rw [stopStalls_eq, modServing_eq]
  have hroll : JobEnded (stopStalls (abortGroups s)) (stopCircuits (stopStalls (abortGroups s))) := by
    have honly := rollOnly_stopCircuits (stopStalls (abortGroups s))
    unfold JobEnded RollOnly at *
    rw [honly]
  exact ((hgates.trans hstalls).trans hroll).trans (commandsEnded_jobEnded s).jobEnded

section JobEnds
variable (s : State)

theorem jobEnded_flt : (jobEnded s).flt = s.flt := (jobEnded_jobEnded s).flt
theorem jobEnded_loft : (jobEnded s).loft = s.loft := (jobEnded_jobEnded s).loft
theorem jobEnded_alert : (jobEnded s).host.alert = s.host.alert := (jobEnded_jobEnded s).alert
theorem jobEnded_residents : residentCount (jobEnded s) = residentCount s := (jobEnded_jobEnded s).residents

theorem stallP_jobEnded (p : Nat) : stallP (jobEnded s) p =
    stallP (modServing (fun _ x => { x with jstop := true }) (residentStalls (abortGroups s)) (abortGroups s)) p :=
  stallP_congr ((commandsEnded_jobEnded s).stalls.trans (rollOnly_stopCircuits _).stalls) p

theorem jobEnded_jstop {n p : Nat} (hn : n ∈ residentStalls s) (hphys : physOf s n = some p) :
    (stallP (jobEnded s) p).jstop = true := by
  rw [stallP_jobEnded]
  refine stallP_modServing_of_mem (P := fun x => x.jstop = true) (n := n) (fun _ _ => rfl) ?_ ?_
  · rwa [abortGroups_eq]
  · rwa [abortGroups_eq]

/-- What the stop flag leaves of every stall. -/
theorem jobEnded_stall_keeps {β : Type} {g : Stall → β} (hg : ∀ x : Stall, g { x with jstop := true } = g x) (p : Nat) :
    g (stallP (jobEnded s) p) = g (stallP s p) := by
  rw [stallP_jobEnded, stallP_modServing_keeps fun _ => hg, abortGroups_eq]
  rfl

/-- The roll's stop reads the roll alone. -/
theorem stopCircuits_roll_congr {s t : State} (hst : t.roll = s.roll) : (stopCircuits t).roll = (stopCircuits s).roll := by
  have hready (es : List Nat) {s t : State} (hst : t.roll = s.roll) : (setReady es t).roll = (setReady es s).roll := by
    unfold setReady
    induction es generalizing s t with
    | nil => exact hst
    | cons i es ih => exact ih (by simp only [makeReady, hst])
  have hes : inflightEntries t = inflightEntries s := by simp only [inflightEntries, hst]
  unfold stopCircuits
  rw [← setReady, ← setReady, hes]
  simp only [hready _ hst]

theorem jobEnded_roll : (jobEnded s).roll = (stopCircuits s).roll := by
  rw [(commandsEnded_jobEnded s).roll]
  refine stopCircuits_roll_congr ?_
  rw [stopStalls_eq, modServing_eq, abortGroups_eq]

theorem circAt_jobEnded (c : Nat) : circAt (jobEnded s) c = stoppedCirc (circAt s c) := by
  rw [← circAt_stopCircuits]
  exact congrArg (fun b : RollBlk => tget ({} : Circ) b.circuits c) (jobEnded_roll s)

theorem entryAt_jobEnded (j : Nat) : entryAt (jobEnded s) j = entryAt (setReady (inflightEntries s) s) j := by
  rw [← entryAt_stopCircuits]
  exact congrArg (fun b : RollBlk => tget ({} : RollEntry) b.entries j) (jobEnded_roll s)

end JobEnds

theorem jobStop_again {s : State} (hstopped : s.flt.jstopped = true) : jobStop s = s := by rw [jobStop, if_pos hstopped]

theorem jobStop_first {s : State} (hrun : s.flt.jstopped = false) :
    jobStop s = if residentCount s = 0 then jobEnded s else { jobEnded s with flt.jstopped := true } := by
  rw [jobStop, if_neg (Bool.eq_false_iff.1 hrun), ← jobEnded]
  dsimp only
  rw [jobEnded_residents]

/-! ## The device stops (R420, R480) -/

/-- What a stop of the device does before its state changes. -/
def deviceEnded (s : State) : State := snapOnStop (bringOnStop (abortGroups s))

theorem bringOnStop_eq (s : State) : bringOnStop s = { s with bring := (bringOnStop s).bring } := by
  unfold bringOnStop
  split <;> rfl

theorem bringOnStop_run (s : State) : (bringOnStop s).bring.run = none := by
  unfold bringOnStop
  split
  · rfl
  · assumption

theorem deviceEnded_eq (s : State) : deviceEnded s = { s with
    host.queues := (deviceEnded s).host.queues, gate := (deviceEnded s).gate, bring := (bringOnStop (abortGroups s)).bring,
    ctx := (deviceEnded s).ctx, snap := (deviceEnded s).snap } := by
  have hended := commandsEnded_snapOnStop (bringOnStop (abortGroups s))
  unfold CommandsEnded at hended
  rw [deviceEnded, hended, bringOnStop_eq, abortGroups_eq]

theorem deviceStop_again {s : State} (hstopped : s.pwr.stopped = true) : deviceStop s = s := by
  rw [deviceStop, stopped, if_pos hstopped]

theorem deviceStop_first {s : State} (hrun : s.pwr.stopped = false) : deviceStop s = { deviceEnded s with
    pwr.stopped := true
    ctx.st := if (deviceEnded s).ctx.st == .stopping then .run else (deviceEnded s).ctx.st
    ctx.preempt := none } := by
  rw [deviceStop, stopped, if_neg (Bool.eq_false_iff.1 hrun)]
  rfl

/-! ## A record committed (R479, R480, R484 to R487) -/

section Effect
variable (r : FRec) (s : State)

theorem jobStop_keeps : (∃ b, (jobStop s).flt = { s.flt with jstopped := b }) ∧ (jobStop s).loft = s.loft ∧
    (jobStop s).host.alert = s.host.alert := by
  cases hrun : s.flt.jstopped with
  | true =>
    rw [jobStop_again hrun]
    exact ⟨⟨_, rfl⟩, rfl, rfl⟩
  | false =>
    have hflt := jobEnded_flt s
    have hloft := jobEnded_loft s
    have halert := jobEnded_alert s
    rw [jobStop_first hrun]
    generalize jobEnded s = u at *
    split_ifs
    · exact ⟨⟨_, hflt⟩, hloft, halert⟩
    · exact ⟨⟨true, by rw [← hflt]⟩, hloft, halert⟩

theorem deviceStop_keeps : (deviceStop s).flt = s.flt ∧ (deviceStop s).loft = s.loft ∧ (deviceStop s).host.alert = s.host.alert := by
  cases hrun : s.pwr.stopped with
  | true =>
    rw [deviceStop_again hrun]
    exact ⟨rfl, rfl, rfl⟩
  | false =>
    rw [deviceStop_first hrun, deviceEnded_eq]
    exact ⟨rfl, rfl, rfl⟩

/-- What its class does leaves a record's own entries in the logs, the loft and the alert. -/
theorem classEffect_keeps : (∃ b, (classEffect r s).flt = { s.flt with jstopped := b }) ∧ (classEffect r s).loft = s.loft ∧
    (classEffect r s).host.alert = s.host.alert := by
  unfold classEffect
  split_ifs
  · exact jobStop_keeps s
  · obtain ⟨hflt, hrest⟩ := deviceStop_keeps s
    exact ⟨⟨_, hflt⟩, hrest⟩
  · exact ⟨⟨_, rfl⟩, rfl, rfl⟩

/-- A record with its number. -/
def stamped : FRec := { r with seq := s.flt.seq }

/-- The record is numbered and in the logs. -/
def recorded : State := { s with
  flt.seq := (s.flt.seq + 1) % 2 ^ 32
  flt.dlog := logAdd (stamped r s) s.flt.dlog
  flt.jlog := if logsJob r && s.sec.owned then logAdd (stamped r s) s.flt.jlog else s.flt.jlog }

/-- The record has also set ALERT and FLT_LAST, if it is no EVENT. -/
def alerted : State := faultAlert (stamped r s)
  (!logDrops (stamped r s) s.flt.dlog || (logsJob r && s.sec.owned && !logDrops (stamped r s) s.flt.jlog)) (recorded r s)

theorem commitRecord_eq : commitRecord r s = classEffect (stamped r s) (alerted r s) := rfl

variable {r}

theorem alerted_event (hclass : codeClass r.code = 0) : alerted r s = recorded r s := if_pos hclass

theorem commitRecord_event (hclass : codeClass r.code = 0) : commitRecord r s = recorded r s := by
  have hcode : codeClass (stamped r s).code = 0 := hclass
  rw [commitRecord_eq, alerted_event s hclass, classEffect, hcode, if_neg (by decide), if_neg (by decide)]

/-- The records' block once a record that is no EVENT is logged. -/
def alertedFlt (r : FRec) (s : State) : FltBlk :=
  { (recorded r s).flt with last := some (stamped r s), linkLogged := s.flt.linkLogged || r.code == 0x0505 }

theorem alerted_eq (hclass : codeClass r.code ≠ 0) :
    ∃ host, alerted r s = { s with host := host, flt := alertedFlt r s } ∧ host.alert = true := by
  have hcode : ¬ codeClass (stamped r s).code = 0 := hclass
  rw [alerted, faultAlert, if_neg hcode]
  split_ifs
  · exact ⟨_, hostSend_eq .., hostSend_alert ..⟩
  · exact ⟨_, rfl, rfl⟩

/-- A record of any class takes its number and its places in the logs. -/
theorem commitRecord_logs : (commitRecord r s).flt.seq = (recorded r s).flt.seq ∧ (commitRecord r s).flt.dlog = (recorded r s).flt.dlog ∧
    (commitRecord r s).flt.jlog = (recorded r s).flt.jlog := by
  by_cases hclass : codeClass r.code = 0
  · rw [commitRecord_event s hclass]
    exact ⟨rfl, rfl, rfl⟩
  · obtain ⟨host, halerted, -⟩ := alerted_eq s hclass
    obtain ⟨⟨b, hflt⟩, -⟩ := classEffect_keeps (stamped r s) (alerted r s)
    rw [commitRecord_eq, hflt, halerted]
    exact ⟨rfl, rfl, rfl⟩

theorem commitRecord_alerts (hclass : codeClass r.code ≠ 0) : (commitRecord r s).flt.last = some (stamped r s) ∧
    (commitRecord r s).host.alert = true ∧ (commitRecord r s).loft = s.loft := by
  obtain ⟨host, halerted, halert⟩ := alerted_eq s hclass
  obtain ⟨⟨b, hflt⟩, hloft, hkept⟩ := classEffect_keeps (stamped r s) (alerted r s)
  rw [commitRecord_eq, hflt, hloft, hkept, halerted]
  exact ⟨rfl, halert, rfl⟩

theorem commitRecord_hold (hclass : codeClass r.code = 2) : commitRecord r s = alerted r s := by
  have hcode : codeClass (stamped r s).code = 2 := hclass
  rw [commitRecord_eq, classEffect, hcode, if_neg (by decide), if_neg (by decide)]

theorem commitRecord_job (hclass : codeClass r.code = 1) : commitRecord r s = jobStop (alerted r s) := if_pos hclass

theorem commitRecord_device (hclass : codeClass r.code = 3) : commitRecord r s = deviceStop (alerted r s) := by
  have hcode : codeClass (stamped r s).code = 3 := hclass
  rw [commitRecord_eq, classEffect, hcode, if_neg (by decide), if_pos rfl]

end Effect

/-- State `t` has only the records' block and the host's changed. -/
def RecordsOnly (s t : State) : Prop := t = { s with host := t.host, flt := t.flt } ∧ t.flt.jstopped = s.flt.jstopped

theorem recordsOnly_alerted {r : FRec} (s : State) (hclass : codeClass r.code ≠ 0) : RecordsOnly s (alerted r s) := by
  obtain ⟨host, halerted, -⟩ := alerted_eq s hclass
  rw [halerted]
  exact ⟨rfl, rfl⟩

section JobStops
variable {s v : State} (hv : RecordsOnly s v) (hrun : s.flt.jstopped = false) (hres : residentCount s ≠ 0)
include hv hrun hres

theorem jobStop_stops : jobStop v = { jobEnded v with flt.jstopped := true } := by
  obtain ⟨heq, hstop⟩ := hv
  have hcount : residentCount v ≠ 0 := by rwa [heq]
  rw [jobStop_first (hstop.trans hrun), if_neg hcount]

/-- The stop leaves what `jobEnded` leaves, but for JSTOPPED. -/
theorem jobStop_reads {β : Type} {g : State → β} (hg : ∀ u flt, g { u with flt := flt } = g u) : g (jobStop v) = g (jobEnded v) := by
  rw [jobStop_stops hv hrun hres]
  exact hg (jobEnded v) _

theorem stallP_jobStop (p : Nat) : stallP (jobStop v) p = stallP (jobEnded v) p :=
  jobStop_reads hv hrun hres (g := fun u => stallP u p) fun _ _ => rfl

theorem jobStop_jstop {n p : Nat} (hn : n ∈ residentStalls s) (hphys : physOf s n = some p) : (stallP (jobStop v) p).jstop = true := by
  rw [stallP_jobStop hv hrun hres]
  refine jobEnded_jstop v (n := n) ?_ ?_
  · rwa [hv.1]
  · rwa [hv.1]

theorem jobStop_stall_keeps {β : Type} {g : Stall → β} (hg : ∀ x : Stall, g { x with jstop := true } = g x) (p : Nat) :
    g (stallP (jobStop v) p) = g (stallP s p) := by
  rw [stallP_jobStop hv hrun hres, jobEnded_stall_keeps v hg, hv.1]
  rfl

theorem circAt_jobStop (c : Nat) : circAt (jobStop v) c = stoppedCirc (circAt s c) := by
  have hended : circAt (jobStop v) c = circAt (jobEnded v) c := jobStop_reads hv hrun hres (g := fun u => circAt u c) fun _ _ => rfl
  rw [hended, circAt_jobEnded, hv.1]
  rfl

theorem entryAt_jobStop (j : Nat) : entryAt (jobStop v) j = entryAt (setReady (inflightEntries v) v) j :=
  (jobStop_reads hv hrun hres (g := fun u => entryAt u j) fun _ _ => rfl).trans (entryAt_jobEnded v j)

theorem entryAt_jobStop_inflight {j : Nat} (hst : (entryAt s j).st = .inflight) :
    (entryAt (jobStop v) j).st = .ready ∧ (entryAt (jobStop v) j).step = (entryAt s j).step := by
  have hentry : entryAt v j = entryAt s j := by rw [hv.1]; rfl
  rw [entryAt_jobStop hv hrun hres, entryAt_setReady_step, hentry]
  exact ⟨entryAt_setReady_st (mem_inflightEntries (by rwa [hentry])) v, rfl⟩

theorem entryAt_jobStop_other {j : Nat} (hst : ∀ e ∈ s.roll.entries, e.1 = j → e.2.st ≠ .inflight) :
    entryAt (jobStop v) j = entryAt s j := by
  have hentry : entryAt v j = entryAt s j := by rw [hv.1]; rfl
  rw [entryAt_jobStop hv hrun hres, ← hentry]
  refine entryAt_setReady_outside (not_mem_inflightEntries ?_) v
  rwa [hv.1]

end JobStops

theorem deviceStop_stops {s v : State} (hv : RecordsOnly s v) (hrun : s.pwr.stopped = false) : (deviceStop v).pwr.stopped = true ∧
    (deviceStop v).bring.run = none ∧ (deviceStop v).ctx.preempt = none ∧ (deviceStop v).stalls = s.stalls ∧
    (deviceStop v).roll = s.roll ∧ (deviceStop v).sec = s.sec := by
  have hpwr : v.pwr.stopped = false := by rwa [hv.1]
  rw [deviceStop_first hpwr, deviceEnded_eq]
  refine ⟨rfl, bringOnStop_run _, rfl, ?_, ?_, ?_⟩
  · rw [hv.1]
  · rw [hv.1]
  · rw [hv.1]

/-! ## The arbiters of drill mode (R25, R26; log entry 52) -/

theorem requests_subset {before l : List FRec} {q : FRec} (hq : q ∈ requests before l) : q ∈ l := by
  induction l generalizing before with
  | nil => exact hq
  | cons r rest ih =>
    rw [requests, List.mem_append] at hq
    rcases hq with hfront | hrest
    · split_ifs at hfront with hwaits
      · cases hfront
      · rw [List.mem_singleton.1 hfront]
        exact List.mem_cons_self ..
    · exact List.mem_cons_of_mem _ (ih hrest)

/-- Of the records of a unit outside the barns, the first is a request. -/
theorem exists_request {before l : List FRec} {q : FRec} (hq : q ∈ l) (hsource : q.source ≠ 0) :
    (∃ x ∈ requests before l, x.source = q.source ∧ x.unit = q.unit) ∨ ∃ x ∈ before, x.source = q.source ∧ x.unit = q.unit := by
  induction l generalizing before with
  | nil => cases hq
  | cons r rest ih =>
    rw [requests]
    by_cases hsame : r.source = q.source ∧ r.unit = q.unit
    · obtain ⟨hrsource, hrunit⟩ := hsame
      by_cases hwaits : waitsBehind before r = true
      · obtain ⟨x, hx, hbehind⟩ := List.any_eq_true.1 hwaits
        have hr : r.source ≠ 0 := hrsource ▸ hsource
        simp [hr] at hbehind
        exact .inr ⟨x, hx, hbehind.1.trans hrsource, hbehind.2.trans hrunit⟩
      · refine .inl ⟨r, ?_, hrsource, hrunit⟩
        rw [if_neg hwaits]
        exact List.mem_cons_self ..
    · have hmem : q ∈ rest := (List.mem_cons.1 hq).resolve_left fun heq => hsame (heq ▸ ⟨rfl, rfl⟩)
      rcases ih (before := before ++ [r]) hmem with ⟨x, hx, hxq⟩ | ⟨x, hx, hxq⟩
      · exact .inl ⟨x, List.mem_append_right _ hx, hxq⟩
      · rcases List.mem_append.1 hx with hbefore | hlast
        · exact .inr ⟨x, hbefore, hxq⟩
        · exact absurd (List.mem_singleton.1 hlast ▸ hxq) hsame

/-- A window in which nothing waits opens anew. -/
theorem grantWindow_opens {win waiting : List Nat} (hdone : ∀ k ∈ win, k ∉ waiting) :
    (grantWindow win waiting).head? = (List.range 42).find? waiting.contains := by
  have hnone : win.filter waiting.contains = [] := List.filter_eq_nil_iff.2 (by simpa using hdone)
  rw [grantWindow, hnone, List.head?_filter]

/-- The least of those that wait is granted first. -/
theorem grantWindow_least {win waiting : List Nat} {k : Nat} (hdone : ∀ j ∈ win, j ∉ waiting) (hk : k ∈ waiting) (hlow : k < 42)
    (hleast : ∀ j ∈ waiting, k ≤ j) : (grantWindow win waiting).head? = some k := by
  rw [grantWindow_opens hdone, List.find?_range_eq_some]
  refine ⟨by simpa using hk, List.mem_range.2 hlow, fun j hj => ?_⟩
  have hnot : j ∉ waiting := fun hmem => Nat.not_le.2 hj (hleast j hmem)
  simpa using hnot

theorem grantWindow_not_least {win waiting : List Nat} {j k : Nat} (hdone : ∀ i ∈ win, i ∉ waiting) (hj : j ∈ waiting) (hless : j < k) :
    (grantWindow win waiting).head? ≠ some k := by
  rw [grantWindow_opens hdone, Ne, List.find?_range_eq_some]
  rintro ⟨-, -, hfirst⟩
  simpa [hj] using hfirst j hless

section Drill
variable {s : State} {i : Nat} {r : FRec}

theorem drillGrant_waits (hwaits : ((s.flt.raised.take i).any fun x => x.source = r.source && x.unit = r.unit) = true) :
    drillGrant i r s = none := by
  have hbehind : waitsBehind (s.flt.raised.take i) r = true := by
    obtain ⟨x, hx, hunit⟩ := List.any_eq_true.1 hwaits
    exact List.any_eq_true.2 ⟨x, hx, by rw [hunit, Bool.true_or]⟩
  simp [drillGrant, hbehind]

theorem pkgIndex_eq_of_unit {x q : FRec} (hsource : x.source = q.source) (hunit : x.unit = q.unit) : pkgIndex x = pkgIndex q := by
  rw [pkgIndex, pkgIndex, hsource, hunit]

theorem drillGrant_not_least {q : FRec} (hq : q ∈ s.flt.raised) (hsource : q.source ≠ 0)
    (hdone : ∀ k ∈ s.flt.pkgWin, k ∉ s.flt.raised.map pkgIndex) (hless : pkgIndex q < pkgIndex r) : drillGrant i r s = none := by
  obtain ⟨x, hx, hxs, hxu⟩ := (exists_request (before := []) hq hsource).resolve_right (by simp)
  have hclosed : ∀ k ∈ s.flt.pkgWin, k ∉ (requests [] s.flt.raised).map pkgIndex := fun k hk hmem => by
    obtain ⟨y, hy, rfl⟩ := List.mem_map.1 hmem
    exact hdone _ hk (List.mem_map.2 ⟨y, requests_subset hy, rfl⟩)
  have hhead := grantWindow_not_least hclosed (List.mem_map.2 ⟨x, hx, pkgIndex_eq_of_unit hxs hxu⟩) hless
  simp [drillGrant, hhead]

/-- The package's and the yard's arbiters grant a record that is the first of all and the least of those that wait. -/
theorem drillGrant_grants (hfirst : s.flt.raised[0]? = some r) (hpkg : s.flt.pkgWin = []) (hyard : s.flt.yardWin = [])
    (hleast : ∀ q ∈ s.flt.raised, pkgIndex r ≤ pkgIndex q) (hlow : pkgIndex r < 42)
    (hunit : ∀ q ∈ s.flt.raised, q.source = 0 → yardOf q.unit = yardOf r.unit → r.unit % 32 ≤ q.unit % 32) :
    ∃ pw yw, drillGrant 0 r s = some { s with flt.pkgWin := pw, flt.yardWin := yw } := by
  obtain ⟨rest, hraised⟩ : ∃ rest, s.flt.raised = r :: rest := by
    cases hlist : s.flt.raised with
    | nil => rw [hlist] at hfirst; cases hfirst
    | cons x rest => rw [hlist] at hfirst; cases hfirst; exact ⟨rest, rfl⟩
  have hrequest : r ∈ requests [] s.flt.raised := by
    rw [hraised, requests]
    exact List.mem_append_left _ (List.mem_singleton.2 rfl)
  have hpkgHead : (grantWindow [] ((requests [] s.flt.raised).map pkgIndex)).head? = some (pkgIndex r) := by
    refine grantWindow_least (by simp) (List.mem_map.2 ⟨r, hrequest, rfl⟩) hlow fun j hj => ?_
    obtain ⟨q, hq, rfl⟩ := List.mem_map.1 hj
    exact hleast q (requests_subset hq)
  have hyardHead : r.source = 0 → (grantWindow [] (yardWaiting s (yardOf r.unit))).head? = some (r.unit % 32) := fun hsource => by
    refine grantWindow_least (by simp) (List.mem_map.2 ⟨r, List.mem_filter.2 ⟨hrequest, by simp [hsource]⟩, rfl⟩) (by omega) fun j hj => ?_
    obtain ⟨q, hq, rfl⟩ := List.mem_map.1 hj
    obtain ⟨hmem, hsame⟩ := List.mem_filter.1 hq
    simp only [Bool.and_eq_true, decide_eq_true_eq] at hsame
    exact hunit q (requests_subset hmem) hsame.1 hsame.2
  unfold drillGrant
  dsimp only
  rw [hpkg, hyard, tget_nil, hpkgHead, if_neg]
  · exact ⟨_, _, rfl⟩
  · by_cases hsource : r.source = 0
    · simp [waitsBehind, hsource, hyardHead hsource]
    · simp [waitsBehind, hsource]

/-! ## The commit of raised record `i` (R479) -/

/-- Raised record `i` taken from those that wait. -/
def unraised (i : Nat) (s : State) : State := { s with flt.raised := s.flt.raised.eraseIdx i }

theorem commitAt_absent (hnone : s.flt.raised[i]? = none) : commitAt i s = s := by
  unfold commitAt
  rw [hnone]

theorem commitAt_main (hsome : s.flt.raised[i]? = some r) (hmain : s.bring.drill = false) :
    commitAt i s = commitRecord r (unraised i s) := by
  unfold commitAt
  simp only [hsome, hmain, Bool.false_eq_true, if_false, unraised]

theorem commitAt_refused (hsome : s.flt.raised[i]? = some r) (hdrill : s.bring.drill = true) (hgrant : drillGrant i r s = none) :
    commitAt i s = s := by
  unfold commitAt
  simp only [hsome, hdrill, hgrant, if_true]

theorem commitAt_granted {u : State} (hsome : s.flt.raised[i]? = some r) (hdrill : s.bring.drill = true)
    (hgrant : drillGrant i r s = some u) : commitAt i s = commitRecord r (unraised i u) := by
  unfold commitAt
  simp only [hsome, hdrill, hgrant, if_true, unraised]

end Drill

/-- Settles O51: in drill mode by what `drillGrant` grants; in main mode by what a record's commit leaves in the logs, and what each class
does. -/
theorem faultRecordsCommit : Obligations.FaultRecordsCommit := by
  intro s i
  refine ⟨fun hnone => congrArg Host.Outcome.next (commitAt_absent hnone), fun r hsome hdrill => ?drill, fun r hsome hmain => ?main⟩
  case drill =>
    refine ⟨fun hwaits => ?waits, fun q hq hqs hrs hdone hless => ?turn, fun hfirst hpkg hyard hleast hlow hunit => ?grants⟩
    case waits => exact congrArg Host.Outcome.next (commitAt_refused hsome hdrill (drillGrant_waits hwaits))
    case turn => exact congrArg Host.Outcome.next (commitAt_refused hsome hdrill (drillGrant_not_least hq hqs hdone hless))
    case grants =>
      subst hfirst
      obtain ⟨pw, yw, hgrant⟩ := drillGrant_grants hsome hpkg hyard hleast hlow hunit
      obtain ⟨hseq, hdlog, -⟩ := commitRecord_logs (r := r) (unraised 0 { s with flt.pkgWin := pw, flt.yardWin := yw })
      exact ⟨_, congrArg Host.Outcome.next (commitAt_granted hsome hdrill hgrant), hseq, hdlog⟩
  case main =>
    have hexec : exec (.faultRecordCommit i) s = .next (commitRecord r (unraised i s)) :=
      congrArg Host.Outcome.next (commitAt_main hsome hmain)
    rw [hexec]
    refine ⟨fun hclass => congrArg Host.Outcome.next (commitRecord_event _ hclass), fun hclass => ?_⟩
    have hv := recordsOnly_alerted (unraised i s) hclass
    obtain ⟨hseq, hdlog, hjlog⟩ := commitRecord_logs (r := r) (unraised i s)
    obtain ⟨hlast, halert, hloft⟩ := commitRecord_alerts (unraised i s) hclass
    refine ⟨_, rfl, hseq, hdlog, hjlog, hlast, halert, hloft, fun hhold => ?hold, fun hjob hstop => ?jobAgain,
      fun hjob hrun hres => ?jobFirst, fun hdevice hrun => ?device⟩
    case hold =>
      rw [commitRecord_hold _ hhold]
      exact hv
    case jobAgain =>
      rw [commitRecord_job _ hjob, jobStop_again (hv.2.trans hstop)]
      exact ⟨hv.1, hv.2.trans hstop⟩
    case jobFirst =>
      rw [commitRecord_job _ hjob]
      refine ⟨?jstopped, fun n hn p hphys => jobStop_jstop hv hrun hres hn hphys,
        fun p => ⟨jobStop_stall_keeps hv hrun hres (g := Stall.prog) (fun _ => rfl) p,
          jobStop_stall_keeps hv hrun hres (g := Stall.scratch) (fun _ => rfl) p⟩,
        fun c hc => ?circuits, fun j hst => entryAt_jobStop_inflight hv hrun hres hst,
        fun j _ hst => entryAt_jobStop_other hv hrun hres hst⟩
      case jstopped => rw [jobStop_stops hv hrun hres]
      case circuits =>
        have hcirc := (circAt_jobStop hv hrun hres c).trans (stoppedCirc_of_present hc)
        rw [hcirc]
        exact ⟨rfl, rfl, rfl⟩
    case device =>
      rw [commitRecord_device _ hdevice]
      exact deviceStop_stops hv hrun

end Sys2Proof.Machine
end

section
/-! PROOFS. The registers that a rule locks: what a write to each does where the rule lets it through and where the rule bars it, the seed
and the bases across the end of a LOAD, and the statement of O35. -/

namespace Sys2Proof.Machine

section Registers
variable {s : State}

/-! ## The loft's map and partitions (R301, R302) -/

/-- The map moves the loft's bytes and poisoned words, and nothing else of the device (R302). -/
theorem remapped_eq (loc cloc : Nat) (s : State) : remapped loc cloc s = { s with loft := { s.loft with
    loc := loc, cloc := cloc, mem := (remapped loc cloc s).loft.mem, poison := (remapped loc cloc s).loft.poison } } := rfl

theorem areaSlice_congr {t : State} (hbring : t.bring = s.bring) : areaSlice t = areaSlice s := by
  funext b a
  unfold areaSlice physOf pstAt
  rw [hbring]

/-- Where a byte of a slice is read depends on the map and the homes only (R283, R284). -/
theorem addrOf_congr {t : State} (hloc : t.loft.loc = s.loft.loc) (hcloc : t.loft.cloc = s.loft.cloc) (hbring : t.bring = s.bring) :
    addrOf t = addrOf s := by
  funext slice byte
  unfold addrOf interleaved jobLocal cacheLocal
  rw [hloc, hcloc, areaSlice_congr hbring]

/-- Each byte is read at the address that the new map gives its place in its slice (R302). The place stays a variable where its pair is
taken apart: the kernel would evaluate `sliceOf` there. -/
theorem remapped_mem (loc cloc : Nat) (s : State) : (remapped loc cloc s).loft.mem = memCells [] (s.loft.mem.map fun c =>
    (addrOf (remapped loc cloc s) (sliceOf s c.1).1 (sliceOf s c.1).2, c.2)) := by
  have hmap : addrOf (remapped loc cloc s) = addrOf { s with loft.loc := loc, loft.cloc := cloc } := addrOf_congr rfl rfl rfl
  have hplace (t : State) (place : Nat × Nat) :
      (let (slice, byte) := place; addrOf t slice byte) = addrOf t place.1 place.2 := rfl
  rw [hmap]
  exact congrArg (fun read => memCells [] (s.loft.mem.map fun c => (read (sliceOf s c.1), c.2))) (funext (hplace _))

theorem loftMapSet_takes {value : W64} (hparts : ∀ j, (partAt s j).access = 0) (hslots : ∀ e ∈ s.syl.slots, e.2.st = .empty)
    (hfits : fld value 7 0 + fld value 15 8 ≤ 128) : loftMapSet value s = remapped (fld value 7 0) (fld value 15 8) s :=
  if_neg (by simpa [hparts, hfits] using fun k x => hslots (k, x))

theorem loftMapSet_refuses {value : W64}
    (hbar : (∃ j, j < 16 ∧ (partAt s j).access ≠ 0) ∨ (∃ e ∈ s.syl.slots, e.2.st ≠ .empty) ∨ 128 < fld value 7 0 + fld value 15 8) :
    loftMapSet value s = { s with loft.mrefused := true } := if_pos (by simpa using hbar)

theorem loftPartSet_takes {i : Nat} {value : W64} (hopen : partRefused s i value = false) : loftPartSet i value s = { s with
    loft.parts := tset s.loft.parts i { access := fld value 63 62, base := fld value 17 0, limit := fld value 49 32 } } :=
  if_neg (Bool.eq_false_iff.1 hopen)

theorem loftPartSet_refuses {i : Nat} {value : W64} (hbar : partRefused s i value = true) :
    loftPartSet i value s = { s with loft.prefused := true } := if_pos hbar

/-! ## The gates' node, groups and routes (R327, R336) -/

theorem nodeWrite_takes (hoff : ∀ e ∈ s.gate.gates, e.2.en = false) (value : W64) :
    nodeWrite value s = { s with gate.node := fld value 47 0 } := if_neg (by simpa using hoff)

theorem nodeWrite_refuses (hon : ∃ e ∈ s.gate.gates, e.2.en = true) (value : W64) :
    nodeWrite value s = { s with gate.grefused := true } := if_pos (List.any_eq_true.2 hon)

theorem groupWrite_takes {g : Nat} (hopen : g ∉ namedGroups s) (value : W64) :
    groupWrite g value s = { s with gate.groups := tset s.gate.groups g (value &&& groupMask) } := if_neg (by simpa using hopen)

theorem groupWrite_refuses {g : Nat} (hnamed : g ∈ namedGroups s) (value : W64) :
    groupWrite g value s = { s with gate.grefused := true } := if_pos (List.contains_iff_mem.2 hnamed)

theorem routeWrite_takes {r : Nat} (hopen : routeNamed s r = false) (hi : Bool) (value : W64) : routeWrite r hi value s =
    if hi then { s with gate.routeHi := tset s.gate.routeHi r (value &&& routeHiMask) }
    else { s with gate.routeLo := tset s.gate.routeLo r (value &&& routeLoMask) } := if_neg (Bool.eq_false_iff.1 hopen)

theorem routeWrite_refuses {r : Nat} (hnamed : routeNamed s r = true) (hi : Bool) (value : W64) :
    routeWrite r hi value s = { s with gate.rrefused := true } := if_pos hnamed

/-! ## The RNG's seed and bases (R267) -/

theorem seedWrite_takes (hidle : ∀ e ∈ s.roll.circuits, circBusy e.2 = false) (value : W64) :
    seedWrite value s = { s with rng.seed := value } := if_neg (by simpa using hidle)

theorem seedWrite_drops (hbusy : ∃ e ∈ s.roll.circuits, circBusy e.2 = true) (value : W64) :
    seedWrite value s = { s with rng.wdrop := true } := if_pos (List.any_eq_true.2 hbusy)

theorem baseWrite_takes {c : Nat} (hidle : circBusy (circAt s c) = false) (value : W64) :
    baseWrite c value s = { s with rng.base := tset s.rng.base c (fld value 31 0) } := if_neg (Bool.eq_false_iff.1 hidle)

theorem baseWrite_drops {c : Nat} (hbusy : circBusy (circAt s c) = true) (value : W64) :
    baseWrite c value s = { s with rng.wdrop := true } := if_pos hbusy

end Registers

/-! ## The fields of GATE_GROUP_g (R336) -/

/-- The fields of two words joined by AND are joined by AND. -/
theorem fld_and (v w : W64) (hi lo : Nat) : fld (v &&& w) hi lo = fld v hi lo &&& fld w hi lo := by
  simp only [fld, bits, BitVec.toNat_and, Nat.and_div_two_pow, Nat.and_mod_two_pow]

/-- A mask leaves a field whose bits it has all set. -/
theorem fld_and_of_ones {m : W64} {hi lo : Nat} (hones : fld m hi lo = 2 ^ (hi + 1 - lo) - 1) (w : W64) :
    fld (w &&& m) hi lo = fld w hi lo := by
  rw [fld_and, hones, Nat.and_two_pow_sub_one_eq_mod, Nat.mod_eq_of_lt (fld_lt w hi lo)]

/-- GATE_GROUP_g reads in every field what was written there: the mask clears reserved bits only. -/
theorem groupMask_fields (w : W64) : grpValid (w &&& groupMask) = w.getLsbD 63 ∧ grpNmem (w &&& groupMask) = fld w 62 51 ∧
    grpSelf (w &&& groupMask) = fld w 50 40 ∧ grpPeer (w &&& groupMask) = fld w 39 29 ∧ grpRbase (w &&& groupMask) = fld w 10 0 := by
  have hvalid : grpValid (w &&& groupMask) = w.getLsbD 63 := by
    rw [grpValid, fld_and_of_ones (by decide)]
    simp only [fld_bit_eq_one_iff, Bool.decide_eq_true]
  exact ⟨hvalid, fld_and_of_ones (by decide) w, fld_and_of_ones (by decide) w, fld_and_of_ones (by decide) w,
    fld_and_of_ones (by decide) w⟩

/-! ## The RNG's registers at the end of a LOAD (R227, R267) -/

/-- The seed and the bases that circuits draw from. -/
def rngRegs (s : State) : W64 × Table Nat := (s.rng.seed, s.rng.base)

theorem rngRegs_commitImage (k : Nat) (s : State) : rngRegs (commitImage k s) = rngRegs s := by
  rw [commitImage_reads (g := rngRegs) fun _ => rfl]
  simp only [rngRegs, commitRegisters]

theorem rngRegs_sylFault (code slot sec off check : Nat) (s : State) : rngRegs (sylFault code slot sec off check s) = rngRegs s := by
  simp only [rngRegs, sylFault, raiseHub_rng]

theorem rngRegs_eccApply (ecc : EccReport) (reads : Nat → Bool) (access : Nat) (s : State) :
    rngRegs (eccApply ecc reads access s) = rngRegs s := by
  simp only [rngRegs, eccApply_rng]

theorem exec_sylLoadCommit_idle {s : State} (hload : s.syl.load = none) (ecc : EccReport) :
    exec (.sylLoadCommit ecc) s = .next s := by
  refine congrArg Host.Outcome.next ?_
  unfold loadCommit
  rw [hload]

/-- A load commits its image where no word of it is poisoned or found uncorrectable, whatever was corrected (R225, R227, R290). -/
theorem exec_sylLoadCommit_readable {s : State} {l : LoadRun} {ecc : EccReport} (hload : s.syl.load = some l)
    (hsound : ∀ w ∈ cachedWords (slotAt s l.slot), poisonedWord s w = false ∧ w ∉ ecc.uncorrectable) :
    ∃ t, exec (.sylLoadCommit ecc) s = .next t ∧ LoadEnded l.issuer 0 (releaseHold (commitImage l.slot
      (imageTaken l (eccApply ecc (cachedWords (slotAt s l.slot)).contains 0 s)))) t := by
  refine ⟨_, congrArg Host.Outcome.next ?_, loadEnded_deferredPreempt loadEnded_loadDone⟩
  have hnone : (cachedWords (slotAt s l.slot)).any (poisonedWord (eccApply ecc (cachedWords (slotAt s l.slot)).contains 0 s)) = false := by
    refine List.any_eq_false.2 fun w hw hpoison => ?_
    obtain ⟨hclean, hfound⟩ := hsound w hw
    rcases (poisonedWord_eccApply ..).1 hpoison with ⟨hnew, -⟩ | hold
    · exact hfound hnew
    · exact Bool.eq_false_iff.1 hclean hold
  have hslot : slotAt (eccApply ecc (cachedWords (slotAt s l.slot)).contains 0 s) l.slot = slotAt s l.slot := by
    rw [slotAt, eccApply_syl, slotAt]
  unfold loadCommit
  rw [hload, imageTaken, hslot]
  exact if_neg (Bool.eq_false_iff.1 hnone)

/-- However a LOAD ends, it leaves the seed and the bases. -/
theorem exec_sylLoadCommit_rngRegs (ecc : EccReport) (s : State) :
    ∃ t, exec (.sylLoadCommit ecc) s = .next t ∧ rngRegs t = rngRegs s := by
  cases hload : s.syl.load with
  | none => exact ⟨s, exec_sylLoadCommit_idle hload ecc, rfl⟩
  | some l =>
    by_cases hbad : ∃ w ∈ cachedWords (slotAt s l.slot), poisonedWord s w = true ∨ w ∈ ecc.uncorrectable
    · obtain ⟨t, hexec, hended⟩ := exec_sylLoadCommit_damaged hload hbad
      refine ⟨t, hexec, ?_⟩
      rw [hended.reads rngRegs fun _ _ _ _ => rfl, rngRegs_sylFault]
      exact rngRegs_eccApply ..
    · obtain ⟨t, hexec, hended⟩ := exec_sylLoadCommit_readable (ecc := ecc) hload (by simpa using hbad)
      refine ⟨t, hexec, ?_⟩
      rw [hended.reads_released rngRegs fun _ _ _ _ => rfl, rngRegs_commitImage]
      exact rngRegs_eccApply ..

/-- Settles O35: each register by what its write does where the rule lets it through and where the rule bars it, and the end of a LOAD by
`exec_sylLoadCommit_rngRegs`. -/
theorem lockedRegisters : Obligations.LockedRegisters := by
  intro s value i hup
  have write {addr : Nat} {f : State → State} {t : State} (heffect : f s = t) :
      (.next (regWrite .priv addr f s) : Host.Outcome State Fault Refusal) = .next t :=
    next_of_reaches ⟨hup, fun hview => nomatch hview⟩ heffect
  refine ⟨fun hparts hslots hfits => ?map, fun hbar => write (loftMapSet_refuses hbar), fun hopen => write (loftPartSet_takes hopen),
    fun hbar => write (loftPartSet_refuses hbar), fun hoff => write (nodeWrite_takes hoff value),
    fun hon => write (nodeWrite_refuses hon value), fun hopen => ?group, fun hnamed => write (groupWrite_refuses hnamed value),
    fun hi hnamed => write (routeWrite_refuses hnamed hi value),
    fun hopen => ⟨write (routeWrite_takes hopen false value), write (routeWrite_takes hopen true value)⟩,
    fun hidle => write (seedWrite_takes hidle value), fun hbusy => write (seedWrite_drops hbusy value),
    fun hidle => write (baseWrite_takes hidle value), fun hbusy => write (baseWrite_drops hbusy value), fun ecc => ?load⟩
  case map => exact ⟨_, write (loftMapSet_takes hparts hslots hfits), rfl, rfl, remapped_eq .., remapped_mem ..⟩
  case group =>
    have hsame : groupAt { s with gate.groups := tset s.gate.groups i (value &&& groupMask) } i = value &&& groupMask :=
      tget_tset_same ..
    obtain ⟨hvalid, hnmem, hself, hpeer, hrbase⟩ := groupMask_fields value
    refine ⟨_, write (groupWrite_takes hopen value), rfl, ?_⟩
    rw [hsame]
    exact ⟨hvalid, hnmem, hself, hpeer, hrbase, fun j hj => (tget_tset ..).trans (if_neg hj)⟩
  case load =>
    obtain ⟨t, hexec, hregs⟩ := exec_sylLoadCommit_rngRegs ecc s
    exact ⟨t, hexec, congrArg Prod.fst hregs, congrArg Prod.snd hregs⟩

end Sys2Proof.Machine
end

section
/-! PROOFS. The canonical form of the loft and of the scratch: what it reads, and how the loft, the gates, the fault records and the roll
keep it. -/

namespace Sys2Proof.Machine

/-! ## What the form reads

Each function of the model has one lemma here. Where it writes no byte of the loft and of no scratch, the form after it holds iff it held
before; where it writes some, it keeps the form. -/

/-- The scratch of every stall of a table is in canonical form. -/
def ScratchesCanonical (stalls : Table Stall) : Prop := ∀ e ∈ stalls, Memory.wf e.2.scratch = true

section Rules
variable {α : Type} {s u : State} {stalls : Table Stall} {p : Nat}

@[simp] theorem canonical_mk (pending free pins dev host pwr bring sec syl roll rng loft stalls yardCtr yardBeats hubCtr fab gate vid ctx
    snap flt smb) :
    MemoriesCanonical ⟨pending, free, pins, dev, host, pwr, bring, sec, syl, roll, rng, loft, stalls, yardCtr, yardBeats, hubCtr, fab, gate,
      vid, ctx, snap, flt, smb⟩ ↔ Memory.wf loft.mem = true ∧ ScratchesCanonical stalls := Iff.rfl

@[simp] theorem canonical_fold : Memory.wf s.loft.mem = true ∧ ScratchesCanonical s.stalls ↔ MemoriesCanonical s := Iff.rfl

@[simp] theorem canonical_ite (c : Prop) [Decidable c] :
    MemoriesCanonical (if c then s else u) ↔ if c then MemoriesCanonical s else MemoriesCanonical u := by
  split_ifs <;> rfl

@[simp] theorem canonical_foldl_iff {f : State → α → State} (h : ∀ u a, MemoriesCanonical (f u a) ↔ MemoriesCanonical u) (l : List α)
    (s : State) : MemoriesCanonical (l.foldl f s) ↔ MemoriesCanonical s :=
  iff_of_eq (foldl_keeps (g := MemoriesCanonical) (fun u a => propext (h u a)) l s)

theorem canonical_foldl {f : State → α → State} (h : ∀ u a, MemoriesCanonical u → MemoriesCanonical (f u a)) (l : List α)
    (hs : MemoriesCanonical s) : MemoriesCanonical (l.foldl f s) :=
  List.foldlRecOn l f hs fun u hu a _ => h u a hu

theorem Got.Gives.mono {P Q : α → Prop} {g : Got α} (hg : g.Gives P) (hPQ : ∀ a, P a → Q a) : g.Gives Q := fun a ha => hPQ a (hg a ha)

/-- What `f` gives of all that `g` gives. -/
theorem Got.Gives.bind {β : Type} {P : β → Prop} {Q : α → Prop} {g : Got β} {f : β → Got α} (hg : g.Gives P) (hf : ∀ b, P b → (f b).Gives Q)
    : (g.bind f).Gives Q :=
  (gives_bind g f).2 (hg.mono hf)

/-- A stall that is read is listed, or is the one after reset, whose scratch is empty. -/
theorem scratch_wf_tget (hstalls : ScratchesCanonical stalls) : Memory.wf (tget {} stalls p).scratch = true := by
  unfold tget
  cases hfind : tfind stalls p with
  | none => rfl
  | some x => exact hstalls _ (mem_of_tfind hfind)

theorem scratch_wf_stallP (hs : MemoriesCanonical s) : Memory.wf (stallP s p).scratch = true := scratch_wf_tget hs.2

theorem scratchesCanonical_tset {x : Stall} (hstalls : ScratchesCanonical stalls) (hx : Memory.wf x.scratch = true) :
    ScratchesCanonical (tset stalls p x) := fun e he => by
  obtain rfl | he := mem_tset he
  · exact hx
  · exact hstalls e he

/-- What a table lists is still listed after a set, or is what it read at the index. -/
theorem mem_tset_or_eq_tget {d : α} {t : Table α} {i : Nat} {v : α} {e : Nat × α} (he : e ∈ t) : e ∈ tset t i v ∨ e.2 = tget d t i := by
  induction t with
  | nil => cases he
  | cons c r ih =>
    obtain ⟨j, w⟩ := c
    unfold tset
    split_ifs with hlt heq
    · exact .inl (List.mem_cons_of_mem _ he)
    · subst heq
      obtain rfl | he := List.mem_cons.1 he
      · exact .inr (by simp [tget, tfind])
      · exact .inl (List.mem_cons_of_mem _ he)
    · obtain rfl | he := List.mem_cons.1 he
      · exact .inl List.mem_cons_self
      · have hread : tget d ((j, w) :: r) i = tget d r i := by simp [tget, tfind, Ne.symm heq]
        rw [hread]
        exact (ih he).imp_left (List.mem_cons_of_mem _)

/-- A stall replaced by one with the same scratch. -/
theorem scratchesCanonical_tset_iff {x : Stall} (hx : x.scratch = (tget {} stalls p).scratch) :
    ScratchesCanonical (tset stalls p x) ↔ ScratchesCanonical stalls := by
  constructor
  · intro hset e he
    obtain he | heq := mem_tset_or_eq_tget (d := {}) (i := p) (v := x) he
    · exact hset e he
    · rw [heq, ← hx]
      simpa using scratch_wf_tget (p := p) hset
  · exact fun hstalls => scratchesCanonical_tset hstalls (hx ▸ scratch_wf_tget hstalls)

/-- Stalls changed one by one, each by a change that keeps its scratch. -/
theorem scratchesCanonical_map_iff {f : Nat × Stall → Nat × Stall} (hf : ∀ e, (f e).2.scratch = e.2.scratch) :
    ScratchesCanonical (stalls.map f) ↔ ScratchesCanonical stalls :=
  List.forall_mem_map.trans (by simp only [hf, ScratchesCanonical])

theorem scratchesCanonical_map {f : Nat × Stall → Nat × Stall} (hf : ∀ e, Memory.wf e.2.scratch = true → Memory.wf (f e).2.scratch = true)
    (hstalls : ScratchesCanonical stalls) : ScratchesCanonical (stalls.map f) :=
  List.forall_mem_map.2 fun e he => hf e (hstalls e he)

/-- A stall replaced by one whose scratch is canonical. -/
theorem canonical_setStallP {x : Stall} (hs : MemoriesCanonical s) (hx : Memory.wf x.scratch = true) :
    MemoriesCanonical (setStallP s p x) :=
  ⟨hs.1, scratchesCanonical_tset hs.2 hx⟩

/-- A stall replaced by one with the same scratch. -/
@[simp] theorem canonical_setStallP_iff {x : Stall} (hx : x.scratch = (stallP s p).scratch) :
    MemoriesCanonical (setStallP s p x) ↔ MemoriesCanonical s :=
  and_congr_right fun _ => scratchesCanonical_tset_iff hx

theorem canonical_modStallP {f : Stall → Stall} (hs : MemoriesCanonical s)
    (hf : Memory.wf (stallP s p).scratch = true → Memory.wf (f (stallP s p)).scratch = true) : MemoriesCanonical (modStallP p f s) :=
  canonical_setStallP hs (hf (scratch_wf_stallP hs))

/-- A stall changed by a change that keeps its scratch. -/
@[simp] theorem canonical_modStallP_iff {f : Stall → Stall} (hf : ∀ x, (f x).scratch = x.scratch) :
    MemoriesCanonical (modStallP p f s) ↔ MemoriesCanonical s :=
  canonical_setStallP_iff (hf _)

/-- An operation is beside its stall's scratch. -/
@[simp] theorem setOp_scratch {x : Stall} {k : Nat} {o : OpCtx} : (setOp x k o).scratch = x.scratch := by rfl

end Rules

/-! ## Shared operations, the loft and the gates -/

section SharedOperations
variable {s : State} {p n a tag g addr q c i result op len w e code status desc inst access cls grp member loft : Nat} {iss : Issuer}
  {v : View} {value : W64} {ecc : EccReport} {bs detail : List Byte} {data : HostRead} {cells : List (Nat × Byte)}

@[simp] theorem canonical_takeFree : MemoriesCanonical (takeFree s).2 ↔ MemoriesCanonical s := Iff.rfl

@[simp] theorem canonical_raise {source unit lstall : Nat} :
    MemoriesCanonical (raise code source unit lstall detail s) ↔ MemoriesCanonical s := by
  simp [raise]

@[simp] theorem canonical_raiseHub : MemoriesCanonical (raiseHub code detail s) ↔ MemoriesCanonical s := by simp [raiseHub]
@[simp] theorem canonical_raiseStall : MemoriesCanonical (raiseStall code p detail s) ↔ MemoriesCanonical s := by simp [raiseStall]

@[simp] theorem canonical_scratchUncorrectable : MemoriesCanonical (scratchUncorrectable p s) ↔ MemoriesCanonical s := by
  simp [scratchUncorrectable]

@[simp] theorem canonical_sramCount {r : Secded} : MemoriesCanonical (sramCount p r s) ↔ MemoriesCanonical s := by simp [sramCount]
@[simp] theorem canonical_sramUsed {r : Secded} : MemoriesCanonical (sramUsed p r s) ↔ MemoriesCanonical s := by simp [sramUsed]
@[simp] theorem canonical_viewViolation : MemoriesCanonical (viewViolation addr access s) ↔ MemoriesCanonical s := by simp [viewViolation]

/-- The operations are beside their stall's scratch. -/
@[simp] theorem modOp_scratch {x : Stall} {f : OpCtx → OpCtx} : (modOp desc inst f x).scratch = x.scratch := by rfl

@[simp] theorem canonical_ackOp : MemoriesCanonical (ackOp n desc inst s) ↔ MemoriesCanonical s := by
  unfold ackOp
  split <;> simp

@[simp] theorem canonical_hostSend {ts : List HostTxn} : MemoriesCanonical (hostSend ts s) ↔ MemoriesCanonical s := by simp [hostSend]

@[simp] theorem canonical_modQueue {f : Queue → Queue} : MemoriesCanonical (modQueue q f s) ↔ MemoriesCanonical s := by simp [modQueue]
@[simp] theorem canonical_post {via : Via} {r : CplRec} : MemoriesCanonical (post via r s) ↔ MemoriesCanonical s := by simp [post]

@[simp] theorem canonical_doneInflight {via : Via} : MemoriesCanonical (doneInflight via s) ↔ MemoriesCanonical s := by
  unfold doneInflight
  split <;> rfl

@[simp] theorem canonical_postCmd {body : List Byte} : MemoriesCanonical (postCmd iss status body s) ↔ MemoriesCanonical s := by
  simp [postCmd]

@[simp] theorem canonical_regWrite {f : State → State} (hs : MemoriesCanonical s) (hf : MemoriesCanonical (f s)) :
    MemoriesCanonical (regWrite v addr f s) := by
  unfold regWrite
  split_ifs <;> simp [hs, hf]

@[simp] theorem canonical_tick : MemoriesCanonical (tick s) ↔ MemoriesCanonical s := by simp [tick]
@[simp] theorem canonical_correctAt : MemoriesCanonical (correctAt c access a s) ↔ MemoriesCanonical s := by simp [correctAt]
@[simp] theorem canonical_correctOne : MemoriesCanonical (correctOne access a s) ↔ MemoriesCanonical s := by simp [correctOne]
@[simp] theorem canonical_poisonOne : MemoriesCanonical (poisonOne a s) ↔ MemoriesCanonical s := by simp [poisonOne]

@[simp] theorem canonical_eccApply {reads : Nat → Bool} : MemoriesCanonical (eccApply ecc reads access s) ↔ MemoriesCanonical s := by
  simp [eccApply]

@[simp] theorem canonical_loftPut {whole : Nat → Bool} (hs : MemoriesCanonical s) : MemoriesCanonical (loftPut cells whole s) :=
  ⟨memCells_wf _ hs.1, hs.2⟩

@[simp] theorem canonical_countPkts : MemoriesCanonical (countPkts cls c s) ↔ MemoriesCanonical s := by simp [countPkts]

@[simp] theorem canonical_hubPkts {data answer : Nat} : MemoriesCanonical (hubPkts data answer a n s) ↔ MemoriesCanonical s := by
  simp [hubPkts]

@[simp] theorem canonical_hubWrite (hs : MemoriesCanonical s) : MemoriesCanonical (hubWrite a bs s) := by simp [hubWrite, hs]
@[simp] theorem canonical_hubRead : MemoriesCanonical (hubRead ecc access a n s) ↔ MemoriesCanonical s := by simp [hubRead]

@[simp] theorem canonical_remapped {loc cloc : Nat} (hs : MemoriesCanonical s) : MemoriesCanonical (remapped loc cloc s) :=
  ⟨memCells_wf _ nil_wf, hs.2⟩

@[simp] theorem canonical_loftMapSet (hs : MemoriesCanonical s) : MemoriesCanonical (loftMapSet value s) := by simp [loftMapSet, hs]
@[simp] theorem canonical_loftPartSet {v : W64} : MemoriesCanonical (loftPartSet i v s) ↔ MemoriesCanonical s := by simp [loftPartSet]

@[simp] theorem canonical_scrubSpare {slice : Nat} : MemoriesCanonical (scrubSpare slice ecc s) ↔ MemoriesCanonical s :=
  canonical_foldl_iff (fun _ _ => canonical_correctAt.trans canonical_takeFree) _ s

@[simp] theorem canonical_plogAdd : MemoriesCanonical (plogAdd w s) ↔ MemoriesCanonical s := by
  unfold plogAdd
  split <;> rfl

@[simp] theorem canonical_scrubTick {slice : Nat} : MemoriesCanonical (scrubTick slice ecc s) ↔ MemoriesCanonical s := by simp [scrubTick]

@[simp] theorem canonical_refresh {slice : Nat} {hot : Bool} : MemoriesCanonical (refresh slice hot s) ↔ MemoriesCanonical s := by
  simp [refresh]

@[simp] theorem canonical_loftDone : MemoriesCanonical (loftDone iss result s) ↔ MemoriesCanonical s := by simp [loftDone]
@[simp] theorem canonical_loftBarred {b : Nat × Nat} : MemoriesCanonical (loftBarred iss b s) ↔ MemoriesCanonical s := by simp [loftBarred]

@[simp] theorem canonical_zero {view : View} {entry : Nat} : MemoriesCanonical (zero view iss entry s) ↔ MemoriesCanonical s := by
  unfold zero
  (repeat' split) <;> simp

@[simp] theorem canonical_loftZeroed {lo hi : Nat} (hs : MemoriesCanonical s) : MemoriesCanonical (loftZeroed lo hi s) :=
  ⟨memZero_wf _ _ hs.1, hs.2⟩

theorem canonical_copyRun {tag host loft len : Nat} {hostOk : Bool} {f : Issuer → State → State} (hs : MemoriesCanonical s)
    (hf : ∀ iss u, MemoriesCanonical u → MemoriesCanonical (f iss u)) : MemoriesCanonical (copyRun q tag host loft len hostOk f s) := by
  unfold copyRun
  dsimp only
  split_ifs
  · simp [hs]
  · split <;> simp [hs, hf]

@[simp] theorem canonical_copyIn (hs : MemoriesCanonical s) : MemoriesCanonical (copyIn loft bs ecc iss s) := by
  unfold copyIn
  dsimp only
  (repeat' split) <;> simp [hs]

@[simp] theorem canonical_copyTo {host : Nat} (hs : MemoriesCanonical s) : MemoriesCanonical (copyTo q tag host loft len data ecc s) :=
  canonical_copyRun hs fun iss u hu => by simp [hu]

@[simp] theorem canonical_copyOut {host : Nat} : MemoriesCanonical (copyOut host loft len ecc iss s) ↔ MemoriesCanonical s := by
  unfold copyOut
  dsimp only
  (repeat' split) <;> simp

@[simp] theorem canonical_copyFrom {host : Nat} {hostOk : Bool} (hs : MemoriesCanonical s) :
    MemoriesCanonical (copyFrom q tag host loft len hostOk ecc s) :=
  canonical_copyRun hs fun iss u hu => by simp [hu]

@[simp] theorem canonical_modEngine {f : Engine → Engine} : MemoriesCanonical (modEngine e f s) ↔ MemoriesCanonical s := by simp [modEngine]
@[simp] theorem canonical_modGate {f : Gate → Gate} : MemoriesCanonical (modGate g f s) ↔ MemoriesCanonical s := by simp [modGate]
@[simp] theorem canonical_popPkt {p : GatePkt} : MemoriesCanonical (popPkt g p s) ↔ MemoriesCanonical s := by simp [popPkt]

@[simp] theorem canonical_gatePumpFuel {f : Nat} : MemoriesCanonical (gatePumpFuel f g s) ↔ MemoriesCanonical s := by
  rw [gatePumpFuel_eq]
  rfl

@[simp] theorem canonical_gatePump : MemoriesCanonical (gatePump g s) ↔ MemoriesCanonical s := by simp [gatePump]
@[simp] theorem canonical_countTx : MemoriesCanonical (countTx g s) ↔ MemoriesCanonical s := by simp [countTx]
@[simp] theorem canonical_countRx : MemoriesCanonical (countRx g s) ↔ MemoriesCanonical s := by simp [countRx]

@[simp] theorem canonical_gateQueue {p : GatePkt} {ack : Option (Nat × Nat × Nat)} {front : Bool} :
    MemoriesCanonical (gateQueue p ack front s) ↔ MemoriesCanonical s := by
  simp [gateQueue]

@[simp] theorem canonical_sendCredit {stall window : Nat} :
    MemoriesCanonical (sendCredit grp member stall window n s) ↔ MemoriesCanonical s := by
  simp [sendCredit]

@[simp] theorem canonical_abortGroup : MemoriesCanonical (abortGroup s grp) ↔ MemoriesCanonical s := by simp [abortGroup]
@[simp] theorem canonical_abortGroups : MemoriesCanonical (abortGroups s) ↔ MemoriesCanonical s := by simp [abortGroups]
@[simp] theorem canonical_laneLocks : MemoriesCanonical (laneLocks e w s) ↔ MemoriesCanonical s := by simp [laneLocks]
@[simp] theorem canonical_gateDown {wl : Nat} : MemoriesCanonical (gateDown g wl s) ↔ MemoriesCanonical s := by simp [gateDown]
@[simp] theorem canonical_laneErrClear : MemoriesCanonical (laneErrClear e s) ↔ MemoriesCanonical s := by simp [laneErrClear]
@[simp] theorem canonical_retrained {e : Engine} : MemoriesCanonical (retrained g e s) ↔ MemoriesCanonical s := by simp [retrained]

@[simp] theorem canonical_gateLaneLost : MemoriesCanonical (gateLaneLost g w s) ↔ MemoriesCanonical s := by
  unfold gateLaneLost
  (repeat' split) <;> simp

@[simp] theorem canonical_farRetrains {proposal : List Nat} : MemoriesCanonical (farRetrains g proposal s) ↔ MemoriesCanonical s := by
  simp [farRetrains]

@[simp] theorem canonical_berWarn {corrected : Nat} : MemoriesCanonical (berWarn g w corrected s) ↔ MemoriesCanonical s := by simp [berWarn]
@[simp] theorem canonical_startTraining : MemoriesCanonical (startTraining g s) ↔ MemoriesCanonical s := by simp [startTraining]
@[simp] theorem canonical_retrainGate : MemoriesCanonical (retrainGate g s) ↔ MemoriesCanonical s := by simp [retrainGate]
@[simp] theorem canonical_gateCtlWrite : MemoriesCanonical (gateCtlWrite g value s) ↔ MemoriesCanonical s := by simp [gateCtlWrite]
@[simp] theorem canonical_gateRetrainWrite : MemoriesCanonical (gateRetrainWrite g s) ↔ MemoriesCanonical s := by simp [gateRetrainWrite]

@[simp] theorem canonical_trainReceive {node pgate : Nat} {proposal : List Nat} {farLocks txfail : Nat} :
    MemoriesCanonical (trainReceive g node pgate proposal farLocks txfail s) ↔ MemoriesCanonical s := by
  simp [trainReceive]

@[simp] theorem canonical_trainDone : MemoriesCanonical (trainDone g s) ↔ MemoriesCanonical s := by
  unfold trainDone
  (repeat' split) <;> simp

@[simp] theorem canonical_ackFrames {ack : Nat} : MemoriesCanonical (ackFrames g ack s) ↔ MemoriesCanonical s := by
  unfold ackFrames
  dsimp only
  split_ifs
  · refine (canonical_foldl_iff (fun u f => ?_) _ _).trans canonical_modGate
    split <;> simp
  · rfl

@[simp] theorem canonical_readControl {ctrl : BitVec 48} : MemoriesCanonical (readControl g ctrl s) ↔ MemoriesCanonical s := by
  simp [readControl]

@[simp] theorem canonical_countUncorr {bad : List Nat} : MemoriesCanonical (countUncorr g bad s) ↔ MemoriesCanonical s := by
  simp [countUncorr]

@[simp] theorem canonical_frameReceive {bad : List Nat} {seq : Nat} {ctrl : BitVec 48} {payload : List Byte} :
    MemoriesCanonical (frameReceive g bad seq ctrl payload s) ↔ MemoriesCanonical s := by
  simp [frameReceive]

@[simp] theorem canonical_repeatOldest : MemoriesCanonical (repeatOldest g s) ↔ MemoriesCanonical s := by
  unfold repeatOldest
  dsimp only
  (repeat' split) <;> simp

@[simp] theorem canonical_relay {out : Nat} {straight : Bool} {p p' : GatePkt} :
    MemoriesCanonical (relay g out straight p p' s) ↔ MemoriesCanonical s := by
  simp [relay]

@[simp] theorem canonical_withFront {f : GatePkt → State → State} (hs : MemoriesCanonical s) (hf : ∀ r, MemoriesCanonical (f r s)) :
    MemoriesCanonical (withFront g op f s) := by
  unfold withFront
  (repeat' split) <;> simp [hs, hf]

@[simp] theorem canonical_takeCredit {p : GatePkt} : MemoriesCanonical (takeCredit g p s) ↔ MemoriesCanonical s := by simp [takeCredit]
@[simp] theorem canonical_takeAbort {p : GatePkt} : MemoriesCanonical (takeAbort g p s) ↔ MemoriesCanonical s := by simp [takeAbort]
@[simp] theorem canonical_nodeWrite : MemoriesCanonical (nodeWrite value s) ↔ MemoriesCanonical s := by simp [nodeWrite]
@[simp] theorem canonical_groupWrite : MemoriesCanonical (groupWrite g value s) ↔ MemoriesCanonical s := by simp [groupWrite]

@[simp] theorem canonical_routeWrite {r : Nat} {hi : Bool} : MemoriesCanonical (routeWrite r hi value s) ↔ MemoriesCanonical s := by
  simp [routeWrite]

end SharedOperations

/-! ## Fault records, the RNG and the roll -/

section FaultsAndRoll
variable {s : State} {n addr c i result t e status slot : Nat} {iss : Issuer} {value : W64} {bs : List Byte} {record : HostRead}

@[simp] theorem canonical_stopStalls : MemoriesCanonical (stopStalls s) ↔ MemoriesCanonical s := by
  refine canonical_foldl_iff (fun u n => ?_) _ s
  split <;> simp

@[simp] theorem canonical_makeReady : MemoriesCanonical (makeReady i s) ↔ MemoriesCanonical s := by simp [makeReady]
@[simp] theorem canonical_stopCircuits : MemoriesCanonical (stopCircuits s) ↔ MemoriesCanonical s := by simp [stopCircuits]
@[simp] theorem canonical_ctxDone : MemoriesCanonical (ctxDone iss result s) ↔ MemoriesCanonical s := by simp [ctxDone]

@[simp] theorem canonical_ctxOnFault : MemoriesCanonical (ctxOnFault s) ↔ MemoriesCanonical s := by
  unfold ctxOnFault
  split <;> simp

@[simp] theorem canonical_snapDone : MemoriesCanonical (snapDone iss result s) ↔ MemoriesCanonical s := by simp [snapDone]

@[simp] theorem canonical_snapAbandon : MemoriesCanonical (snapAbandon s) ↔ MemoriesCanonical s := by
  unfold snapAbandon
  dsimp only
  (repeat' split) <;> simp

@[simp] theorem canonical_abortDrained : MemoriesCanonical (abortDrained s) ↔ MemoriesCanonical s := by simp [abortDrained]

@[simp] theorem canonical_snapOnJobFault : MemoriesCanonical (snapOnJobFault s) ↔ MemoriesCanonical s := by
  unfold snapOnJobFault
  split <;> simp

@[simp] theorem canonical_jobStop : MemoriesCanonical (jobStop s) ↔ MemoriesCanonical s := by simp [jobStop]

@[simp] theorem canonical_bringOnStop : MemoriesCanonical (bringOnStop s) ↔ MemoriesCanonical s := by
  unfold bringOnStop
  split <;> rfl

@[simp] theorem canonical_snapOnStop : MemoriesCanonical (snapOnStop s) ↔ MemoriesCanonical s := by
  unfold snapOnStop
  split <;> simp

@[simp] theorem canonical_deviceStop : MemoriesCanonical (deviceStop s) ↔ MemoriesCanonical s := by simp [deviceStop]
@[simp] theorem canonical_logRecord {r : FRec} : MemoriesCanonical (logRecord r s) ↔ MemoriesCanonical s := by simp [logRecord]

@[simp] theorem canonical_faultAlert {r : FRec} {written : Bool} : MemoriesCanonical (faultAlert r written s) ↔ MemoriesCanonical s := by
  simp [faultAlert]

@[simp] theorem canonical_classEffect {r : FRec} : MemoriesCanonical (classEffect r s) ↔ MemoriesCanonical s := by simp [classEffect]
@[simp] theorem canonical_commitRecord {r : FRec} : MemoriesCanonical (commitRecord r s) ↔ MemoriesCanonical s := by simp [commitRecord]

theorem canonical_drillGrant {r : FRec} {u : State} (hgrant : drillGrant i r s = some u) : MemoriesCanonical u ↔ MemoriesCanonical s := by
  unfold drillGrant at hgrant
  dsimp only at hgrant
  split at hgrant
  · cases hgrant
  · cases hgrant
    rfl

@[simp] theorem canonical_commitAt : MemoriesCanonical (commitAt i s) ↔ MemoriesCanonical s := by
  unfold commitAt
  split
  · rfl
  · split_ifs
    · split
      · next u hgrant => simp [canonical_drillGrant hgrant]
      · rfl
    · simp

@[simp] theorem canonical_fltStatWrite {device : Bool} : MemoriesCanonical (fltStatWrite device value s) ↔ MemoriesCanonical s := by
  simp [fltStatWrite]

@[simp] theorem canonical_seedWrite : MemoriesCanonical (seedWrite value s) ↔ MemoriesCanonical s := by simp [seedWrite]
@[simp] theorem canonical_baseWrite : MemoriesCanonical (baseWrite c value s) ↔ MemoriesCanonical s := by simp [baseWrite]

@[simp] theorem canonical_modEntry {f : RollEntry → RollEntry} : MemoriesCanonical (modEntry i f s) ↔ MemoriesCanonical s := by
  simp [modEntry]

@[simp] theorem canonical_modCirc {f : Circ → Circ} : MemoriesCanonical (modCirc c f s) ↔ MemoriesCanonical s := by simp [modCirc]

@[simp] theorem canonical_rollOver {body : List Byte} : MemoriesCanonical (rollOver iss result status body s) ↔ MemoriesCanonical s := by
  simp [rollOver]

@[simp] theorem canonical_rollDone : MemoriesCanonical (rollDone iss result s) ↔ MemoriesCanonical s := by simp [rollDone]

@[simp] theorem canonical_rollCmd {f : State → State} (hs : MemoriesCanonical s) (hf : MemoriesCanonical (f s)) :
    MemoriesCanonical (rollCmd iss f s) := by
  unfold rollCmd
  split <;> simp [hf, hs]

@[simp] theorem canonical_rollJobCmd {f : State → State} (hs : MemoriesCanonical s) (hf : MemoriesCanonical (f s)) :
    MemoriesCanonical (rollJobCmd iss f s) := by
  unfold rollJobCmd
  split <;> simp [hf, hs]

@[simp] theorem canonical_rollRead (hs : MemoriesCanonical s) : MemoriesCanonical (rollRead iss i s) := by
  refine canonical_rollCmd hs ?_
  dsimp only
  split <;> simp [hs]

@[simp] theorem canonical_rollWrite {e : RollEntry} (hs : MemoriesCanonical s) : MemoriesCanonical (rollWrite iss i e s) := by
  refine canonical_rollJobCmd hs ?_
  (repeat' split) <;> simp [hs]

@[simp] theorem canonical_rollPause (hs : MemoriesCanonical s) : MemoriesCanonical (rollPause iss i s) := by
  refine canonical_rollJobCmd hs ?_
  split <;> simp [hs]

@[simp] theorem canonical_rollResume (hs : MemoriesCanonical s) : MemoriesCanonical (rollResume iss i s) := by
  refine canonical_rollJobCmd hs ?_
  split <;> simp [hs]

@[simp] theorem canonical_rollRelease (hs : MemoriesCanonical s) : MemoriesCanonical (rollRelease iss i s) := by
  refine canonical_rollJobCmd hs ?_
  split <;> simp [hs]

@[simp] theorem canonical_rollRun (hs : MemoriesCanonical s) : MemoriesCanonical (rollRun iss c s) := by
  refine canonical_rollJobCmd hs ?_
  (repeat' split) <;> simp [hs]

@[simp] theorem canonical_discardPending : MemoriesCanonical (discardPending c s) ↔ MemoriesCanonical s := by simp [discardPending]

@[simp] theorem canonical_rollDrain (hs : MemoriesCanonical s) : MemoriesCanonical (rollDrain iss c s) := by
  refine canonical_rollJobCmd hs ?_
  split <;> simp [hs]

@[simp] theorem canonical_rollWorklist (hs : MemoriesCanonical s) : MemoriesCanonical (rollWorklist iss addr record s) := by
  refine canonical_rollJobCmd hs ?_
  split
  · simp [hs]
  · dsimp only
    split <;> simp [hs]

@[simp] theorem canonical_boundary : MemoriesCanonical (boundary s) ↔ MemoriesCanonical s := by
  unfold boundary
  dsimp only
  (repeat' split) <;> simp

@[simp] theorem canonical_stepCompleted : MemoriesCanonical (stepCompleted c t s) ↔ MemoriesCanonical s := by simp [stepCompleted]

theorem canonical_ringWrite {r : CircRec} {num : Nat} (hs : MemoriesCanonical s) : MemoriesCanonical (ringWrite r num bs n s) := by
  unfold ringWrite
  split
  · exact hs
  · exact canonical_modStallP hs (memWrite_wf _ _)

@[simp] theorem canonical_issue {r : CircRec} {es : List Nat} {work : Option (Nat × Via)} (hs : MemoriesCanonical s) :
    MemoriesCanonical (issue slot r es work s) := by
  unfold issue
  rw [canonical_modCirc, canonical_foldl_iff fun _ _ => canonical_modEntry]
  exact canonical_foldl (fun _ _ => canonical_ringWrite) _ hs

@[simp] theorem canonical_roundIssue (hs : MemoriesCanonical s) : MemoriesCanonical (roundIssue c s) := by
  unfold roundIssue
  dsimp only
  (repeat' split) <;> simp [hs]

@[simp] theorem canonical_sampleDone : MemoriesCanonical (sampleDone c i s) ↔ MemoriesCanonical s := by simp [sampleDone]

@[simp] theorem canonical_roundComplete : MemoriesCanonical (roundComplete c s) ↔ MemoriesCanonical s := by
  unfold roundComplete
  split
  · dsimp only
    split_ifs
    · rfl
    · rw [canonical_stepCompleted]
      split <;> simp
  · rfl

@[simp] theorem canonical_programStart : MemoriesCanonical (programStart n s) ↔ MemoriesCanonical s := by
  unfold programStart
  split
  · rfl
  · next p x hrun =>
    obtain rfl := stallP_of_runningStall hrun
    split <;> simp

end FaultsAndRoll

end Sys2Proof.Machine
end

section
/-! PROOFS. The canonical form of the loft and of the scratch: how the stalls, power and bring-up, the vector operations and the fabric keep
it. -/

namespace Sys2Proof.Machine

/-! ## Operations, tiles and the array -/

section Stalls
variable {s : State} {p k n g c i op t w e code desc inst cls no lines poss src dst grp member stage : Nat} {v : View} {it : List Nat}
  {bs detail : List Byte} {sram : Secded} {cells : List (Nat × Byte)} {uncorr : Bool}

/-! The changes of a stall that keep its scratch. -/

@[simp] theorem envAt_x : (envAt s n p k).x = stallP s p := by rfl

@[simp] theorem startedStall_scratch {x : Stall} {g : Prog} {d : Desc} {o : OpCtx} : (startedStall x g d o).scratch = x.scratch := by rfl
@[simp] theorem takeCredits_scratch {x : Stall} {key dst : Nat} : (takeCredits key dst x).scratch = x.scratch := by rfl
@[simp] theorem giveCredit_scratch {x : Stall} {key dst : Nat} : (giveCredit key dst x).scratch = x.scratch := by rfl
@[simp] theorem issuedStall_scratch {x : Stall} {a : AccSlot} {o : OpCtx} : (issuedStall i a o x).scratch = x.scratch := by rfl

@[simp] theorem foldHeld_scratch {f : Nat} {x : Stall} : (foldHeld f i x).scratch = x.scratch := by
  induction f generalizing x with
  | zero => rfl
  | succ f ih =>
    unfold foldHeld
    dsimp only
    split
    · exact ih
    · rfl

@[simp] theorem canonical_stallFault : MemoriesCanonical (stallFault p code detail s) ↔ MemoriesCanonical s := by simp [stallFault]

theorem canonical_startOp {f : Nat → Nat → State → State} (hs : MemoriesCanonical s)
    (hf : ∀ p k u, MemoriesCanonical u → MemoriesCanonical (f p k u)) : MemoriesCanonical (startOp n op f s) := by
  unfold startOp
  split
  · exact hs
  · next p x g d hstart =>
    obtain ⟨hrun, -⟩ := startable_spec hstart
    obtain rfl := stallP_of_runningStall hrun
    dsimp only
    split_ifs
    · simp [hs]
    · exact hf _ _ _ (by simp [hs])

@[simp] theorem canonical_opEvents {o : OpCtx} {round : Nat} : MemoriesCanonical (opEvents p o round s) ↔ MemoriesCanonical s := by
  simp [opEvents]

@[simp] theorem canonical_programEnds {round : Nat} : MemoriesCanonical (programEnds n c round s) ↔ MemoriesCanonical s := by
  simp [programEnds]

@[simp] theorem canonical_operationComplete : MemoriesCanonical (operationComplete n k s) ↔ MemoriesCanonical s := by
  unfold operationComplete
  dsimp only
  (repeat' split) <;> simp

@[simp] theorem canonical_putOp {f : OpCtx → OpCtx} : MemoriesCanonical (putOp p k f s) ↔ MemoriesCanonical s := by simp [putOp]
@[simp] theorem canonical_inject {body : PktBody} : MemoriesCanonical (inject cls src dst body s) ↔ MemoriesCanonical s := by simp [inject]

@[simp] theorem canonical_injectOwn {body : PktBody} : MemoriesCanonical (injectOwn cls src dst body s) ↔ MemoriesCanonical s := by
  simp [injectOwn]

@[simp] theorem canonical_injectLoft {own : Bool} {body : PktBody} :
    MemoriesCanonical (injectLoft own cls src dst body s) ↔ MemoriesCanonical s := by
  simp [injectLoft]

@[simp] theorem canonical_injectStall {body : PktBody} : MemoriesCanonical (injectStall cls src dst body s) ↔ MemoriesCanonical s := by
  unfold injectStall
  split <;> rfl

@[simp] theorem canonical_sendData {win key dest tile : Nat} {ack : Option (Nat × Nat × Nat)} :
    MemoriesCanonical (sendData src n win key dest tile bs ack s) ↔ MemoriesCanonical s := by
  simp [sendData]

@[simp] theorem canonical_sendWrite {fill : Option FillRef} :
    MemoriesCanonical (sendWrite n p desc inst cells fill s) ↔ MemoriesCanonical s := by
  simp [sendWrite]

@[simp] theorem canonical_sendRead {opnd entry : Nat} {cells : List (Nat × Nat)} :
    MemoriesCanonical (sendRead n p desc inst opnd entry it cells s) ↔ MemoriesCanonical s := by
  simp [sendRead]

@[simp] theorem canonical_returnCredit {e : WinEntry} : MemoriesCanonical (returnCredit n w e s) ↔ MemoriesCanonical s := by
  unfold returnCredit
  split <;> simp

@[simp] theorem canonical_winFree : MemoriesCanonical (winFree n p k w t s) ↔ MemoriesCanonical s := by
  unfold winFree
  dsimp only
  (repeat' split) <;> simp

@[simp] theorem canonical_beginLand {key : List Nat} {entry left : Nat} (hs : MemoriesCanonical s) :
    MemoriesCanonical (beginLand p k no key entry left s) :=
  canonical_putOp.2 (canonical_modStallP hs (memWrite_wf _ _))

theorem canonical_fetchOne {u : State} (hs : MemoriesCanonical s) (hfetch : fetchOne n p k no s = some u) : MemoriesCanonical u := by
  unfold fetchOne at hfetch
  dsimp only at hfetch
  (repeat' split at hfetch) <;> cases hfetch <;> simp [hs]

theorem canonical_fetchFuel {f : Nat} (hs : MemoriesCanonical s) : MemoriesCanonical (fetchFuel f n p k no s) := by
  induction f generalizing s with
  | zero => exact hs
  | succ f ih =>
    unfold fetchFuel
    split
    · next u hfetch => exact ih (canonical_fetchOne hs hfetch)
    · exact hs

@[simp] theorem canonical_fetchPump (hs : MemoriesCanonical s) : MemoriesCanonical (fetchPump n p k s) := by
  unfold fetchPump
  split_ifs
  · exact canonical_foldl (fun _ _ => canonical_fetchFuel) _ hs
  · exact hs

@[simp] theorem canonical_fetchAll (hs : MemoriesCanonical s) : MemoriesCanonical (fetchAll n p s) :=
  canonical_foldl (fun _ _ => canonical_fetchPump) _ hs

@[simp] theorem canonical_takePump : MemoriesCanonical (takePump n p k s) ↔ MemoriesCanonical s := by
  unfold takePump
  dsimp only
  (repeat' split) <;> simp

@[simp] theorem canonical_beginOp (hs : MemoriesCanonical s) : MemoriesCanonical (beginOp n p k s) := by simp [beginOp, hs]

@[simp] theorem canonical_ledgerFree : MemoriesCanonical (ledgerFree n p i s) ↔ MemoriesCanonical s := by
  unfold ledgerFree
  dsimp only
  (repeat' split) <;> simp

@[simp] theorem canonical_freeNormRows {rows : List Nat} : MemoriesCanonical (freeNormRows n p k rows s) ↔ MemoriesCanonical s := by
  unfold freeNormRows
  split <;> simp

@[simp] theorem canonical_takeEnds : MemoriesCanonical (takeEnds n p k s) ↔ MemoriesCanonical s := by
  unfold takeEnds
  dsimp only
  (repeat' split) <;> simp

@[simp] theorem canonical_taken {v : Nat} (hs : MemoriesCanonical s) : MemoriesCanonical (taken n p k v s) := by
  unfold taken
  dsimp only
  (repeat' split) <;> simp [hs]

@[simp] theorem canonical_releaseOpnd {next : Option (List Nat)} :
    MemoriesCanonical (releaseOpnd n p k no it next s) ↔ MemoriesCanonical s := by
  simp [releaseOpnd]

@[simp] theorem canonical_advanceTo {opnds : List Nat} {next : Option (List Nat)} (hs : MemoriesCanonical s) :
    MemoriesCanonical (advanceTo n p k opnds next s) := by
  simp [advanceTo, hs]

@[simp] theorem canonical_writeScratch {fill : Nat} {e : Env} (hs : MemoriesCanonical s) (he : Memory.wf e.x.scratch = true) :
    (writeScratch p fill e it cells s).Gives MemoriesCanonical := by
  unfold writeScratch
  dsimp only
  split
  · exact gives_fault _ _
  · split
    · exact gives_ok.2 (canonical_modStallP hs fun _ => memWrite_wf _ _ (memCells_wf _ he))
    · simp [hs]
    · exact gives_fault _ _

@[simp] theorem canonical_addOut : MemoriesCanonical (addOut p k c s) ↔ MemoriesCanonical s := by simp [addOut]

@[simp] theorem canonical_writeLoft {fill : Nat} {e : Env} (hs : MemoriesCanonical s) :
    (writeLoft p k fill e it cells s).Gives MemoriesCanonical := by
  simp [writeLoft, hs]

@[simp] theorem canonical_sendFabric {e : Env} {r : RouteRec} (hs : MemoriesCanonical s) :
    (sendFabric p k t e r bs s).Gives MemoriesCanonical := by
  simp [sendFabric, hs]

@[simp] theorem canonical_gateTile {entry : Nat} {ack : Option (Nat × Nat × Nat)} :
    MemoriesCanonical (gateTile grp member n w entry t bs ack s) ↔ MemoriesCanonical s := by
  simp [gateTile]

@[simp] theorem canonical_sendMember {cap : Nat} {e : Env} (hs : MemoriesCanonical s) :
    (sendMember p k t grp member w cap e bs s).Gives MemoriesCanonical := by
  simp [sendMember, hs]

@[simp] theorem canonical_sendRoute {e : Env} (hs : MemoriesCanonical s) : (sendRoute p k t e bs s).Gives MemoriesCanonical := by
  unfold sendRoute
  (repeat' split) <;> simp [hs]

@[simp] theorem canonical_writeTile {e : Env} {w : Walk} (hs : MemoriesCanonical s) (he : Memory.wf e.x.scratch = true) :
    (writeTile p k e w it t lines poss bs s).Gives MemoriesCanonical := by
  unfold writeTile
  split <;> simp [hs, he]

@[simp] theorem canonical_storeVals {e : Env} {w : Walk} {nans : Nat} {vs : List (List Val)} (hs : MemoriesCanonical s)
    (he : Memory.wf e.x.scratch = true) : (storeVals p k e w it t lines poss stage nans vs s).Gives MemoriesCanonical := by
  simp [storeVals, hs, he]

@[simp] theorem canonical_ledgerEnd {r : StageRec} : MemoriesCanonical (ledgerEnd n p k i r s) ↔ MemoriesCanonical s := by
  unfold ledgerEnd
  dsimp only
  (repeat' split) <;> simp

@[simp] theorem canonical_ledgerFolded {r : StageRec} : MemoriesCanonical (ledgerFolded n p k i r s) ↔ MemoriesCanonical s := by
  simp [ledgerFolded]

@[simp] theorem canonical_ledgerRow {r : StageRec} {row : Nat} {vals : List W32} (hs : MemoriesCanonical s) :
    (ledgerRow n p k r it row poss vals s).Gives MemoriesCanonical := by
  unfold ledgerRow
  dsimp only
  (repeat' split) <;> simp [hs]

theorem canonical_ledgerGo {items : List LedgerItem} (hs : MemoriesCanonical s) :
    (ledgerGo n p k it poss items c s).Gives fun t => MemoriesCanonical t.1 := by
  induction items generalizing c s with
  | nil => exact gives_ok.2 hs
  | cons x items ih =>
    unfold ledgerGo
    split
    · exact gives_ok.2 hs
    · exact gives_fault _ _
    · next u hrow => exact ih (canonical_ledgerRow hs u hrow)

@[simp] theorem canonical_ledgerSend : MemoriesCanonical (ledgerSend n p i s) ↔ MemoriesCanonical s := by simp [ledgerSend]
@[simp] theorem canonical_ledgerPump : MemoriesCanonical (ledgerPump n p s) ↔ MemoriesCanonical s := by simp [ledgerPump]

@[simp] theorem canonical_proStore {entry : Option Nat} {r : ProOut} (hs : MemoriesCanonical s) :
    MemoriesCanonical (proStore n p k it entry r s) := by
  refine canonical_freeNormRows.2 ?_
  split
  · exact canonical_modStallP (canonical_putOp.2 hs) (memWrite_wf _ _)
  · exact canonical_putOp.2 hs

@[simp] theorem canonical_proOne (hs : MemoriesCanonical s) : (proOne n p k s).Gives MemoriesCanonical := by
  unfold proOne
  dsimp only
  (repeat' split) <;> simp [hs]

@[simp] theorem canonical_settle {g : Got State} (hs : MemoriesCanonical s) (hg : g.Gives MemoriesCanonical) :
    MemoriesCanonical (settle p s g) := by
  cases g with
  | wait => exact hs
  | fault code detail => exact canonical_stallFault.2 hs
  | ok t => exact hg t rfl

@[simp] theorem canonical_settleSram {g : Got State} (hs : MemoriesCanonical s) (hg : g.Gives MemoriesCanonical) :
    MemoriesCanonical (settleSram p sram s g) := by
  unfold settleSram
  split <;> simp [hg, hs]

theorem canonical_onStall {f : Nat → Got State} (hs : MemoriesCanonical s) (hf : ∀ p, (f p).Gives MemoriesCanonical) :
    MemoriesCanonical (onStall n sram s f) := by
  unfold onStall
  split <;> simp [hs, hf]

@[simp] theorem canonical_pairSend {e : Env} {r : StageRec} (hs : MemoriesCanonical s) :
    (pairSend p k t e r bs s).Gives MemoriesCanonical := by
  unfold pairSend
  dsimp only
  (repeat' split) <;> simp [hs]

@[simp] theorem canonical_epiOut {g : StageEnv} {w : Walk} {r : StageRec} {x : LaneTile} (hs : MemoriesCanonical s)
    (he : Memory.wf g.e.x.scratch = true) : (epiOut p k t g w r stage x s).Gives MemoriesCanonical := by
  have hout : ∀ bs, (if r.kind = 9 then pairSend p k t g.e r bs s else writeTile p k g.e w g.it t g.lines g.poss bs s).Gives
      MemoriesCanonical := by
    simp [hs, he]
  exact (hout _).bind fun u hu => gives_ok.2 (canonical_putOp.2 hu)

theorem canonical_afterLedger {g : StageEnv} {items : List LedgerItem} {f : State → Got State} (hs : MemoriesCanonical s)
    (hf : ∀ u, MemoriesCanonical u → (f u).Gives MemoriesCanonical) :
    (afterLedger n p k g items s f).Gives fun t => MemoriesCanonical t.1 := by
  refine (canonical_ledgerGo hs).bind fun r hr => ?_
  dsimp only
  split
  · split
    · split <;> simp [hr]
    · exact gives_fault _ _
    · next u hu => exact gives_ok.2 (canonical_putOp.2 (hf _ (canonical_putOp.2 hr) u hu))
  · split <;> simp [hr]

@[simp] theorem canonical_freePair {st : List StageRec} : MemoriesCanonical (freePair n p k t st s) ↔ MemoriesCanonical s := by
  simp [freePair]

theorem canonical_epiTile {w : Walk} {st : List StageRec} {base : Nat} {vs : List (List Val)} {nan : List Nat} (hs : MemoriesCanonical s) :
    (epiTile n p k w it t lines poss st base vs nan s).Gives fun t => MemoriesCanonical t.1 := by
  unfold epiTile
  dsimp only
  split
  · exact (canonical_storeVals hs (scratch_wf_stallP hs)).bind fun u hu => gives_ok.2 hu
  · refine (gives_bind ..).2 fun x _ => canonical_afterLedger hs fun u hu => ?_
    exact (canonical_epiOut hu (scratch_wf_stallP hu)).bind fun v hv => gives_ok.2 (canonical_freePair.2 hv)

theorem canonical_epilogue {vs : List (List Val)} {nan : List Nat} (hs : MemoriesCanonical s) :
    (epilogue n p k it vs nan s).Gives fun t => MemoriesCanonical t.1 :=
  (canonical_epiTile hs).bind fun r hr => by simp [hr]

@[simp] theorem canonical_issueOne (hs : MemoriesCanonical s) : (issueOne n p k uncorr s).Gives MemoriesCanonical := by
  unfold issueOne
  dsimp only
  split
  · exact gives_wait
  · refine (gives_bind ..).2 fun a _ => (gives_bind ..).2 fun b _ => (gives_bind ..).2 fun st _ => gives_ok.2 ?_
    split_ifs <;> simp [hs]

@[simp] theorem canonical_matrixIssue (hs : MemoriesCanonical s) : MemoriesCanonical (matrixIssue n sram s) :=
  canonical_onStall hs fun _ => gives_firstOp fun _ => canonical_issueOne hs

@[simp] theorem canonical_poisonSlot : MemoriesCanonical (poisonSlot p i s) ↔ MemoriesCanonical s := by simp [poisonSlot]

@[simp] theorem canonical_readoutSlot (hs : MemoriesCanonical s) : (readoutSlot p i uncorr s).Gives MemoriesCanonical := by
  unfold readoutSlot
  dsimp only
  (repeat' split) <;> simp [hs]

@[simp] theorem canonical_sendSlot (hs : MemoriesCanonical s) : (sendSlot n p i uncorr s).Gives MemoriesCanonical := by
  unfold sendSlot
  dsimp only
  (repeat' split) <;> simp [hs]

@[simp] theorem canonical_chainPut {e : Env} {r : StageRec} {pv oCells : List (Nat × Byte)} {c : ChainOut} (hs : MemoriesCanonical s) :
    MemoriesCanonical (chainPut n p k e it r pv oCells c s) := by
  refine canonical_fetchPump ((canonical_foldl_iff (fun _ _ => canonical_releaseOpnd) _ _).2 (canonical_putOp.2 ?_))
  exact canonical_modStallP hs fun hp => memCells_wf _ (memCells_wf _ hp)

theorem canonical_chainStep {rt : ReadTile} (hs : MemoriesCanonical s) :
    (chainStep n p k rt uncorr s).Gives fun t => MemoriesCanonical t.1 := by
  unfold chainStep
  dsimp only
  split
  · exact gives_wait
  · split
    · exact gives_wait
    · refine (gives_bind ..).2 fun x _ => (gives_bind ..).2 fun vs _ => (gives_bind ..).2 fun i _ => (gives_bind ..).2 fun oP _ =>
        (gives_bind ..).2 fun pP _ => canonical_afterLedger hs fun u hu => ?_
      split_ifs <;> simp [hu]

@[simp] theorem canonical_tileDone {rt : ReadTile} : MemoriesCanonical (tileDone p k rt s) ↔ MemoriesCanonical s := by simp [tileDone]

theorem canonical_chainFinal {rt : ReadTile} (hs : MemoriesCanonical s) : (chainFinal n p k rt s).Gives fun t => MemoriesCanonical t.1 :=
  canonical_epiTile hs

@[simp] theorem canonical_epilogueOne (hs : MemoriesCanonical s) : (epilogueOne n p k uncorr s).Gives MemoriesCanonical := by
  unfold epilogueOne
  dsimp only
  split
  · exact gives_wait
  · split_ifs
    · exact (canonical_chainFinal hs).bind fun r hr => by simp [hr]
    · refine (canonical_chainStep hs).bind fun r hr => ?_
      (repeat' split) <;> simp [hr]
    · exact (canonical_epilogue hs).bind fun r hr => by simp [hr]

theorem canonical_epilogueStep (hs : MemoriesCanonical s) : (epilogueStep n p uncorr s).Gives MemoriesCanonical := by
  refine List.foldlRecOn (motive := Got.Gives _) _ _ gives_wait fun g hg k _ => ?_
  split
  · exact canonical_epilogueOne hs
  · exact hg

theorem canonical_prologueStep (hs : MemoriesCanonical s) : (prologueStep n p s).Gives MemoriesCanonical :=
  gives_firstOp fun _ => canonical_proOne hs

@[simp] theorem canonical_epilogueRun (hs : MemoriesCanonical s) : MemoriesCanonical (epilogueRun n sram s) :=
  canonical_onStall hs fun _ => canonical_epilogueStep hs

@[simp] theorem canonical_prologueRun (hs : MemoriesCanonical s) : MemoriesCanonical (prologueRun n sram s) :=
  canonical_onStall hs fun _ => by simp [canonical_prologueStep hs]

theorem canonical_poolOne (hs : MemoriesCanonical s) : (poolOne n p k s).Gives MemoriesCanonical := by
  unfold poolOne
  dsimp only
  split
  · exact gives_wait
  · refine (gives_bind ..).2 fun a _ => ?_
    split_ifs
    · exact (canonical_epilogue hs).bind fun r hr => by simp [hr]
    · simp [hs]

@[simp] theorem canonical_matmulStart (hs : MemoriesCanonical s) : MemoriesCanonical (matmulStart n s) :=
  canonical_startOp hs fun _ _ _ => canonical_beginOp

@[simp] theorem canonical_convRun (hs : MemoriesCanonical s) : MemoriesCanonical (convRun n s) := by
  unfold convRun
  split
  · exact hs
  · split
    · exact canonical_startOp hs fun _ _ _ => canonical_beginOp
    · exact canonical_settle hs (by simp [canonical_poolOne, hs])

@[simp] theorem canonical_chainStart (hs : MemoriesCanonical s) : MemoriesCanonical (chainStart n s) :=
  canonical_startOp hs fun _ _ _ => canonical_beginOp

end Stalls

/-! ## Power and bring-up -/

section Power
variable {s : State} {p n a tag addr q c result op code y : Nat} {v : View} {detail : List Byte}

@[simp] theorem canonical_bootStart : MemoriesCanonical (bootStart s) ↔ MemoriesCanonical s := by simp [bootStart]
@[simp] theorem canonical_hubBootEnds {ok : Bool} : MemoriesCanonical (hubBootEnds ok s) ↔ MemoriesCanonical s := by simp [hubBootEnds]

@[simp] theorem canonical_supplyFault {which mv : Nat} : MemoriesCanonical (supplyFault which mv s) ↔ MemoriesCanonical s := by
  simp [supplyFault]

@[simp] theorem canonical_thermalTrip {die : Nat} {temp : Int} : MemoriesCanonical (thermalTrip die temp s) ↔ MemoriesCanonical s := by
  simp [thermalTrip]

@[simp] theorem canonical_coreFall : MemoriesCanonical (coreFall s) ↔ MemoriesCanonical s := by simp [coreFall]

@[simp] theorem canonical_sensorsRead {temps : List Int} {vcore : List Nat} :
    MemoriesCanonical (sensorsRead temps vcore s) ↔ MemoriesCanonical s := by
  unfold sensorsRead
  dsimp only
  (repeat' split) <;> simp

@[simp] theorem canonical_averageEnds {power : Nat} {temps : List Int} {vcore : List Nat} :
    MemoriesCanonical (averageEnds power temps vcore s) ↔ MemoriesCanonical s := by
  simp [averageEnds]

@[simp] theorem canonical_clearYards {mask : BitVec 40} (hs : MemoriesCanonical s) : MemoriesCanonical (clearYards mask s) := by
  refine ⟨hs.1, scratchesCanonical_map (fun e he => ?_) hs.2⟩
  split_ifs
  · exact nil_wf
  · exact he

/-- A stall that loses its power has an empty scratch; so has the loft on the way to AUX. -/
@[simp] theorem canonical_losesAtStart {target : PState} (hs : MemoriesCanonical s) : MemoriesCanonical (losesAtStart target s) := by
  have hcleared : ScratchesCanonical (s.stalls.map fun e => (e.1, clearStall e.2)) := scratchesCanonical_map (fun _ _ => nil_wf) hs.2
  cases target with
  | idle => exact hs
  | standby => exact ⟨hs.1, hcleared⟩
  | aux => exact ⟨nil_wf, hcleared⟩

@[simp] theorem canonical_powerRefused : MemoriesCanonical (powerRefused op tag s) ↔ MemoriesCanonical s := by simp [powerRefused]
@[simp] theorem canonical_dropMoves : MemoriesCanonical (dropMoves s) ↔ MemoriesCanonical s := by simp [dropMoves]

@[simp] theorem canonical_startState {target : PState} (hs : MemoriesCanonical s) : MemoriesCanonical (startState target s) := by
  simp [startState, hs]

@[simp] theorem canonical_stateCommand {target : PState} (hs : MemoriesCanonical s) : MemoriesCanonical (stateCommand target tag s) := by
  unfold stateCommand
  (repeat' split) <;> simp [hs]

@[simp] theorem canonical_startUngates : MemoriesCanonical (startUngates s) ↔ MemoriesCanonical s := by simp [startUngates]

@[simp] theorem canonical_startYards {set : BitVec 40} (hs : MemoriesCanonical s) : MemoriesCanonical (startYards set tag s) := by
  simp [startYards, hs]

@[simp] theorem canonical_yardsCommand (hs : MemoriesCanonical s) : MemoriesCanonical (yardsCommand tag s) := by simp [yardsCommand, hs]

@[simp] theorem canonical_startPending (hs : MemoriesCanonical s) : MemoriesCanonical (startPending s) := by
  unfold startPending
  split <;> simp [hs]

@[simp] theorem canonical_startQueuedYards (hs : MemoriesCanonical s) : MemoriesCanonical (startQueuedYards s) := by
  unfold startQueuedYards
  split <;> simp [hs]

@[simp] theorem canonical_startPendingYard (hs : MemoriesCanonical s) : MemoriesCanonical (startPendingYard y s) := by
  simp [startPendingYard, hs]

@[simp] theorem canonical_afterYard (hs : MemoriesCanonical s) : MemoriesCanonical (afterYard s) := by simp [afterYard, hs]
@[simp] theorem canonical_gateDone (hs : MemoriesCanonical s) : MemoriesCanonical (gateDone y s) := by simp [gateDone, hs]

@[simp] theorem canonical_ungateDone (hs : MemoriesCanonical s) : MemoriesCanonical (ungateDone y s) := by
  unfold ungateDone
  split_ifs
  · exact hs
  · exact canonical_afterYard (canonical_startPendingYard (canonical_startUngates.2 (canonical_clearYards hs)))

@[simp] theorem canonical_bringDone : MemoriesCanonical (bringDone tag result s) ↔ MemoriesCanonical s := by simp [bringDone]

@[simp] theorem canonical_bringCmd {accept : State → Bool} {f : State → State} (hs : MemoriesCanonical s) (hf : MemoriesCanonical (f s)) :
    MemoriesCanonical (bringCmd tag accept f s) := by
  unfold bringCmd
  split_ifs <;> simp [hf, hs]

@[simp] theorem canonical_gatesOff : MemoriesCanonical (gatesOff s) ↔ MemoriesCanonical s := by simp [gatesOff]
@[simp] theorem canonical_refuse : MemoriesCanonical (refuse code tag detail s) ↔ MemoriesCanonical s := by simp [refuse]
@[simp] theorem canonical_disagree {sel v : Nat} : MemoriesCanonical (disagree sel v s) ↔ MemoriesCanonical s := by simp [disagree]
@[simp] theorem canonical_fuseApply {c : List Byte} : MemoriesCanonical (fuseApply c s) ↔ MemoriesCanonical s := by simp [fuseApply]

@[simp] theorem canonical_fuseRead {a b : List Byte} (hs : MemoriesCanonical s) : MemoriesCanonical (fuseRead tag a b s) := by
  simp [fuseRead, hs]

@[simp] theorem canonical_selftest (hs : MemoriesCanonical s) : MemoriesCanonical (selftest tag s) := by simp [selftest, hs]

@[simp] theorem canonical_waveEnds (hs : MemoriesCanonical s) : MemoriesCanonical (waveEnds s) := by
  unfold waveEnds
  split <;> simp [hs]

@[simp] theorem canonical_stallReport {r : TestResult} (hs : MemoriesCanonical s) : MemoriesCanonical (stallReport p r s) := by
  unfold stallReport
  split <;> simp [hs]

@[simp] theorem canonical_bringAbort (hs : MemoriesCanonical s) : MemoriesCanonical (bringAbort tag s) := by
  unfold bringAbort
  split <;> simp [hs]

@[simp] theorem canonical_reconcile (hs : MemoriesCanonical s) : MemoriesCanonical (reconcile tag s) := by
  refine canonical_bringCmd hs ?_
  dsimp only
  split
  · rw [canonical_refuse, canonical_mk, canonical_fold, canonical_foldl_iff fun _ _ => canonical_disagree]
    exact hs
  · rw [canonical_bringDone, canonical_mk, canonical_fold, canonical_foldl_iff fun _ _ => canonical_disagree]
    exact hs

@[simp] theorem canonical_fwBcast (hs : MemoriesCanonical s) : MemoriesCanonical (fwBcast tag s) := canonical_bringCmd hs hs

@[simp] theorem canonical_digestFails {lo hi : Nat} {fs : List (Nat × Nat)} :
    MemoriesCanonical (digestFails lo hi fs s p) ↔ MemoriesCanonical s := by
  simp [digestFails]

theorem canonical_digestFails_twice {fs : List (Nat × Nat)} {ps : List Nat} :
    MemoriesCanonical (ps.foldl (digestFails 1 4 fs) (ps.foldl (digestFails 0 1 fs) s)) ↔ MemoriesCanonical s := by
  rw [canonical_foldl_iff fun _ _ => canonical_digestFails, canonical_foldl_iff fun _ _ => canonical_digestFails]

@[simp] theorem canonical_moveStall {f : Nat} {fs : List (Nat × Nat)} : MemoriesCanonical (moveStall f fs n s).1 ↔ MemoriesCanonical s := by
  induction f generalizing s with
  | zero => rfl
  | succ f ih =>
    unfold moveStall
    dsimp only
    split
    · rfl
    · split_ifs <;> simp [ih]

@[simp] theorem canonical_moveAll {fs : List (Nat × Nat)} {ns : List Nat} :
    MemoriesCanonical (moveAll fs ns s).1 ↔ MemoriesCanonical s := by
  induction ns generalizing s with
  | nil => rfl
  | cons n ns ih =>
    have hmove : MemoriesCanonical (moveStall 320 fs n s).1 ↔ MemoriesCanonical s := canonical_moveStall
    unfold moveAll
    split
    · next u hu =>
      rw [hu] at hmove
      exact ih.trans hmove
    · next u hu =>
      rw [hu] at hmove
      exact hmove

@[simp] theorem canonical_bcastEnds {fs : List (Nat × Nat)} (hs : MemoriesCanonical s) : MemoriesCanonical (bcastEnds fs s) := by
  unfold bcastEnds
  split
  · dsimp only
    split
    · rw [canonical_bringDone]
      split <;> exact canonical_digestFails_twice.2 hs
    · split
      all_goals
        next heq =>
          have hmoved := canonical_moveAll.symm.trans (congrArg (fun r => MemoriesCanonical r.1) heq).to_iff
          simpa using hmoved.1 (canonical_digestFails_twice.2 hs)
  · exact hs

@[simp] theorem canonical_installMap : MemoriesCanonical (installMap s) ↔ MemoriesCanonical s := by
  rw [installMap, canonical_mk, canonical_fold]

@[simp] theorem canonical_toMain (hs : MemoriesCanonical s) : MemoriesCanonical (toMain tag s) := by simp [toMain, hs]
@[simp] theorem canonical_loftTest (hs : MemoriesCanonical s) : MemoriesCanonical (loftTest tag s) := canonical_bringCmd hs hs

@[simp] theorem canonical_loftTestEnds {pages spares : List (Nat × Nat × Nat)} (hs : MemoriesCanonical s) :
    MemoriesCanonical (loftTestEnds pages spares s) := by
  unfold loftTestEnds
  split
  · dsimp only
    split
    · simp [hs]
    · exact canonical_bringDone.2 ⟨nil_wf, hs.2⟩
  · exact hs

@[simp] theorem canonical_linkQual {arg : Nat} (hs : MemoriesCanonical s) : MemoriesCanonical (linkQual tag arg s) := by simp [linkQual, hs]

@[simp] theorem canonical_recordEngine {q : EngineQual} : MemoriesCanonical (recordEngine q s) ↔ MemoriesCanonical s := by
  simp [recordEngine]

@[simp] theorem canonical_qualFail {gate wl : Nat} : MemoriesCanonical (qualFail gate wl s) ↔ MemoriesCanonical s := by simp [qualFail]
@[simp] theorem canonical_hostLanes : MemoriesCanonical (hostLanes s) ↔ MemoriesCanonical s := by simp [hostLanes]

@[simp] theorem canonical_qualEnds {r : LinkResults} (hs : MemoriesCanonical s) : MemoriesCanonical (qualEnds r s) := by
  unfold qualEnds
  split <;> simp [hs]

@[simp] theorem canonical_bringReady (hs : MemoriesCanonical s) : MemoriesCanonical (bringReady tag s) := by simp [bringReady, hs]
@[simp] theorem canonical_drill (hs : MemoriesCanonical s) : MemoriesCanonical (drill tag s) := by simp [drill, hs]
@[simp] theorem canonical_unitReset (hs : MemoriesCanonical s) : MemoriesCanonical (unitReset tag p s) := by simp [unitReset, hs]

@[simp] theorem canonical_drillError {source unit : Nat} :
    MemoriesCanonical (drillError source unit code addr s) ↔ MemoriesCanonical s := by
  simp [drillError]

end Power

/-! ## Vector operations, exchanges and the fabric -/

section Vectors
variable {s : State} {p k n a g off q op t w e slot desc inst y side src member stage : Nat} {ecc : EccReport} {it : List Nat}
  {bs : List Byte} {sram : Secded} {cells : List (Nat × Byte)}

@[simp] theorem canonical_vectorRun {f : Nat → Nat → Env → State → Got State} (hs : MemoriesCanonical s)
    (hf : ∀ p k, (f p k (envAt s n p k) s).Gives MemoriesCanonical) : MemoriesCanonical (vectorRun n op sram (beginOp n) f s) := by
  unfold vectorRun
  split
  · exact hs
  · dsimp only
    split
    · exact canonical_startOp hs fun _ _ _ => canonical_beginOp
    · exact canonical_settleSram hs (by simp [hf])

@[simp] theorem canonical_storeLanes {e : Env} {opnds : List Nat} {r : List (List W32) × List Nat} (hs : MemoriesCanonical s)
    (he : Memory.wf e.x.scratch = true) : (storeLanes n p k stage e opnds r s).Gives MemoriesCanonical :=
  (canonical_storeVals hs he).bind fun u hu => by simp [hu]

@[simp] theorem canonical_elemwiseTile {e : Env} (hs : MemoriesCanonical s) : (elemwiseTile n p k e s).Gives MemoriesCanonical :=
  (gives_bind ..).2 fun _ _ => (canonical_epilogue hs).bind fun r hr => by simp [hr]

@[simp] theorem canonical_copyTile {e : Env} (hs : MemoriesCanonical s) (he : Memory.wf e.x.scratch = true) :
    (copyTile n p k e s).Gives MemoriesCanonical := by
  unfold copyTile
  dsimp only
  split
  · exact (gives_bind ..).2 fun _ _ => (canonical_writeTile hs he).bind fun u hu => by simp [hu]
  · exact (gives_bind ..).2 fun _ _ => (canonical_storeVals hs he).bind fun u hu => by simp [hu]

@[simp] theorem canonical_guideTile {e : Env} (hs : MemoriesCanonical s) (he : Memory.wf e.x.scratch = true) :
    (guideTile n p k e s).Gives MemoriesCanonical := by
  simp [guideTile, hs, he]

@[simp] theorem canonical_stepTile {e : Env} (hs : MemoriesCanonical s) (he : Memory.wf e.x.scratch = true) :
    (stepTile n p k e s).Gives MemoriesCanonical := by
  simp [stepTile, hs, he]

@[simp] theorem canonical_noiseTile {e : Env} (hs : MemoriesCanonical s) (he : Memory.wf e.x.scratch = true) :
    (noiseTile n p k e s).Gives MemoriesCanonical :=
  (gives_bind ..).2 fun _ _ => (canonical_storeVals hs he).bind fun u hu => by simp [hu]

@[simp] theorem canonical_rowstatTile {e : Env} (hs : MemoriesCanonical s) (he : Memory.wf e.x.scratch = true) :
    (rowstatTile n p k e s).Gives MemoriesCanonical := by
  refine (gives_bind ..).2 fun _ _ => ?_
  dsimp only
  split
  · exact (canonical_storeVals hs he).bind fun u hu => by simp [hu]
  · simp [hs]

@[simp] theorem canonical_firstPass {e : Env} {start : Ledger} {f : Ledger → List W32 → Ledger} (hs : MemoriesCanonical s) :
    (firstPass n p k e start f s).Gives MemoriesCanonical := by
  refine (gives_bind ..).2 fun _ _ => ?_
  dsimp only
  (repeat' split) <;> simp [hs]

@[simp] theorem canonical_secondPass {e : Env} {ev : Ledger → Nat} {g : Ledger → Nat → W32 → FnRes} (hs : MemoriesCanonical s)
    (he : Memory.wf e.x.scratch = true) : (secondPass n p k e ev g s).Gives MemoriesCanonical :=
  (gives_bind ..).2 fun _ _ => (canonical_storeVals hs he).bind fun u hu => by simp [hu]

@[simp] theorem canonical_softmaxTile {e : Env} (hs : MemoriesCanonical s) (he : Memory.wf e.x.scratch = true) :
    (softmaxTile n p k e s).Gives MemoriesCanonical := by
  unfold softmaxTile
  split <;> simp [hs, he]

@[simp] theorem canonical_normTile {e : Env} (hs : MemoriesCanonical s) (he : Memory.wf e.x.scratch = true) :
    (normTile n p k e s).Gives MemoriesCanonical := by
  simp [normTile, hs, he]

@[simp] theorem canonical_drawScanTile {e : Env} (hs : MemoriesCanonical s) : (drawScanTile n p k e s).Gives MemoriesCanonical := by
  simp [drawScanTile, hs]

@[simp] theorem canonical_drawFinal {e : Env} (hs : MemoriesCanonical s) (he : Memory.wf e.x.scratch = true) :
    (drawFinal n p k e s).Gives MemoriesCanonical := by
  unfold drawFinal
  dsimp only
  split
  · simp [hs]
  · exact (canonical_storeVals hs he).bind fun u hu => by simp [hu]

@[simp] theorem canonical_drawTile {e : Env} (hs : MemoriesCanonical s) (he : Memory.wf e.x.scratch = true) :
    (drawTile n p k e s).Gives MemoriesCanonical := by
  unfold drawTile
  split <;> simp [hs, he]

@[simp] theorem setHalo_scratch {b : Nat} {x : Stall} : (setHalo side b x).scratch = x.scratch := by rfl

@[simp] theorem canonical_haloReady : MemoriesCanonical (haloReady n p k side s) ↔ MemoriesCanonical s := by
  unfold haloReady
  dsimp only
  (repeat' split) <;> simp

@[simp] theorem canonical_haloSee : MemoriesCanonical (haloSee n p k side s) ↔ MemoriesCanonical s := by
  refine canonical_foldl_iff (fun u r => ?_) _ s
  rw [canonical_injectStall, canonical_modStallP_iff]
  intro x
  split <;> rfl

@[simp] theorem canonical_haloSend (hs : MemoriesCanonical s) : (haloSend n p k side s).Gives MemoriesCanonical := by
  unfold haloSend
  dsimp only
  split
  · exact gives_ok.2 hs
  · split
    · exact gives_ok.2 hs
    · refine (gives_bind ..).2 fun plan _ => ?_
      (repeat' split) <;> simp [hs]

@[simp] theorem canonical_haloPump (hs : MemoriesCanonical s) : (haloPump n p k s).Gives MemoriesCanonical := by
  have hsides : ((haloSides (envAt s n p k).o.d).foldl (fun (g : Got State) side =>
      g.bind fun s => haloSend n p k side (haloSee n p k side (haloReady n p k side s))) (Got.ok s)).Gives MemoriesCanonical :=
    List.foldlRecOn _ _ (gives_ok.2 hs) fun g hg side _ => hg.bind fun u hu => by simp [hu]
  exact hsides.bind fun u hu => by simp [hu]

@[simp] theorem canonical_haloRun (hs : MemoriesCanonical s) : MemoriesCanonical (haloRun n sram s) := by
  unfold haloRun
  split
  · exact hs
  · split
    · simp [hs]
    · split
      · exact canonical_startOp hs fun p k u hu => canonical_settleSram hu (canonical_haloPump (by simp [hu]))
      · exact hs

@[simp] theorem canonical_haloWrite (hs : MemoriesCanonical s) : (haloWrite n p k side bs s).Gives MemoriesCanonical := by
  refine (gives_bind ..).2 fun plan _ => ?_
  have hmark : MemoriesCanonical (modStallP p (setHalo side 3) s) := by simp [hs]
  dsimp only
  split
  · exact gives_ok.2 (canonical_modStallP hmark (memCells_wf _))
  · split <;> simp [hs]

@[simp] theorem canonical_collectSend {e : Env} (hs : MemoriesCanonical s) : (collectSend p k t member w e bs s).Gives MemoriesCanonical :=
  canonical_sendMember hs

@[simp] theorem canonical_collectGive {here : Bool} {next : Option Nat} {e : Env} (hs : MemoriesCanonical s)
    (he : Memory.wf e.x.scratch = true) : (collectGive p k t e it here next w bs s).Gives MemoriesCanonical := by
  have hhere : (if here then writeTile p k e (walkC e.o.d) it t (validOf e.o it 1) (validOf e.o it 2) bs s else .ok s).Gives
      MemoriesCanonical := by simp [hs, he]
  refine hhere.bind fun u hu => ?_
  split <;> simp [hu]

@[simp] theorem canonical_collectCount {satur under nans : Nat} :
    MemoriesCanonical (collectCount p k satur under nans s) ↔ MemoriesCanonical s := by
  simp [collectCount]

@[simp] theorem canonical_reduceUp {e : Env} (hs : MemoriesCanonical s) : (reduceUp n p k e s).Gives MemoriesCanonical := by
  refine (gives_bind ..).2 fun a _ => ?_
  dsimp only
  split
  · exact canonical_collectSend hs
  · refine (gives_bind ..).2 fun b _ => ?_
    have hfree {satur nans w} : MemoriesCanonical (collectCount p k satur 0 nans (winFree n p k w 0 s)) :=
      canonical_collectCount.2 (canonical_winFree.2 hs)
    dsimp only
    split
    · exact canonical_collectSend hfree
    · exact (canonical_collectGive hfree (scratch_wf_stallP hfree)).bind fun u hu => gives_ok.2 (canonical_collectCount.2 hu)

@[simp] theorem canonical_copyUp {e : Env} (hs : MemoriesCanonical s) (he : Memory.wf e.x.scratch = true) :
    (copyUp n p k e s).Gives MemoriesCanonical := by
  unfold copyUp
  extract_lets o d w self nm t first next
  split
  · exact (gives_bind ..).2 fun _ _ => canonical_collectGive hs he
  · refine (gives_bind ..).2 fun _ _ => ?_
    have hfree : MemoriesCanonical (winFree n p k (collectWup d) 0 s) := canonical_winFree.2 hs
    exact canonical_collectGive hfree (scratch_wf_stallP hfree)

@[simp] theorem canonical_collectUp {e : Env} (hs : MemoriesCanonical s) (he : Memory.wf e.x.scratch = true) :
    (collectUp n p k e s).Gives MemoriesCanonical := by
  have hup : (if collectKind e.o.d ≤ 1 then reduceUp n p k e s else copyUp n p k e s).Gives MemoriesCanonical := by simp [hs, he]
  exact hup.bind fun u hu => by simp [hu]

@[simp] theorem canonical_collectDown {e : Env} (hs : MemoriesCanonical s) : (collectDown n p k e s).Gives MemoriesCanonical := by
  unfold collectDown
  dsimp only
  split
  · exact gives_wait
  · split
    · simp [hs]
    · refine (gives_bind ..).2 fun _ _ => ?_
      have hfree : MemoriesCanonical (winFree n p k (collectWdn e.o.d) 0 s) := canonical_winFree.2 hs
      exact (canonical_collectGive hfree (scratch_wf_stallP hfree)).bind fun u hu => by simp [hu]

@[simp] theorem canonical_collectRun {down : Bool} (hs : MemoriesCanonical s) : MemoriesCanonical (collectRun n down sram s) := by
  unfold collectRun
  split
  · exact canonical_onStall hs fun p => gives_firstOp fun k => by simp [hs]
  · exact canonical_vectorRun hs fun _ _ => canonical_collectUp hs (scratch_wf_stallP hs)

@[simp] theorem canonical_dropPkt : MemoriesCanonical (dropPkt k s) ↔ MemoriesCanonical s := by simp [dropPkt]

@[simp] theorem canonical_flitRetry {flit hop : Nat} : MemoriesCanonical (flitRetry k flit hop s) ↔ MemoriesCanonical s := by
  unfold flitRetry
  (repeat' split) <;> simp

@[simp] theorem canonical_fabRead : MemoriesCanonical (fabRead k ecc s) ↔ MemoriesCanonical s := by
  unfold fabRead
  split <;> simp

@[simp] theorem canonical_rdataLands {opnd entry : Nat} {poisoned : Option Nat} (hs : MemoriesCanonical s) :
    MemoriesCanonical (rdataLands n p k opnd entry it cells poisoned s) := by
  unfold rdataLands
  split
  · simp [hs]
  · refine canonical_fetchAll ?_
    split
    · simp [hs]
    · exact canonical_modStallP (canonical_putOp.2 hs) (memCells_wf _)

@[simp] theorem canonical_fabRdata (hs : MemoriesCanonical s) : MemoriesCanonical (fabRdata k s) := by
  unfold fabRdata
  dsimp only
  (repeat' split) <;> simp [hs]

@[simp] theorem canonical_mergeCells (hs : MemoriesCanonical s) : MemoriesCanonical (mergeCells n cells s) := by
  unfold mergeCells
  dsimp only
  (repeat' split) <;> simp [hs]

@[simp] theorem canonical_loftConflict : MemoriesCanonical (loftConflict n desc a it s) ↔ MemoriesCanonical s := by simp [loftConflict]

@[simp] theorem canonical_loftWrite {fill : Option FillRef} (hs : MemoriesCanonical s) :
    MemoriesCanonical (loftWrite n desc cells fill s) := by
  unfold loftWrite
  dsimp only
  (repeat' split) <;> simp [hs]

@[simp] theorem canonical_fabWrite (hs : MemoriesCanonical s) : MemoriesCanonical (fabWrite k ecc s) := by
  unfold fabWrite
  split <;> simp [hs]

@[simp] theorem canonical_fabAck : MemoriesCanonical (fabAck k s) ↔ MemoriesCanonical s := by
  unfold fabAck
  dsimp only
  (repeat' split) <;> simp

@[simp] theorem canonical_yardWorks : MemoriesCanonical (yardWorks y s) ↔ MemoriesCanonical s := by simp [yardWorks]

@[simp] theorem canonical_fabTake (hs : MemoriesCanonical s) : MemoriesCanonical (fabTake k s) := by
  unfold fabTake
  dsimp only
  (repeat' split) <;> simp [hs]

@[simp] theorem canonical_overflowCheck {cap : Nat} : MemoriesCanonical (overflowCheck n p w cap s) ↔ MemoriesCanonical s := by
  unfold overflowCheck
  split <;> simp

@[simp] theorem canonical_windowPart {total : Nat} {bytes : List Byte} {f : WinEntry} (hs : MemoriesCanonical s) :
    MemoriesCanonical (windowPart n p w off total bytes f s).1 := by
  unfold windowPart
  dsimp only
  split
  · exact canonical_modStallP hs (memWrite_wf _ _)
  · exact canonical_overflowCheck.2 (canonical_modStallP hs (memWrite_wf _ _))

@[simp] theorem canonical_haloRowsArrive {total : Nat} {bytes : List Byte} (hs : MemoriesCanonical s) :
    MemoriesCanonical (haloRowsArrive n p side inst src off total bytes s) := by
  unfold haloRowsArrive
  split
  · exact hs
  · dsimp only
    (repeat' split) <;> simp [hs]

@[simp] theorem canonical_fabData (hs : MemoriesCanonical s) : MemoriesCanonical (fabData k s) := by
  unfold fabData
  dsimp only
  (repeat' split) <;> simp [hs]

@[simp] theorem canonical_fabCredit : MemoriesCanonical (fabCredit k s) ↔ MemoriesCanonical s := by
  unfold fabCredit
  dsimp only
  (repeat' split) <;> simp

@[simp] theorem canonical_ledgerAccept {entry : Nat} {l part : Ledger} :
    MemoriesCanonical (ledgerAccept k n p entry l part s) ↔ MemoriesCanonical s := by
  unfold ledgerAccept
  split <;> simp

@[simp] theorem canonical_ledgerArrives {entry : Nat} {part : Ledger} {complete : Bool} :
    MemoriesCanonical (ledgerArrives k n p entry desc part complete s) ↔ MemoriesCanonical s := by
  unfold ledgerArrives
  dsimp only
  (repeat' split) <;> simp

@[simp] theorem canonical_fabLedger : MemoriesCanonical (fabLedger k s) ↔ MemoriesCanonical s := by
  unfold fabLedger
  (repeat' split) <;> simp

@[simp] theorem canonical_fabReady : MemoriesCanonical (fabReady k s) ↔ MemoriesCanonical s := by
  unfold fabReady
  dsimp only
  (repeat' split) <;> simp

@[simp] theorem canonical_gateStore {slot : Nat} {q : GatePkt} (hs : MemoriesCanonical s) : MemoriesCanonical (gateStore n p slot q s) := by
  unfold gateStore
  split
  · exact hs
  · dsimp only
    split
    · rw [canonical_overflowCheck, canonical_modStallP_iff fun _ => by rfl]
      exact canonical_modStallP hs (memWrite_wf _ _)
    · exact canonical_modStallP hs (memWrite_wf _ _)

@[simp] theorem canonical_gateDeliver {q : GatePkt} (hs : MemoriesCanonical s) : MemoriesCanonical (gateDeliver g q s) := by
  unfold gateDeliver
  dsimp only
  (repeat' split) <;> simp [hs]

end Vectors

end Sys2Proof.Machine
end

section
/-! PROOFS. The canonical form of the loft and of the scratch: how the blocks of the hub, the contexts, the snapshots and the registers keep
it. -/

namespace Sys2Proof.Machine

/-! ## The host link, security, syllabi and video -/

section Links
variable {s : State} {p k a tag off addr q c result len w e code status slot src : Nat} {iss : Issuer} {value : W64} {ecc : EccReport}
  {detail : List Byte} {data record : HostRead} {cells : List (Nat × Byte)}

@[simp] theorem canonical_flitReceive {header : W64} {crcOk : Bool} :
    MemoriesCanonical (flitReceive header crcOk s) ↔ MemoriesCanonical s := by
  simp [flitReceive]

@[simp] theorem canonical_hostLinkDown : MemoriesCanonical (hostLinkDown s) ↔ MemoriesCanonical s := by simp [hostLinkDown]

@[simp] theorem canonical_firmwareArrives {data : List Byte} :
    MemoriesCanonical (firmwareArrives off status data s) ↔ MemoriesCanonical s := by
  simp [firmwareArrives]

@[simp] theorem canonical_firmwarePump {f : Nat} : MemoriesCanonical (firmwarePump f len s) ↔ MemoriesCanonical s := by
  induction f generalizing s with
  | zero => rfl
  | succ f ih =>
    unfold firmwarePump
    split_ifs <;> simp [ih]

@[simp] theorem canonical_hostCplArrives {data : List Byte} (hs : MemoriesCanonical s) :
    MemoriesCanonical (hostCplArrives tag status data s) := by
  unfold hostCplArrives
  (repeat' split) <;> simp [hs]

@[simp] theorem canonical_doorbell : MemoriesCanonical (doorbell q value s) ↔ MemoriesCanonical s := by simp [doorbell]
@[simp] theorem canonical_discardWaiting : MemoriesCanonical (discardWaiting q s) ↔ MemoriesCanonical s := by simp [discardWaiting]
@[simp] theorem canonical_sqWrite : MemoriesCanonical (sqWrite q value s) ↔ MemoriesCanonical s := by simp [sqWrite]
@[simp] theorem canonical_cqWrite : MemoriesCanonical (cqWrite q value s) ↔ MemoriesCanonical s := by simp [cqWrite]

@[simp] theorem canonical_writeRecord : MemoriesCanonical (writeRecord q s) ↔ MemoriesCanonical s := by
  unfold writeRecord
  dsimp only
  (repeat' split) <;> simp

@[simp] theorem canonical_smbAnswer {pecOk : Bool} {resp : List Byte} :
    MemoriesCanonical (smbAnswer pecOk resp s) ↔ MemoriesCanonical s := by
  simp [smbAnswer]

@[simp] theorem canonical_attestExhausted {why : Nat} : MemoriesCanonical (attestExhausted why s) ↔ MemoriesCanonical s := by
  simp [attestExhausted]

@[simp] theorem canonical_secDone : MemoriesCanonical (secDone tag result s) ↔ MemoriesCanonical s := by simp [secDone]

@[simp] theorem canonical_secCmd {f : State → State} (hs : MemoriesCanonical s) (hf : MemoriesCanonical (f s)) :
    MemoriesCanonical (secCmd f s) := by
  unfold secCmd
  split_ifs <;> simp [hf, hs]

@[simp] theorem canonical_verify (hs : MemoriesCanonical s) : MemoriesCanonical (verify tag len s) := by simp [verify, hs]
@[simp] theorem canonical_secRefuse : MemoriesCanonical (secRefuse code tag detail s) ↔ MemoriesCanonical s := by simp [secRefuse]
@[simp] theorem canonical_takeEpoch {burnOk : Bool} : MemoriesCanonical (takeEpoch burnOk s) ↔ MemoriesCanonical s := by simp [takeEpoch]

@[simp] theorem canonical_fwStart {burnOk : Bool} {b : List Byte} : MemoriesCanonical (fwStart tag burnOk b s) ↔ MemoriesCanonical s := by
  simp [fwStart]

@[simp] theorem canonical_verifyEnds {burnOk : Bool} (hs : MemoriesCanonical s) : MemoriesCanonical (verifyEnds burnOk s) := by
  unfold verifyEnds
  split <;> simp [hs]

@[simp] theorem canonical_svnCommit (hs : MemoriesCanonical s) : MemoriesCanonical (svnCommit tag s) := by simp [svnCommit, hs]

@[simp] theorem canonical_svnBurnt : MemoriesCanonical (svnBurnt s) ↔ MemoriesCanonical s := by
  unfold svnBurnt
  split <;> rfl

@[simp] theorem canonical_treeBuilt : MemoriesCanonical (treeBuilt s) ↔ MemoriesCanonical s := by simp [treeBuilt]
@[simp] theorem canonical_signOver : MemoriesCanonical (signOver tag result s) ↔ MemoriesCanonical s := by simp [signOver]

@[simp] theorem canonical_sign {view : View} {nonce : HostRead} : MemoriesCanonical (sign view tag nonce s) ↔ MemoriesCanonical s := by
  unfold sign
  (repeat' split) <;> simp

@[simp] theorem canonical_signEnds : MemoriesCanonical (signEnds s) ↔ MemoriesCanonical s := by
  unfold signEnds
  split <;> simp

@[simp] theorem canonical_clearJob : MemoriesCanonical (clearJob s) ↔ MemoriesCanonical s := by
  unfold clearJob
  dsimp only
  rw [canonical_mk]
  exact canonical_foldl_iff (fun _ _ => canonical_discardWaiting) _ s

@[simp] theorem canonical_jobWrite {owned : Bool} {jobid : Nat} : MemoriesCanonical (jobWrite owned jobid s) ↔ MemoriesCanonical s := by
  simp [jobWrite]

@[simp] theorem canonical_stageOver {body : List Byte} : MemoriesCanonical (stageOver iss result status body s) ↔ MemoriesCanonical s := by
  simp [stageOver]

@[simp] theorem canonical_stageDone : MemoriesCanonical (stageDone iss result s) ↔ MemoriesCanonical s := by simp [stageDone]

@[simp] theorem canonical_loadOver {body : List Byte} : MemoriesCanonical (loadOver iss result status body s) ↔ MemoriesCanonical s := by
  simp [loadOver]

@[simp] theorem canonical_loadDone : MemoriesCanonical (loadDone iss result s) ↔ MemoriesCanonical s := by simp [loadDone]

@[simp] theorem canonical_sylFault {sec check : Nat} : MemoriesCanonical (sylFault code slot sec off check s) ↔ MemoriesCanonical s := by
  simp [sylFault]

@[simp] theorem canonical_stageCmd {f : State → State} (hs : MemoriesCanonical s) (hf : MemoriesCanonical (f s)) :
    MemoriesCanonical (stageCmd iss f s) := by
  unfold stageCmd
  split <;> simp [hf, hs]

@[simp] theorem canonical_loadCmd {busy : Bool} {f : State → State} (hs : MemoriesCanonical s) (hf : MemoriesCanonical (f s)) :
    MemoriesCanonical (loadCmd busy iss f s) := by
  unfold loadCmd
  (repeat' split) <;> simp [hf, hs]

@[simp] theorem canonical_setSlot {x : CacheSlot} : MemoriesCanonical (setSlot k x s) ↔ MemoriesCanonical s := by simp [setSlot]

@[simp] theorem canonical_sylStage (hs : MemoriesCanonical s) : MemoriesCanonical (sylStage iss k addr off len data s) := by
  refine canonical_stageCmd hs ?_
  dsimp only
  (repeat' split) <;> simp [hs, canonical_foldl fun _ _ => canonical_hubWrite]

@[simp] theorem canonical_sylFinish (hs : MemoriesCanonical s) : MemoriesCanonical (sylFinish iss k s) := by
  refine canonical_stageCmd hs ?_
  dsimp only
  split
  · simp [hs]
  · split <;> simp [hs]

@[simp] theorem canonical_emptySlot : MemoriesCanonical (emptySlot k s) ↔ MemoriesCanonical s := by simp [emptySlot]

@[simp] theorem canonical_sylEvict (hs : MemoriesCanonical s) : MemoriesCanonical (sylEvict iss k s) := by
  refine canonical_stageCmd hs ?_
  split
  · simp [hs]
  · split <;> simp [hs]

@[simp] theorem canonical_sylAbort (hs : MemoriesCanonical s) : MemoriesCanonical (sylAbort iss k s) := by
  refine canonical_stageCmd hs ?_
  split <;> simp [hs]

@[simp] theorem canonical_sylLoad (hs : MemoriesCanonical s) : MemoriesCanonical (sylLoad iss k s) := by
  refine canonical_loadCmd hs ?_
  split
  · exact canonical_loadDone.2 (canonical_sylFault.2 hs)
  · exact hs

@[simp] theorem canonical_releaseHold : MemoriesCanonical (releaseHold s) ↔ MemoriesCanonical s := by simp [releaseHold]
@[simp] theorem canonical_clearHold : MemoriesCanonical (clearHold s) ↔ MemoriesCanonical s := by simp [clearHold]

@[simp] theorem canonical_zeroFillMap {f : FillRec} (hs : MemoriesCanonical s) : MemoriesCanonical (zeroFillMap f s) := by
  unfold zeroFillMap
  split
  · exact canonical_loftPut hs
  · split
    · exact canonical_modStallP hs (memZero_wf _ _)
    · exact hs

@[simp] theorem canonical_grantWindows {b : List Byte} : MemoriesCanonical (grantWindows b s) ↔ MemoriesCanonical s := by
  rw [grantWindows_eq, canonical_mk, canonical_fold]

@[simp] theorem canonical_zeroCounters {b : List Byte} : MemoriesCanonical (zeroCounters b s) ↔ MemoriesCanonical s := by
  rw [zeroCounters, canonical_mk, canonical_fold]

theorem canonical_modServing {f : Nat → Stall → Stall} {ns : List Nat} (hs : MemoriesCanonical s)
    (hf : ∀ n x, Memory.wf x.scratch = true → Memory.wf (f n x).scratch = true) : MemoriesCanonical (modServing f ns s) := by
  refine canonical_foldl (fun u n hu => ?_) ns hs
  split
  · exact canonical_modStallP hu (hf n _)
  · exact hu

/-- A stall at commit holds its image's bytes, or nothing. -/
theorem scratch_wf_committedStall {b : List Byte} {x : Stall} : Memory.wf (committedStall b k n x).scratch = true := by
  unfold committedStall
  split
  · exact nil_wf
  · exact memWrite_wf _ _ nil_wf

theorem canonical_commitMemories {b : List Byte} (hs : MemoriesCanonical s) : MemoriesCanonical (commitMemories b k s) :=
  canonical_foldl (fun _ _ => canonical_zeroFillMap) _ (canonical_foldl (fun _ _ => canonical_hubWrite) _
    (canonical_modServing hs fun _ _ _ => scratch_wf_committedStall))

theorem canonical_commitRegisters {b : List Byte} : MemoriesCanonical (commitRegisters b k s) ↔ MemoriesCanonical s := Iff.rfl

@[simp] theorem canonical_commitImage (hs : MemoriesCanonical s) : MemoriesCanonical (commitImage k s) := by
  rw [commitImage_eq, canonical_grantWindows, canonical_commitRegisters]
  exact canonical_commitMemories hs

@[simp] theorem canonical_deferredPreempt : MemoriesCanonical (deferredPreempt s) ↔ MemoriesCanonical s := by simp [deferredPreempt]

@[simp] theorem canonical_loadCommit (hs : MemoriesCanonical s) : MemoriesCanonical (loadCommit ecc s) := by
  unfold loadCommit
  split
  · exact hs
  · dsimp only
    split
    · rw [canonical_deferredPreempt, canonical_loadDone, canonical_sylFault, canonical_setSlot, canonical_mk, canonical_fold,
        canonical_mk, canonical_fold, canonical_eccApply]
      exact hs
    · rw [canonical_deferredPreempt, canonical_loadDone, canonical_releaseHold]
      refine canonical_commitImage ?_
      rw [canonical_setSlot, canonical_mk, canonical_fold, canonical_eccApply]
      exact hs

theorem canonical_unloadRegisters {b : List Byte} : MemoriesCanonical (unloadRegisters b k s) ↔ MemoriesCanonical s := Iff.rfl

@[simp] theorem canonical_unloadImage (hs : MemoriesCanonical s) : MemoriesCanonical (unloadImage k s) := by
  obtain ⟨gate, flt, heq⟩ := unloadImage_eq k s
  rw [heq, canonical_mk, canonical_fold, canonical_unloadRegisters]
  exact canonical_modServing hs fun _ _ => id

@[simp] theorem canonical_sylUnload (hs : MemoriesCanonical s) : MemoriesCanonical (sylUnload iss k s) := by simp [sylUnload, hs]
@[simp] theorem canonical_sylClear (hs : MemoriesCanonical s) : MemoriesCanonical (sylClear iss s) := by simp [sylClear, hs]
@[simp] theorem canonical_policyWrite : MemoriesCanonical (policyWrite value s) ↔ MemoriesCanonical s := by simp [policyWrite]
@[simp] theorem canonical_keyWrite : MemoriesCanonical (keyWrite k w value s) ↔ MemoriesCanonical s := by simp [keyWrite]
@[simp] theorem canonical_modStream {f : Stream → Stream} : MemoriesCanonical (modStream k f s) ↔ MemoriesCanonical s := by simp [modStream]

@[simp] theorem canonical_vidOver {body : List Byte} : MemoriesCanonical (vidOver iss result status body s) ↔ MemoriesCanonical s := by
  simp [vidOver]

@[simp] theorem canonical_vidDone : MemoriesCanonical (vidDone iss result s) ↔ MemoriesCanonical s := by simp [vidDone]

@[simp] theorem canonical_vidCmd {busy : Bool} {f : State → State} (hs : MemoriesCanonical s) (hf : MemoriesCanonical (f s)) :
    MemoriesCanonical (vidCmd busy iss f s) := by
  unfold vidCmd
  (repeat' split) <;> simp [hf, hs]

@[simp] theorem canonical_vidOpen (hs : MemoriesCanonical s) : MemoriesCanonical (vidOpen iss k addr record s) := by
  unfold vidOpen
  split <;> simp [hs]

@[simp] theorem canonical_makeEligible : MemoriesCanonical (makeEligible k s) ↔ MemoriesCanonical s := by simp [makeEligible]

@[simp] theorem canonical_vidSubmit (hs : MemoriesCanonical s) : MemoriesCanonical (vidSubmit iss k addr record s) := by
  unfold vidSubmit
  split <;> simp [hs]

@[simp] theorem canonical_encodeCmd {f : Stream → Option Stream} (hs : MemoriesCanonical s) : MemoriesCanonical (encodeCmd iss k f s) := by
  refine canonical_vidCmd hs ?_
  dsimp only
  split_ifs
  · simp [hs]
  · split <;> simp [hs]

@[simp] theorem canonical_vidKey (hs : MemoriesCanonical s) : MemoriesCanonical (vidKey iss k s) := by simp [vidKey, hs]

@[simp] theorem canonical_vidLtrMark {j : Nat} (hs : MemoriesCanonical s) : MemoriesCanonical (vidLtrMark iss k j s) := by
  simp [vidLtrMark, hs]

@[simp] theorem canonical_vidLtrUse {j : Nat} (hs : MemoriesCanonical s) : MemoriesCanonical (vidLtrUse iss k j s) := by
  simp [vidLtrUse, hs]

@[simp] theorem canonical_postPicture {p : PicDesc} {stream picno order bytes flags reftag : Nat} :
    MemoriesCanonical (postPicture p stream picno order bytes flags reftag s) ↔ MemoriesCanonical s := by
  simp [postPicture]

@[simp] theorem canonical_discardPicture {stream : Nat} {p : PicDesc} :
    MemoriesCanonical (discardPicture stream p s) ↔ MemoriesCanonical s := by
  simp [discardPicture]

@[simp] theorem canonical_closeStream {closer : Option Issuer} : MemoriesCanonical (closeStream k closer s) ↔ MemoriesCanonical s := by
  simp [closeStream]

@[simp] theorem canonical_vidClose (hs : MemoriesCanonical s) : MemoriesCanonical (vidClose iss k s) := by simp [vidClose, hs]

@[simp] theorem canonical_pictureStart : MemoriesCanonical (pictureStart e s) ↔ MemoriesCanonical s := by
  unfold pictureStart
  (repeat' split) <;> simp

@[simp] theorem canonical_putDst {a : W64} (hs : MemoriesCanonical s) : MemoriesCanonical (putDst a cells s) := by simp [putDst, hs]

@[simp] theorem canonical_vidReads {c : VidCtx} {p : PicDesc} : MemoriesCanonical (vidReads c p ecc s) ↔ MemoriesCanonical s := by
  simp [vidReads]

@[simp] theorem canonical_storeRef {c : VidCtx} {store : Nat} {byte : Nat → Byte} (hs : MemoriesCanonical s) :
    MemoriesCanonical (storeRef c store byte s) := by
  simp [storeRef, hs]

@[simp] theorem canonical_vidEvent {r : RunPic} : MemoriesCanonical (vidEvent e code k r s) ↔ MemoriesCanonical s := by simp [vidEvent]

@[simp] theorem canonical_encodeEnds {r : RunPic} {src : EntryData} (hs : MemoriesCanonical s) :
    MemoriesCanonical (encodeEnds e r src s) := by
  simp [encodeEnds, hs]

@[simp] theorem canonical_decodeEnds {r : RunPic} {src : EntryData} (hs : MemoriesCanonical s) :
    MemoriesCanonical (decodeEnds e r src s) := by
  simp [decodeEnds, hs]

@[simp] theorem canonical_closeEnds : MemoriesCanonical (closeEnds k s) ↔ MemoriesCanonical s := by
  unfold closeEnds
  dsimp only
  (repeat' split) <;> simp

@[simp] theorem canonical_pictureComplete {src : EntryData} (hs : MemoriesCanonical s) : MemoriesCanonical (pictureComplete e src s) := by
  unfold pictureComplete
  split <;> simp [hs]

end Links

/-! ## Contexts, snapshots and registers -/

section Contexts
variable {s : State} {p k n a tag off addr q c result op len w e code status slot step src : Nat} {iss : Issuer} {v : View} {value : W64}
  {ecc : EccReport} {bs : List Byte} {sram : Secded} {data : HostRead}

theorem winRestored_scratch {c : List Byte} {desc : Nat} {o : Option OpCtx} {x : Stall} :
    (winRestored s n p w c desc o x).scratch = x.scratch := by
  rw [winRestored]
  dsimp only
  by_cases hrs : (routesInto s ((x.loaded.map (·.slot)).getD 0) n w).isEmpty
  · rw [if_pos hrs]
    split <;> rfl
  · rw [if_neg hrs]
    dsimp only
    refine List.foldlRecOn (motive := fun y : Stall => y.scratch = x.scratch) _ _ ?_ fun y hy g _ => ?_
    · split <;> rfl
    · split
      · exact hy
      · exact hy

theorem foldl_winRestored_scratch {c : List Byte} {desc : Nat} {o : Option OpCtx} {x : Stall} (ws : List Nat) :
    (ws.foldl (fun x w => winRestored s n p w c desc o x) x).scratch = x.scratch :=
  List.foldlRecOn (motive := fun y : Stall => y.scratch = x.scratch) ws _ rfl fun _ hy _ _ => winRestored_scratch.trans hy

@[simp] theorem canonical_stallLinked {c : List Byte} : MemoriesCanonical (stallLinked n p c s) ↔ MemoriesCanonical s := by
  rw [stallLinked]
  refine canonical_setStallP_iff ?_
  dsimp only
  exact foldl_winRestored_scratch _

theorem scratch_wf_stallFrom {blk : List Byte} {flight : List Nat} {x : Stall} :
    Memory.wf (stallFrom s slot n blk flight x).scratch = true :=
  memWrite_wf _ _ nil_wf

@[simp] theorem canonical_putStalls {b hub : List Byte} (hs : MemoriesCanonical s) : MemoriesCanonical (putStalls b hub s) := by
  unfold putStalls
  refine canonical_foldl (fun u q hu => ?_) _ hs
  dsimp only
  split
  · rw [canonical_stallLinked]
    exact canonical_modStallP hu fun _ => scratch_wf_stallFrom
  · exact hu

@[simp] theorem canonical_putGateCredits {b : List Byte} : MemoriesCanonical (putGateCredits b s) ↔ MemoriesCanonical s := by
  unfold putGateCredits
  refine canonical_foldl_iff (fun u q => canonical_foldl_iff (fun u w => ?_) _ u) _ s
  dsimp only
  split_ifs <;> rfl

@[simp] theorem canonical_putHub {b : List Byte} : MemoriesCanonical (putHub b s) ↔ MemoriesCanonical s := by
  rw [putHub, canonical_mk, canonical_fold]

@[simp] theorem canonical_putExtents {rs : List (Nat × Nat)} (hs : MemoriesCanonical s) : MemoriesCanonical (putExtents rs bs s) := by
  induction rs generalizing bs s with
  | nil => exact hs
  | cons r rs ih => exact ih (canonical_hubWrite hs)

@[simp] theorem canonical_ctxOver {body : List Byte} : MemoriesCanonical (ctxOver iss result status body s) ↔ MemoriesCanonical s := by
  simp [ctxOver]

@[simp] theorem canonical_ctxCmd {f : State → State} (hs : MemoriesCanonical s) (hf : MemoriesCanonical (f s)) :
    MemoriesCanonical (ctxCmd iss f s) := by
  unfold ctxCmd
  (repeat' split) <;> simp [hf, hs]

@[simp] theorem canonical_ctxPreempt (hs : MemoriesCanonical s) : MemoriesCanonical (ctxPreempt iss s) := by simp [ctxPreempt, hs]

@[simp] theorem canonical_stallPreemptStop (hs : MemoriesCanonical s) : MemoriesCanonical (stallPreemptStop n s) := by
  unfold stallPreemptStop
  (repeat' split) <;> simp [hs]

@[simp] theorem canonical_ctxStopped : MemoriesCanonical (ctxStopped s) ↔ MemoriesCanonical s := by
  unfold ctxStopped
  split
  · split_ifs <;> simp
  · rfl

@[simp] theorem canonical_markCtx : MemoriesCanonical (markCtx s) ↔ MemoriesCanonical s := by simp [markCtx]
@[simp] theorem canonical_storeError {sel : Nat} : MemoriesCanonical (storeError sel status s) ↔ MemoriesCanonical s := by simp [storeError]

@[simp] theorem canonical_saveEnds {label : W64} {whole store : Bool} {outcome : SaveOutcome} :
    MemoriesCanonical (saveEnds iss addr label whole store outcome s) ↔ MemoriesCanonical s := by
  unfold saveEnds
  (repeat' split) <;> simp

@[simp] theorem canonical_ctxSave {label : W64} {whole store : Bool} {outcome : SaveOutcome} (hs : MemoriesCanonical s) :
    MemoriesCanonical (ctxSave iss addr len label whole store outcome s) := by
  simp [ctxSave, hs]

@[simp] theorem canonical_scrambleExtents {es : List (Nat × Nat)} (hs : MemoriesCanonical s) :
    MemoriesCanonical (scrambleExtents es s) := by
  simp [scrambleExtents, hs]

@[simp] theorem canonical_restoreRefused {store : Bool} :
    MemoriesCanonical (restoreRefused iss code step store s) ↔ MemoriesCanonical s := by
  simp [restoreRefused]

@[simp] theorem canonical_restoreSteps {store : Bool} {b : List Byte} (hs : MemoriesCanonical s) :
    MemoriesCanonical (restoreSteps iss len store b s) := by
  have hwritten {es bs blocks hub} : MemoriesCanonical (putExtents es bs (putHub hub (putGateCredits blocks (putStalls blocks hub s)))) :=
    canonical_putExtents (canonical_putHub.2 (canonical_putGateCredits.2 (canonical_putStalls hs)))
  rw [restoreSteps]
  refine iteInduction (motive := MemoriesCanonical) (fun _ => canonical_restoreRefused.2 hs) fun _ => ?_
  refine iteInduction (motive := MemoriesCanonical) (fun _ => canonical_restoreRefused.2 hs) fun _ => ?_
  refine iteInduction (motive := MemoriesCanonical) (fun _ => canonical_ctxDone.2 hs) fun _ => ?_
  refine iteInduction (motive := MemoriesCanonical) (fun _ => ?_) fun _ => ?_
  · exact canonical_restoreRefused.2 (canonical_scrambleExtents hwritten)
  · rw [canonical_ctxDone, canonical_mk, canonical_fold]
    exact hwritten

@[simp] theorem canonical_ctxRestore {store : Bool} (hs : MemoriesCanonical s) :
    MemoriesCanonical (ctxRestore iss addr len store data s) := by
  unfold ctxRestore
  split <;> simp [hs]

@[simp] theorem canonical_stallResumes (hs : MemoriesCanonical s) : MemoriesCanonical (stallResumes s n) := by
  unfold stallResumes
  split
  · exact hs
  · simp [hs]

@[simp] theorem canonical_ctxResume (hs : MemoriesCanonical s) : MemoriesCanonical (ctxResume iss s) := by
  refine canonical_ctxCmd hs ?_
  split
  · exact canonical_ctxDone.2 hs
  · exact canonical_ctxDone.2 (canonical_foldl (fun _ _ => canonical_stallResumes) _ (by exact hs))

@[simp] theorem canonical_recommitStalls (hs : MemoriesCanonical s) : MemoriesCanonical (recommitStalls k s) := by
  rw [recommitStalls, canonical_zeroCounters]
  refine canonical_foldl (fun _ _ => canonical_zeroFillMap) _ (canonical_foldl (fun u n hu => ?_) _ hs)
  split
  · exact canonical_modStallP hu fun _ => scratch_wf_committedStall
  · exact hu

@[simp] theorem canonical_toCommit (hs : MemoriesCanonical s) : MemoriesCanonical (toCommit s) :=
  canonical_foldl (fun _ _ => canonical_recommitStalls) (residents s) hs

@[simp] theorem canonical_ctxClear (hs : MemoriesCanonical s) : MemoriesCanonical (ctxClear iss s) := by simp [ctxClear, hs]
@[simp] theorem canonical_vacDone : MemoriesCanonical (vacDone iss result status s) ↔ MemoriesCanonical s := by simp [vacDone]
@[simp] theorem canonical_vacEnds : MemoriesCanonical (vacEnds iss s) ↔ MemoriesCanonical s := by simp [vacEnds]

@[simp] theorem canonical_vacNext {es : List Nat} : MemoriesCanonical (vacNext iss es s) ↔ MemoriesCanonical s := by
  induction es generalizing s with
  | nil => simp [vacNext]
  | cons e es ih =>
    unfold vacNext
    split_ifs <;> simp [ih]

@[simp] theorem canonical_vacDiscard (hs : MemoriesCanonical s) : MemoriesCanonical (vacDiscard s) := by
  refine canonical_foldl (fun _ _ => canonical_unloadImage) _ ?_
  rw [canonical_mk, scratchesCanonical_map_iff (f := fun e => (e.1, endedStall e.2)) fun _ => rfl, canonical_fold,
    canonical_foldl_iff fun _ _ => canonical_closeStream]
  exact hs

@[simp] theorem canonical_ctxVacate {zmask : Nat} (hs : MemoriesCanonical s) : MemoriesCanonical (ctxVacate iss zmask s) := by
  unfold ctxVacate
  (repeat' split) <;> simp [hs]

@[simp] theorem canonical_zeroDone (hs : MemoriesCanonical s) : MemoriesCanonical (zeroDone s) := by
  unfold zeroDone
  dsimp only
  (repeat' split) <;> simp [hs]

@[simp] theorem canonical_snapOver {body : List Byte} : MemoriesCanonical (snapOver iss result status body s) ↔ MemoriesCanonical s := by
  simp [snapOver]

@[simp] theorem canonical_snapCmd {f : State → State} (hs : MemoriesCanonical s) (hf : MemoriesCanonical (f s)) :
    MemoriesCanonical (snapCmd iss f s) := by
  unfold snapCmd
  (repeat' split) <;> simp [hf, hs]

@[simp] theorem canonical_snapConfig {a : StoreAnswers} (hs : MemoriesCanonical s) : MemoriesCanonical (snapConfig iss a s) := by
  simp [snapConfig, hs]

@[simp] theorem canonical_storePump : MemoriesCanonical (storePump s) ↔ MemoriesCanonical s := by
  unfold storePump
  (repeat' split) <;> simp

@[simp] theorem canonical_snapTake (hs : MemoriesCanonical s) : MemoriesCanonical (snapTake iss s) := by simp [snapTake, hs]
@[simp] theorem canonical_drainPoisoned : MemoriesCanonical (drainPoisoned a s) ↔ MemoriesCanonical s := by simp [drainPoisoned]

theorem canonical_foldl_hubPkts {data answer : Nat} (rs : List (Nat × Nat)) :
    MemoriesCanonical (rs.foldl (fun s r => hubPkts data answer r.1 (r.2 - r.1) s) s) ↔ MemoriesCanonical s :=
  canonical_foldl_iff (fun _ _ => canonical_hubPkts) rs s

theorem canonical_poisonedOrPumped {poisoned : Option Nat} {u : State} (hu : MemoriesCanonical u) :
    MemoriesCanonical (match poisoned with | some w => drainPoisoned w u | none => storePump u) := by
  cases poisoned with
  | none => exact canonical_storePump.2 hu
  | some w => exact canonical_drainPoisoned.2 hu

@[simp] theorem canonical_snapCapture (hs : MemoriesCanonical s) : MemoriesCanonical (snapCapture s) := by
  unfold snapCapture
  split
  · exact hs
  split
  · exact hs
  split
  · exact hs
  refine canonical_poisonedOrPumped ?_
  rw [canonical_mk, canonical_fold, canonical_foldl_hubPkts]
  exact canonical_hubWrite hs

@[simp] theorem canonical_snapLossRead : MemoriesCanonical (snapLossRead s) ↔ MemoriesCanonical s := by
  unfold snapLossRead
  (repeat' split) <;> simp

@[simp] theorem canonical_scheduleNext : MemoriesCanonical (scheduleNext step s) ↔ MemoriesCanonical s := by simp [scheduleNext]

@[simp] theorem canonical_snapCommit : MemoriesCanonical (snapCommit s) ↔ MemoriesCanonical s := by
  unfold snapCommit
  split <;> simp

@[simp] theorem canonical_snapAbort (hs : MemoriesCanonical s) : MemoriesCanonical (snapAbort iss s) := by simp [snapAbort, hs]

@[simp] theorem canonical_drainEcc : MemoriesCanonical (drainEcc ecc s).1 ↔ MemoriesCanonical s := by
  unfold drainEcc
  split <;> simp

@[simp] theorem canonical_storeCpl {cid : Nat} {answer : StoreDone} : MemoriesCanonical (storeCpl cid answer s) ↔ MemoriesCanonical s := by
  unfold storeCpl
  dsimp only
  (repeat' split) <;> simp

@[simp] theorem canonical_storeLinkDown : MemoriesCanonical (storeLinkDown s) ↔ MemoriesCanonical s := by simp [storeLinkDown]

@[simp] theorem canonical_laneLossOfLock : MemoriesCanonical (laneLossOfLock e w s) ↔ MemoriesCanonical s := by
  unfold laneLossOfLock
  dsimp only
  (repeat' split) <;> simp

@[simp] theorem canonical_snapReadFails {host : Bool} : MemoriesCanonical (snapReadFails iss addr host s) ↔ MemoriesCanonical s := by
  simp [snapReadFails]

@[simp] theorem canonical_putGroups {keepRoutes : Bool} {b : List Byte} :
    MemoriesCanonical (putGroups keepRoutes b s) ↔ MemoriesCanonical s := by
  simp [putGroups]

@[simp] theorem canonical_snapGroups {slot : Nat} {host keepRoutes : Bool} (hs : MemoriesCanonical s) :
    MemoriesCanonical (snapGroups iss addr slot host keepRoutes data s) := by
  refine canonical_snapCmd hs ?_
  split
  · simp [hs]
  · split
    · simp [hs]
    · split <;> simp [hs]

@[simp] theorem canonical_putRecords {b : List Byte} (hs : MemoriesCanonical s) : MemoriesCanonical (putRecords b s) := by
  refine canonical_foldl (fun u q hu => ?_) _ hs
  split
  · exact canonical_modStallP hu fun _ => scratch_wf_committedStall
  · exact hu

@[simp] theorem canonical_putSnapHub {b : List Byte} : MemoriesCanonical (putSnapHub b s) ↔ MemoriesCanonical s := by
  rw [putSnapHub, canonical_mk, canonical_fold, canonical_putHub]

@[simp] theorem canonical_snapWrite {b : List Byte} (hs : MemoriesCanonical s) : MemoriesCanonical (snapWrite b step s) := by
  rw [snapWrite]
  refine canonical_putExtents ?_
  rw [canonical_mk, canonical_fold]
  refine canonical_hubWrite ?_
  rw [canonical_putSnapHub]
  exact canonical_putRecords hs

@[simp] theorem canonical_snapRefused {v : Nat} : MemoriesCanonical (snapRefused iss code src step v s) ↔ MemoriesCanonical s := by
  simp [snapRefused]

@[simp] theorem canonical_snapSteps {host : Bool} {b : List Byte} (hs : MemoriesCanonical s) :
    MemoriesCanonical (snapSteps iss host slot b s) := by
  simp [snapSteps, hs]

@[simp] theorem canonical_snapRestore {host : Bool} (hs : MemoriesCanonical s) :
    MemoriesCanonical (snapRestore iss addr slot host data s) := by
  unfold snapRestore
  split <;> simp [hs]

@[simp] theorem canonical_replayCheck : MemoriesCanonical (replayCheck s) ↔ MemoriesCanonical s := by
  unfold replayCheck
  dsimp only
  (repeat' split) <;> simp

@[simp] theorem canonical_snapClear (hs : MemoriesCanonical s) : MemoriesCanonical (snapClear iss s) := by simp [snapClear, hs]
@[simp] theorem canonical_configSet {v : W64} : MemoriesCanonical (configSet off v s) ↔ MemoriesCanonical s := by simp [configSet]
@[simp] theorem canonical_configWrite {v : W64} : MemoriesCanonical (configWrite off v s) ↔ MemoriesCanonical s := by simp [configWrite]

@[simp] theorem canonical_aperRead : MemoriesCanonical (aperRead n p k sram s).2 ↔ MemoriesCanonical s := by
  unfold aperRead
  dsimp only
  (repeat' split) <;> simp

theorem scratch_wf_spaceSet {x : Stall} {o : Nat} (hx : Memory.wf x.scratch = true) : Memory.wf (spaceSet x o bs).scratch = true := by
  unfold spaceSet
  split
  · exact memWrite_wf _ _ hx
  · exact hx
  · exact hx
  · exact hx

@[simp] theorem canonical_aperWrite (hs : MemoriesCanonical s) : MemoriesCanonical (aperWrite p k value s) := by
  refine canonical_setStallP hs ?_
  split
  · exact scratch_wf_spaceSet (scratch_wf_stallP hs)
  · exact scratch_wf_stallP hs

@[simp] theorem canonical_regPackets : MemoriesCanonical (regPackets s) ↔ MemoriesCanonical s := by simp [regPackets]

@[simp] theorem canonical_stwRead : MemoriesCanonical (stwRead n off sram s).2 ↔ MemoriesCanonical s := by
  unfold stwRead
  (repeat' split) <;> simp

@[simp] theorem stwAddrSet_scratch {x : Stall} : (stwAddrSet value x).scratch = x.scratch := by rfl

@[simp] theorem canonical_stwWrite (hs : MemoriesCanonical s) : MemoriesCanonical (stwWrite n off value s) := by
  unfold stwWrite
  split
  · exact hs
  · split_ifs <;> simp [hs]

@[simp] theorem canonical_sylCommand (hs : MemoriesCanonical s) : MemoriesCanonical (sylCommand iss op k addr off len data s) := by
  unfold sylCommand
  split <;> simp [hs]

@[simp] theorem canonical_rollCommand {idx : Nat} {e : RollEntry} (hs : MemoriesCanonical s) :
    MemoriesCanonical (rollCommand iss op idx addr e data s) := by
  unfold rollCommand
  split <;> simp [hs]

@[simp] theorem canonical_vidCommand (hs : MemoriesCanonical s) : MemoriesCanonical (vidCommand iss op k slot addr data s) := by
  unfold vidCommand
  split <;> simp [hs]

@[simp] theorem canonical_loftCommand {entry : Nat} : MemoriesCanonical (loftCommand v iss op entry s) ↔ MemoriesCanonical s := by
  simp [loftCommand]

@[simp] theorem canonical_ctxCommand {label : W64} {whole store : Bool} (hs : MemoriesCanonical s) :
    MemoriesCanonical (ctxCommand iss op addr len label whole store data s) := by
  unfold ctxCommand
  split <;> simp [hs]

@[simp] theorem canonical_snapCommand {host keep : Bool} (hs : MemoriesCanonical s) :
    MemoriesCanonical (snapCommand iss op addr slot host keep data s) := by
  unfold snapCommand
  split <;> simp [hs]

@[simp] theorem canonical_pwrCommand (hs : MemoriesCanonical s) : MemoriesCanonical (pwrCommand op tag s) := by
  unfold pwrCommand
  split <;> simp [hs]

@[simp] theorem canonical_bringCommand {arg : Nat} (hs : MemoriesCanonical s) : MemoriesCanonical (bringCommand op tag arg data s) := by
  unfold bringCommand
  split <;> simp [hs]

@[simp] theorem canonical_fwCommand (hs : MemoriesCanonical s) : MemoriesCanonical (fwCommand op tag len s) := by
  unfold fwCommand
  split <;> simp [hs]

@[simp] theorem canonical_attCommand : MemoriesCanonical (attCommand v op tag data s) ↔ MemoriesCanonical s := by simp [attCommand]

@[simp] theorem canonical_vacCommand {zmask : Nat} (hs : MemoriesCanonical s) : MemoriesCanonical (vacCommand iss op zmask s) := by
  simp [vacCommand, hs]

@[simp] theorem canonical_devSet {w : W64} : MemoriesCanonical (devSet off w s) ↔ MemoriesCanonical s := by simp [devSet]
@[simp] theorem canonical_ptrWrite {w : W64} : MemoriesCanonical (ptrWrite q w s) ↔ MemoriesCanonical s := by simp [ptrWrite]

@[simp] theorem canonical_hostSet {w : W64} : MemoriesCanonical (hostSet off w s) ↔ MemoriesCanonical s := by
  unfold hostSet
  (repeat' split) <;> simp

@[simp] theorem canonical_bringSet {w : W64} (hs : MemoriesCanonical s) : MemoriesCanonical (bringSet off w data s) := by
  simp [bringSet, hs]

@[simp] theorem canonical_secSet {w : W64} (hs : MemoriesCanonical s) : MemoriesCanonical (secSet v off w data s) := by simp [secSet, hs]
@[simp] theorem canonical_sylSet {w : W64} (hs : MemoriesCanonical s) : MemoriesCanonical (sylSet off w data s) := by simp [sylSet, hs]
@[simp] theorem canonical_rngSet {w : W64} : MemoriesCanonical (rngSet off w s) ↔ MemoriesCanonical s := by simp [rngSet]
@[simp] theorem canonical_gateSet {w : W64} : MemoriesCanonical (gateSet off w s) ↔ MemoriesCanonical s := by simp [gateSet]
@[simp] theorem canonical_vidSet {w : W64} (hs : MemoriesCanonical s) : MemoriesCanonical (vidSet off w data s) := by simp [vidSet, hs]
@[simp] theorem canonical_ctxSet {w : W64} (hs : MemoriesCanonical s) : MemoriesCanonical (ctxSet off w data s) := by simp [ctxSet, hs]
@[simp] theorem canonical_snapSet {w : W64} (hs : MemoriesCanonical s) : MemoriesCanonical (snapSet off w data s) := by simp [snapSet, hs]
@[simp] theorem canonical_fltSet {w : W64} : MemoriesCanonical (fltSet off w s) ↔ MemoriesCanonical s := by simp [fltSet]

@[simp] theorem canonical_wordRead : MemoriesCanonical (wordRead v addr s).2 ↔ MemoriesCanonical s := by
  unfold wordRead
  (repeat' split) <;> simp

@[simp] theorem canonical_burstRead : MemoriesCanonical (burstRead v n addr s).2 ↔ MemoriesCanonical s := by
  induction n generalizing addr s with
  | zero => rfl
  | succ n ih => simp [burstRead, ih]

@[simp] theorem canonical_registerRead : MemoriesCanonical (registerRead v tag addr len s) ↔ MemoriesCanonical s := by simp [registerRead]

@[simp] theorem canonical_apertureRead : MemoriesCanonical (apertureRead v tag n k sram s) ↔ MemoriesCanonical s := by
  unfold apertureRead
  dsimp only
  (repeat' split) <;> simp

@[simp] theorem canonical_fabReg {write : Option W64} (hs : MemoriesCanonical s) : MemoriesCanonical (fabReg v n off write s) := by
  unfold fabReg
  (repeat' split) <;> simp [hs]

@[simp] theorem canonical_servedQueue : MemoriesCanonical (servedQueue q s) ↔ MemoriesCanonical s := by simp [servedQueue]
@[simp] theorem canonical_advanceHead : MemoriesCanonical (advanceHead q s) ↔ MemoriesCanonical s := by simp [advanceHead]

@[simp] theorem canonical_zeroOutside : MemoriesCanonical (zeroOutside iss s) ↔ MemoriesCanonical s := by
  unfold zeroOutside
  (repeat' split) <;> simp

@[simp] theorem canonical_entryCommand {e : List Byte} (hs : MemoriesCanonical s) : MemoriesCanonical (entryCommand q e data s) := by
  unfold entryCommand
  split <;> simp [hs]

@[simp] theorem canonical_entryRun {e : List Byte} (hs : MemoriesCanonical s) : MemoriesCanonical (entryRun q e data ecc s) := by
  unfold entryRun
  split <;> simp [hs]

@[simp] theorem canonical_queueTake {entry : HostRead} (hs : MemoriesCanonical s) : MemoriesCanonical (queueTake q entry data ecc s) := by
  unfold queueTake
  (repeat' split) <;> simp [hs]

end Contexts

end Sys2Proof.Machine
end

section
/-! PROOFS. The canonical form of the loft and of the scratch: every command, and the statement of O58. -/

namespace Sys2Proof.Machine

/-! ## Every command -/

section Sets
variable {s t : State} {v : View} {addr off : Nat} {w : W64} {data : HostRead}

theorem memoriesCanonical_resetState : MemoriesCanonical (resetState s) := ⟨rfl, nofun⟩

/-- AUX empties the loft; the stalls of the barns stay as they were. -/
theorem canonical_auxEntry (hs : MemoriesCanonical s) : MemoriesCanonical (auxEntry s) := ⟨rfl, hs.2⟩

theorem canonical_transitionDone (hs : MemoriesCanonical s) : MemoriesCanonical (transitionDone s) := by
  unfold transitionDone
  split
  · exact hs
  · refine canonical_startQueuedYards (canonical_startPending ?_)
    split
    · exact canonical_auxEntry hs
    · exact hs

theorem canonical_drivenWrite : MemoriesCanonical (drivenWrite w s) ↔ MemoriesCanonical s := by
  unfold drivenWrite
  split_ifs <;> rfl

theorem canonical_pwrSet (hs : MemoriesCanonical s) : MemoriesCanonical (pwrSet off w s) := by
  unfold pwrSet
  split_ifs
  · exact canonical_pwrCommand hs
  all_goals exact hs

theorem canonical_loftSet (hs : MemoriesCanonical s) : MemoriesCanonical (loftSet v off w s) := by
  unfold loftSet
  dsimp only
  split
  · exact canonical_loftMapSet hs
  split
  · exact hs
  split
  · exact canonical_loftCommand.2 hs
  split
  · exact hs
  split
  · split_ifs <;> exact hs
  split
  · exact canonical_loftPartSet.2 hs
  · exact hs

theorem canonical_rollSet (hs : MemoriesCanonical s) : MemoriesCanonical (rollSet off w data s) := by
  unfold rollSet
  split_ifs
  · exact canonical_rollCommand hs
  · exact hs
  · exact hs
  · exact hs
  · exact canonical_drivenWrite.2 hs
  · exact hs

theorem canonical_regSet (hs : MemoriesCanonical s) : MemoriesCanonical (regSet v addr w data s) := by
  unfold regSet
  dsimp only
  split
  case h_3 => exact canonical_pwrSet hs
  case h_7 => exact canonical_rollSet hs
  case h_9 => exact canonical_loftSet hs
  all_goals simp [hs]

theorem canonical_burstWrite {ws : List W64} (hs : MemoriesCanonical s) : MemoriesCanonical (burstWrite v data ws addr s) := by
  induction ws generalizing addr s with
  | nil => exact hs
  | cons w ws ih =>
    refine ih ?_
    unfold wordWrite
    split_ifs
    · exact canonical_viewViolation.2 hs
    · exact canonical_stwWrite hs
    · exact canonical_regSet hs

theorem canonical_registerWrite {ws : List W64} (hs : MemoriesCanonical s) : MemoriesCanonical (registerWrite v addr ws data s) := by
  unfold registerWrite
  split_ifs
  · exact hs
  · exact hs
  · exact canonical_burstWrite hs

theorem canonical_exec {c : Instr} (hs : MemoriesCanonical s) (hexec : exec c s = .next t) : MemoriesCanonical t := by
  cases c
  case resetNAssert => cases hexec; exact memoriesCanonical_resetState
  case pwrgdAuxFall =>
    cases hexec
    split_ifs
    · exact memoriesCanonical_resetState
    · exact hs
  case powerTransitionDone => cases hexec; exact canonical_transitionDone hs
  case rollDrivenWrite => cases hexec; exact canonical_regWrite hs (canonical_drivenWrite.2 hs)
  case hostQueueConfigWrite =>
    cases hexec
    refine canonical_regWrite hs ?_
    split_ifs <;> simp [hs]
  case registerWrite => cases hexec; exact canonical_registerWrite hs
  case rowstat => cases hexec; exact canonical_vectorRun hs fun _ _ => canonical_rowstatTile hs (scratch_wf_stallP hs)
  case softmax => cases hexec; exact canonical_vectorRun hs fun _ _ => canonical_softmaxTile hs (scratch_wf_stallP hs)
  case norm => cases hexec; exact canonical_vectorRun hs fun _ _ => canonical_normTile hs (scratch_wf_stallP hs)
  case draw => cases hexec; exact canonical_vectorRun hs fun _ _ => canonical_drawTile hs (scratch_wf_stallP hs)
  case noise => cases hexec; exact canonical_vectorRun hs fun _ _ => canonical_noiseTile hs (scratch_wf_stallP hs)
  case move => cases hexec; exact canonical_vectorRun hs fun _ _ => canonical_copyTile hs (scratch_wf_stallP hs)
  case send => cases hexec; exact canonical_vectorRun hs fun _ _ => canonical_copyTile hs (scratch_wf_stallP hs)
  case recv => cases hexec; exact canonical_vectorRun hs fun _ _ => canonical_copyTile hs (scratch_wf_stallP hs)
  case stepOp => cases hexec; exact canonical_vectorRun hs fun _ _ => canonical_stepTile hs (scratch_wf_stallP hs)
  case guide => cases hexec; exact canonical_vectorRun hs fun _ _ => canonical_guideTile hs (scratch_wf_stallP hs)
  case fence => cases hexec; exact canonical_startOp hs fun _ _ _ => by simp
  case slotReadout => cases hexec; exact canonical_onStall hs fun _ => canonical_readoutSlot hs
  case chainOut => cases hexec; exact canonical_onStall hs fun _ => canonical_sendSlot hs
  all_goals
    cases hexec
    simp [hs]

end Sets

/-- Settles O58: each command keeps the form by the lemma about its function, and the tick writes no memory. -/
theorem memoriesStayCanonical : Obligations.MemoriesStayCanonical := by
  unfold Obligations.MemoriesStayCanonical
  intro s t hs hstep
  cases hqueue : s.pending with
  | nil =>
    rw [step_of_pending_nil hqueue] at hstep
    cases hstep
    exact canonical_tick.2 hs
  | cons c rest =>
    rw [step_of_pending_cons hqueue] at hstep
    exact canonical_exec (s := { s with pending := rest }) hs hstep

end Sys2Proof.Machine
end

section
/-! PROOFS. The loft at rest: what a scrub tick, a refresh and ZERO leave, and the statement of O34. -/

namespace Sys2Proof.Machine

/-! ## The scrub (R291) -/

section Scrub
variable {s u : State} {slice w : Nat} {ecc : EccReport}

/-- What a scrub reads and does not write: the bytes of the loft, the pages of the slices, the spare map and the stalls. -/
def besideScrub (s : State) : Mem × Table Slice × BringBlk × Table Stall := (s.loft.mem, s.loft.slices, s.bring, s.stalls)

theorem besideScrub_correctAt (c access a : Nat) (s : State) : besideScrub (correctAt c access a s) = besideScrub s := by
  simp only [correctAt]
  split_ifs <;> rfl

theorem besideScrub_poisonOne (a : Nat) (s : State) : besideScrub (poisonOne a s) = besideScrub s := by
  unfold poisonOne
  split_ifs <;> rfl

theorem besideScrub_eccApply (ecc : EccReport) (reads : Nat → Bool) (access : Nat) (s : State) :
    besideScrub (eccApply ecc reads access s) = besideScrub s :=
  (foldl_keeps (fun s w => besideScrub_poisonOne w s) ..).trans (foldl_keeps (fun s w => besideScrub_correctAt _ access w s) ..)

/-- The log of poisoned words is a register of its own. -/
theorem plogAdd_eq (w : Nat) (s : State) : plogAdd w s = { s with loft.plog := (plogAdd w s).loft.plog } := by
  unfold plogAdd
  split <;> rfl

theorem besideScrub_plogAdd (w : Nat) (s : State) : besideScrub (plogAdd w s) = besideScrub s := by
  rw [plogAdd_eq]
  rfl

theorem poison_plogAdd (w : Nat) (s : State) : (plogAdd w s).loft.poison = s.loft.poison := by rw [plogAdd_eq]

theorem besideScrub_scrubSpare (slice : Nat) (ecc : EccReport) (s : State) : besideScrub (scrubSpare slice ecc s) = besideScrub s :=
  foldl_keeps (fun s _ => besideScrub_correctAt _ 0 _ (takeFree s).2) _ s

theorem poison_scrubSpare (slice : Nat) (ecc : EccReport) (s : State) : (scrubSpare slice ecc s).loft.poison = s.loft.poison :=
  foldl_keeps (g := fun s => s.loft.poison) (fun s _ => correctAt_poison (takeFree s).2 ..) _ s

/-- The state after a scrub has read its page, before it moves on to the next. -/
def scrubbed (slice : Nat) (ecc : EccReport) (s : State) : State :=
  let page := (tget {} s.loft.slices slice).page
  let reads := scrubReads s slice page
  let new := (ecc.uncorrectable.filter reads).filter fun w => !poisonedWord s w
  let s := new.eraseDups.foldl (fun s w => plogAdd w s) (eccApply ecc reads 0 s)
  if (scrubPage s slice page).isNone then scrubSpare slice ecc s else s

theorem besideScrub_scrubbed : besideScrub (scrubbed slice ecc s) = besideScrub s := by
  have hread (ws reads) : besideScrub (List.foldl (fun s w => plogAdd w s) (eccApply ecc reads 0 s) ws) = besideScrub s :=
    (foldl_keeps (fun s w => besideScrub_plogAdd w s) ..).trans (besideScrub_eccApply ..)
  unfold scrubbed
  dsimp only
  split_ifs
  · exact (besideScrub_scrubSpare ..).trans (hread ..)
  · exact hread ..

/-- What the decoder found uncorrectable on the page is poisoned. -/
theorem poisonedWord_scrubbed (hw : w ∈ ecc.uncorrectable) (hreads : scrubReads s slice (tget {} s.loft.slices slice).page w = true) :
    poisonedWord (scrubbed slice ecc s) w = true := by
  have hread := (poisonedWord_eccApply s ecc _ 0 w).2 (.inl ⟨hw, hreads⟩)
  have hlogged (ws : List Nat) (u : State) : (ws.foldl (fun s w => plogAdd w s) u).loft.poison = u.loft.poison :=
    foldl_keeps (g := fun s => s.loft.poison) (fun s w => poison_plogAdd w s) ws u
  unfold scrubbed
  dsimp only
  split_ifs
  · rw [poisonedWord, poison_scrubSpare, hlogged]
    exact hread
  · rw [poisonedWord, hlogged]
    exact hread

theorem passPages_congr (hbring : u.bring = s.bring) : passPages u slice = passPages s slice := by rw [passPages, passPages, hbring]

/-- A slice that goes on to its next page, the first again after its last. -/
def nextPage (pages : Nat) (x : Slice) : Slice :=
  { x with page := if pages ≤ x.page + 1 then 0 else x.page + 1, passes := if pages ≤ x.page + 1 then x.passes + 1 else x.passes }

/-- A scrub that runs reads its page and moves its slice on. -/
theorem scrubTick_of_on (hon : s.loft.scrubOn = true) (htested : s.bring.loftTested = true) (hbarns : barnsOn s = true)
    (hserves : unitStopped s 2 (slice / 40) = false) : scrubTick slice ecc s = { scrubbed slice ecc s with
      loft.slices := tset s.loft.slices slice (nextPage (passPages s slice) (tget {} s.loft.slices slice)) } := by
  have hkept : besideScrub (scrubbed slice ecc s) = besideScrub s := besideScrub_scrubbed
  simp only [besideScrub, Prod.mk.injEq] at hkept
  obtain ⟨-, hslices, hbring, -⟩ := hkept
  have htick : scrubTick slice ecc s = { scrubbed slice ecc s with
      loft.slices := tset (scrubbed slice ecc s).loft.slices slice
        (nextPage (passPages (scrubbed slice ecc s) slice) (tget {} s.loft.slices slice)) } :=
    if_neg (by simp [hon, htested, hbarns, hserves])
  rw [htick, passPages_congr hbring, hslices]

theorem scrubTick_of_off (hoff : s.loft.scrubOn = false) : scrubTick slice ecc s = s := by simp [scrubTick, hoff]

end Scrub

/-! ## ZERO (R303) -/

theorem zero_of_idle {s : State} {v : View} {iss : Issuer} {i : Nat} (hidle : s.loft.zero = none) (hbar : jobBar false s = none)
    (haccess : (partAt s i).access ≠ 0) (hview : v = .job → (partAt s i).access = 1) (hcircuits : circuitsRunning s = false)
    (hops : opsRunning s = false) (hpreempt : preemptBars s (partAt s i) = false)
    (hsyl : (partAt s i).access = 2 → ∀ e ∈ s.syl.slots, e.2.st = .empty) :
    zero v iss i s = { s with loft.zero := some {
      entry := i, base := (partAt s i).base * 2 ^ 21, limit := (partAt s i).limit * 2 ^ 21, issuer := some iss } } := by
  have hreached : ¬ ((partAt s i).access = 0 ∨ v = .job ∧ (partAt s i).access ≠ 1) := by tauto
  have hempty : ¬ ((partAt s i).access = 2 ∧ s.syl.slots.any (fun e => e.2.st ≠ .empty) = true) := by simpa using hsyl
  have hfree : ¬ (circuitsRunning s = true ∨ opsRunning s = true ∨ preemptBars s (partAt s i) = true ∨
      (partAt s i).access = 2 ∧ s.syl.slots.any (fun e => e.2.st ≠ .empty) = true) := by
    simp only [hcircuits, hops, hpreempt, Bool.false_eq_true, false_or]
    exact hempty
  simp only [zero, hidle, hbar, Option.isSome_none, Bool.false_eq_true, if_false]
  rw [if_neg hreached, if_neg hfree]

/-- The state after a ZERO of a register command has ended. -/
theorem zeroDone_of_issued {s : State} {z : ZeroRun} {iss : Issuer} (hzero : s.loft.zero = some z) (hissuer : z.issuer = some iss)
    (hvac : s.ctx.vac = none) : zeroDone s = loftDone iss 0 (loftZeroed z.base z.limit { s with loft.zero := none }) := by
  simp only [zeroDone, hzero, hissuer]
  have hkept : (loftDone iss 0 (loftZeroed z.base z.limit { s with loft.zero := none })).ctx.vac = none := by
    rw [loftDone, postCmd_ctx]
    exact hvac
  rw [hkept]

theorem poisonedWord_loftZeroed {s : State} {lo hi w : Nat} (hlo : lo ≤ w) (hhi : w < hi) :
    poisonedWord (loftZeroed lo hi s) w = false := by
  simp [poisonedWord, loftZeroed, hlo, hhi]

theorem completed_loftDone (tag result : Nat) (s : State) :
    Completed tag result [] { s with loft.ztag := tag % 256, loft.zresult := result } (loftDone (regIssuer tag) result s) := by
  rw [loftDone, show (regIssuer tag).tag % 256 = tag % 256 from Nat.mod_mod ..]
  exact completed_postCmd ..

/-- Settles O34: a scrub by `scrubTick_of_on` and what `scrubbed` keeps; ZERO's start by `zero_of_idle` and its end by the bytes and the
poison that `loftZeroed` leaves. -/
theorem loftMaintenance : Obligations.LoftMaintenance := by
  unfold Obligations.LoftMaintenance
  intro s
  refine ⟨?scrub, ?off, ?refresh, ?start, ?ends⟩
  case scrub =>
    intro slice ecc hon htested hbarns hserves
    have hkept : besideScrub (scrubbed slice ecc s) = besideScrub s := besideScrub_scrubbed
    simp only [besideScrub, Prod.mk.injEq] at hkept
    obtain ⟨hmem, -, -, hstalls⟩ := hkept
    refine ⟨_, congrArg Host.Outcome.next (scrubTick_of_on hon htested hbarns hserves), hmem, ?_,
      fun w hw hreads => poisonedWord_scrubbed hw hreads, fun j hj => (tget_tset ..).trans (if_neg hj), hstalls⟩
    exact congrArg Slice.page (tget_tset_same ..)
  case off => exact fun hoff slice ecc => congrArg Host.Outcome.next (scrubTick_of_off hoff)
  case refresh => exact fun slice hot haux => congrArg Host.Outcome.next (if_neg (by simpa using haux) : refresh slice hot s = _)
  case start =>
    intro v tag i hreach hidle hbar haccess hview hcircuits hops hpreempt hsyl
    exact next_of_reaches hreach (zero_of_idle hidle hbar haccess hview hcircuits hops hpreempt hsyl)
  case ends =>
    intro z tag hzero hissuer hvac
    obtain ⟨hkept, hqueues⟩ := completed_loftDone tag 0 (loftZeroed z.base z.limit { s with loft.zero := none })
    refine ⟨_, congrArg Host.Outcome.next (zeroDone_of_issued hzero hissuer hvac), ?_⟩
    generalize loftDone (regIssuer tag) 0 (loftZeroed z.base z.limit { s with loft.zero := none }) = t at hkept hqueues ⊢
    rw [hqueues, if_pos (by rfl), hkept]
    exact ⟨rfl, rfl, rfl, fun a => memGet_memZero .., fun w hlo hhi => poisonedWord_loftZeroed hlo hhi,
      ⟨_, List.mem_append_right _ (List.mem_singleton.2 rfl), rfl, rfl⟩, rfl, rfl, rfl⟩

end Sys2Proof.Machine
end

section
/-! PROOFS. COPY: the order in which the link sends writes, the bytes that a copy moves, and the statement of O45. -/

namespace Sys2Proof.Machine

/-! ## Posted writes leave in their order (R376) -/

/-- The link holds a write back only with all that follow it. -/
theorem linkPump_in_order {ts left : List HostTxn} {pOk nOk : Bool} {h : HostBlk} (hposted : ∀ t ∈ ts, (txnCredits t).1 ≠ 0)
    (hleft : left = [] ∨ pOk = false) :
    (linkPump ts left pOk nOk h).tx ++ (linkPump ts left pOk nOk h).txq = h.tx ++ (left ++ ts) := by
  induction ts generalizing left pOk nOk h with
  | nil => simp [linkPump]
  | cons t ts ih =>
    obtain ⟨ht, hts⟩ := List.forall_mem_cons.1 hposted
    unfold linkPump
    dsimp only
    split_ifs with hfull hgo
    · rfl
    · have hempty : left = [] := hleft.resolve_right fun hstopped => by simp [ht, hstopped] at hgo
      subst hempty
      rw [ih hts (.inl rfl)]
      simp [linkSend]
    · rw [ih hts (.inr (by simp [ht]))]
      simp

theorem posted_hostWrites {addr : Nat} {bs : List Byte} : ∀ t ∈ hostWrites addr bs, (txnCredits t).1 ≠ 0 := fun t ht => by
  obtain ⟨c, -, rfl⟩ := List.mem_map.1 ht
  simp only [txnCredits]
  omega

theorem hostSend_hostWrites {s : State} {addr : Nat} {bs : List Byte} (hup : s.host.up = true) (hidle : s.host.txq = []) :
    (hostSend (hostWrites addr bs) s).host.tx ++ (hostSend (hostWrites addr bs) s).host.txq = s.host.tx ++ hostWrites addr bs := by
  rw [hostSend, if_pos hup, hidle]
  exact linkPump_in_order posted_hostWrites (.inl rfl)

theorem linkPump_queues (ts left : List HostTxn) (pOk nOk : Bool) (h : HostBlk) : (linkPump ts left pOk nOk h).queues = h.queues := by
  induction ts generalizing left pOk nOk h with
  | nil => rfl
  | cons t ts ih =>
    unfold linkPump
    dsimp only
    split_ifs
    · rfl
    · exact ih ..
    · exact ih ..

theorem hostSend_queues (ts : List HostTxn) (s : State) : (hostSend ts s).host.queues = s.host.queues := by
  unfold hostSend
  split_ifs
  · exact linkPump_queues ..
  · rfl

/-! ## The bytes of a copy -/

section Chunks
variable {α β : Type}

theorem chunksFuel_map (g : α → β) (f n : Nat) (l : List α) : chunksFuel f n (l.map g) = (chunksFuel f n l).map (List.map g) := by
  induction f generalizing l with
  | zero => rfl
  | succ f ih =>
    cases l with
    | nil => rfl
    | cons x r =>
      rw [List.map_cons, chunksFuel, ← List.map_cons, ← List.map_drop, ih, ← List.map_take]
      rfl

theorem chunks_map (g : α → β) (n : Nat) (l : List α) : chunks n (l.map g) = (chunks n l).map (List.map g) := by
  rw [chunks, List.length_map, chunksFuel_map, chunks]

theorem ne_nil_of_mem_chunksFuel {f n : Nat} (hn : n ≠ 0) {l c : List α} (hc : c ∈ chunksFuel f n l) : c ≠ [] := by
  induction f generalizing l with
  | zero => cases hc
  | succ f ih =>
    cases l with
    | nil => cases hc
    | cons x r =>
      obtain rfl | hc := List.mem_cons.1 hc
      · simp [hn]
      · exact ih hc

end Chunks

/-- Bytes with no gap between them are one run. -/
theorem runsFrom_map_some (a : Nat) {bs : List Byte} (hbs : bs ≠ []) : runsFrom a (bs.map some) = [(a, bs)] := by
  induction bs generalizing a with
  | nil => cases hbs rfl
  | cons b r ih =>
    cases r with
    | nil => rfl
    | cons c r =>
      rw [List.map_cons, runsFrom, ih (a + 1) (List.cons_ne_nil _ _)]
      exact if_pos rfl

/-- The runs of bytes that all may be read are the writes of these bytes. -/
theorem flatMap_runsFrom_eq_hostWrites (addr : Nat) (bs : List Byte) :
    ((chunks 4096 (bs.map some)).zipIdx.flatMap fun c =>
      (runsFrom (addr + 4096 * c.2) c.1).map fun r => HostTxn.write r.1 r.2) = hostWrites addr bs := by
  rw [chunks_map, List.zipIdx_map, List.flatMap_map, hostWrites, List.map_eq_flatMap]
  refine List.flatMap_congr fun c hc => ?_
  have hne : c.1 ≠ [] := ne_nil_of_mem_chunksFuel (by decide) (List.fst_mem_of_mem_zipIdx hc)
  simp [runsFrom_map_some _ hne]

theorem memCells_cellsAt (m : List (Nat × Byte)) (a : Nat) (bs : List Byte) : memCells m (cellsAt a bs) = memWrite m a bs := by
  induction bs generalizing m a with
  | nil => rfl
  | cons b r ih =>
    have hcells : cellsAt a (b :: r) = (a, b) :: cellsAt (a + 1) r := by
      rw [cellsAt, List.zipIdx_cons, List.map_cons, List.zipIdx_succ, List.map_map]
      exact congrArg _ (List.map_congr_left fun p _ => congrArg (·, p.1) (by dsimp only; omega))
    rw [hcells, memCells, List.foldl_cons]
    exact ih ..

theorem length_padTo (n : Nat) (bs : List Byte) : (padTo n bs).length = n := by
  rw [padTo, slice, List.length_append, List.length_replicate]
  exact Nat.add_sub_cancel' (List.length_take_le ..)

/-! ## The words of a copy (R287) -/

section Words
variable {s : State} {a n w b : Nat}

theorem wordOf_mem_wordsIn (hlo : a ≤ b) (hhi : b < a + n) : wordOf b ∈ wordsIn a n := by
  rw [wordsIn, if_neg (by omega)]
  refine List.mem_map.2 ⟨(wordOf b - wordOf a) / 64, List.mem_range.2 ?_, ?_⟩
  · unfold wordOf
    omega
  · unfold wordOf
    omega

/-- Where no word of a range is poisoned, no byte of it is. -/
theorem clean_of_firstPoison (hclean : firstPoison s a n = none) (hlo : a ≤ b) (hhi : b < a + n) :
    poisonedWord s (wordOf b) = false := by
  have hword := List.find?_eq_none.1 hclean _ (wordOf_mem_wordsIn hlo hhi)
  exact Bool.eq_false_iff.2 hword

/-- A range of whole words holds the word of each of its bytes. -/
theorem wholeIn_wordOf (ha : a % 64 = 0) (hn : n % 64 = 0) (hlo : a ≤ b) (hhi : b < a + n) : wholeIn a n (wordOf b) = true := by
  have hword : a ≤ wordOf b ∧ wordOf b + 64 ≤ a + n := by
    unfold wordOf
    omega
  exact Bool.and_eq_true_iff.2 ⟨decide_eq_true hword.1, decide_eq_true hword.2⟩

theorem wholeIn_of_mem_wordsIn (ha : a % 64 = 0) (hn : n % 64 = 0) (hw : w ∈ wordsIn a n) : wholeIn a n w = true := by
  by_cases hpos : n = 0
  · rw [wordsIn, if_pos hpos] at hw
    cases hw
  rw [wordsIn, if_neg hpos] at hw
  obtain ⟨i, hi, rfl⟩ := List.mem_map.1 hw
  have hlast : i < (wordOf (a + n - 1) - wordOf a) / 64 + 1 := List.mem_range.1 hi
  have hword : a ≤ wordOf a + 64 * i ∧ wordOf a + 64 * i + 64 ≤ a + n := by
    unfold wordOf at hlast ⊢
    omega
  exact Bool.and_eq_true_iff.2 ⟨decide_eq_true hword.1, decide_eq_true hword.2⟩

/-- What the decoder reports of words that an access does not read changes nothing. -/
theorem eccApply_of_no_reads {ecc : EccReport} {reads : Nat → Bool} {access : Nat} (hreads : ∀ w, reads w = false) :
    eccApply ecc reads access s = s := by
  simp [eccApply, show reads = fun _ => false from funext hreads]

end Words

/-! ## The command (R292, R300, R380, R381) -/

/-- A queue's command that is counted as incomplete. -/
def counted (q : Nat) (s : State) : State := modQueue q (fun x => { x with inflight := x.inflight + 1 }) s

theorem counted_loft (q : Nat) (s : State) : (counted q s).loft = s.loft := rfl

/-- A copy into the loft that its queue is told of changes the bytes, their poison, the packets counted and the host block. -/
theorem frame_of_copied {s v u t : State} (hv : ∃ host, v = { s with host := host })
    (hu : ∃ mem poison packets, u = { v with loft.mem := mem, loft.poison := poison, fab.packets := packets })
    (ht : ∃ host, t = { u with host := host }) :
    t = { s with host := t.host, loft.mem := t.loft.mem, loft.poison := t.loft.poison, fab.packets := t.fab.packets } := by
  obtain ⟨_, rfl⟩ := hv
  obtain ⟨_, _, _, rfl⟩ := hu
  obtain ⟨_, rfl⟩ := ht
  rfl

theorem exists_counted (q : Nat) (s : State) : ∃ host, counted q s = { s with host := host } := ⟨_, rfl⟩

theorem exists_hubWrite (a : Nat) (bs : List Byte) (s : State) : ∃ mem poison packets,
    hubWrite a bs s = { s with loft.mem := mem, loft.poison := poison, fab.packets := packets } := ⟨_, _, _, rfl⟩

theorem exists_postCmd (iss : Issuer) (status : Nat) (body : List Byte) (s : State) :
    ∃ host, postCmd iss status body s = { s with host := host } := by
  obtain ⟨via, tag⟩ := iss
  cases via
  · exact ⟨_, rfl⟩
  · exact ⟨_, rfl⟩

section Command
variable {s u : State} {q tag host loft len a st : Nat} {ok : Bool} {f : Issuer → State → State} {ecc : EccReport} {bs body : List Byte}
  {iss : Issuer}

/-- A counted command that ends has its record in its queue, and the count is as before it. -/
theorem queues_answered (hqueues : u.host.queues = (counted q s).host.queues) (tag st : Nat) (body : List Byte) :
    queueAt (postCmd { via := .queue q, tag := tag } st body u) q = { queueAt s q with
      waiting := (queueAt s q).waiting ++ [{ tag := tag, status := st, kind := 0, body := body }] } ∧
    ∀ k, k ≠ q → queueAt (postCmd { via := .queue q, tag := tag } st body u) k = queueAt s k := by
  have hcounted (k) : queueAt u k = queueAt (counted q s) k := congrArg (fun t => tget ({} : Queue) t k) hqueues
  refine ⟨?_, fun k hk => ?_⟩
  · rw [queueAt_postCmd_queue, if_pos rfl, hcounted, counted, queueAt_modQueue, if_pos rfl]
    rfl
  · rw [queueAt_postCmd_queue, if_neg hk, hcounted, counted, queueAt_modQueue, if_neg hk]

theorem copyRun_of_bar (howned : s.sec.owned = true) (hbar : copyBar q host loft len ok s = some (st, body)) :
    copyRun q tag host loft len ok f s = postCmd { via := .queue q, tag := tag } st body (counted q s) := by
  have hbar' : copyBar q host loft len ok (counted q s) = some (st, body) := hbar
  have howned' : ¬ (q < 16 ∧ (!(counted q s).sec.owned) = true) := by simp [counted, howned]
  rw [copyRun, ← counted, if_neg howned', hbar']

theorem copyRun_of_no_bar (howned : s.sec.owned = true) (hbar : copyBar q host loft len ok s = none) :
    copyRun q tag host loft len ok f s = f { via := .queue q, tag := tag } (counted q s) := by
  have hbar' : copyBar q host loft len ok (counted q s) = none := hbar
  have howned' : ¬ (q < 16 ∧ (!(counted q s).sec.owned) = true) := by simp [counted, howned]
  rw [copyRun, ← counted, if_neg howned', hbar']

theorem copyBar_of_size (hunit : unitBar s = none) (hsize : len = 0 ∨ len % 64 ≠ 0 ∨ 2 ^ 39 < loft + len) :
    copyBar q host loft len ok s = some (5, []) := by
  rw [copyBar, hunit]
  exact if_pos hsize

/-- A copy of a good size is barred by the first byte outside its view. -/
theorem copyBar_of_fit (hq : q < 16) (hunit : unitBar s = none) (hpos : len ≠ 0) (hwords : len % 64 = 0) (hmax : loft + len ≤ 2 ^ 39) :
    copyBar q host loft len ok s = match firstOutside (jobRanges s) loft (loft + len) with
      | some a => some (0x13, addrBody a)
      | none => if ok then none else some (0x13, addrBody host) := by
  have hsize : ¬ (len = 0 ∨ len % 64 ≠ 0 ∨ 2 ^ 39 < loft + len) := by omega
  rw [copyBar, hunit]
  dsimp only
  rw [if_neg hsize, queueView, if_pos hq]
  rfl

/-- A copy inside its view is taken. -/
theorem copyBar_of_inside (hq : q < 16) (hunit : unitBar s = none) (hpos : len ≠ 0) (hwords : len % 64 = 0)
    (hmax : loft + len ≤ 2 ^ 39) (hinside : firstOutside (jobRanges s) loft (loft + len) = none) :
    copyBar q host loft len true s = none := by
  rw [copyBar_of_fit hq hunit hpos hwords hmax, hinside]
  rfl

/-! ### TO_LOFT -/

/-- A copy of whole words reads none; one of clean words is reported nothing. -/
theorem eccApply_of_safe (hwords : bs.length % 64 = 0)
    (hsafe : loft % 64 = 0 ∨ ecc = { corrected := [], uncorrectable := [] } ∧ firstPoison u loft bs.length = none) :
    eccApply ecc (fun w => (wordsIn loft bs.length).contains w && !wholeIn loft bs.length w) 4 u = u := by
  obtain haligned | ⟨rfl, -⟩ := hsafe
  · refine eccApply_of_no_reads fun w => ?_
    by_cases hw : w ∈ wordsIn loft bs.length
    · simp [wholeIn_of_mem_wordsIn haligned hwords hw]
    · simp [hw]
  · rfl

theorem cells_free_of_safe (hwords : bs.length % 64 = 0)
    (hsafe : loft % 64 = 0 ∨ ecc = { corrected := [], uncorrectable := [] } ∧ firstPoison u loft bs.length = none) :
    ∀ c ∈ cellsAt loft bs, poisonedWord u (wordOf c.1) = false ∨ wholeIn loft bs.length (wordOf c.1) = true := fun c hc => by
  obtain ⟨hlo, hhi⟩ := mem_cellsAt hc
  obtain haligned | ⟨-, hclean⟩ := hsafe
  · exact .inr (wholeIn_wordOf haligned hwords hlo hhi)
  · exact .inl (clean_of_firstPoison hclean hlo hhi)

/-- Where no word that a copy merges is poisoned, it writes all its bytes. -/
theorem copyIn_of_free
    (hunread : eccApply ecc (fun w => (wordsIn loft bs.length).contains w && !wholeIn loft bs.length w) 4 u = u)
    (hfree : ∀ c ∈ cellsAt loft bs, poisonedWord u (wordOf c.1) = false ∨ wholeIn loft bs.length (wordOf c.1) = true) :
    copyIn loft bs ecc iss u = postCmd iss 0 [] (hubWrite loft bs u) := by
  have hblocked : blockedWord u (cellsAt loft bs) (wholeIn loft bs.length) = none := by
    rw [blockedWord, Option.map_eq_none_iff, List.find?_eq_none]
    intro c hc
    obtain hclean | hwhole := hfree c hc
    · simp [hclean]
    · simp [hwhole]
  rw [copyIn, hunread, hblocked]

theorem copyTo_of_inside {b : List Byte} (howned : s.sec.owned = true) (hbar : copyBar q host loft len true s = none)
    (hheld : copyHeld s loft len = false) :
    copyTo q tag host loft len (some b) ecc s = copyIn loft (padTo len b) ecc { via := .queue q, tag := tag } (counted q s) := by
  have hheld' : copyHeld (counted q s) loft len = false := hheld
  rw [copyTo, Option.isSome_some, copyRun_of_no_bar howned hbar, hheld', if_neg Bool.false_ne_true]
  rfl

theorem hubWrite_mem_of_free
    (hfree : ∀ c ∈ cellsAt loft bs, poisonedWord u (wordOf c.1) = false ∨ wholeIn loft bs.length (wordOf c.1) = true) :
    (hubWrite loft bs u).loft.mem = memWrite u.loft.mem loft bs := by
  have hall : (cellsAt loft bs).filter (fun c => !poisonedWord u (wordOf c.1) || wholeIn loft bs.length (wordOf c.1)) = cellsAt loft bs :=
    List.filter_eq_self.2 fun c hc => by
      obtain hclean | hwhole := hfree c hc
      · simp [hclean]
      · simp [hwhole]
  rw [← memCells_cellsAt, ← hall]
  rfl

/-- A word written whole is clean (R292). -/
theorem poisonedWord_hubWrite_whole {w : Nat} (hw : w % 64 = 0) (hlo : loft ≤ w) (hhi : w + 64 ≤ loft + bs.length) :
    poisonedWord (hubWrite loft bs u) w = false := by
  have hwhole : wholeIn loft bs.length w = true := Bool.and_eq_true_iff.2 ⟨decide_eq_true hlo, decide_eq_true hhi⟩
  have hcell : (cellsAt loft bs).any (fun c => wordOf c.1 = w) = true := by
    refine List.any_eq_true.2 ⟨(w, bs[w - loft]), List.mem_map.2 ⟨(bs[w - loft], w - loft), ?_, ?_⟩, ?_⟩
    · exact List.mem_zipIdx_iff_getElem?.2 (List.getElem?_eq_getElem _)
    · exact congrArg (·, _) (Nat.add_sub_cancel' hlo)
    · exact decide_eq_true (Nat.div_mul_cancel (Nat.dvd_of_mod_eq_zero hw))
  refine Bool.eq_false_iff.2 fun hpoison => ?_
  have hkept := (List.mem_filter.1 (List.contains_iff_mem.1 hpoison)).2
  rw [hwhole, hcell] at hkept
  exact absurd hkept (by decide)

/-! ### FROM_LOFT -/

/-- A copy out of clean words sends their bytes. -/
theorem copyOut_of_clean (hclean : firstPoison u loft len = none) :
    copyOut host loft len { corrected := [], uncorrectable := [] } iss u =
      postCmd iss 0 [] (hostSend (hostWrites host (memRead u.loft.mem loft len)) (hubPkts 1 0 loft len u)) := by
  have hbytes : ((List.range len).map fun i =>
      if poisonedWord (hubPkts 1 0 loft len u) (wordOf (loft + i)) then none else some (memGet u.loft.mem (loft + i))) =
      (memRead u.loft.mem loft len).map some := by
    rw [memRead, List.map_map]
    refine List.map_congr_left fun i hi => ?_
    have hword : poisonedWord (hubPkts 1 0 loft len u) (wordOf (loft + i)) = false :=
      clean_of_firstPoison hclean (Nat.le_add_right ..) (Nat.add_lt_add_left (List.mem_range.1 hi) _)
    simp [hword]
  have hread : hubRead { corrected := [], uncorrectable := [] } 0 loft len u = hubPkts 1 0 loft len u := rfl
  have hsent (ts) : firstPoison (hostSend ts (hubPkts 1 0 loft len u)) loft len = none := by
    rw [hostSend_eq]
    exact hclean
  rw [copyOut, hread]
  dsimp only [hubPkts_loft]
  rw [hbytes, flatMap_runsFrom_eq_hostWrites, hsent]

end Command

/-- Settles O45: the command's bar by `copyBar_of_size` and `copyBar_of_fit`; its bytes by `copyIn_of_free` and `copyOut_of_clean`. -/
theorem copies : Obligations.Copies := by
  unfold Obligations.Copies
  intro s q tag host loft len hq howned hunit
  refine ⟨fun hpos hwords hmax hinside => ⟨?toLoft, ?fromLoft⟩, ?barred⟩
  case toLoft =>
    intro b ecc hheld hsafe
    have hlen : (padTo len b).length = len := length_padTo ..
    have hbar : copyBar q host loft len true s = none := copyBar_of_inside hq hunit hpos hwords hmax hinside
    have hsafe' : loft % 64 = 0 ∨ ecc = { corrected := [], uncorrectable := [] } ∧
        firstPoison (counted q s) loft (padTo len b).length = none := by
      rw [hlen]
      exact hsafe
    have hwords' : (padTo len b).length % 64 = 0 := by rwa [hlen]
    have hfree := cells_free_of_safe hwords' hsafe'
    have hcopy : copyTo q tag host loft len (some b) ecc s =
        postCmd { via := .queue q, tag := tag } 0 [] (hubWrite loft (padTo len b) (counted q s)) :=
      (copyTo_of_inside howned hbar hheld).trans (copyIn_of_free (eccApply_of_safe hwords' hsafe') hfree)
    refine ⟨_, congrArg Host.Outcome.next hcopy, fun hwf a => ?_, fun w hlo hhi hw => ?_,
      frame_of_copied (exists_counted ..) (exists_hubWrite ..) (exists_postCmd ..),
      queues_answered (congrArg HostBlk.queues (hubWrite_host (counted q s) loft (padTo len b))) tag 0 []⟩
    · rw [postCmd_loft, hubWrite_mem_of_free hfree, counted_loft, memGet_memWrite hwf, hlen]
    · have hclean := poisonedWord_hubWrite_whole (u := counted q s) (bs := padTo len b) hw hlo (by rwa [hlen])
      rwa [poisonedWord, postCmd_loft]
  case fromLoft =>
    intro hclean hup hidle
    have hbar : copyBar q host loft len true s = none := copyBar_of_inside hq hunit hpos hwords hmax hinside
    have hcopy : copyFrom q tag host loft len true { corrected := [], uncorrectable := [] } s =
        postCmd { via := .queue q, tag := tag } 0 []
          (hostSend (hostWrites host (memRead s.loft.mem loft len)) (hubPkts 1 0 loft len (counted q s))) :=
      (copyRun_of_no_bar howned hbar).trans (copyOut_of_clean hclean)
    refine ⟨_, congrArg Host.Outcome.next hcopy, ?_, ?_, queues_answered ?_ tag 0 []⟩
    · rw [hostSend_eq]
      rfl
    · rw [postCmd_host]
      exact hostSend_hostWrites hup hidle
    · rw [hostSend_queues, hubPkts_host]
  case barred =>
    intro c st body ecc data ok hc hbad hout
    have hbar (ok : Bool) : copyBar q host loft len ok s = some (st, body) := by
      by_cases hsize : len = 0 ∨ len % 64 ≠ 0 ∨ 2 ^ 39 < loft + len
      · rw [copyBar_of_size hunit hsize, hbad hsize]
      · obtain ⟨a, ha, hanswer⟩ := hout (by omega) (by omega) (by omega)
        rw [copyBar_of_fit hq hunit (by omega) (by omega) (by omega), ha, hanswer]
        rfl
    have hexec : exec c s = .next (postCmd { via := .queue q, tag := tag } st body (counted q s)) := by
      obtain rfl | rfl := List.mem_pair.1 hc
      · exact congrArg Host.Outcome.next (copyRun_of_bar howned (hbar _))
      · exact congrArg Host.Outcome.next (copyRun_of_bar howned (hbar _))
    exact ⟨_, hexec, rfl, queues_answered (u := counted q s) rfl tag st body⟩

end Sys2Proof.Machine
end

section
/-! PROOFS. Tables changed in more than one place: entries changed one after another, and entries dropped. -/

namespace Sys2Proof.Machine

section Tables
variable {α : Type} (t : Table α) (i : Nat)

/-- The entries of a list changed, each by a change that has no further effect when repeated. -/
theorem tget_foldl_tmod {d : α} {f : Nat → α → α} (hagain : ∀ p x, f p (f p x) = f p x) (l : List Nat) :
    tget d (l.foldl (fun t p => tmod d t p (f p)) t) i = if i ∈ l then f i (tget d t i) else tget d t i := by
  induction l generalizing t with
  | nil => simp
  | cons p l ih =>
    rw [List.foldl_cons, ih, tget_tmod]
    by_cases hi : i = p
    · subst hi
      simp [hagain]
    · simp [hi]

/-- The entries kept by a condition on their index. -/
theorem tfind_filter_index (f : Nat → Bool) : tfind (t.filter fun e => f e.1) i = if f i then tfind t i else none := by
  induction t with
  | nil => simp [tfind]
  | cons e r ih =>
    obtain ⟨k, w⟩ := e
    rw [List.filter_cons]
    by_cases hk : k = i
    · subst hk
      cases hf : f k <;> simp [tfind, ih, hf]
    · cases hf : f k <;> simp [tfind, ih, hk]

end Tables

end Sys2Proof.Machine
end

section
/-! PROOFS. The queue of waiting commands and the yards' states: how the loft, the gates, the fault records and the roll leave them. -/

namespace Sys2Proof.Machine

/-! ## What is left as it was

Each function of the model that moves no yard has one lemma here, which says that it leaves `steady` as it was; the yards' own moves come
after them, with the commands that run them. -/

/-- What only the power commands, entry to AUX and a reset change of a state: the waiting commands, which none of them changes either, and
the yards that are on, gate, ungate and wait to ungate. -/
def steady (s : State) : List Instr × BitVec 40 × BitVec 40 × BitVec 40 × BitVec 40 :=
  (s.pending, s.pwr.yardOn, s.pwr.gating, s.pwr.ungating, s.pwr.waitingY)

section Rules
variable {α β : Type} {P : α → Prop} {s u : State}

@[simp] theorem steady_mk (pending free pins dev host pwr bring sec syl roll rng loft stalls yardCtr yardBeats hubCtr fab gate vid ctx
    snap flt smb) :
    steady ⟨pending, free, pins, dev, host, pwr, bring, sec, syl, roll, rng, loft, stalls, yardCtr, yardBeats, hubCtr, fab, gate, vid, ctx,
      snap, flt, smb⟩ = (pending, pwr.yardOn, pwr.gating, pwr.ungating, pwr.waitingY) := rfl

@[simp] theorem steady_fold : (s.pending, s.pwr.yardOn, s.pwr.gating, s.pwr.ungating, s.pwr.waitingY) = steady s := rfl

@[simp] theorem steady_ite (c : Prop) [Decidable c] : steady (if c then s else u) = if c then steady s else steady u := apply_ite ..

@[simp] theorem steady_foldl {f : State → α → State} (h : ∀ u a, steady (f u a) = steady u) (l : List α) (s : State) :
    steady (l.foldl f s) = steady s := foldl_keeps h l s

theorem gives_steady_from {f : α → State} {g : Got α} (hu : steady u = steady s) (hg : g.Gives fun a => steady (f a) = steady u) :
    g.Gives fun a => steady (f a) = steady s := hu ▸ hg

end Rules

/-! ## Shared operations, the loft and the gates -/

section SharedOperations
variable {s : State} {p n a tag g addr q c i result op len w e code status desc inst access cls grp member loft : Nat} {iss : Issuer}
  {v : View} {value : W64} {ecc : EccReport} {bs detail : List Byte} {data : HostRead} {cells : List (Nat × Byte)}

@[simp] theorem steady_takeFree : steady (takeFree s).2 = steady s := rfl
@[simp] theorem steady_setStallP {x : Stall} : steady (setStallP s p x) = steady s := by simp [setStallP]
@[simp] theorem steady_modStallP {f : Stall → Stall} : steady (modStallP p f s) = steady s := by simp [modStallP]
@[simp] theorem steady_raise {source unit lstall : Nat} : steady (raise code source unit lstall detail s) = steady s := by simp [raise]
@[simp] theorem steady_raiseHub : steady (raiseHub code detail s) = steady s := by simp [raiseHub]
@[simp] theorem steady_raiseStall : steady (raiseStall code p detail s) = steady s := by simp [raiseStall]
@[simp] theorem steady_scratchUncorrectable : steady (scratchUncorrectable p s) = steady s := by simp [scratchUncorrectable]
@[simp] theorem steady_sramCount {r : Secded} : steady (sramCount p r s) = steady s := by simp [sramCount]
@[simp] theorem steady_sramUsed {r : Secded} : steady (sramUsed p r s) = steady s := by simp [sramUsed]
@[simp] theorem steady_viewViolation : steady (viewViolation addr access s) = steady s := by simp [viewViolation]

@[simp] theorem steady_ackOp : steady (ackOp n desc inst s) = steady s := by
  unfold ackOp
  split <;> rfl

@[simp] theorem steady_hostSend {ts : List HostTxn} : steady (hostSend ts s) = steady s := by simp [hostSend]

@[simp] theorem steady_hostRead {use : ReadUse} : steady (hostRead addr len use s) = steady s := by
  unfold hostRead
  split <;> simp

@[simp] theorem steady_modQueue {f : Queue → Queue} : steady (modQueue q f s) = steady s := by simp [modQueue]
@[simp] theorem steady_post {via : Via} {r : CplRec} : steady (post via r s) = steady s := by simp [post]

@[simp] theorem steady_doneInflight {via : Via} : steady (doneInflight via s) = steady s := by
  unfold doneInflight
  split <;> rfl

@[simp] theorem steady_postCmd {body : List Byte} : steady (postCmd iss status body s) = steady s := by simp [postCmd]

@[simp] theorem steady_regWrite {f : State → State} (hf : steady (f s) = steady s) : steady (regWrite v addr f s) = steady s := by
  unfold regWrite
  split_ifs <;> simp [hf]

@[simp] theorem steady_tick : steady (tick s) = steady s := by simp [tick]
@[simp] theorem steady_correctAt : steady (correctAt c access a s) = steady s := by simp [correctAt]
@[simp] theorem steady_correctOne : steady (correctOne access a s) = steady s := by simp [correctOne]
@[simp] theorem steady_poisonOne : steady (poisonOne a s) = steady s := by simp [poisonOne]
@[simp] theorem steady_eccApply {reads : Nat → Bool} : steady (eccApply ecc reads access s) = steady s := by simp [eccApply]
@[simp] theorem steady_loftPut {whole : Nat → Bool} : steady (loftPut cells whole s) = steady s := by simp [loftPut]
@[simp] theorem steady_countPkts : steady (countPkts cls c s) = steady s := by simp [countPkts]
@[simp] theorem steady_hubPkts {data answer : Nat} : steady (hubPkts data answer a n s) = steady s := by simp [hubPkts]
@[simp] theorem steady_hubWrite : steady (hubWrite a bs s) = steady s := by simp [hubWrite]
@[simp] theorem steady_hubRead : steady (hubRead ecc access a n s) = steady s := by simp [hubRead]
@[simp] theorem steady_remapped {loc cloc : Nat} : steady (remapped loc cloc s) = steady s := by simp [remapped]
@[simp] theorem steady_loftMapSet : steady (loftMapSet value s) = steady s := by simp [loftMapSet]
@[simp] theorem steady_loftPartSet {v : W64} : steady (loftPartSet i v s) = steady s := by simp [loftPartSet]

@[simp] theorem steady_scrubSpare {slice : Nat} : steady (scrubSpare slice ecc s) = steady s := by
  rw [scrubSpare, steady_mk, steady_fold, steady_foldl fun _ _ => steady_correctAt.trans steady_takeFree]

@[simp] theorem steady_plogAdd : steady (plogAdd w s) = steady s := by
  unfold plogAdd
  split <;> rfl

@[simp] theorem steady_scrubTick {slice : Nat} : steady (scrubTick slice ecc s) = steady s := by simp [scrubTick]
@[simp] theorem steady_refresh {slice : Nat} {hot : Bool} : steady (refresh slice hot s) = steady s := by simp [refresh]
@[simp] theorem steady_loftDone : steady (loftDone iss result s) = steady s := by simp [loftDone]
@[simp] theorem steady_loftBarred {b : Nat × Nat} : steady (loftBarred iss b s) = steady s := by simp [loftBarred]

@[simp] theorem steady_zero {view : View} {entry : Nat} : steady (zero view iss entry s) = steady s := by
  unfold zero
  (repeat' split) <;> simp

@[simp] theorem steady_loftZeroed {lo hi : Nat} : steady (loftZeroed lo hi s) = steady s := by simp [loftZeroed]

@[simp] theorem steady_copyRun {tag host loft len : Nat} {hostOk : Bool} {f : Issuer → State → State}
    (hf : ∀ iss u, steady (f iss u) = steady u) : steady (copyRun q tag host loft len hostOk f s) = steady s := by
  unfold copyRun
  dsimp only
  split_ifs
  · simp
  · split <;> simp [hf]

@[simp] theorem steady_copyIn : steady (copyIn loft bs ecc iss s) = steady s := by
  unfold copyIn
  dsimp only
  (repeat' split) <;> simp

@[simp] theorem steady_copyTo {host : Nat} : steady (copyTo q tag host loft len data ecc s) = steady s := by simp [copyTo]

@[simp] theorem steady_copyOut {host : Nat} : steady (copyOut host loft len ecc iss s) = steady s := by
  unfold copyOut
  dsimp only
  (repeat' split) <;> simp

@[simp] theorem steady_copyFrom {host : Nat} {hostOk : Bool} : steady (copyFrom q tag host loft len hostOk ecc s) = steady s := by
  simp [copyFrom]

@[simp] theorem steady_modEngine {f : Engine → Engine} : steady (modEngine e f s) = steady s := by simp [modEngine]
@[simp] theorem steady_modGate {f : Gate → Gate} : steady (modGate g f s) = steady s := by simp [modGate]
@[simp] theorem steady_popPkt {p : GatePkt} : steady (popPkt g p s) = steady s := by simp [popPkt]

@[simp] theorem steady_gatePumpFuel {f : Nat} : steady (gatePumpFuel f g s) = steady s := by
  rw [gatePumpFuel_eq]
  rfl

@[simp] theorem steady_gatePump : steady (gatePump g s) = steady s := by simp [gatePump]
@[simp] theorem steady_countTx : steady (countTx g s) = steady s := by simp [countTx]
@[simp] theorem steady_countRx : steady (countRx g s) = steady s := by simp [countRx]

@[simp] theorem steady_gateQueue {p : GatePkt} {ack : Option (Nat × Nat × Nat)} {front : Bool} :
    steady (gateQueue p ack front s) = steady s := by
  simp [gateQueue]

@[simp] theorem steady_sendCredit {stall window : Nat} : steady (sendCredit grp member stall window n s) = steady s := by
  simp [sendCredit]

@[simp] theorem steady_abortGroup : steady (abortGroup s grp) = steady s := by simp [abortGroup]
@[simp] theorem steady_abortGroups : steady (abortGroups s) = steady s := by simp [abortGroups]
@[simp] theorem steady_laneLocks : steady (laneLocks e w s) = steady s := by simp [laneLocks]
@[simp] theorem steady_gateDown {wl : Nat} : steady (gateDown g wl s) = steady s := by simp [gateDown]
@[simp] theorem steady_laneErrClear : steady (laneErrClear e s) = steady s := by simp [laneErrClear]
@[simp] theorem steady_retrained {e : Engine} : steady (retrained g e s) = steady s := by simp [retrained]

@[simp] theorem steady_gateLaneLost : steady (gateLaneLost g w s) = steady s := by
  unfold gateLaneLost
  (repeat' split) <;> simp

@[simp] theorem steady_farRetrains {proposal : List Nat} : steady (farRetrains g proposal s) = steady s := by simp [farRetrains]
@[simp] theorem steady_berWarn {corrected : Nat} : steady (berWarn g w corrected s) = steady s := by simp [berWarn]
@[simp] theorem steady_startTraining : steady (startTraining g s) = steady s := by simp [startTraining]
@[simp] theorem steady_retrainGate : steady (retrainGate g s) = steady s := by simp [retrainGate]
@[simp] theorem steady_gateCtlWrite : steady (gateCtlWrite g value s) = steady s := by simp [gateCtlWrite]
@[simp] theorem steady_gateRetrainWrite : steady (gateRetrainWrite g s) = steady s := by simp [gateRetrainWrite]

@[simp] theorem steady_trainReceive {node pgate : Nat} {proposal : List Nat} {farLocks txfail : Nat} :
    steady (trainReceive g node pgate proposal farLocks txfail s) = steady s := by
  simp [trainReceive]

@[simp] theorem steady_trainDone : steady (trainDone g s) = steady s := by
  unfold trainDone
  (repeat' split) <;> simp

@[simp] theorem steady_ackFrames {ack : Nat} : steady (ackFrames g ack s) = steady s := by
  unfold ackFrames
  dsimp only
  split_ifs
  · refine (steady_foldl (fun u f => ?_) _ _).trans steady_modGate
    split <;> simp
  · rfl

@[simp] theorem steady_readControl {ctrl : BitVec 48} : steady (readControl g ctrl s) = steady s := by simp [readControl]
@[simp] theorem steady_countUncorr {bad : List Nat} : steady (countUncorr g bad s) = steady s := by simp [countUncorr]

@[simp] theorem steady_frameReceive {bad : List Nat} {seq : Nat} {ctrl : BitVec 48} {payload : List Byte} :
    steady (frameReceive g bad seq ctrl payload s) = steady s := by
  simp [frameReceive]

@[simp] theorem steady_repeatOldest : steady (repeatOldest g s) = steady s := by
  unfold repeatOldest
  dsimp only
  (repeat' split) <;> simp

@[simp] theorem steady_relay {out : Nat} {straight : Bool} {p p' : GatePkt} : steady (relay g out straight p p' s) = steady s := by
  simp [relay]

@[simp] theorem steady_withFront {f : GatePkt → State → State} (hf : ∀ r, steady (f r s) = steady s) :
    steady (withFront g op f s) = steady s := by
  unfold withFront
  (repeat' split) <;> simp [hf]

@[simp] theorem steady_takeCredit {p : GatePkt} : steady (takeCredit g p s) = steady s := by simp [takeCredit]
@[simp] theorem steady_takeAbort {p : GatePkt} : steady (takeAbort g p s) = steady s := by simp [takeAbort]
@[simp] theorem steady_nodeWrite : steady (nodeWrite value s) = steady s := by simp [nodeWrite]
@[simp] theorem steady_groupWrite : steady (groupWrite g value s) = steady s := by simp [groupWrite]
@[simp] theorem steady_routeWrite {r : Nat} {hi : Bool} : steady (routeWrite r hi value s) = steady s := by simp [routeWrite]

end SharedOperations

/-! ## Fault records, the RNG and the roll -/

section FaultsAndRoll
variable {s : State} {n addr c i result t e status slot : Nat} {iss : Issuer} {value : W64} {bs : List Byte} {record : HostRead}

@[simp] theorem steady_stopStalls : steady (stopStalls s) = steady s := by
  refine steady_foldl (fun u n => ?_) _ s
  split <;> rfl

@[simp] theorem steady_makeReady : steady (makeReady i s) = steady s := by simp [makeReady]
@[simp] theorem steady_stopCircuits : steady (stopCircuits s) = steady s := by simp [stopCircuits]
@[simp] theorem steady_ctxDone : steady (ctxDone iss result s) = steady s := by simp [ctxDone]

@[simp] theorem steady_ctxOnFault : steady (ctxOnFault s) = steady s := by
  unfold ctxOnFault
  split <;> simp

@[simp] theorem steady_snapDone : steady (snapDone iss result s) = steady s := by simp [snapDone]

@[simp] theorem steady_snapAbandon : steady (snapAbandon s) = steady s := by
  unfold snapAbandon
  dsimp only
  (repeat' split) <;> simp

@[simp] theorem steady_abortDrained : steady (abortDrained s) = steady s := by simp [abortDrained]

@[simp] theorem steady_snapOnJobFault : steady (snapOnJobFault s) = steady s := by
  unfold snapOnJobFault
  split <;> simp

@[simp] theorem steady_jobStop : steady (jobStop s) = steady s := by simp [jobStop]

@[simp] theorem steady_bringOnStop : steady (bringOnStop s) = steady s := by
  unfold bringOnStop
  split <;> rfl

@[simp] theorem steady_snapOnStop : steady (snapOnStop s) = steady s := by
  unfold snapOnStop
  split <;> simp

@[simp] theorem steady_deviceStop : steady (deviceStop s) = steady s := by simp [deviceStop]
@[simp] theorem steady_logRecord {r : FRec} : steady (logRecord r s) = steady s := by simp [logRecord]
@[simp] theorem steady_faultAlert {r : FRec} {written : Bool} : steady (faultAlert r written s) = steady s := by simp [faultAlert]
@[simp] theorem steady_classEffect {r : FRec} : steady (classEffect r s) = steady s := by simp [classEffect]
@[simp] theorem steady_commitRecord {r : FRec} : steady (commitRecord r s) = steady s := by simp [commitRecord]

theorem steady_drillGrant {r : FRec} {u : State} (hgrant : drillGrant i r s = some u) : steady u = steady s := by
  unfold drillGrant at hgrant
  dsimp only at hgrant
  split at hgrant
  · cases hgrant
  · cases hgrant
    rfl

@[simp] theorem steady_commitAt : steady (commitAt i s) = steady s := by
  unfold commitAt
  split
  · rfl
  · split_ifs
    · split
      · next u hgrant => simp [steady_drillGrant hgrant]
      · rfl
    · simp

@[simp] theorem steady_fltStatWrite {device : Bool} : steady (fltStatWrite device value s) = steady s := by simp [fltStatWrite]
@[simp] theorem steady_seedWrite : steady (seedWrite value s) = steady s := by simp [seedWrite]
@[simp] theorem steady_baseWrite : steady (baseWrite c value s) = steady s := by simp [baseWrite]
@[simp] theorem steady_modEntry {f : RollEntry → RollEntry} : steady (modEntry i f s) = steady s := by simp [modEntry]
@[simp] theorem steady_modCirc {f : Circ → Circ} : steady (modCirc c f s) = steady s := by simp [modCirc]
@[simp] theorem steady_rollOver {body : List Byte} : steady (rollOver iss result status body s) = steady s := by simp [rollOver]
@[simp] theorem steady_rollDone : steady (rollDone iss result s) = steady s := by simp [rollDone]

@[simp] theorem steady_rollCmd {f : State → State} (hf : steady (f s) = steady s) : steady (rollCmd iss f s) = steady s := by
  unfold rollCmd
  split <;> simp [hf]

@[simp] theorem steady_rollJobCmd {f : State → State} (hf : steady (f s) = steady s) : steady (rollJobCmd iss f s) = steady s := by
  unfold rollJobCmd
  split <;> simp [hf]

@[simp] theorem steady_rollRead : steady (rollRead iss i s) = steady s := by
  refine steady_rollCmd ?_
  dsimp only
  split <;> simp

@[simp] theorem steady_rollWrite {e : RollEntry} : steady (rollWrite iss i e s) = steady s := by
  refine steady_rollJobCmd ?_
  (repeat' split) <;> simp

@[simp] theorem steady_rollPause : steady (rollPause iss i s) = steady s := by
  refine steady_rollJobCmd ?_
  split <;> simp

@[simp] theorem steady_rollResume : steady (rollResume iss i s) = steady s := by
  refine steady_rollJobCmd ?_
  split <;> simp

@[simp] theorem steady_rollRelease : steady (rollRelease iss i s) = steady s := by
  refine steady_rollJobCmd ?_
  split <;> simp

@[simp] theorem steady_rollRun : steady (rollRun iss c s) = steady s := by
  refine steady_rollJobCmd ?_
  (repeat' split) <;> simp

@[simp] theorem steady_discardPending : steady (discardPending c s) = steady s := by simp [discardPending]

@[simp] theorem steady_rollDrain : steady (rollDrain iss c s) = steady s := by
  refine steady_rollJobCmd ?_
  split <;> simp

@[simp] theorem steady_rollWorklist : steady (rollWorklist iss addr record s) = steady s := by
  refine steady_rollJobCmd ?_
  split
  · simp
  · dsimp only
    split <;> simp

@[simp] theorem steady_boundary : steady (boundary s) = steady s := by
  unfold boundary
  dsimp only
  (repeat' split) <;> simp

@[simp] theorem steady_stepCompleted : steady (stepCompleted c t s) = steady s := by simp [stepCompleted]

@[simp] theorem steady_ringWrite {r : CircRec} {num : Nat} : steady (ringWrite r num bs n s) = steady s := by
  unfold ringWrite
  split <;> rfl

@[simp] theorem steady_issue {r : CircRec} {es : List Nat} {work : Option (Nat × Via)} : steady (issue slot r es work s) = steady s := by
  simp [issue]

@[simp] theorem steady_roundIssue : steady (roundIssue c s) = steady s := by
  unfold roundIssue
  dsimp only
  (repeat' split) <;> simp

@[simp] theorem steady_sampleDone : steady (sampleDone c i s) = steady s := by simp [sampleDone]

@[simp] theorem steady_roundComplete : steady (roundComplete c s) = steady s := by
  unfold roundComplete
  split
  · dsimp only
    split_ifs
    · rfl
    · rw [steady_stepCompleted]
      split <;> simp
  · rfl

@[simp] theorem steady_programStart : steady (programStart n s) = steady s := by
  unfold programStart
  (repeat' split) <;> simp

end FaultsAndRoll

end Sys2Proof.Machine
end

section
/-! PROOFS. The queue and the yards' states: how the stalls, bring-up, the vector operations and the fabric leave them. -/

namespace Sys2Proof.Machine

/-! ## Operations, tiles and the array -/

section Stalls
variable {s : State} {p k n g c i op t w e code desc inst cls no lines poss src dst grp member stage : Nat} {v : View} {it : List Nat}
  {bs detail : List Byte} {sram : Secded} {cells : List (Nat × Byte)} {uncorr : Bool}

@[simp] theorem steady_stallFault : steady (stallFault p code detail s) = steady s := by simp [stallFault]

@[simp] theorem steady_startOp {f : Nat → Nat → State → State} (hf : ∀ p k u, steady (f p k u) = steady u) :
    steady (startOp n op f s) = steady s := by
  unfold startOp
  split <;> simp [hf]

@[simp] theorem steady_opEvents {o : OpCtx} {round : Nat} : steady (opEvents p o round s) = steady s := by simp [opEvents]
@[simp] theorem steady_programEnds {round : Nat} : steady (programEnds n c round s) = steady s := by simp [programEnds]

@[simp] theorem steady_operationComplete : steady (operationComplete n k s) = steady s := by
  unfold operationComplete
  dsimp only
  (repeat' split) <;> simp

@[simp] theorem steady_putOp {f : OpCtx → OpCtx} : steady (putOp p k f s) = steady s := by simp [putOp]
@[simp] theorem steady_inject {body : PktBody} : steady (inject cls src dst body s) = steady s := by simp [inject]
@[simp] theorem steady_injectOwn {body : PktBody} : steady (injectOwn cls src dst body s) = steady s := by simp [injectOwn]

@[simp] theorem steady_injectLoft {own : Bool} {body : PktBody} : steady (injectLoft own cls src dst body s) = steady s := by
  simp [injectLoft]

@[simp] theorem steady_injectStall {body : PktBody} : steady (injectStall cls src dst body s) = steady s := by
  unfold injectStall
  split <;> rfl

@[simp] theorem steady_sendData {win key dest tile : Nat} {ack : Option (Nat × Nat × Nat)} :
    steady (sendData src n win key dest tile bs ack s) = steady s := by
  simp [sendData]

@[simp] theorem steady_sendWrite {fill : Option FillRef} : steady (sendWrite n p desc inst cells fill s) = steady s := by simp [sendWrite]

@[simp] theorem steady_sendRead {opnd entry : Nat} {cells : List (Nat × Nat)} :
    steady (sendRead n p desc inst opnd entry it cells s) = steady s := by
  simp [sendRead]

@[simp] theorem steady_returnCredit {e : WinEntry} : steady (returnCredit n w e s) = steady s := by
  unfold returnCredit
  split <;> simp

@[simp] theorem steady_winFree : steady (winFree n p k w t s) = steady s := by
  unfold winFree
  dsimp only
  (repeat' split) <;> simp

@[simp] theorem steady_beginLand {key : List Nat} {entry left : Nat} : steady (beginLand p k no key entry left s) = steady s := by
  simp [beginLand]

theorem steady_fetchOne {u : State} (hfetch : fetchOne n p k no s = some u) : steady u = steady s := by
  unfold fetchOne at hfetch
  dsimp only at hfetch
  (repeat' split at hfetch) <;> cases hfetch <;> simp

@[simp] theorem steady_fetchFuel {f : Nat} : steady (fetchFuel f n p k no s) = steady s := by
  induction f generalizing s with
  | zero => rfl
  | succ f ih =>
    unfold fetchFuel
    split
    · next u hfetch => rw [ih, steady_fetchOne hfetch]
    · rfl

@[simp] theorem steady_fetchPump : steady (fetchPump n p k s) = steady s := by simp [fetchPump]
@[simp] theorem steady_fetchAll : steady (fetchAll n p s) = steady s := by simp [fetchAll]

@[simp] theorem steady_takePump : steady (takePump n p k s) = steady s := by
  unfold takePump
  dsimp only
  (repeat' split) <;> simp

@[simp] theorem steady_beginOp : steady (beginOp n p k s) = steady s := by simp [beginOp]

@[simp] theorem steady_ledgerFree : steady (ledgerFree n p i s) = steady s := by
  unfold ledgerFree
  dsimp only
  (repeat' split) <;> simp

@[simp] theorem steady_freeNormRows {rows : List Nat} : steady (freeNormRows n p k rows s) = steady s := by
  unfold freeNormRows
  split <;> simp

@[simp] theorem steady_takeEnds : steady (takeEnds n p k s) = steady s := by
  unfold takeEnds
  dsimp only
  (repeat' split) <;> simp

@[simp] theorem steady_taken {v : Nat} : steady (taken n p k v s) = steady s := by
  unfold taken
  dsimp only
  (repeat' split) <;> simp

@[simp] theorem steady_releaseOpnd {next : Option (List Nat)} : steady (releaseOpnd n p k no it next s) = steady s := by
  simp [releaseOpnd]

@[simp] theorem steady_advanceTo {opnds : List Nat} {next : Option (List Nat)} : steady (advanceTo n p k opnds next s) = steady s := by
  simp [advanceTo]

@[simp] theorem steady_writeScratch {fill : Nat} {e : Env} : (writeScratch p fill e it cells s).Gives fun t => steady t = steady s := by
  unfold writeScratch
  dsimp only
  (repeat' split) <;> simp

@[simp] theorem steady_addOut : steady (addOut p k c s) = steady s := by simp [addOut]

@[simp] theorem steady_writeLoft {fill : Nat} {e : Env} : (writeLoft p k fill e it cells s).Gives fun t => steady t = steady s := by
  unfold writeLoft
  (repeat' split) <;> simp

@[simp] theorem steady_sendFabric {e : Env} {r : RouteRec} : (sendFabric p k t e r bs s).Gives fun t => steady t = steady s := by
  unfold sendFabric
  dsimp only
  (repeat' split) <;> simp

@[simp] theorem steady_gateTile {entry : Nat} {ack : Option (Nat × Nat × Nat)} :
    steady (gateTile grp member n w entry t bs ack s) = steady s := by
  simp [gateTile]

@[simp] theorem steady_sendMember {cap : Nat} {e : Env} : (sendMember p k t grp member w cap e bs s).Gives fun t => steady t = steady s
    := by
  unfold sendMember
  dsimp only
  (repeat' split) <;> simp

@[simp] theorem steady_sendRoute {e : Env} : (sendRoute p k t e bs s).Gives fun t => steady t = steady s := by
  unfold sendRoute
  (repeat' split) <;> simp

@[simp] theorem steady_writeTile {e : Env} {w : Walk} : (writeTile p k e w it t lines poss bs s).Gives fun t => steady t = steady s := by
  unfold writeTile
  split <;> simp

@[simp] theorem steady_storeVals {e : Env} {w : Walk} {nans : Nat} {vs : List (List Val)} : (storeVals p k e w it t lines poss stage
    nans vs s).Gives fun t => steady t = steady s := by
  simp [storeVals]

@[simp] theorem steady_ledgerEnd {r : StageRec} : steady (ledgerEnd n p k i r s) = steady s := by
  unfold ledgerEnd
  dsimp only
  (repeat' split) <;> simp

@[simp] theorem steady_ledgerFolded {r : StageRec} : steady (ledgerFolded n p k i r s) = steady s := by simp [ledgerFolded]

@[simp] theorem steady_ledgerRow {r : StageRec} {row : Nat} {vals : List W32} : (ledgerRow n p k r it row poss vals s).Gives fun t =>
    steady t = steady s := by
  unfold ledgerRow
  dsimp only
  (repeat' split) <;> simp

@[simp] theorem steady_ledgerGo {items : List LedgerItem} :
    (ledgerGo n p k it poss items c s).Gives fun t => steady t.1 = steady s := by
  induction items generalizing c s with
  | nil => simp [ledgerGo]
  | cons x items ih =>
    unfold ledgerGo
    split
    · simp
    · simp
    · next u hrow =>
      have hu : steady u = steady s := steady_ledgerRow u hrow
      rw [← hu]
      exact ih

@[simp] theorem steady_ledgerSend : steady (ledgerSend n p i s) = steady s := by simp [ledgerSend]
@[simp] theorem steady_ledgerPump : steady (ledgerPump n p s) = steady s := by simp [ledgerPump]

@[simp] theorem steady_proStore {entry : Option Nat} {r : ProOut} : steady (proStore n p k it entry r s) = steady s := by
  unfold proStore
  (repeat' split) <;> simp

@[simp] theorem steady_proOne : (proOne n p k s).Gives fun t => steady t = steady s := by
  unfold proOne
  dsimp only
  (repeat' split) <;> simp

@[simp] theorem steady_settle {g : Got State} (hg : g.Gives fun t => steady t = steady s) : steady (settle p s g) = steady s := by
  cases g with
  | wait => rfl
  | fault code detail => exact steady_stallFault
  | ok t => exact hg t rfl

@[simp] theorem steady_settleSram {g : Got State} (hg : g.Gives fun t => steady t = steady s) :
    steady (settleSram p sram s g) = steady s := by
  unfold settleSram
  split <;> simp [hg]

@[simp] theorem steady_onStall {f : Nat → Got State} (hf : ∀ p, (f p).Gives fun t => steady t = steady s) :
    steady (onStall n sram s f) = steady s := by
  unfold onStall
  split <;> simp [hf]

@[simp] theorem steady_pairSend {e : Env} {r : StageRec} : (pairSend p k t e r bs s).Gives fun t => steady t = steady s := by
  unfold pairSend
  dsimp only
  (repeat' split) <;> simp

@[simp] theorem steady_epiOut {g : StageEnv} {w : Walk} {r : StageRec} {x : LaneTile} : (epiOut p k t g w r stage x s).Gives fun t =>
    steady t = steady s := by
  simp [epiOut]

@[simp] theorem steady_afterLedger {g : StageEnv} {items : List LedgerItem} {f : State → Got State}
    (hf : ∀ u, (f u).Gives fun t => steady t = steady u) :
    (afterLedger n p k g items s f).Gives fun t => steady t.1 = steady s := by
  rw [afterLedger, gives_bind]
  intro r hgo
  have hr : steady r.1 = steady s := steady_ledgerGo r hgo
  dsimp only
  split_ifs
  · split
    · simp
    · simp
    · next u hu => simp [(hf _ u hu).trans steady_putOp, hr]
  · split
    · simp [hr]
    · simp
    · next u hu => simp [(hf _ u hu).trans steady_putOp, hr]
  · simp
  · simp [hr]

@[simp] theorem steady_freePair {st : List StageRec} : steady (freePair n p k t st s) = steady s := by simp [freePair]

@[simp] theorem steady_epiTile {w : Walk} {st : List StageRec} {base : Nat} {vs : List (List Val)} {nan : List Nat} : (epiTile n p k w
    it t lines poss st base vs nan s).Gives fun t => steady t.1 = steady s := by
  unfold epiTile
  split <;> simp

@[simp] theorem steady_epilogue {vs : List (List Val)} {nan : List Nat} : (epilogue n p k it vs nan s).Gives fun t => steady t.1 =
    steady s := by
  simp [epilogue]

@[simp] theorem steady_issueOne : (issueOne n p k uncorr s).Gives fun t => steady t = steady s := by simp [issueOne]
@[simp] theorem steady_matrixIssue : steady (matrixIssue n sram s) = steady s := by simp [matrixIssue]
@[simp] theorem steady_poisonSlot : steady (poisonSlot p i s) = steady s := by simp [poisonSlot]

@[simp] theorem steady_readoutSlot : (readoutSlot p i uncorr s).Gives fun t => steady t = steady s := by
  unfold readoutSlot
  dsimp only
  (repeat' split) <;> simp

@[simp] theorem steady_sendSlot : (sendSlot n p i uncorr s).Gives fun t => steady t = steady s := by
  unfold sendSlot
  dsimp only
  (repeat' split) <;> simp

@[simp] theorem steady_chainPut {e : Env} {r : StageRec} {pv oCells : List (Nat × Byte)} {c : ChainOut} :
    steady (chainPut n p k e it r pv oCells c s) = steady s := by
  simp [chainPut]

@[simp] theorem steady_chainStep {rt : ReadTile} : (chainStep n p k rt uncorr s).Gives fun t => steady t.1 = steady s := by
  unfold chainStep
  dsimp only
  (repeat' split) <;> simp

@[simp] theorem steady_tileDone {rt : ReadTile} : steady (tileDone p k rt s) = steady s := by simp [tileDone]
@[simp] theorem steady_chainFinal {rt : ReadTile} : (chainFinal n p k rt s).Gives fun t => steady t.1 = steady s := by simp [chainFinal]

@[simp] theorem steady_epilogueOne : (epilogueOne n p k uncorr s).Gives fun t => steady t = steady s := by
  unfold epilogueOne
  dsimp only
  (repeat' split) <;> simp

@[simp] theorem steady_epilogueStep : (epilogueStep n p uncorr s).Gives fun t => steady t = steady s := by
  refine List.foldlRecOn (motive := Got.Gives _) _ _ gives_wait fun g hg k _ => ?_
  split
  · exact steady_epilogueOne
  · exact hg

@[simp] theorem steady_prologueStep : (prologueStep n p s).Gives fun t => steady t = steady s := by simp [prologueStep]
@[simp] theorem steady_epilogueRun : steady (epilogueRun n sram s) = steady s := by simp [epilogueRun]
@[simp] theorem steady_prologueRun : steady (prologueRun n sram s) = steady s := by simp [prologueRun]
@[simp] theorem steady_poolOne : (poolOne n p k s).Gives fun t => steady t = steady s := by simp [poolOne]
@[simp] theorem steady_matmulStart : steady (matmulStart n s) = steady s := by simp [matmulStart]

@[simp] theorem steady_convRun : steady (convRun n s) = steady s := by
  unfold convRun
  split
  · rfl
  · split
    · simp
    · exact steady_settle (by simp)

@[simp] theorem steady_chainStart : steady (chainStart n s) = steady s := by simp [chainStart]

end Stalls

/-! ## Power and bring-up -/

section Power
variable {s : State} {p n a tag addr q c result op code y : Nat} {v : View} {detail : List Byte}

@[simp] theorem steady_bootStart : steady (bootStart s) = steady s := by simp [bootStart]
@[simp] theorem steady_hubBootEnds {ok : Bool} : steady (hubBootEnds ok s) = steady s := by simp [hubBootEnds]
@[simp] theorem steady_supplyFault {which mv : Nat} : steady (supplyFault which mv s) = steady s := by simp [supplyFault]
@[simp] theorem steady_thermalTrip {die : Nat} {temp : Int} : steady (thermalTrip die temp s) = steady s := by simp [thermalTrip]
@[simp] theorem steady_coreFall : steady (coreFall s) = steady s := by simp [coreFall]

@[simp] theorem steady_sensorsRead {temps : List Int} {vcore : List Nat} : steady (sensorsRead temps vcore s) = steady s := by
  unfold sensorsRead
  dsimp only
  (repeat' split) <;> simp

@[simp] theorem steady_averageEnds {power : Nat} {temps : List Int} {vcore : List Nat} :
    steady (averageEnds power temps vcore s) = steady s := by
  simp [averageEnds]

@[simp] theorem steady_clearYards {mask : BitVec 40} : steady (clearYards mask s) = steady s := by simp [clearYards]

@[simp] theorem steady_losesAtStart {target : PState} : steady (losesAtStart target s) = steady s := by
  unfold losesAtStart
  split <;> rfl

@[simp] theorem steady_powerRefused : steady (powerRefused op tag s) = steady s := by simp [powerRefused]
@[simp] theorem steady_bringDone : steady (bringDone tag result s) = steady s := by simp [bringDone]

@[simp] theorem steady_bringCmd {accept : State → Bool} {f : State → State} (hf : steady (f s) = steady s) :
    steady (bringCmd tag accept f s) = steady s := by
  unfold bringCmd
  split_ifs <;> simp [hf]

@[simp] theorem steady_gatesOff : steady (gatesOff s) = steady s := by simp [gatesOff]
@[simp] theorem steady_refuse : steady (refuse code tag detail s) = steady s := by simp [refuse]
@[simp] theorem steady_disagree {sel v : Nat} : steady (disagree sel v s) = steady s := by simp [disagree]
@[simp] theorem steady_fuseApply {c : List Byte} : steady (fuseApply c s) = steady s := by simp [fuseApply]
@[simp] theorem steady_fuseRead {a b : List Byte} : steady (fuseRead tag a b s) = steady s := by simp [fuseRead]
@[simp] theorem steady_selftest : steady (selftest tag s) = steady s := by simp [selftest]

@[simp] theorem steady_waveEnds : steady (waveEnds s) = steady s := by
  unfold waveEnds
  split <;> simp

@[simp] theorem steady_stallReport {r : TestResult} : steady (stallReport p r s) = steady s := by
  unfold stallReport
  split <;> simp

@[simp] theorem steady_bringAbort : steady (bringAbort tag s) = steady s := by
  unfold bringAbort
  split <;> simp

@[simp] theorem steady_reconcile : steady (reconcile tag s) = steady s := by
  refine steady_bringCmd ?_
  dsimp only
  split
  · rw [steady_refuse, steady_mk, steady_fold, steady_foldl fun _ _ => steady_disagree]
  · rw [steady_bringDone, steady_mk, steady_fold, steady_foldl fun _ _ => steady_disagree]

@[simp] theorem steady_fwBcast : steady (fwBcast tag s) = steady s := steady_bringCmd rfl

@[simp] theorem steady_digestFails {lo hi : Nat} {fs : List (Nat × Nat)} : steady (digestFails lo hi fs s p) = steady s := by
  simp [digestFails]

@[simp] theorem steady_moveStall {f : Nat} {fs : List (Nat × Nat)} : steady (moveStall f fs n s).1 = steady s := by
  induction f generalizing s with
  | zero => rfl
  | succ f ih =>
    unfold moveStall
    dsimp only
    split
    · rfl
    · split_ifs <;> simp [ih]

@[simp] theorem steady_moveAll {fs : List (Nat × Nat)} {ns : List Nat} : steady (moveAll fs ns s).1 = steady s := by
  induction ns generalizing s with
  | nil => rfl
  | cons n ns ih =>
    have hmove : steady (moveStall 320 fs n s).1 = steady s := steady_moveStall
    unfold moveAll
    split
    · next u hu =>
      rw [hu] at hmove
      exact ih.trans hmove
    · next u hu =>
      rw [hu] at hmove
      exact hmove

@[simp] theorem steady_bcastEnds {fs : List (Nat × Nat)} : steady (bcastEnds fs s) = steady s := by
  unfold bcastEnds
  split
  · dsimp only
    split
    · rw [steady_bringDone]
      split <;> rw [steady_mk, steady_fold, steady_foldl fun _ _ => steady_digestFails, steady_foldl fun _ _ => steady_digestFails,
        steady_mk, steady_fold]
    · split
      all_goals
        next heq =>
          have hmove := steady_moveAll.symm.trans (congrArg (fun r => steady r.1) heq)
          rw [steady_mk, steady_fold, steady_foldl fun _ _ => steady_digestFails, steady_foldl fun _ _ => steady_digestFails,
            steady_mk, steady_fold] at hmove
          simp [hmove]
  · rfl

@[simp] theorem steady_installMap : steady (installMap s) = steady s := by
  rw [installMap, steady_mk, steady_fold]

@[simp] theorem steady_toMain : steady (toMain tag s) = steady s := by simp [toMain]
@[simp] theorem steady_loftTest : steady (loftTest tag s) = steady s := steady_bringCmd rfl

@[simp] theorem steady_loftTestEnds {pages spares : List (Nat × Nat × Nat)} : steady (loftTestEnds pages spares s) = steady s := by
  unfold loftTestEnds
  dsimp only
  (repeat' split) <;> simp

@[simp] theorem steady_linkQual {arg : Nat} : steady (linkQual tag arg s) = steady s := by simp [linkQual]
@[simp] theorem steady_recordEngine {q : EngineQual} : steady (recordEngine q s) = steady s := by simp [recordEngine]
@[simp] theorem steady_qualFail {gate wl : Nat} : steady (qualFail gate wl s) = steady s := by simp [qualFail]
@[simp] theorem steady_hostLanes : steady (hostLanes s) = steady s := by simp [hostLanes]

@[simp] theorem steady_qualEnds {r : LinkResults} : steady (qualEnds r s) = steady s := by
  unfold qualEnds
  split <;> simp

@[simp] theorem steady_bringReady : steady (bringReady tag s) = steady s := by simp [bringReady]
@[simp] theorem steady_drill : steady (drill tag s) = steady s := by simp [drill]
@[simp] theorem steady_unitReset : steady (unitReset tag p s) = steady s := by simp [unitReset]
@[simp] theorem steady_drillError {source unit : Nat} : steady (drillError source unit code addr s) = steady s := by simp [drillError]

end Power

/-! ## Vector operations, exchanges and the fabric -/

section Vectors
variable {s : State} {p k n a g off q op t w e slot desc inst y side src member stage : Nat} {ecc : EccReport} {it : List Nat}
  {bs : List Byte} {sram : Secded} {cells : List (Nat × Byte)}

@[simp] theorem steady_vectorRun {init : Nat → Nat → State → State} {f : Nat → Nat → Env → State → Got State}
    (hinit : ∀ p k u, steady (init p k u) = steady u) (hf : ∀ p k e u, (f p k e u).Gives fun t => steady t = steady u) :
    steady (vectorRun n op sram init f s) = steady s := by
  unfold vectorRun
  split
  · rfl
  · dsimp only
    split
    · exact steady_startOp hinit
    · exact steady_settleSram (by simp [hf])

@[simp] theorem steady_storeLanes {e : Env} {opnds : List Nat} {r : List (List W32) × List Nat} : (storeLanes n p k stage e opnds r
    s).Gives fun t => steady t = steady s := by
  simp [storeLanes]

@[simp] theorem steady_elemwiseTile {e : Env} : (elemwiseTile n p k e s).Gives fun t => steady t = steady s := by simp [elemwiseTile]
@[simp] theorem steady_copyTile {e : Env} : (copyTile n p k e s).Gives fun t => steady t = steady s := by simp [copyTile]
@[simp] theorem steady_guideTile {e : Env} : (guideTile n p k e s).Gives fun t => steady t = steady s := by simp [guideTile]
@[simp] theorem steady_stepTile {e : Env} : (stepTile n p k e s).Gives fun t => steady t = steady s := by simp [stepTile]
@[simp] theorem steady_noiseTile {e : Env} : (noiseTile n p k e s).Gives fun t => steady t = steady s := by simp [noiseTile]
@[simp] theorem steady_rowstatTile {e : Env} : (rowstatTile n p k e s).Gives fun t => steady t = steady s := by simp [rowstatTile]

@[simp] theorem steady_firstPass {e : Env} {start : Ledger} {f : Ledger → List W32 → Ledger} : (firstPass n p k e start f s).Gives fun
    t => steady t = steady s := by
  unfold firstPass
  dsimp only
  (repeat' split) <;> simp

@[simp] theorem steady_secondPass {e : Env} {ev : Ledger → Nat} {g : Ledger → Nat → W32 → FnRes} : (secondPass n p k e ev g s).Gives
    fun t => steady t = steady s := by
  simp [secondPass]

@[simp] theorem steady_softmaxTile {e : Env} : (softmaxTile n p k e s).Gives fun t => steady t = steady s := by
  unfold softmaxTile
  split <;> simp

@[simp] theorem steady_normTile {e : Env} : (normTile n p k e s).Gives fun t => steady t = steady s := by simp [normTile]
@[simp] theorem steady_drawScanTile {e : Env} : (drawScanTile n p k e s).Gives fun t => steady t = steady s := by simp [drawScanTile]
@[simp] theorem steady_drawFinal {e : Env} : (drawFinal n p k e s).Gives fun t => steady t = steady s := by simp [drawFinal]

@[simp] theorem steady_drawTile {e : Env} : (drawTile n p k e s).Gives fun t => steady t = steady s := by
  unfold drawTile
  split <;> simp

@[simp] theorem steady_haloReady : steady (haloReady n p k side s) = steady s := by
  unfold haloReady
  dsimp only
  (repeat' split) <;> simp

@[simp] theorem steady_haloSee : steady (haloSee n p k side s) = steady s := by simp [haloSee]

@[simp] theorem steady_haloSend : (haloSend n p k side s).Gives fun t => steady t = steady s := by
  unfold haloSend
  dsimp only
  (repeat' split) <;> simp

@[simp] theorem steady_haloPump : (haloPump n p k s).Gives fun t => steady t = steady s := by
  rw [haloPump, gives_bind]
  refine List.foldlRecOn (motive := Got.Gives _) _ _ ?_ fun g hg side _ => ?_
  · simp
  · rw [gives_bind]
    intro u hu t hsend
    have ht : steady t = steady u := by simpa using steady_haloSend t hsend
    simpa [ht] using hg u hu

@[simp] theorem steady_haloRun : steady (haloRun n sram s) = steady s := by
  have hbegin : ∀ p k u, steady (haloInit n sram p k u) = steady u := fun p k u =>
    steady_settleSram (gives_steady_from steady_modStallP steady_haloPump)
  unfold haloRun
  split
  · rfl
  · split
    · simp
    · split_ifs
      · exact steady_startOp hbegin
      · rfl

@[simp] theorem steady_haloWrite : (haloWrite n p k side bs s).Gives fun t => steady t = steady s := by simp [haloWrite]

@[simp] theorem steady_collectSend {e : Env} : (collectSend p k t member w e bs s).Gives fun t => steady t = steady s := by
  simp [collectSend]

@[simp] theorem steady_collectGive {here : Bool} {next : Option Nat} {e : Env} :
    (collectGive p k t e it here next w bs s).Gives fun t => steady t = steady s := by
  have hhere : (if here then writeTile p k e (walkC e.o.d) it t (validOf e.o it 1) (validOf e.o it 2) bs s else .ok s).Gives
      fun t => steady t = steady s := by simp
  rw [collectGive, gives_bind]
  intro u hu
  rw [← hhere u hu]
  split <;> simp

@[simp] theorem steady_collectCount {satur under nans : Nat} : steady (collectCount p k satur under nans s) = steady s := by
  simp [collectCount]

@[simp] theorem steady_reduceUp {e : Env} : (reduceUp n p k e s).Gives fun t => steady t = steady s := by
  unfold reduceUp
  dsimp only
  refine (gives_bind ..).2 fun a _ => ?_
  split
  · exact steady_collectSend
  · refine (gives_bind ..).2 fun bs _ => ?_
    have hfree {satur nans w} : steady (collectCount p k satur 0 nans (winFree n p k w 0 s)) = steady s :=
      steady_collectCount.trans steady_winFree
    split
    · exact gives_steady_from hfree steady_collectSend
    · exact (gives_bind ..).2 fun u hu => gives_ok.2 (steady_collectCount.trans ((steady_collectGive u hu).trans hfree))

@[simp] theorem steady_copyUp {e : Env} : (copyUp n p k e s).Gives fun t => steady t = steady s := by
  unfold copyUp
  extract_lets o d w self nm t first next
  split
  · exact (gives_bind ..).2 fun bs _ => steady_collectGive
  · exact (gives_bind ..).2 fun bs _ => gives_steady_from steady_winFree steady_collectGive

@[simp] theorem steady_collectUp {e : Env} : (collectUp n p k e s).Gives fun t => steady t = steady s := by simp [collectUp]

@[simp] theorem steady_collectDown {e : Env} : (collectDown n p k e s).Gives fun t => steady t = steady s := by
  unfold collectDown
  dsimp only
  split
  · exact gives_wait
  · split
    · exact gives_ok.2 (steady_takePump.trans steady_putOp)
    · refine (gives_bind ..).2 fun bs _ => (gives_bind ..).2 fun u hu => gives_ok.2 ?_
      rw [steady_takePump, steady_putOp, steady_collectGive u hu, steady_winFree]

@[simp] theorem steady_collectRun {down : Bool} : steady (collectRun n down sram s) = steady s := by simp [collectRun]
@[simp] theorem steady_dropPkt : steady (dropPkt k s) = steady s := by simp [dropPkt]

@[simp] theorem steady_flitRetry {flit hop : Nat} : steady (flitRetry k flit hop s) = steady s := by
  unfold flitRetry
  (repeat' split) <;> simp

@[simp] theorem steady_fabRead : steady (fabRead k ecc s) = steady s := by
  unfold fabRead
  split <;> simp

@[simp] theorem steady_rdataLands {opnd entry : Nat} {poisoned : Option Nat} :
    steady (rdataLands n p k opnd entry it cells poisoned s) = steady s := by
  unfold rdataLands
  split <;> simp

@[simp] theorem steady_fabRdata : steady (fabRdata k s) = steady s := by
  unfold fabRdata
  dsimp only
  (repeat' split) <;> simp

@[simp] theorem steady_mergeCells : steady (mergeCells n cells s) = steady s := by
  unfold mergeCells
  dsimp only
  (repeat' split) <;> simp

@[simp] theorem steady_loftConflict : steady (loftConflict n desc a it s) = steady s := by simp [loftConflict]

@[simp] theorem steady_loftWrite {fill : Option FillRef} : steady (loftWrite n desc cells fill s) = steady s := by
  unfold loftWrite
  dsimp only
  (repeat' split) <;> simp

@[simp] theorem steady_fabWrite : steady (fabWrite k ecc s) = steady s := by
  unfold fabWrite
  split <;> simp

@[simp] theorem steady_fabAck : steady (fabAck k s) = steady s := by
  unfold fabAck
  dsimp only
  (repeat' split) <;> simp

@[simp] theorem steady_yardWorks : steady (yardWorks y s) = steady s := by simp [yardWorks]

@[simp] theorem steady_fabTake : steady (fabTake k s) = steady s := by
  unfold fabTake
  dsimp only
  (repeat' split) <;> simp

@[simp] theorem steady_overflowCheck {cap : Nat} : steady (overflowCheck n p w cap s) = steady s := by
  unfold overflowCheck
  split <;> rfl

@[simp] theorem steady_windowPart {total : Nat} {bytes : List Byte} {f : WinEntry} :
    steady (windowPart n p w off total bytes f s).1 = steady s := by
  unfold windowPart
  dsimp only
  (repeat' split) <;> simp

@[simp] theorem steady_haloRowsArrive {total : Nat} {bytes : List Byte} :
    steady (haloRowsArrive n p side inst src off total bytes s) = steady s := by
  unfold haloRowsArrive
  split
  · rfl
  · dsimp only
    split
    · rfl
    · split
      · exact steady_putOp
      · exact steady_settle (gives_steady_from steady_putOp steady_haloWrite)

@[simp] theorem steady_fabData : steady (fabData k s) = steady s := by
  unfold fabData
  dsimp only
  (repeat' split) <;> simp

@[simp] theorem steady_fabCredit : steady (fabCredit k s) = steady s := by
  unfold fabCredit
  dsimp only
  (repeat' split) <;> simp

@[simp] theorem steady_ledgerAccept {entry : Nat} {l part : Ledger} : steady (ledgerAccept k n p entry l part s) = steady s := by
  unfold ledgerAccept
  split <;> simp

@[simp] theorem steady_ledgerArrives {entry : Nat} {part : Ledger} {complete : Bool} :
    steady (ledgerArrives k n p entry desc part complete s) = steady s := by
  unfold ledgerArrives
  dsimp only
  (repeat' split) <;> simp

@[simp] theorem steady_fabLedger : steady (fabLedger k s) = steady s := by
  unfold fabLedger
  (repeat' split) <;> simp

@[simp] theorem steady_fabReady : steady (fabReady k s) = steady s := by
  unfold fabReady
  dsimp only
  (repeat' split) <;> simp

@[simp] theorem steady_gateStore {slot : Nat} {q : GatePkt} : steady (gateStore n p slot q s) = steady s := by
  unfold gateStore
  split
  · rfl
  · dsimp only
    split <;> simp

@[simp] theorem steady_gateDeliver {q : GatePkt} : steady (gateDeliver g q s) = steady s := by
  unfold gateDeliver
  dsimp only
  (repeat' split) <;> simp

end Vectors

end Sys2Proof.Machine
end

section
/-! PROOFS. The queue and the yards' states: how the hub's blocks and the register writes leave them. -/

namespace Sys2Proof.Machine

/-! ## The host link, security, syllabi and video -/

section Links
variable {s : State} {p k a tag off addr q c result len w e code status slot src : Nat} {iss : Issuer} {value : W64} {ecc : EccReport}
  {detail : List Byte} {data record : HostRead} {cells : List (Nat × Byte)}

@[simp] theorem steady_flitReceive {header : W64} {crcOk : Bool} : steady (flitReceive header crcOk s) = steady s := by simp [flitReceive]
@[simp] theorem steady_hostLinkDown : steady (hostLinkDown s) = steady s := by simp [hostLinkDown]

@[simp] theorem steady_firmwareArrives {data : List Byte} : steady (firmwareArrives off status data s) = steady s := by
  simp [firmwareArrives]

@[simp] theorem steady_firmwarePump {f : Nat} : steady (firmwarePump f len s) = steady s := by
  induction f generalizing s with
  | zero => rfl
  | succ f ih =>
    unfold firmwarePump
    split_ifs <;> simp [ih]

@[simp] theorem steady_hostCplArrives {data : List Byte} : steady (hostCplArrives tag status data s) = steady s := by
  unfold hostCplArrives
  (repeat' split) <;> simp

@[simp] theorem steady_doorbell : steady (doorbell q value s) = steady s := by simp [doorbell]
@[simp] theorem steady_discardWaiting : steady (discardWaiting q s) = steady s := by simp [discardWaiting]
@[simp] theorem steady_sqWrite : steady (sqWrite q value s) = steady s := by simp [sqWrite]
@[simp] theorem steady_cqWrite : steady (cqWrite q value s) = steady s := by simp [cqWrite]

@[simp] theorem steady_writeRecord : steady (writeRecord q s) = steady s := by
  unfold writeRecord
  dsimp only
  (repeat' split) <;> simp

@[simp] theorem steady_smbAnswer {pecOk : Bool} {resp : List Byte} : steady (smbAnswer pecOk resp s) = steady s := by simp [smbAnswer]
@[simp] theorem steady_attestExhausted {why : Nat} : steady (attestExhausted why s) = steady s := by simp [attestExhausted]
@[simp] theorem steady_secDone : steady (secDone tag result s) = steady s := by simp [secDone]

@[simp] theorem steady_secCmd {f : State → State} (hf : steady (f s) = steady s) : steady (secCmd f s) = steady s := by
  unfold secCmd
  split_ifs <;> simp [hf]

@[simp] theorem steady_verify : steady (verify tag len s) = steady s := by simp [verify]
@[simp] theorem steady_secRefuse : steady (secRefuse code tag detail s) = steady s := by simp [secRefuse]
@[simp] theorem steady_takeEpoch {burnOk : Bool} : steady (takeEpoch burnOk s) = steady s := by simp [takeEpoch]
@[simp] theorem steady_fwStart {burnOk : Bool} {b : List Byte} : steady (fwStart tag burnOk b s) = steady s := by simp [fwStart]

@[simp] theorem steady_verifyEnds {burnOk : Bool} : steady (verifyEnds burnOk s) = steady s := by
  unfold verifyEnds
  split <;> simp

@[simp] theorem steady_svnCommit : steady (svnCommit tag s) = steady s := by simp [svnCommit]

@[simp] theorem steady_svnBurnt : steady (svnBurnt s) = steady s := by
  unfold svnBurnt
  split <;> rfl

@[simp] theorem steady_treeBuilt : steady (treeBuilt s) = steady s := by simp [treeBuilt]
@[simp] theorem steady_signOver : steady (signOver tag result s) = steady s := by simp [signOver]

@[simp] theorem steady_sign {view : View} {nonce : HostRead} : steady (sign view tag nonce s) = steady s := by
  unfold sign
  (repeat' split) <;> simp

@[simp] theorem steady_signEnds : steady (signEnds s) = steady s := by
  unfold signEnds
  split <;> simp

@[simp] theorem steady_clearJob : steady (clearJob s) = steady s := by
  unfold clearJob
  dsimp only
  rw [steady_mk]
  exact steady_foldl (fun _ _ => steady_discardWaiting) _ s

@[simp] theorem steady_jobWrite {owned : Bool} {jobid : Nat} : steady (jobWrite owned jobid s) = steady s := by simp [jobWrite]
@[simp] theorem steady_stageOver {body : List Byte} : steady (stageOver iss result status body s) = steady s := by simp [stageOver]
@[simp] theorem steady_stageDone : steady (stageDone iss result s) = steady s := by simp [stageDone]
@[simp] theorem steady_loadOver {body : List Byte} : steady (loadOver iss result status body s) = steady s := by simp [loadOver]
@[simp] theorem steady_loadDone : steady (loadDone iss result s) = steady s := by simp [loadDone]
@[simp] theorem steady_sylFault {sec check : Nat} : steady (sylFault code slot sec off check s) = steady s := by simp [sylFault]

@[simp] theorem steady_stageCmd {f : State → State} (hf : steady (f s) = steady s) : steady (stageCmd iss f s) = steady s := by
  unfold stageCmd
  split <;> simp [hf]

@[simp] theorem steady_loadCmd {busy : Bool} {f : State → State} (hf : steady (f s) = steady s) :
    steady (loadCmd busy iss f s) = steady s := by
  unfold loadCmd
  (repeat' split) <;> simp [hf]

@[simp] theorem steady_setSlot {x : CacheSlot} : steady (setSlot k x s) = steady s := by simp [setSlot]

@[simp] theorem steady_sylStage : steady (sylStage iss k addr off len data s) = steady s := by
  refine steady_stageCmd ?_
  dsimp only
  (repeat' split) <;> simp

@[simp] theorem steady_sylFinish : steady (sylFinish iss k s) = steady s := by
  refine steady_stageCmd ?_
  dsimp only
  split
  · simp
  · split <;> simp

@[simp] theorem steady_emptySlot : steady (emptySlot k s) = steady s := by simp [emptySlot]

@[simp] theorem steady_sylEvict : steady (sylEvict iss k s) = steady s := by
  refine steady_stageCmd ?_
  split
  · simp
  · split <;> simp

@[simp] theorem steady_sylAbort : steady (sylAbort iss k s) = steady s := by
  refine steady_stageCmd ?_
  split <;> simp

@[simp] theorem steady_sylLoad : steady (sylLoad iss k s) = steady s := by
  refine steady_loadCmd ?_
  split
  · rw [steady_loadDone, steady_sylFault, steady_mk, steady_fold]
  · rw [steady_mk, steady_fold]

@[simp] theorem steady_releaseHold : steady (releaseHold s) = steady s := by simp [releaseHold]
@[simp] theorem steady_clearHold : steady (clearHold s) = steady s := by simp [clearHold]

@[simp] theorem steady_zeroFillMap {f : FillRec} : steady (zeroFillMap f s) = steady s := by
  unfold zeroFillMap
  (repeat' split) <;> simp

@[simp] theorem steady_grantWindows {b : List Byte} : steady (grantWindows b s) = steady s := by
  rw [grantWindows_eq, steady_mk, steady_fold]

@[simp] theorem steady_zeroCounters {b : List Byte} : steady (zeroCounters b s) = steady s := by
  rw [zeroCounters, steady_mk, steady_fold]

theorem steady_modServing {f : Nat → Stall → Stall} {ns : List Nat} : steady (modServing f ns s) = steady s := by
  rw [modServing_eq, steady_mk, steady_fold]

theorem steady_commitMemories {b : List Byte} : steady (commitMemories b k s) = steady s := by
  rw [commitMemories, steady_foldl fun _ _ => steady_zeroFillMap, steady_foldl fun _ _ => steady_hubWrite, steady_modServing]

theorem steady_commitRegisters {b : List Byte} : steady (commitRegisters b k s) = steady s := rfl

@[simp] theorem steady_commitImage : steady (commitImage k s) = steady s := by
  rw [commitImage_eq, steady_grantWindows, steady_commitRegisters, steady_commitMemories]

@[simp] theorem steady_deferredPreempt : steady (deferredPreempt s) = steady s := by simp [deferredPreempt]

@[simp] theorem steady_loadCommit : steady (loadCommit ecc s) = steady s := by
  unfold loadCommit
  split
  · rfl
  · dsimp only
    split
    · rw [steady_deferredPreempt, steady_loadDone, steady_sylFault, steady_setSlot, steady_mk, steady_fold, steady_mk, steady_fold,
        steady_eccApply]
    · rw [steady_deferredPreempt, steady_loadDone, steady_releaseHold, steady_commitImage, steady_setSlot, steady_mk, steady_fold,
        steady_eccApply]

theorem steady_unloadRegisters {b : List Byte} : steady (unloadRegisters b k s) = steady s := rfl

@[simp] theorem steady_unloadImage : steady (unloadImage k s) = steady s := by
  obtain ⟨gate, flt, heq⟩ := unloadImage_eq k s
  rw [heq, steady_mk, steady_fold, steady_unloadRegisters, steady_modServing]

@[simp] theorem steady_sylUnload : steady (sylUnload iss k s) = steady s := by simp [sylUnload]
@[simp] theorem steady_sylClear : steady (sylClear iss s) = steady s := by simp [sylClear]
@[simp] theorem steady_policyWrite : steady (policyWrite value s) = steady s := by simp [policyWrite]
@[simp] theorem steady_keyWrite : steady (keyWrite k w value s) = steady s := by simp [keyWrite]
@[simp] theorem steady_modStream {f : Stream → Stream} : steady (modStream k f s) = steady s := by simp [modStream]
@[simp] theorem steady_vidOver {body : List Byte} : steady (vidOver iss result status body s) = steady s := by simp [vidOver]
@[simp] theorem steady_vidDone : steady (vidDone iss result s) = steady s := by simp [vidDone]

@[simp] theorem steady_vidCmd {busy : Bool} {f : State → State} (hf : steady (f s) = steady s) :
    steady (vidCmd busy iss f s) = steady s := by
  unfold vidCmd
  (repeat' split) <;> simp [hf]

@[simp] theorem steady_vidOpen : steady (vidOpen iss k addr record s) = steady s := by
  unfold vidOpen
  split <;> simp

@[simp] theorem steady_makeEligible : steady (makeEligible k s) = steady s := by simp [makeEligible]

@[simp] theorem steady_vidSubmit : steady (vidSubmit iss k addr record s) = steady s := by
  unfold vidSubmit
  split <;> simp

@[simp] theorem steady_encodeCmd {f : Stream → Option Stream} : steady (encodeCmd iss k f s) = steady s := by
  refine steady_vidCmd ?_
  dsimp only
  split_ifs
  · simp
  · split <;> simp

@[simp] theorem steady_vidKey : steady (vidKey iss k s) = steady s := by simp [vidKey]
@[simp] theorem steady_vidLtrMark {j : Nat} : steady (vidLtrMark iss k j s) = steady s := by simp [vidLtrMark]
@[simp] theorem steady_vidLtrUse {j : Nat} : steady (vidLtrUse iss k j s) = steady s := by simp [vidLtrUse]

@[simp] theorem steady_postPicture {p : PicDesc} {stream picno order bytes flags reftag : Nat} :
    steady (postPicture p stream picno order bytes flags reftag s) = steady s := by
  simp [postPicture]

@[simp] theorem steady_discardPicture {stream : Nat} {p : PicDesc} : steady (discardPicture stream p s) = steady s := by
  simp [discardPicture]

@[simp] theorem steady_closeStream {closer : Option Issuer} : steady (closeStream k closer s) = steady s := by simp [closeStream]
@[simp] theorem steady_vidClose : steady (vidClose iss k s) = steady s := by simp [vidClose]

@[simp] theorem steady_pictureStart : steady (pictureStart e s) = steady s := by
  unfold pictureStart
  (repeat' split) <;> simp

@[simp] theorem steady_putDst {a : W64} : steady (putDst a cells s) = steady s := by simp [putDst]
@[simp] theorem steady_vidReads {c : VidCtx} {p : PicDesc} : steady (vidReads c p ecc s) = steady s := by simp [vidReads]

@[simp] theorem steady_storeRef {c : VidCtx} {store : Nat} {byte : Nat → Byte} : steady (storeRef c store byte s) = steady s := by
  simp [storeRef]

@[simp] theorem steady_vidEvent {r : RunPic} : steady (vidEvent e code k r s) = steady s := by simp [vidEvent]
@[simp] theorem steady_encodeEnds {r : RunPic} {src : EntryData} : steady (encodeEnds e r src s) = steady s := by simp [encodeEnds]
@[simp] theorem steady_decodeEnds {r : RunPic} {src : EntryData} : steady (decodeEnds e r src s) = steady s := by simp [decodeEnds]

@[simp] theorem steady_closeEnds : steady (closeEnds k s) = steady s := by
  unfold closeEnds
  dsimp only
  (repeat' split) <;> simp

@[simp] theorem steady_pictureComplete {src : EntryData} : steady (pictureComplete e src s) = steady s := by
  unfold pictureComplete
  split <;> simp

end Links

/-! ## Contexts, snapshots and registers -/

section Contexts
variable {s : State} {p k n a tag off addr q c result op len w e code status slot step src : Nat} {iss : Issuer} {v : View} {value : W64}
  {ecc : EccReport} {bs : List Byte} {sram : Secded} {data : HostRead}

@[simp] theorem steady_stallLinked {c : List Byte} : steady (stallLinked n p c s) = steady s := by simp [stallLinked]

@[simp] theorem steady_putStalls {b hub : List Byte} : steady (putStalls b hub s) = steady s := by
  refine steady_foldl (fun u q => ?_) _ s
  dsimp only
  split
  · rw [steady_stallLinked, steady_modStallP]
  · rfl

@[simp] theorem steady_putGateCredits {b : List Byte} : steady (putGateCredits b s) = steady s := by
  unfold putGateCredits
  refine steady_foldl (fun u q => steady_foldl (fun u w => ?_) _ u) _ s
  dsimp only
  split_ifs <;> rfl

@[simp] theorem steady_putHub {b : List Byte} : steady (putHub b s) = steady s := by
  rw [putHub, steady_mk, steady_fold]

@[simp] theorem steady_putExtents {rs : List (Nat × Nat)} : steady (putExtents rs bs s) = steady s := by
  induction rs generalizing bs s with
  | nil => rfl
  | cons r rs ih => simp [putExtents, ih]

@[simp] theorem steady_ctxOver {body : List Byte} : steady (ctxOver iss result status body s) = steady s := by simp [ctxOver]

@[simp] theorem steady_ctxCmd {f : State → State} (hf : steady (f s) = steady s) : steady (ctxCmd iss f s) = steady s := by
  unfold ctxCmd
  (repeat' split) <;> simp [hf]

@[simp] theorem steady_ctxPreempt : steady (ctxPreempt iss s) = steady s := by simp [ctxPreempt]

@[simp] theorem steady_stallPreemptStop : steady (stallPreemptStop n s) = steady s := by
  unfold stallPreemptStop
  (repeat' split) <;> simp

@[simp] theorem steady_ctxStopped : steady (ctxStopped s) = steady s := by
  unfold ctxStopped
  split
  · split_ifs <;> simp
  · rfl

@[simp] theorem steady_markCtx : steady (markCtx s) = steady s := by simp [markCtx]
@[simp] theorem steady_storeError {sel : Nat} : steady (storeError sel status s) = steady s := by simp [storeError]

@[simp] theorem steady_saveEnds {label : W64} {whole store : Bool} {outcome : SaveOutcome} :
    steady (saveEnds iss addr label whole store outcome s) = steady s := by
  unfold saveEnds
  (repeat' split) <;> simp

@[simp] theorem steady_ctxSave {label : W64} {whole store : Bool} {outcome : SaveOutcome} :
    steady (ctxSave iss addr len label whole store outcome s) = steady s := by
  simp [ctxSave]

@[simp] theorem steady_scrambleExtents {es : List (Nat × Nat)} : steady (scrambleExtents es s) = steady s := by simp [scrambleExtents]

@[simp] theorem steady_restoreRefused {store : Bool} : steady (restoreRefused iss code step store s) = steady s := by
  simp [restoreRefused]

@[simp] theorem steady_restoreSteps {store : Bool} {b : List Byte} : steady (restoreSteps iss len store b s) = steady s := by
  simp [restoreSteps]

@[simp] theorem steady_ctxRestore {store : Bool} : steady (ctxRestore iss addr len store data s) = steady s := by
  unfold ctxRestore
  split <;> simp

@[simp] theorem steady_stallResumes : steady (stallResumes s n) = steady s := by
  unfold stallResumes
  split <;> simp

@[simp] theorem steady_ctxResume : steady (ctxResume iss s) = steady s := by simp [ctxResume]

@[simp] theorem steady_recommitStalls : steady (recommitStalls k s) = steady s := by
  rw [recommitStalls, steady_zeroCounters, steady_foldl fun _ _ => steady_zeroFillMap]
  refine steady_foldl (fun u n => ?_) _ s
  split
  · exact steady_modStallP
  · rfl

@[simp] theorem steady_toCommit : steady (toCommit s) = steady s := by simp [toCommit]
@[simp] theorem steady_ctxClear : steady (ctxClear iss s) = steady s := by simp [ctxClear]
@[simp] theorem steady_vacDone : steady (vacDone iss result status s) = steady s := by simp [vacDone]
@[simp] theorem steady_vacEnds : steady (vacEnds iss s) = steady s := by simp [vacEnds]

@[simp] theorem steady_vacNext {es : List Nat} : steady (vacNext iss es s) = steady s := by
  induction es generalizing s with
  | nil => simp [vacNext]
  | cons e es ih =>
    unfold vacNext
    split_ifs <;> simp [ih]

@[simp] theorem steady_vacDiscard : steady (vacDiscard s) = steady s := by simp [vacDiscard]

@[simp] theorem steady_ctxVacate {zmask : Nat} : steady (ctxVacate iss zmask s) = steady s := by
  unfold ctxVacate
  (repeat' split) <;> simp

@[simp] theorem steady_zeroDone : steady (zeroDone s) = steady s := by
  unfold zeroDone
  dsimp only
  (repeat' split) <;> simp

@[simp] theorem steady_snapOver {body : List Byte} : steady (snapOver iss result status body s) = steady s := by simp [snapOver]

@[simp] theorem steady_snapCmd {f : State → State} (hf : steady (f s) = steady s) : steady (snapCmd iss f s) = steady s := by
  unfold snapCmd
  (repeat' split) <;> simp [hf]

@[simp] theorem steady_snapConfig {a : StoreAnswers} : steady (snapConfig iss a s) = steady s := by simp [snapConfig]

@[simp] theorem steady_storePump : steady (storePump s) = steady s := by
  unfold storePump
  (repeat' split) <;> simp

@[simp] theorem steady_snapTake : steady (snapTake iss s) = steady s := by simp [snapTake]
@[simp] theorem steady_drainPoisoned : steady (drainPoisoned a s) = steady s := by simp [drainPoisoned]

theorem steady_poisonedOrPumped {poisoned : Option Nat} {u : State} (hu : steady u = steady s) :
    steady (match poisoned with
      | some w => drainPoisoned w u
      | none => storePump u) = steady s := by
  cases poisoned <;> simp [hu]

@[simp] theorem steady_snapCapture : steady (snapCapture s) = steady s := by
  unfold snapCapture
  split
  · rfl
  · split
    · rfl
    · split
      · rfl
      · refine steady_poisonedOrPumped ?_
        rw [steady_mk, steady_fold, steady_foldl fun _ _ => steady_hubPkts, steady_hubWrite]

@[simp] theorem steady_snapLossRead : steady (snapLossRead s) = steady s := by
  unfold snapLossRead
  (repeat' split) <;> simp

@[simp] theorem steady_scheduleNext : steady (scheduleNext step s) = steady s := by simp [scheduleNext]

@[simp] theorem steady_snapCommit : steady (snapCommit s) = steady s := by
  unfold snapCommit
  split <;> simp

@[simp] theorem steady_snapAbort : steady (snapAbort iss s) = steady s := by simp [snapAbort]

@[simp] theorem steady_drainEcc : steady (drainEcc ecc s).1 = steady s := by
  unfold drainEcc
  split <;> simp

@[simp] theorem steady_storeCpl {cid : Nat} {answer : StoreDone} : steady (storeCpl cid answer s) = steady s := by
  unfold storeCpl
  dsimp only
  (repeat' split) <;> simp

@[simp] theorem steady_storeLinkDown : steady (storeLinkDown s) = steady s := by simp [storeLinkDown]

@[simp] theorem steady_laneLossOfLock : steady (laneLossOfLock e w s) = steady s := by
  unfold laneLossOfLock
  dsimp only
  (repeat' split) <;> simp

@[simp] theorem steady_snapReadFails {host : Bool} : steady (snapReadFails iss addr host s) = steady s := by simp [snapReadFails]
@[simp] theorem steady_putGroups {keepRoutes : Bool} {b : List Byte} : steady (putGroups keepRoutes b s) = steady s := by simp [putGroups]

@[simp] theorem steady_snapGroups {slot : Nat} {host keepRoutes : Bool} :
    steady (snapGroups iss addr slot host keepRoutes data s) = steady s := by
  refine steady_snapCmd ?_
  split
  · simp
  · split
    · simp
    · split <;> simp

@[simp] theorem steady_putRecords {b : List Byte} : steady (putRecords b s) = steady s := by
  refine steady_foldl (fun u q => ?_) _ s
  split
  · rw [steady_modStallP]
  · rfl

@[simp] theorem steady_putSnapHub {b : List Byte} : steady (putSnapHub b s) = steady s := by
  rw [putSnapHub, steady_mk, steady_fold, steady_putHub]

@[simp] theorem steady_snapWrite {b : List Byte} : steady (snapWrite b step s) = steady s := by
  rw [snapWrite, steady_putExtents, steady_mk, steady_fold, steady_hubWrite, steady_putSnapHub, steady_putRecords]

@[simp] theorem steady_snapRefused {v : Nat} : steady (snapRefused iss code src step v s) = steady s := by simp [snapRefused]
@[simp] theorem steady_snapSteps {host : Bool} {b : List Byte} : steady (snapSteps iss host slot b s) = steady s := by simp [snapSteps]

@[simp] theorem steady_snapRestore {host : Bool} : steady (snapRestore iss addr slot host data s) = steady s := by
  unfold snapRestore
  split <;> simp

@[simp] theorem steady_replayCheck : steady (replayCheck s) = steady s := by
  unfold replayCheck
  dsimp only
  (repeat' split) <;> simp

@[simp] theorem steady_snapClear : steady (snapClear iss s) = steady s := by simp [snapClear]
@[simp] theorem steady_configSet {v : W64} : steady (configSet off v s) = steady s := by simp [configSet]
@[simp] theorem steady_configWrite {v : W64} : steady (configWrite off v s) = steady s := by simp [configWrite]

@[simp] theorem steady_aperRead : steady (aperRead n p k sram s).2 = steady s := by
  unfold aperRead
  dsimp only
  (repeat' split) <;> simp

@[simp] theorem steady_aperWrite : steady (aperWrite p k value s) = steady s := by simp [aperWrite]
@[simp] theorem steady_regPackets : steady (regPackets s) = steady s := by simp [regPackets]

@[simp] theorem steady_stwRead : steady (stwRead n off sram s).2 = steady s := by
  unfold stwRead
  (repeat' split) <;> simp

@[simp] theorem steady_stwWrite : steady (stwWrite n off value s) = steady s := by
  unfold stwWrite
  split <;> simp

@[simp] theorem steady_sylCommand : steady (sylCommand iss op k addr off len data s) = steady s := by
  unfold sylCommand
  split <;> simp

@[simp] theorem steady_rollCommand {idx : Nat} {e : RollEntry} : steady (rollCommand iss op idx addr e data s) = steady s := by
  unfold rollCommand
  split <;> simp

@[simp] theorem steady_vidCommand : steady (vidCommand iss op k slot addr data s) = steady s := by
  unfold vidCommand
  split <;> simp

@[simp] theorem steady_loftCommand {entry : Nat} : steady (loftCommand v iss op entry s) = steady s := by simp [loftCommand]

@[simp] theorem steady_ctxCommand {label : W64} {whole store : Bool} :
    steady (ctxCommand iss op addr len label whole store data s) = steady s := by
  unfold ctxCommand
  split <;> simp

@[simp] theorem steady_snapCommand {host keep : Bool} : steady (snapCommand iss op addr slot host keep data s) = steady s := by
  unfold snapCommand
  split <;> simp

@[simp] theorem steady_bringCommand {arg : Nat} : steady (bringCommand op tag arg data s) = steady s := by
  unfold bringCommand
  split <;> simp

@[simp] theorem steady_fwCommand : steady (fwCommand op tag len s) = steady s := by
  unfold fwCommand
  split <;> simp

@[simp] theorem steady_attCommand : steady (attCommand v op tag data s) = steady s := by simp [attCommand]
@[simp] theorem steady_vacCommand {zmask : Nat} : steady (vacCommand iss op zmask s) = steady s := by simp [vacCommand]
@[simp] theorem steady_devSet {w : W64} : steady (devSet off w s) = steady s := by simp [devSet]
@[simp] theorem steady_ptrWrite {w : W64} : steady (ptrWrite q w s) = steady s := by simp [ptrWrite]

@[simp] theorem steady_hostSet {w : W64} : steady (hostSet off w s) = steady s := by
  unfold hostSet
  (repeat' split) <;> simp

@[simp] theorem steady_bringSet {w : W64} : steady (bringSet off w data s) = steady s := by simp [bringSet]
@[simp] theorem steady_secSet {w : W64} : steady (secSet v off w data s) = steady s := by simp [secSet]
@[simp] theorem steady_sylSet {w : W64} : steady (sylSet off w data s) = steady s := by simp [sylSet]
@[simp] theorem steady_drivenWrite : steady (drivenWrite value s) = steady s := by
  unfold drivenWrite
  split_ifs <;> rfl

@[simp] theorem steady_rollSet {w : W64} : steady (rollSet off w data s) = steady s := by simp [rollSet]

@[simp] theorem steady_loftSet {w : W64} : steady (loftSet v off w s) = steady s := by
  unfold loftSet
  (repeat' split) <;> simp

@[simp] theorem steady_rngSet {w : W64} : steady (rngSet off w s) = steady s := by simp [rngSet]
@[simp] theorem steady_gateSet {w : W64} : steady (gateSet off w s) = steady s := by simp [gateSet]
@[simp] theorem steady_vidSet {w : W64} : steady (vidSet off w data s) = steady s := by simp [vidSet]
@[simp] theorem steady_ctxSet {w : W64} : steady (ctxSet off w data s) = steady s := by simp [ctxSet]
@[simp] theorem steady_snapSet {w : W64} : steady (snapSet off w data s) = steady s := by simp [snapSet]
@[simp] theorem steady_fltSet {w : W64} : steady (fltSet off w s) = steady s := by simp [fltSet]

@[simp] theorem steady_wordRead : steady (wordRead v addr s).2 = steady s := by
  unfold wordRead
  (repeat' split) <;> simp

@[simp] theorem steady_burstRead : steady (burstRead v n addr s).2 = steady s := by
  induction n generalizing addr s with
  | zero => rfl
  | succ n ih => simp [burstRead, ih]

@[simp] theorem steady_registerRead : steady (registerRead v tag addr len s) = steady s := by simp [registerRead]

@[simp] theorem steady_apertureRead : steady (apertureRead v tag n k sram s) = steady s := by
  unfold apertureRead
  dsimp only
  (repeat' split) <;> simp

@[simp] theorem steady_fabReg {write : Option W64} : steady (fabReg v n off write s) = steady s := by
  unfold fabReg
  (repeat' split) <;> simp

@[simp] theorem steady_servedQueue : steady (servedQueue q s) = steady s := by simp [servedQueue]
@[simp] theorem steady_advanceHead : steady (advanceHead q s) = steady s := by simp [advanceHead]

@[simp] theorem steady_zeroOutside : steady (zeroOutside iss s) = steady s := by
  unfold zeroOutside
  (repeat' split) <;> simp

@[simp] theorem steady_entryCommand {e : List Byte} : steady (entryCommand q e data s) = steady s := by
  unfold entryCommand
  split <;> simp

@[simp] theorem steady_entryRun {e : List Byte} : steady (entryRun q e data ecc s) = steady s := by
  unfold entryRun
  split <;> simp

@[simp] theorem steady_queueTake {entry : HostRead} : steady (queueTake q entry data ecc s) = steady s := by
  unfold queueTake
  (repeat' split) <;> simp

end Contexts

end Sys2Proof.Machine
end

section
/-! PROOFS. The yards' moves: the power commands keep consistent yards consistent, and the statements of O59 and O2. -/

namespace Sys2Proof.Machine

/-- What every step keeps: no waiting command is touched, and yards in consistent states stay so. -/
def Keeps (s t : State) : Prop := t.pending = s.pending ∧ (YardsConsistent s → YardsConsistent t)

section Yards
variable {s t u : State} {tag y op : Nat} {v : View} {off addr : Nat} {w : W64} {data : HostRead}

theorem Keeps.refl : Keeps s s := ⟨rfl, id⟩

theorem Keeps.trans (hst : Keeps s t) (htu : Keeps t u) : Keeps s u := ⟨htu.1.trans hst.1, htu.2 ∘ hst.2⟩

/-- A step that leaves the queue and the yard masks as they were. -/
theorem keeps_of_steady (hsame : steady t = steady s) : Keeps s t := by
  simp only [steady, Prod.mk.injEq] at hsame
  obtain ⟨hpending, hon, hgating, hungating, hwaiting⟩ := hsame
  exact ⟨hpending, fun hs => by rwa [YardsConsistent, hon, hgating, hungating, hwaiting]⟩

theorem bitVec_eq_zero_iff {n : Nat} (x : BitVec n) : x = 0 ↔ ∀ i, i < n → x.getLsbD i = false := by
  rw [BitVec.eq_of_getLsbD_eq_iff]
  simp

/-- The yards' states, yard by yard. -/
theorem yardsConsistent_iff : YardsConsistent s ↔ ∀ i, i < 40 →
    (s.pwr.gating.getLsbD i = true → s.pwr.yardOn.getLsbD i = true) ∧
    (s.pwr.ungating.getLsbD i = true → s.pwr.yardOn.getLsbD i = false ∧ s.pwr.waitingY.getLsbD i = false) ∧
    (s.pwr.waitingY.getLsbD i = true → s.pwr.yardOn.getLsbD i = false) := by
  simp only [YardsConsistent, bitVec_eq_zero_iff, ← forall_and]
  refine forall₂_congr fun i hi => ?_
  simp only [BitVec.getLsbD_and, BitVec.getLsbD_or, BitVec.getLsbD_not, hi]
  cases s.pwr.gating.getLsbD i <;> cases s.pwr.yardOn.getLsbD i <;> cases s.pwr.ungating.getLsbD i <;>
    cases s.pwr.waitingY.getLsbD i <;> decide


/-- A mask holds the bits of its list. -/
theorem testBit_maskOf (is : List Nat) (i : Nat) : (maskOf is).testBit i = decide (i ∈ is) := by
  have hfold (is : List Nat) (a : Nat) : (is.foldl (fun a i => a ||| (1 <<< i)) a).testBit i = (a.testBit i || decide (i ∈ is)) := by
    induction is generalizing a with
    | nil => simp
    | cons j is ih =>
      rw [List.foldl_cons, ih, Nat.testBit_or, Nat.one_shiftLeft, Nat.testBit_two_pow]
      simp [eq_comm, Bool.or_assoc]
  simpa [maskOf] using hfold is 0

theorem getLsbD_yardMask {f : Nat → Bool} {i : Nat} (hi : i < 40) : (yardMask f).getLsbD i = f i := by
  rw [yardMask, BitVec.getLsbD_ofNat, testBit_maskOf]
  simp [hi]

theorem getLsbD_yardBit {i : Nat} (hi : i < 40) : (yardBit y).getLsbD i = decide (i = y) := by
  rw [yardBit, BitVec.getLsbD_shiftLeft, Bool.eq_iff_iff]
  simp [hi]
  omega

/-- A yard starts to ungate out of those that wait. -/
theorem keeps_startUngates : Keeps s (startUngates s) := by
  refine ⟨rfl, fun hs => yardsConsistent_iff.2 fun i hi => ?_⟩
  obtain ⟨hgating, hungating, hwaiting⟩ := yardsConsistent_iff.1 hs i hi
  simp only [startUngates, BitVec.getLsbD_or, BitVec.getLsbD_and, BitVec.getLsbD_not, getLsbD_yardMask hi, hi, decide_true,
    Bool.true_and]
  refine ⟨hgating, ?_, ?_⟩ <;> grind

/-- The yards to gate are on; those to ungate are off and not in motion. -/
theorem keeps_startYards {set : BitVec 40} : Keeps s (startYards set tag s) := by
  unfold startYards
  dsimp only
  split
  · exact keeps_of_steady steady_powerRefused
  · refine .trans ?_ keeps_startUngates
    refine ⟨rfl, fun hs => yardsConsistent_iff.2 fun i hi => ?_⟩
    obtain ⟨hgating, hungating, hwaiting⟩ := yardsConsistent_iff.1 hs i hi
    simp only [clearYards, BitVec.getLsbD_or, BitVec.getLsbD_and, BitVec.getLsbD_not, hi, decide_true,
      Bool.true_and]
    grind

theorem keeps_yardsCommand : Keeps s (yardsCommand tag s) := by
  unfold yardsCommand
  dsimp only
  split_ifs
  · exact .refl
  · exact keeps_of_steady rfl
  · exact .trans (keeps_of_steady rfl) keeps_startYards

/-- AUX after a trip drops every move. -/
theorem keeps_dropMoves : Keeps s (dropMoves s) := by
  unfold dropMoves
  split_ifs
  · exact ⟨rfl, fun _ => by simp [YardsConsistent]⟩
  · exact .refl

theorem keeps_startState {target : PState} : Keeps s (startState target s) :=
  keeps_dropMoves.trans (keeps_of_steady steady_losesAtStart)

theorem keeps_stateCommand {target : PState} : Keeps s (stateCommand target tag s) := by
  unfold stateCommand
  dsimp only
  split
  · exact .refl
  split
  · exact keeps_of_steady steady_powerRefused
  split
  · split_ifs <;> exact keeps_of_steady rfl
  · split_ifs
    · exact keeps_of_steady rfl
    · exact keeps_startState.trans (keeps_of_steady rfl)
    · exact keeps_of_steady steady_powerRefused

theorem keeps_startPending : Keeps s (startPending s) := by
  unfold startPending
  split
  · dsimp only
    split_ifs
    · exact .trans (keeps_of_steady rfl) keeps_startState
    · exact keeps_of_steady steady_powerRefused
  · exact .refl

theorem keeps_startQueuedYards : Keeps s (startQueuedYards s) := by
  unfold startQueuedYards
  split
  · exact .trans (keeps_of_steady rfl) keeps_startYards
  · exact .refl

theorem keeps_auxEntry : Keeps s (auxEntry s) := ⟨rfl, fun _ => by simp [YardsConsistent, auxEntry]⟩

theorem keeps_transitionDone : Keeps s (transitionDone s) := by
  unfold transitionDone
  split
  · exact .refl
  · refine .trans ?_ (keeps_startPending.trans keeps_startQueuedYards)
    split
    · exact .trans (keeps_of_steady rfl) keeps_auxEntry
    · exact keeps_of_steady rfl

theorem keeps_afterYard : Keeps s (afterYard s) := by
  unfold afterYard
  split_ifs
  · exact .refl
  · exact keeps_startPending

theorem pending_startPendingYard : (startPendingYard y s).pending = s.pending := by
  unfold startPendingYard
  dsimp only
  split_ifs <;> rfl

/-- The move that a yard holds starts once its motion has ended. -/
theorem yardsConsistent_startPendingYard (hs : YardsConsistent s)
    (hy : s.pwr.yardOn.getLsbD y = false → s.pwr.ungating.getLsbD y = false) : YardsConsistent (startPendingYard y s) := by
  unfold startPendingYard
  dsimp only
  split_ifs with hheld hreached hbarred hwant
  · exact hs
  · exact hs
  · exact hs
  · refine keeps_startUngates.2 (yardsConsistent_iff.2 fun i hi => ?_)
    obtain ⟨hgating, hungating, hwaiting⟩ := yardsConsistent_iff.1 hs i hi
    simp only [BitVec.getLsbD_or, getLsbD_yardBit hi]
    grind
  · refine yardsConsistent_iff.2 fun i hi => ?_
    obtain ⟨hgating, hungating, hwaiting⟩ := yardsConsistent_iff.1 hs i hi
    simp only [clearYards, BitVec.getLsbD_or, getLsbD_yardBit hi]
    grind

/-- A yard that gated is off, and was not ungating. -/
theorem keeps_gateDone : Keeps s (gateDone y s) := by
  unfold gateDone
  split_ifs with hgates
  · exact .refl
  · refine .trans ?_ keeps_afterYard
    refine ⟨pending_startPendingYard, fun hs => ?_⟩
    rw [Bool.not_eq_true', Bool.not_eq_false] at hgates
    have hy : y < 40 := BitVec.lt_of_getLsbD hgates
    refine yardsConsistent_startPendingYard (yardsConsistent_iff.2 fun i hi => ?_) fun _ => ?_
    · obtain ⟨hgating, hungating, hwaiting⟩ := yardsConsistent_iff.1 hs i hi
      simp only [BitVec.getLsbD_and, BitVec.getLsbD_not, getLsbD_yardBit hi, hi, decide_true, Bool.true_and]
      grind
    · obtain ⟨hgating, hungating, -⟩ := yardsConsistent_iff.1 hs y hy
      grind

/-- A yard that ungated is on. -/
theorem keeps_ungateDone : Keeps s (ungateDone y s) := by
  unfold ungateDone
  split_ifs with hungates
  · exact .refl
  · refine .trans ?_ keeps_afterYard
    refine ⟨pending_startPendingYard, fun hs => ?_⟩
    rw [Bool.not_eq_true', Bool.not_eq_false] at hungates
    have hy : y < 40 := BitVec.lt_of_getLsbD hungates
    refine yardsConsistent_startPendingYard (keeps_startUngates.2 (yardsConsistent_iff.2 fun i hi => ?_)) fun hoff => ?_
    · obtain ⟨hgating, hungating, hwaiting⟩ := yardsConsistent_iff.1 hs i hi
      simp only [clearYards, BitVec.getLsbD_and, BitVec.getLsbD_or, BitVec.getLsbD_not, getLsbD_yardBit hi, hi, decide_true,
        Bool.true_and]
      grind
    · simp [startUngates, clearYards, getLsbD_yardBit hy] at hoff

/-! ## Register writes and every command -/

theorem keeps_pwrCommand : Keeps s (pwrCommand op tag s) := by
  unfold pwrCommand
  split
  · exact keeps_stateCommand
  · exact keeps_stateCommand
  · exact keeps_stateCommand
  · exact keeps_yardsCommand
  · exact keeps_of_steady rfl

theorem keeps_pwrSet : Keeps s (pwrSet off w s) := by
  unfold pwrSet
  split_ifs
  · exact keeps_pwrCommand
  all_goals exact keeps_of_steady rfl

theorem keeps_regSet : Keeps s (regSet v addr w data s) := by
  unfold regSet
  dsimp only
  split
  case h_3 => exact keeps_pwrSet
  all_goals exact keeps_of_steady (by simp)

theorem keeps_regWrite {f : State → State} (hf : Keeps s (f s)) : Keeps s (regWrite v addr f s) := by
  unfold regWrite
  split_ifs
  · exact .refl
  · exact keeps_of_steady steady_viewViolation
  · exact hf

theorem keeps_burstWrite {ws : List W64} : Keeps s (burstWrite v data ws addr s) := by
  induction ws generalizing addr s with
  | nil => exact .refl
  | cons w ws ih =>
    refine .trans ?_ ih
    unfold wordWrite
    split_ifs
    · exact keeps_of_steady steady_viewViolation
    · exact keeps_of_steady steady_stwWrite
    · exact keeps_regSet

theorem keeps_registerWrite {ws : List W64} : Keeps s (registerWrite v addr ws data s) := by
  unfold registerWrite
  split_ifs
  · exact .refl
  · exact keeps_of_steady rfl
  · exact keeps_burstWrite

theorem keeps_resetState : Keeps s (resetState s) := by
  refine ⟨?_, fun _ => by simp [YardsConsistent, resetState, State.reset]⟩
  unfold resetState burnedAtReset
  dsimp only
  split <;> rfl

/-- No command touches the queue; each keeps consistent yards consistent. -/
theorem keeps_of_exec {c : Instr} (hexec : exec c s = .next t) : Keeps s t := by
  cases c
  case resetNAssert => cases hexec; exact keeps_resetState
  case pwrgdAuxFall =>
    cases hexec
    split_ifs
    · exact .trans (keeps_of_steady rfl) keeps_resetState
    · exact keeps_of_steady rfl
  case powerTransitionDone => cases hexec; exact keeps_transitionDone
  case yardGateDone => cases hexec; exact keeps_gateDone
  case yardUngateDone => cases hexec; exact keeps_ungateDone
  case pwrAux => cases hexec; exact keeps_regWrite keeps_stateCommand
  case pwrStandby => cases hexec; exact keeps_regWrite keeps_stateCommand
  case pwrIdle => cases hexec; exact keeps_regWrite keeps_stateCommand
  case pwrYards => cases hexec; exact keeps_regWrite keeps_yardsCommand
  case hostQueueConfigWrite =>
    cases hexec
    refine keeps_regWrite (keeps_of_steady ?_)
    split_ifs <;> simp
  case registerWrite => cases hexec; exact keeps_registerWrite
  all_goals
    cases hexec
    exact keeps_of_steady (by simp)

end Yards

/-- Settles O59: every command keeps the yards consistent by `keeps_of_exec`, and a tick of the pace rings leaves them. -/
theorem yardsStayConsistent : Obligations.YardsStayConsistent := by
  unfold Obligations.YardsStayConsistent
  intro s t hs hstep
  cases hqueue : s.pending with
  | nil =>
    rw [step_of_pending_nil hqueue] at hstep
    cases hstep
    exact (keeps_of_steady steady_tick).2 hs
  | cons c rest =>
    rw [step_of_pending_cons hqueue] at hstep
    exact (keeps_of_exec (s := { s with pending := rest }) hstep).2 hs

/-- Settles O2: every meaning is a next state by its definition, and none touches the queue by `keeps_of_exec`. -/
theorem commandsRunAndLeaveTheQueue : Obligations.CommandsRunAndLeaveTheQueue := by
  refine ⟨fun i s => ?_, fun i s t hexec => (keeps_of_exec hexec).1⟩
  cases i <;> exact ⟨_, rfl⟩

end Sys2Proof.Machine
end

section
/-! PROOFS. The hub at rest: its SMBus answers, the end of its boot and the registers after reset, and the statements of O46, O5 and O3. -/

namespace Sys2Proof.Machine

/-! ## SMBus (R387) -/

section Smbus
variable {s : State} (hreset : s.pins.resetN = true) (haux : s.pins.pwrgdAux = true)
include hreset haux

theorem smbUp_of_pins : smbUp s = true := by simp [smbUp, hreset, haux]

theorem smbAnswer_of_up {resp : List Byte} : smbAnswer true resp s = { s with smb.acked := true, smb.resp := resp } := by
  simp [smbAnswer, smbUp_of_pins hreset haux]

theorem exec_smbClearAlert_of_up : exec (.smbClearAlert true) s = .next { s with
    smb.acked := true, smb.resp := [], host.alert := false } := by
  refine congrArg Host.Outcome.next ((if_pos ?_).trans (smbAnswer_of_up (s := { s with host.alert := false }) hreset haux))
  rw [smbUp_of_pins hreset haux, Bool.and_self]

end Smbus

/-- Settles O46: a command whose packet error code fits is answered as `smbAnswer_of_up` says; one whose code does not fit has no answer by
definition. -/
theorem smbusAnswers : Obligations.SmbusAnswers := by
  unfold Obligations.SmbusAnswers
  intro s hreset haux
  have answers {resp : List Byte} : (.next (smbAnswer true resp s) : Host.Outcome State Fault Refusal) = .next { s with
      smb.acked := true, smb.resp := resp } := congrArg _ (smbAnswer_of_up hreset haux)
  refine ⟨answers, answers, answers, answers, answers, answers, exec_smbClearAlert_of_up hreset haux, ?_⟩
  simp only [List.forall_mem_cons]
  exact ⟨rfl, rfl, rfl, rfl, rfl, rfl, rfl, nofun⟩

/-! ## The registers after reset (R495) -/

/-- A word of the BRING block. -/
theorem regWord_bring {v : View} {s : State} {off : Nat} (hoff : off < 0xFFF8) : regWord v (bringBase + off) s = bringWord off s := by
  have hblock : (bringBase + off) / 0x10000 = 3 := by rw [bringBase]; omega
  have hword : (bringBase + off) % 0x10000 = off := by rw [bringBase]; omega
  simp only [regWord, hblock, hword, if_neg hoff.ne]

theorem bringWord_pst {s : State} {p : Nat} (hp : p < 1280) : bringWord (0x2000 + 8 * p) s = pstWord (pstAt s p) := by
  have hindex : (0x2000 + 8 * p - 0x2000) / 8 = p := by omega
  have hoff : 0x2000 ≤ 0x2000 + 8 * p ∧ 0x2000 + 8 * p < 0x4800 := by omega
  rw [bringWord, if_neg (by omega), if_neg (by omega), if_neg (by omega), if_neg (by omega), if_neg (by omega), if_neg (by omega),
    if_pos hoff, hindex]

theorem regWord_scrub {v : View} {s : State} : regWord v (loftBase + 0x40) s =
    pack [(32, passesMin s % 2 ^ 32), (8, b2n s.loft.scrubOn), (0, s.loft.tick)] := rfl

/-- No slice of the loft has passed after reset. -/
theorem passesMin_reset : passesMin State.reset = 0 :=
  Nat.le_zero.1 (List.foldlRecOn (motive := (· ≤ 0)) _ _ le_rfl fun _ hle _ _ => (min_le_left _ _).trans hle)

theorem pstAt_reset {p : Nat} : pstAt State.reset p = {} := rfl

/-- Settles O3: no physical stall has an entry after reset, so each reads as `bringWord_pst` says of an untested one; the scrub register
holds no passes; the other registers are evaluated. -/
theorem resetRegisterValues : Obligations.ResetRegisterValues := by
  have hpst (p : Nat) (hp : p < 1280) : regWord .priv (bringBase + 0x2000 + 8 * p) State.reset = 0xFFFFFFF07FF := by
    rw [Nat.add_assoc, regWord_bring (by omega), bringWord_pst hp, pstAt_reset]
    decide
  have hscrub : regWord .priv (loftBase + 0x40) State.reset = 0x10C := by
    rw [regWord_scrub, passesMin_reset]
    decide
  exact ⟨by decide, by decide, by decide, by decide, hpst, by decide, by decide, by decide, hscrub, by decide, by decide, by decide,
    by decide⟩

end Sys2Proof.Machine

/-! ## The boot (R388): the theorem's name is that of a function of the model, so it stands beside it -/

namespace Sys2Proof

/-- Settles O5: the boot runs, so its end is read off in either case. -/
theorem hubBootEnds : Obligations.HubBootEnds := by
  intro s hbooting
  refine ⟨⟨_, congrArg Host.Outcome.next (if_neg (by simp [hbooting])), rfl, rfl, rfl, ?_, rfl, rfl, rfl⟩,
    ⟨_, congrArg Host.Outcome.next (if_neg (by simp [hbooting])), rfl, rfl, rfl, _, rfl, rfl⟩⟩
  simp

end Sys2Proof
end

section
/-! PROOFS. The fault logs and the ownership of the device, and the statements of O52 and O15. -/

namespace Sys2Proof.Machine

/-- A write of the privileged view reaches its register while the hub serves. -/
theorem reaches_priv {s : State} {addr : Nat} (hup : hubServes s = true) : Reaches s .priv addr := ⟨hup, nofun⟩

/-! ## The fault logs (R485, R486) -/

section Logs
variable {r : FRec} {l : FLog} {value : W64}

theorem logAdd_event_dropped (hclass : codeClass r.code = 0) (hfull : 448 ≤ l.count) :
    logAdd r l = { l with loste := min (l.loste + 1) 65535 } := if_pos ⟨hclass, hfull⟩

theorem logAdd_dropped (hclass : codeClass r.code ≠ 0) (hfull : 512 ≤ l.count) : logAdd r l = { l with lost := min (l.lost + 1) 65535 } := by
  rw [logAdd, if_neg fun h => hclass h.1, if_pos hfull]
  rfl

theorem logAdd_taken (hroom : l.count < if codeClass r.code = 0 then 448 else 512) :
    logAdd r l = { l with entries := tset l.entries l.tail r, tail := (l.tail + 1) % 512, count := l.count + 1 } := by
  split_ifs at hroom with hclass <;> rw [logAdd, if_neg (by omega), if_neg (by omega)]

/-- What a log holds once it has taken a record. -/
theorem logAdd_holds (hroom : l.count < if codeClass r.code = 0 then 448 else 512) :
    tfind (logAdd r l).entries l.tail = some r ∧ (logAdd r l).count = l.count + 1 ∧ (logAdd r l).tail = (l.tail + 1) % 512 ∧
      (logAdd r l).head = l.head := by
  rw [logAdd_taken hroom]
  exact ⟨tfind_tset_same _ _ _, rfl, rfl, rfl⟩

theorem headWrite_frees (hfit : (fld value 8 0 + 512 - l.head) % 512 ≤ l.count) : headWrite value l = { l with
    head := fld value 8 0
    count := l.count - (fld value 8 0 + 512 - l.head) % 512
    hrefused := l.hrefused && !value.getLsbD 21 } := by
  rw [← w1c_eq, w1c, headWrite]
  have hbit := fld_lt value 21 21
  by_cases hclear : fld value 21 21 = 1
  · simp [hclear, hfit]
  · have hzero : fld value 21 21 = 0 := by omega
    simp [hzero, hfit]

theorem headWrite_refuses (hover : l.count < (fld value 8 0 + 512 - l.head) % 512) : headWrite value l = { l with hrefused := true } := by
  rw [headWrite]
  by_cases hclear : fld value 21 21 = 1
  · simp [hclear, hover.not_ge]
  · simp [hclear, hover.not_ge]

end Logs

/-- Settles O52: what a log does with a record by the room it has, and a write of HEAD by what it would free. -/
theorem faultLogs : Obligations.FaultLogs := by
  refine ⟨fun r l => ⟨fun hclass hroom => logAdd_holds (by simpa [hclass] using hroom), logAdd_event_dropped,
    fun hclass hroom => logAdd_holds (by simpa [hclass] using hroom), logAdd_dropped⟩, fun s v value => ⟨fun hup hfit => ?_,
    fun hup hover => ?_, fun hreach hfit => ?_, fun hreach hover => ?_⟩⟩
  · exact next_of_reaches (reaches_priv hup) (congrArg (fun l => ({ s with flt.dlog := l } : State)) (headWrite_frees hfit))
  · exact next_of_reaches (reaches_priv hup) (congrArg (fun l => ({ s with flt.dlog := l } : State)) (headWrite_refuses hover))
  · exact next_of_reaches hreach (congrArg (fun l => ({ s with flt.jlog := l } : State)) (headWrite_frees hfit))
  · exact next_of_reaches hreach (congrArg (fun l => ({ s with flt.jlog := l } : State)) (headWrite_refuses hover))

/-! ## Ownership (R427) -/

section Ownership
variable {s : State}

/-- The job queues' waiting records, discarded one queue after another. -/
theorem queueAt_discardAll {q : Nat} (hq : 16 ≤ q) : queueAt ((List.range 16).foldl (fun s q => discardWaiting q s) s) q = queueAt s q := by
  refine List.foldlRecOn (motive := fun u => queueAt u q = queueAt s q) _ _ rfl fun u hu k hk => ?_
  have hne : q ≠ k := by have := List.mem_range.1 hk; omega
  rw [discardWaiting, queueAt_modQueue, if_neg hne]
  exact hu

/-- What discarding the waiting records of queues leaves. -/
theorem discardAll_host_only : ∃ host, (List.range 16).foldl (fun s q => discardWaiting q s) s = { s with host := host } :=
  List.foldlRecOn (motive := fun u => ∃ host, u = { s with host := host }) _ _ ⟨_, rfl⟩ fun u hu k _ => by
    obtain ⟨host, rfl⟩ := hu
    exact ⟨_, rfl⟩

/-- The state without the job's marks, its queues as they are left. -/
theorem clearJob_eq : ∃ host : HostBlk, clearJob s = { s with
    roll.entries := [], rng.seed := 0, rng.base := [], flt.jlog := {}, host := host } ∧ host.evq = 0 := by
  obtain ⟨host, hhost⟩ := discardAll_host_only (s := s)
  rw [clearJob, hhost]
  exact ⟨_, rfl, rfl⟩

theorem queueAt_clearJob (q : Nat) : queueAt (clearJob s) q = if q < 16 then {} else queueAt s q := by
  have hfilter (t : Table Queue) : tget ({} : Queue) (t.filter fun e => 16 ≤ e.1) q = if q < 16 then {} else tget {} t q := by
    have hfind := tfind_filter_index t q (fun i => decide (16 ≤ i))
    simp only [tget, hfind, decide_eq_true_eq]
    by_cases hq : q < 16
    · rw [if_neg (Nat.not_le.2 hq), if_pos hq]
      rfl
    · rw [if_pos (Nat.not_lt.1 hq), if_neg hq]
  have hread : queueAt (clearJob s) q =
      if q < 16 then {} else queueAt ((List.range 16).foldl (fun s q => discardWaiting q s) s) q := by
    rw [clearJob]
    dsimp only
    generalize (List.range 16).foldl (fun s q => discardWaiting q s) s = u
    exact hfilter u.host.queues
  rw [hread]
  split_ifs with hq
  · rfl
  · exact queueAt_discardAll (Nat.not_lt.1 hq)

end Ownership

/-- Settles O15: GRANT leaves what `clearJob_eq` and `queueAt_clearJob` say; RELEASE by its definition. -/
theorem ownershipChanges : Obligations.OwnershipChanges := by
  intro s jobid hup hjob
  have hreach : Reaches s .priv (secBase + 0x18) := reaches_priv hup
  have hmod : jobid % 2 ^ 32 = jobid := Nat.mod_eq_of_lt hjob
  refine ⟨fun hgrant => ?_, fun hrelease => ?_⟩
  · have hunowned : s.sec.owned = false := by simp_all [grantOk]
    have heffect : jobWrite true (jobid % 2 ^ 32) s = { clearJob s with sec.owned := true, sec.jobid := jobid } := by
      rw [hmod]
      simp [jobWrite, hunowned, hgrant]
    have hqueues := queueAt_clearJob (s := s)
    obtain ⟨host, hclear, hevq⟩ := clearJob_eq (s := s)
    rw [hclear] at heffect hqueues
    exact ⟨_, next_of_reaches hreach heffect, rfl, rfl, rfl, rfl, rfl, hevq, fun q hq => (hqueues q).trans (if_pos hq),
      fun q hq => (hqueues q).trans (if_neg hq.not_gt), rfl, rfl, rfl, rfl, rfl⟩
  · have howned : s.sec.owned = true := by simp_all [releaseOk]
    refine next_of_reaches hreach ?_
    simp [jobWrite, howned, hrelease]

end Sys2Proof.Machine
end

section
/-! PROOFS. Power state commands and transitions, and the statement of O7. -/

namespace Sys2Proof.Machine

/-! ## State commands (R409 to R411, R421) -/

section StateCommands
variable {s : State} {target : PState} {tag : Nat}

theorem dropMoves_of_no_trip (htrip : s.pwr.tripped = false) : dropMoves s = s := by simp [dropMoves, htrip]

/-- A state command that meets its preconditions, with nothing moving. -/
theorem stateCommand_starts (hunit : unitStopped s 8 4 = false) (hmoving : s.pwr.moving = none) (htrip : s.pwr.tripped = false)
    (hstill : yardsMoving s = false) (hok : stateAllowed target s = true) :
    stateCommand target tag s = { losesAtStart target s with
      pwr.moving := some target, pwr.tag := tag, pwr.result := 0 } := by
  simp [stateCommand, hunit, hmoving, htrip, hstill, hok, startState, dropMoves_of_no_trip]

/-- A state command that fails a precondition, with nothing moving. -/
theorem stateCommand_refuses (hunit : unitStopped s 8 4 = false) (hmoving : s.pwr.moving = none) (hstill : yardsMoving s = false)
    (hbad : stateAllowed target s = false) : stateCommand target tag s = powerRefused (stateOp target) tag s := by
  simp [stateCommand, hunit, hmoving, hstill, hbad]

/-- A refused command raises POWER_COMMAND_REFUSED and shows RESULT STATE. -/
theorem exists_powerRefused (op tag : Nat) (s : State) : ∃ r : FRec, r.code = 0x0703 ∧ powerRefused op tag s =
    { s with pwr.tag := tag, pwr.result := 2, flt.raised := s.flt.raised ++ [r] } := ⟨_, rfl, rfl⟩

theorem pwr_losesAtStart : (losesAtStart target s).pwr = s.pwr := by cases target <;> rfl

/-- Every stall has lost its contents. -/
theorem stallP_losesAtStart (htarget : target ≠ .idle) (p : Nat) : stallP (losesAtStart target s) p = clearStall (stallP s p) := by
  cases target with
  | idle => exact absurd rfl htarget
  | standby => exact tget_map rfl s.stalls p
  | aux => exact tget_map rfl s.stalls p

/-- A stall that has lost its contents. -/
theorem lost_of_clearStall {x y : Stall} (hx : x = clearStall y) : x.scratch = [] ∧ x.slots = [] ∧ x.ledger = [] ∧ x.tokens = 0 := by
  subst hx
  exact ⟨rfl, rfl, rfl, rfl⟩

/-- A transition to STANDBY or IDLE, with nothing queued behind it. -/
theorem transitionDone_powered (htarget : target ≠ .aux) (hmoving : s.pwr.moving = some target) (hpend : s.pwr.pend = none)
    (hyards : s.pwr.yardsQueued = none) : transitionDone s = { s with pwr.st := target, pwr.moving := none } := by
  cases target with
  | aux => exact absurd rfl htarget
  | standby => simp [transitionDone, hmoving, startPending, startQueuedYards, hpend, hyards]
  | idle => simp [transitionDone, hmoving, startPending, startQueuedYards, hpend, hyards]

/-- A transition to AUX, with nothing queued behind it. -/
theorem transitionDone_aux (hmoving : s.pwr.moving = some .aux) (hpend : s.pwr.pend = none) (hyards : s.pwr.yardsQueued = none) :
    transitionDone s = auxEntry { s with pwr.st := .aux, pwr.moving := none } := by
  simp [transitionDone, hmoving, startPending, startQueuedYards, auxEntry, hpend, hyards]

end StateCommands

section Refused
variable {s : State} {target : PState} {tag : Nat} (hserves : Serves s 8 4) (hmoving : s.pwr.moving = none)
  (hstill : yardsMoving s = false)
include hserves hmoving hstill

/-- The state that a refused power command leaves. -/
theorem exists_stateCommand_refused (hbad : stateAllowed target s = false) : ∃ r : FRec, r.code = 0x0703 ∧
    (.next (regWrite .priv pwrBase (stateCommand target (tag % 256)) s) : Host.Outcome State Fault Refusal) =
      .next { s with pwr.tag := tag % 256, pwr.result := 2, flt.raised := s.flt.raised ++ [r] } := by
  obtain ⟨r, hcode, hrefused⟩ := exists_powerRefused (stateOp target) (tag % 256) s
  exact ⟨r, hcode, next_of_reaches (reaches_priv hserves.1) ((stateCommand_refuses hserves.2 hmoving hstill hbad).trans hrefused)⟩

/-- The state that a power command leaves which starts. -/
theorem next_stateCommand_started (htrip : s.pwr.tripped = false) (hok : stateAllowed target s = true) :
    (.next (regWrite .priv pwrBase (stateCommand target (tag % 256)) s) : Host.Outcome State Fault Refusal) =
      .next { losesAtStart target s with pwr.moving := some target, pwr.tag := tag % 256, pwr.result := 0 } :=
  next_of_reaches (reaches_priv hserves.1) (stateCommand_starts hserves.2 hmoving htrip hstill hok)

end Refused

/-- Settles O7: a command by what it meets of its preconditions, a transition by its target. -/
theorem powerTransitions : Obligations.PowerTransitions := by
  refine ⟨fun s v tag hserves hv hmoving htrip hstill => ?_, fun s tag hserves hmoving hstill => ?_, fun s hpend hyards => ?_⟩
  · subst hv
    refine ⟨fun hok => ?_, fun hok => ?_, fun hok => ?_⟩
    · exact next_stateCommand_started hserves hmoving hstill htrip hok
    · refine ⟨_, next_stateCommand_started hserves hmoving hstill htrip hok, rfl, rfl, rfl, rfl, fun p => ?_⟩
      exact lost_of_clearStall (stallP_losesAtStart (target := .standby) nofun p)
    · refine ⟨_, next_stateCommand_started hserves hmoving hstill htrip hok, rfl, fun a => rfl, rfl, rfl, fun p => ?_⟩
      exact lost_of_clearStall (stallP_losesAtStart (target := .aux) nofun p)
  · exact ⟨exists_stateCommand_refused hserves hmoving hstill, exists_stateCommand_refused hserves hmoving hstill,
      exists_stateCommand_refused hserves hmoving hstill⟩
  · refine ⟨fun hmoving => congrArg _ (transitionDone_powered (target := .idle) nofun hmoving hpend hyards),
      fun hmoving => congrArg _ (transitionDone_powered (target := .standby) nofun hmoving hpend hyards),
      fun hmoving => ⟨_, congrArg Host.Outcome.next (transitionDone_aux hmoving hpend hyards), rfl, rfl, ?_, rfl, rfl, fun p => ⟨rfl, rfl⟩, rfl, rfl,
        rfl, rfl, rfl, rfl, rfl, rfl, rfl, rfl, rfl, rfl, rfl⟩⟩
    simp [auxEntry, bringAtAux]

end Sys2Proof.Machine
end

section
/-! PROOFS. The yards' moves one by one, and the statement of O8. -/

namespace Sys2Proof.Machine

/-! ## Yards (R413, R414) -/

section Yards
variable {s : State} {tag y : Nat} {set : BitVec 40}

theorem getLsbD_yardBit_any {i : Nat} (hy : y < 40) : (yardBit y).getLsbD i = decide (i = y) := by
  by_cases hi : i < 40
  · exact getLsbD_yardBit hi
  · rw [BitVec.getLsbD_of_ge _ _ (Nat.not_lt.1 hi)]
    simp
    omega

/-- The yards that ungate next: those that wait, with no yard of their barn ungating and none of a lower number waiting. -/
theorem ungating_startUngates {i : Nat} (hi : i < 40) : (startUngates s).pwr.ungating.getLsbD i =
    (s.pwr.ungating.getLsbD i || (s.pwr.waitingY.getLsbD i &&
      !((List.range 10).any fun k => s.pwr.ungating.getLsbD (i / 10 * 10 + k)) &&
      !((List.range (i % 10)).any fun k => s.pwr.waitingY.getLsbD (i / 10 * 10 + k)))) := by
  simp only [startUngates, BitVec.getLsbD_or, getLsbD_yardMask hi]

/-- A yard that starts to ungate no longer waits; no other leaves. -/
theorem ungating_or_waiting_startUngates :
    (startUngates s).pwr.ungating ||| (startUngates s).pwr.waitingY = s.pwr.ungating ||| s.pwr.waitingY := by
  refine BitVec.eq_of_getLsbD_eq fun i hi => ?_
  simp only [startUngates, BitVec.getLsbD_or, BitVec.getLsbD_and, BitVec.getLsbD_not, getLsbD_yardMask hi, hi, decide_true,
    Bool.true_and]
  generalize (List.range 10).any _ = busy
  generalize (List.range (i % 10)).any _ = lower
  cases s.pwr.waitingY.getLsbD i <;> cases busy <;> cases lower <;> simp

/-- With no yard ungating, one of each barn starts. -/
theorem startUngates_one_of_barn (hnone : s.pwr.ungating = 0) {y z : Nat} (hy : y < 40) (hz : z < 40) (hbarn : y / 10 = z / 10)
    (hys : (startUngates s).pwr.ungating.getLsbD y = true) (hzs : (startUngates s).pwr.ungating.getLsbD z = true) : y = z := by
  have least {a b : Nat} (ha : (startUngates s).pwr.ungating.getLsbD a = true) (hb : (startUngates s).pwr.ungating.getLsbD b = true)
      (ha40 : a < 40) (hb40 : b < 40) (hab : a / 10 = b / 10) : ¬ a < b := by
    intro hlt
    rw [ungating_startUngates ha40, hnone] at ha
    rw [ungating_startUngates hb40, hnone] at hb
    simp only [BitVec.ofNat_eq_ofNat, BitVec.getLsbD_zero, Bool.false_or, Bool.and_eq_true, Bool.not_eq_true', List.any_eq_false,
      List.mem_range] at ha hb
    have hwait := hb.2 (a % 10) (by omega)
    rw [← hab, Nat.div_add_mod' a 10] at hwait
    exact hwait ha.1.1
  have h1 := least hys hzs hy hz hbarn
  have h2 := least hzs hys hz hy hbarn.symm
  omega

theorem stallP_clearYards (mask : BitVec 40) (p : Nat) : stallP (clearYards mask s) p =
    if mask.getLsbD (yardOf p) then clearStall (stallP s p) else stallP s p := by
  have hmap : (clearYards mask s).stalls =
      s.stalls.map fun e => (e.1, if mask.getLsbD (yardOf e.1) then clearStall e.2 else e.2) :=
    List.map_congr_left fun e _ => by split_ifs <;> rfl
  rw [stallP, hmap, tget, tfind_map s.stalls (fun p x => if mask.getLsbD (yardOf p) then clearStall x else x), stallP, tget]
  cases tfind s.stalls p with
  | none => simp only [Option.map_none, Option.getD_none]; split_ifs <;> rfl
  | some x => rfl

/-- YARDS with no yard in motion and every yard to gate free. -/
theorem startYards_from_rest (hon : barnsOn s = true) (htrip : s.pwr.tripped = false) (hg : s.pwr.gating = 0) (hu : s.pwr.ungating = 0)
    (hw : s.pwr.waitingY = 0) (hpend : s.pwr.pendY = 0)
    (hfree : ∀ y, y < 40 → s.pwr.yardOn.getLsbD y = true → set.getLsbD y = false → yardFree s y = true) :
    startYards set tag s = startUngates { clearYards (s.pwr.yardOn &&& ~~~set) s with
      pwr.gating := s.pwr.yardOn &&& ~~~set
      pwr.waitingY := set &&& ~~~s.pwr.yardOn
      pwr.pendTag := tag } := by
  have hgates : ((List.range 40).any fun y => (s.pwr.yardOn &&& ~~~set).getLsbD y && !yardFree s y) = false := by
    rw [List.any_eq_false]
    intro y hy
    have hlt := List.mem_range.1 hy
    have hyfree := hfree y hlt
    simp [hlt] at hyfree ⊢
    exact hyfree
  have hall (x : BitVec 40) : x &&& ~~~(0 : BitVec 40) = x := (congrArg (x &&& ·) BitVec.not_zero).trans BitVec.and_allOnes
  simp only [startYards, hg, hu, hw, BitVec.or_self, hall, hon, htrip, hgates, not_true, Bool.false_eq_true, or_self, if_false]
  simp [clearYards, hg, hw, hpend]

theorem yardsCommand_from_rest (hunit : unitStopped s 8 4 = false) (hmoving : s.pwr.moving = none) : yardsCommand tag s =
    startYards s.pwr.yardSet tag { s with pwr.tag := tag, pwr.result := 0 } := by
  simp [yardsCommand, hunit, hmoving]

/-- A yard with nothing queued behind its move. -/
theorem afterYard_alone {u : State} (hpendY : u.pwr.pendY = 0) (hpend : u.pwr.pend = none) : afterYard (startPendingYard y u) = u := by
  simp [startPendingYard, hpendY, afterYard, startPending, hpend]

theorem gateDone_alone (hgates : s.pwr.gating.getLsbD y = true) (hpendY : s.pwr.pendY = 0) (hpend : s.pwr.pend = none) :
    gateDone y s = { s with pwr.gating := s.pwr.gating &&& ~~~yardBit y, pwr.yardOn := s.pwr.yardOn &&& ~~~yardBit y } := by
  rw [gateDone, if_neg (by simp [hgates])]
  exact afterYard_alone (u := { s with
    pwr.gating := s.pwr.gating &&& ~~~yardBit y, pwr.yardOn := s.pwr.yardOn &&& ~~~yardBit y }) hpendY hpend

theorem ungateDone_alone (hungates : s.pwr.ungating.getLsbD y = true) (hpendY : s.pwr.pendY = 0) (hpend : s.pwr.pend = none) :
    ungateDone y s = startUngates (clearYards (yardBit y) { s with
      pwr.ungating := s.pwr.ungating &&& ~~~yardBit y, pwr.yardOn := s.pwr.yardOn ||| yardBit y }) := by
  rw [ungateDone, if_neg (by simp [hungates])]
  exact afterYard_alone (u := startUngates (clearYards (yardBit y) { s with
    pwr.ungating := s.pwr.ungating &&& ~~~yardBit y, pwr.yardOn := s.pwr.yardOn ||| yardBit y })) hpendY hpend

end Yards

/-- Settles O8: YARDS from rest by `startYards_from_rest`, each yard's move by what ends it. -/
theorem yardMoves : Obligations.YardMoves := by
  refine ⟨fun s tag hserves hon htrip hg hu hw hpend hfree => ?_, fun s y hy hpendY hpend => ⟨fun hgates => ?_, fun hungates hwaits => ?_⟩⟩
  · have hmoving : s.pwr.moving = none := by simp_all [barnsOn]
    have heffect := (yardsCommand_from_rest (tag := tag % 256) hserves.2 hmoving).trans
      (startYards_from_rest (s := { s with pwr.tag := tag % 256, pwr.result := 0 }) hon htrip hg hu hw hpend hfree)
    refine ⟨_, next_of_reaches (reaches_priv hserves.1) heffect, rfl, rfl, rfl, ?_, rfl, ?_, rfl, rfl, rfl⟩
    · rw [ungating_or_waiting_startUngates]
      simp [clearYards, hu]
    · exact fun y z hy hz hbarn => startUngates_one_of_barn (by simp [clearYards, hu]) hy hz hbarn
  · exact congrArg _ (gateDone_alone hgates hpendY hpend)
  · refine ⟨_, congrArg Host.Outcome.next (ungateDone_alone hungates hpendY hpend), rfl, ?_, fun p hp => ?_, fun p hp => ?_, rfl⟩
    · rw [ungating_startUngates hy]
      simp only [clearYards, BitVec.getLsbD_and, BitVec.getLsbD_not, getLsbD_yardBit hy, hwaits, decide_true, Bool.not_true,
        Bool.and_false, Bool.false_and, Bool.or_false]
    · have hstall := stallP_clearYards (s := s) (yardBit y) p
      rw [getLsbD_yardBit_any hy, if_pos (decide_eq_true hp)] at hstall
      obtain ⟨hscratch, hslots, hledger, -⟩ := lost_of_clearStall hstall
      exact ⟨hscratch, hslots, hledger⟩
    · have hstall := stallP_clearYards (s := s) (yardBit y) p
      rwa [getLsbD_yardBit_any hy, if_neg (by simpa using hp)] at hstall

end Sys2Proof.Machine
end

section
/-! PROOFS. FUSE_READ, the self-test of the stalls and its end, and the statement of O9. -/

namespace Sys2Proof.Machine

/-! ## FUSE_READ (R389, R392, R393) -/

section FuseRead
variable {s : State} (hserves : Serves s 9 0) (hrun : s.bring.run = none) (hended : s.bring.ended = false) (tag : Nat) {a b : List Byte}

/-- The steering that a copy gives a stall. -/
def fused (c : List Byte) (p : Nat) : Pst → Pst := fun x =>
  { x with rs0 := bits (fuseStall c p) 6 0, rs1 := bits (fuseStall c p) 13 7, cs0 := bits (fuseStall c p) 20 14,
           cs1 := bits (fuseStall c p) 27 21, fuseBad := (fuseStall c p).testBit 28, retired := (fuseStall c p).testBit 28 }

theorem tget_fusePst (c : List Byte) (t : Table Pst) {p : Nat} (hp : p < 1280) : tget {} (fusePst c t) p = fused c p (tget {} t p) := by
  have hfold : fusePst c t = (List.range 1280).foldl (fun t p => tmod {} t p (fused c p)) t := by
    unfold fusePst fused
    rfl
  rw [hfold, tget_foldl_tmod t p (f := fused c) (fun _ _ => rfl), if_pos (List.mem_range.2 hp)]

theorem pstAt_fuseApply (c : List Byte) {p : Nat} (hp : p < 1280) :
    pstAt (bringDone tag 0 (fuseApply c s)) p = fused c p (pstAt s p) := by
  rw [pstAt_bringDone, pstAt, pstAt, ← tget_fusePst c s.bring.pst hp, fuseApply]

include hserves hrun hended

theorem exec_fuseRead_copyA (hphase : s.bring.phase = .fwOk) (hcrc : fuseCrcOk a = true) (hmap : fuseMapOk a = true) :
    exec (.bringFuseRead .priv tag a b) s = .next (bringDone (tag % 256) 0 (fuseApply a s)) := by
  refine congrArg Host.Outcome.next ((bring_runs hserves hrun hended _ (by simp [hphase]) (by simp [hphase])).trans ?_)
  simp [hcrc, hmap]

theorem exec_fuseRead_refused (hphase : s.bring.phase = .fwOk) (ha : fuseCrcOk a = false) (hb : fuseCrcOk b = false) :
    exec (.bringFuseRead .priv tag a b) s = .next (refuse 0x0A03 (tag % 256) detN s) := by
  refine congrArg Host.Outcome.next ((bring_runs hserves hrun hended _ (by simp [hphase]) (by simp [hphase])).trans ?_)
  simp [ha, hb]

end FuseRead

/-- Every gate is disabled. -/
theorem gateAt_gatesOff (s : State) (g : Nat) : (gateAt (gatesOff s) g).en = false := by
  rw [gateAt, gatesOff]
  dsimp only
  rw [tget_map (f := fun x => { x with en := false, st := .off, keep := false }) rfl s.gate.gates g]

/-! ## SELFTEST and its reports (R394 to R396) -/

/-- A stall whose test has come to a state. -/
def tested (v : TestState) : Pst → Pst := fun x => { x with test := v }

/-- A stall whose test an ABORT cuts short. -/
def aborted : Pst → Pst := fun x => if x.test == .running then tested .failOther x else x

theorem test_aborted (x : Pst) : (aborted x).test = if x.test = .running then .failOther else x.test := by
  by_cases hrunning : x.test = .running <;> simp [aborted, tested, hrunning]

theorem pstAt_of_pst {s t : State} (hpst : t.bring.pst = s.bring.pst) (p : Nat) : pstAt t p = pstAt s p := by rw [pstAt, pstAt, hpst]

section Selftest
variable {s : State} {tag p : Nat} {r : TestResult}

theorem exec_selftest_starts (hserves : Serves s 9 0) (hrun : s.bring.run = none) (hended : s.bring.ended = false)
    (hphase : s.bring.phase = .fused) (hwave : waveInvalid (markedStalls s) = false)
    (hready : ∀ p ∈ markedStalls s, yardUp s (yardOf p) = true ∧ (pstAt s p).test = .untested) :
    exec (.bringSelftest .priv tag) s = .next { s with
      bring.run := some (.selftest, tag % 256)
      bring.wave := markedStalls s
      bring.pst := (markedStalls s).foldl (fun t p => tmod {} t p (tested .running)) s.bring.pst } := by
  refine congrArg Host.Outcome.next ((bring_runs hserves hrun hended _ (by simp [hphase]) (by simp [hphase])).trans ?_)
  have hnone : ((markedStalls s).any fun p => !yardUp s (yardOf p) || (pstAt s p).test ≠ .untested) = false := by
    rw [List.any_eq_false]
    intro p hp
    obtain ⟨hup, htest⟩ := hready p hp
    simp [hup, htest]
  simp only [hwave, hnone, Bool.false_eq_true, if_false]
  rfl

theorem testOf_ne_running : testOf r ≠ .running := by cases r <;> decide

variable (hrun : s.bring.run = some (.selftest, tag)) (hunit : unitStopped s 9 0 = false)
include hrun hunit

theorem bringRun_of_running : bringRun s = some (.selftest, tag) := by rw [bringRun, hunit, if_neg Bool.false_ne_true, hrun]

/-- The last report ends the wave. -/
theorem exec_stallReport_last (htest : (pstAt s p).test = .running) (hstop : (pstAt s p).drillStop = false)
    (hlast : ∀ q ∈ s.bring.wave, q ≠ p → (pstAt s q).test ≠ .running) :
    exec (.selftestStallReport p r) s = .next (bringDone tag 0 { modPst p (tested (testOf r)) s with
      bring.run := none, bring.wave := [], bring.phase := .testing }) := by
  have hends (u : State) (hu : u = modPst p (tested (testOf r)) s) : waveEnds u = bringDone tag 0 { u with
      bring.run := none, bring.wave := [], bring.phase := .testing } := by
    have hnone : (u.bring.wave.any fun q => (pstAt u q).test == .running) = false := by
      subst hu
      rw [List.any_eq_false]
      intro q hq
      rw [pstAt_modPst]
      split_ifs with hqp
      · simpa [tested] using testOf_ne_running
      · simpa using hlast q hq hqp
    have hbring : bringRun u = some (.selftest, tag) := by subst hu; exact bringRun_of_running hrun hunit
    rw [waveEnds, hbring]
    simp only [hnone, Bool.false_eq_true, if_false]
  have hreport : stallReport p r s = waveEnds (modPst p (tested (testOf r)) s) := by
    rw [stallReport, bringRun_of_running hrun hunit]
    simp only [htest, hstop]
    rfl
  exact congrArg Host.Outcome.next (hreport.trans (hends _ rfl))

theorem bringAbort_ends (ctag : Nat) : bringAbort ctag s = bringDone ctag 0 { s with
    bring.run := none, bring.wave := [], bring.phase := .testing
    bring.pst := s.bring.pst.map fun e => (e.1, aborted e.2) } := by
  rw [bringAbort, bringRun_of_running hrun hunit]
  rfl

end Selftest

/-- Settles O9: FUSE_READ by the copy it takes, SELFTEST by its wave, a report by whether it is the last, ABORT by `bringAbort_ends`. -/
theorem stallQualification : Obligations.StallQualification := by
  refine ⟨fun s tag a b hserves hrun hended => ⟨fun hphase hcrc hmap => ?_, fun hphase hwave hready => ?_⟩,
    fun s tag a b hserves hrun hended hphase ha hb => ?_, fun s tag ctag p r hrun hunit => ⟨fun htest hstop hlast => ?_, fun hserves => ?_⟩⟩
  · refine ⟨_, exec_fuseRead_copyA hserves hrun hended tag hphase hcrc hmap, rfl, rfl, rfl, fun p hp => ?_, rfl, rfl, rfl⟩
    rw [pstAt_fuseApply _ a hp]
    exact ⟨rfl, rfl, rfl, rfl, rfl⟩
  · refine ⟨_, exec_selftest_starts hserves hrun hended hphase hwave hready, rfl, fun p => ?_, hphase, rfl, rfl⟩
    rw [pstAt, tget_foldl_tmod s.bring.pst p (f := fun _ => tested .running) (fun _ _ => rfl)]
    split_ifs <;> rfl
  · exact ⟨_, exec_fuseRead_refused hserves hrun hended tag hphase ha hb, rfl, rfl, rfl, rfl, gateAt_gatesOff _, _, rfl, rfl⟩
  · refine ⟨_, exec_stallReport_last hrun hunit htest hstop hlast, ?_, fun q hq => ?_, rfl, rfl, rfl, rfl, rfl, rfl⟩
    · refine (congrArg Pst.test (pstAt_of_pst (s := modPst p (tested (testOf r)) s) rfl p)).trans ?_
      rw [pstAt_modPst, if_pos rfl]
      rfl
    · refine (pstAt_of_pst (s := modPst p (tested (testOf r)) s) rfl q).trans ?_
      rw [pstAt_modPst, if_neg hq]
  · refine ⟨_, next_of_reaches (reaches_priv hserves.1) (bringAbort_ends hrun hunit (ctag % 256)), rfl, rfl, rfl, rfl, fun q => ?_, rfl, rfl⟩
    exact (congrArg Pst.test (tget_map (f := aborted) rfl s.bring.pst q)).trans (test_aborted _)

end Sys2Proof.Machine
end

section
/-! PROOFS. RECONCILE of a device without retired stalls (R14, R397, R398). -/

namespace Sys2Proof.Machine

/-! ## The logical map of a device without retired stalls (R14, R397, R398) -/

theorem homeOf_inj {m n : Nat} (h : homeOf m = homeOf n) : m = n := by
  unfold homeOf at h
  omega

theorem homeOf_lt {n : Nat} (hn : n < 1200) : homeOf n < 1280 := by
  unfold homeOf
  omega

/-- The logical stall whose home a position is. -/
def atHome (p : Nat) : Nat := 30 * (p / 32) + p % 32

theorem atHome_homeOf (n : Nat) : atHome (homeOf n) = n := by
  unfold atHome homeOf
  omega

section AllHealthy
variable {t : Table Pst} (hhealthy : ∀ p, p < 1280 → healthy t p = true)
include hhealthy

/-- A logical stall takes its home where it is free. -/
theorem place_home {used : List Nat} {n : Nat} (hn : n < 1200) (hfree : homeOf n ∉ used) : place t used n = some (homeOf n) := by
  rw [place, candidates]
  simp [hhealthy _ (homeOf_lt hn), hfree]

/-- Every logical stall is mapped to its home. -/
theorem buildMap_homes : buildMap t = (List.range 1200).map fun n => (n, homeOf n) := by
  have hfold (k : Nat) (hk : k ≤ 1200) : (List.range k).foldl (fun m n =>
      match place t (m.map (·.2)) n with
      | some p => m ++ [(n, p)]
      | none => m) [] = (List.range k).map fun n => (n, homeOf n) := by
    induction k with
    | zero => rfl
    | succ k ih =>
      have hfree : homeOf k ∉ ((List.range k).map fun n => (n, homeOf n)).map (·.2) := by
        simp only [List.map_map, List.mem_map, List.mem_range, Function.comp_apply, not_exists, not_and]
        exact fun n hn hhome => hn.ne (homeOf_inj hhome)
      rw [List.range_succ, List.foldl_append, ih (by omega), List.map_append]
      simp only [List.foldl_cons, List.foldl_nil, place_home hhealthy (by omega : k < 1200) hfree]
      rfl
  exact hfold 1200 le_rfl

end AllHealthy

/-- A position that serves the logical stall whose home it is. -/
def serving (p : Nat) : Pst → Pst := fun x => { x with logical := some (atHome p) }

theorem setMap_homes (t : Table Pst) (p : Nat) : tget {} (setMap ((List.range 1200).map fun n => (n, homeOf n)) t) p =
    if p ∈ (List.range 1200).map homeOf then serving p (tget {} t p) else tget {} t p := by
  have hserve : setMap ((List.range 1200).map fun n => (n, homeOf n)) t =
      ((List.range 1200).map homeOf).foldl (fun t p => tmod {} t p (serving p)) t := by
    rw [setMap, List.foldl_map, List.foldl_map]
    unfold serving
    simp only [atHome_homeOf]
  rw [hserve, tget_foldl_tmod t p (f := serving) (fun _ _ => rfl)]

/-! ## RECONCILE (R397) -/

section Reconcile
variable {s : State} (hstalls : ∀ p, p < 1280 → (pstAt s p).fuseBad = false ∧ (pstAt s p).test = .pass)
include hstalls

/-- RECONCILE's marks of the stalls. -/
def reconciledPst (s : State) : Table Pst := (List.range 1280).foldl (fun t p => tmod {} t p reconciled) s.bring.pst

omit hstalls in
theorem tget_reconciledPst (p : Nat) :
    tget {} (reconciledPst s) p = if p < 1280 then reconciled (pstAt s p) else pstAt s p := by
  rw [reconciledPst, tget_foldl_tmod s.bring.pst p (f := fun _ => reconciled) (fun _ _ => rfl)]
  simp only [List.mem_range]
  rfl

/-- What RECONCILE leaves where no stall is retired. -/
def mappedHomes (tag : Nat) (s : State) : State :=
  bringDone (tag % 256) 0 { s with
    bring.pst := setMap ((List.range 1200).map fun n => (n, homeOf n)) (reconciledPst s), bring.phase := .reconciled }

omit hstalls in
theorem pstAt_reconciled (tag result : Nat) (phase : Phase) (t : Table Pst) (s : State) (p : Nat) :
    pstAt (bringDone tag result { s with bring.pst := t, bring.phase := phase }) p = tget {} t p := rfl

omit hstalls in
theorem pstAt_mappedHomes (tag : Nat) (s : State) (p : Nat) : pstAt (mappedHomes tag s) p =
    if p ∈ (List.range 1200).map homeOf then serving p (tget {} (reconciledPst s) p) else tget {} (reconciledPst s) p :=
  (pstAt_reconciled (tag % 256) 0 .reconciled _ s p).trans (setMap_homes (reconciledPst s) p)

theorem healthy_reconciledPst {p : Nat} (hp : p < 1280) : healthy (reconciledPst s) p = true := by
  obtain ⟨hfuse, htest⟩ := hstalls p hp
  rw [healthy, tget_reconciledPst, if_pos hp]
  simp [reconciled, hfuse, htest, testFailed]

theorem no_barn_short : ([0, 1, 2, 3].find? fun b =>
    ((List.range 320).filter fun i => healthy (reconciledPst s) (320 * b + i)).length < 300) = none := by
  rw [List.find?_eq_none]
  intro b hb
  have hall : ((List.range 320).filter fun i => healthy (reconciledPst s) (320 * b + i)) = List.range 320 := by
    rw [List.filter_eq_self]
    intro i hi
    have hi := List.mem_range.1 hi
    refine healthy_reconciledPst hstalls ?_
    simp at hb
    omega
  rw [hall]
  simp

theorem no_stall_disagrees : ((List.range 1280).filter fun p => disagrees (pstAt s p)) = [] := by
  rw [List.filter_eq_nil_iff]
  intro p hp
  obtain ⟨hfuse, htest⟩ := hstalls p (List.mem_range.1 hp)
  simp [disagrees, hfuse, htest, testFailed]

theorem exec_reconcile_homes {tag : Nat} (hserves : Serves s 9 0) (hrun : s.bring.run = none) (hended : s.bring.ended = false)
    (hphase : s.bring.phase = .testing) : exec (.bringReconcile .priv tag) s = .next (mappedHomes tag s) := by
  have htested : ((List.range 1280).all fun p => (pstAt s p).fuseBad || (pstAt s p).test ≠ .untested) = true := by
    rw [List.all_eq_true]
    intro p hp
    simp [(hstalls p (List.mem_range.1 hp)).2]
  refine congrArg Host.Outcome.next ((bring_runs hserves hrun hended _ (by simp [hphase]) 
    (by rw [Bool.and_eq_true]; exact ⟨by simp [hphase], htested⟩)).trans ?_)
  have hshort := no_barn_short hstalls
  have hdisagree := no_stall_disagrees hstalls
  have hmap := buildMap_homes fun p hp => healthy_reconciledPst hstalls (p := p) hp
  unfold mappedHomes
  unfold reconciledPst at hshort hmap ⊢
  simp only [hshort, hdisagree, hmap, List.foldl_nil]

end Reconcile

/-- Settles O10: every home position is healthy and free when its logical stall is placed. -/
theorem reconcileMapsHomes : Obligations.ReconcileMapsHomes := by
  intro s tag hserves hrun hended hphase hunmapped hstalls
  refine ⟨_, exec_reconcile_homes hstalls hserves hrun hended hphase, rfl, rfl, fun n hn => ?_, fun p hp => ?_, rfl, rfl⟩
  · rw [← homeOf, pstAt_mappedHomes, if_pos (List.mem_map_of_mem (List.mem_range.2 hn))]
    exact congrArg some (atHome_homeOf n)
  · have haway : p ∉ (List.range 1200).map homeOf := by
      simp only [List.mem_map, List.mem_range, not_exists, not_and]
      intro n hn hhome
      unfold homeOf at hhome
      omega
    rw [pstAt_mappedHomes, if_neg haway, tget_reconciledPst]
    split_ifs
    · exact hunmapped p
    · exact hunmapped p

end Sys2Proof.Machine
end

section
/-! PROOFS. FW_BCAST, LOFT_TEST and LINK_QUAL (R399, R401 to R404). -/

namespace Sys2Proof.Machine

/-! ## FW_BCAST ends (R399) -/

theorem failsOf_nil (p : Nat) : failsOf [] p = 0 := rfl

/-- A stall whose checks all pass sends no FW_STALL_DIGEST. -/
theorem digestFails_nil (lo hi : Nat) (s : State) (p : Nat) : digestFails lo hi [] s p = s := by
  simp [digestFails, failsOf_nil]

theorem foldl_digestFails_nil (lo hi : Nat) (s : State) (l : List Nat) : l.foldl (digestFails lo hi []) s = s := by
  induction l with
  | nil => rfl
  | cons p l ih => rw [List.foldl_cons, digestFails_nil, ih]

/-- The stalls that take the broadcast image: they serve a logical stall and no error in drill mode has stopped them. -/
def takers (s : State) : List Nat := (s.bring.pst.filter fun e => e.2.logical.isSome && !e.2.drillStop).map (·.1)

/-- A stall that holds the image. -/
def loaded (_ : Nat) : Pst → Pst := fun x => { x with fw := true }

/-- What a broadcast that no stall fails leaves. -/
def broadcastDone (tag : Nat) (s : State) : State :=
  bringDone tag 0 { s with
    bring.run := none, bring.phase := .broadcast
    bring.pst := (takers s).foldl (fun t p => tmod {} t p (loaded p)) s.bring.pst }

theorem pstAt_broadcastDone (tag p : Nat) (s : State) :
    pstAt (broadcastDone tag s) p = if p ∈ takers s then loaded p (pstAt s p) else pstAt s p :=
  tget_foldl_tmod s.bring.pst p (f := loaded) (fun _ _ => rfl) (takers s)

theorem mem_takers {s : State} {p : Nat} (hserves : (pstAt s p).logical ≠ none) (hstop : (pstAt s p).drillStop = false) :
    p ∈ takers s := by
  unfold pstAt tget at hserves hstop
  cases hfind : tfind s.bring.pst p with
  | none => simp [hfind] at hserves
  | some x =>
    rw [hfind] at hserves hstop
    refine List.mem_map.2 ⟨(p, x), List.mem_filter.2 ⟨mem_of_tfind hfind, ?_⟩, rfl⟩
    simpa [Option.isSome_iff_ne_none] using ⟨hserves, hstop⟩

theorem not_mem_takers {s : State} {p : Nat} (hstop : ∀ e ∈ s.bring.pst, e.1 = p → e.2.drillStop = true) : p ∉ takers s := by
  intro hmem
  obtain ⟨e, hfilter, rfl⟩ := List.mem_map.1 hmem
  obtain ⟨he, htakes⟩ := List.mem_filter.1 hfilter
  simp [hstop e he rfl] at htakes

/-- A broadcast without a digest failure leads to BROADCAST. -/
theorem bcastEnds_nil {s : State} {tag : Nat} (hrun : s.bring.run = some (.fwBcast, tag)) (hunit : unitStopped s 9 0 = false)
    (hphase : s.bring.phase = .reconciled) : bcastEnds [] s = broadcastDone tag s := by
  have hcmd : bringRun s = some (.fwBcast, tag) := by rw [bringRun, hunit, if_neg Bool.false_ne_true, hrun]
  simp only [bcastEnds, hcmd, foldl_digestFails_nil, hphase]
  have hnone (l : List Nat) : (l.filter fun p => decide (4 ≤ failsOf [] p)) = [] := List.filter_false l
  have hback : (Phase.reconciled == .drillReturn) = false := by decide
  simp only [hnone, hback, List.map_nil, List.mergeSort_nil, List.foldl_nil, moveAll]
  rfl

/-! ## LOFT_TEST and LINK_QUAL end (R401 to R404) -/

theorem loftTestEnds_nil {s : State} {tag : Nat} (hrun : s.bring.run = some (.loftTest, tag))
    (hspare : exhausted s.bring.fuseRemap [] = none) : loftTestEnds [] [] s = bringDone tag 0 { s with
      bring.run := none, bring.volRemap := [], bring.spareBad := [], bring.loftTested := true, bring.phase := .loftOk
      loft.mem := [], loft.poison := [] } := by
  simp only [loftTestEnds, hrun, List.filter_nil, List.append_nil, hspare]

/-- The results of a LINK_QUAL of the internal links alone, which pass. -/
def cleanLinks : LinkResults := { engines := [], ringFail := 0, hubFail := 0, vlinkFail := [] }

theorem qualEnds_internal {s : State} {tag : Nat} (hrun : s.bring.run = some (.linkQual 0x1000, tag)) (hphase : s.bring.phase = .loftOk)
    (hhost : s.bring.hostPass = true) (hstore : s.bring.storePass = true) : qualEnds cleanLinks s = bringDone tag 0 { s with
      bring.run := none, bring.intDone := true, bring.ringFail := 0, bring.hubFail := 0, bring.vlinkFail := []
      bring.intPass := true, bring.phase := .qualified } := by
  have hinternal : (0x1000 : Nat).testBit 12 = true := by decide
  simp only [qualEnds, hrun, cleanLinks, List.filter_nil, List.foldl_nil, List.any_nil, hinternal, hphase, hhost, hstore]
  simp

/-- Settles O11: without a failure the tasks' checks leave nothing to retire or to refuse. -/
theorem bringUpTasks : Obligations.BringUpTasks := by
  refine ⟨fun s tag arg hserves hrun hended => ⟨fun hphase => ?_, fun hphase htested hready hbarns => ?_, fun hphase harg => ?_⟩,
    fun s tag => ⟨fun hrun hunit hphase => ?_, fun hrun hspare => ?_⟩, fun s tag hrun hphase hhost hstore => ?_⟩
  · exact congrArg Host.Outcome.next (bring_runs hserves hrun hended _ (by simp [hphase]) (by simp [hphase]))
  · exact congrArg Host.Outcome.next (bring_runs hserves hrun hended _ (by simp [hphase]) (by simp [hphase, htested, hready, hbarns]))
  · exact congrArg Host.Outcome.next ((bring_runs hserves hrun hended _ (by simp [hphase]) (by simp [hphase])).trans (if_neg harg))
  · refine ⟨_, congrArg Host.Outcome.next (bcastEnds_nil hrun hunit hphase), rfl, rfl, rfl, fun p => ?_, fun p hserves hstop => ?_,
      fun p hstop => ?_, rfl⟩
    · rw [pstAt_broadcastDone]
      split_ifs <;> rfl
    · rw [pstAt_broadcastDone, if_pos (mem_takers hserves hstop)]
      rfl
    · rw [pstAt_broadcastDone, if_neg (not_mem_takers hstop)]
  · exact ⟨_, congrArg Host.Outcome.next (loftTestEnds_nil hrun hspare), rfl, rfl, rfl, fun _ => rfl, rfl, rfl, rfl⟩
  · exact ⟨_, congrArg Host.Outcome.next (qualEnds_internal hrun hphase hhost hstore), rfl, rfl, rfl, rfl, rfl, rfl⟩

end Sys2Proof.Machine
end

section
/-! PROOFS. VERIFY, SVN_COMMIT and the identity tree (R429 to R432). -/

namespace Sys2Proof.Machine

/-! ## SEC_FW_CMD (R429, R430) -/

section Command
variable {s : State} {tag : Nat} (hserves : Serves s 7 0) (hrun : s.sec.run = none)
include hserves hrun

/-- A SEC_FW_CMD runs where none is running. -/
theorem sec_runs (f : State → State) : regWrite .priv (secBase + 8) (secCmd f) s = f s := by
  obtain ⟨hup, hunit⟩ := hserves
  rw [regWrite_priv s _ hup, secCmd, hunit, hrun]
  rfl

/-- What the fetch of a firmware image leaves alone. -/
def FetchKeeps (s t : State) : Prop :=
  t.sec.run = s.sec.run ∧ t.sec.fetchBad = s.sec.fetchBad ∧ t.bring = s.bring ∧ t.flt = s.flt ∧ t.sec.fw = s.sec.fw ∧
    t.sec.epochsBurned = s.sec.epochsBurned

omit hserves hrun in
theorem FetchKeeps.trans {s t u : State} (hst : FetchKeeps s t) (htu : FetchKeeps t u) : FetchKeeps s u := by
  obtain ⟨h1, h2, h3, h4, h5, h6⟩ := hst
  obtain ⟨g1, g2, g3, g4, g5, g6⟩ := htu
  exact ⟨g1.trans h1, g2.trans h2, g3.trans h3, g4.trans h4, g5.trans h5, g6.trans h6⟩

omit hserves hrun in
/-- A read of host memory changes the host block alone. -/
theorem hostRead_eq (addr len : Nat) (use : ReadUse) (s : State) :
    hostRead addr len use s = { s with host := (hostRead addr len use s).host } := by
  unfold hostRead
  split
  · rfl
  · rw [hostSend_eq]

omit hserves hrun in
theorem fetchKeeps_firmwarePump (fuel len : Nat) (s : State) : FetchKeeps s (firmwarePump fuel len s) := by
  induction fuel generalizing s with
  | zero => exact ⟨rfl, rfl, rfl, rfl, rfl, rfl⟩
  | succ fuel ih =>
    rw [firmwarePump]
    split_ifs
    · exact ⟨rfl, rfl, rfl, rfl, rfl, rfl⟩
    · dsimp only
      rw [hostRead_eq]
      refine .trans ?_ (ih _)
      exact ⟨rfl, rfl, rfl, rfl, rfl, rfl⟩

/-- VERIFY in BOOTED starts its fetch. -/
theorem exec_secVerify_booted {len : Nat} (hphase : s.bring.phase = .booted) : exec (.secVerify .priv tag len) s =
    .next (firmwarePump 256 (len % 2 ^ 32) { s with
      sec.run := some (.verify (len % 2 ^ 32), tag % 256), sec.fetched := [], sec.fetchNext := 0, sec.fetchBad := false }) :=
  congrArg Host.Outcome.next ((sec_runs hserves hrun _).trans (by simp [hphase]))

theorem exec_secSvnCommit_above (hphase : fwOnward s = true) (hsvn : fusedSvn s < runningSvn s) :
    exec (.secSvnCommit .priv tag) s = .next { s with sec.run := some (.svnCommit, tag % 256) } :=
  congrArg Host.Outcome.next ((sec_runs hserves hrun _).trans (by simp [hphase, hsvn]))

theorem exec_secSvnCommit_fused (hphase : fwOnward s = true) (hsvn : runningSvn s ≤ fusedSvn s) :
    exec (.secSvnCommit .priv tag) s = .next (secDone (tag % 256) 0 s) :=
  congrArg Host.Outcome.next ((sec_runs hserves hrun _).trans (by simp [hphase, hsvn]))

end Command

/-! ## VERIFY ends (R429, R432) -/

section VerifyEnds
variable {s : State} {tag len : Nat} {burnOk : Bool} (hunit : unitStopped s 7 0 = false)
include hunit

theorem secRun_of_running : secRun s = s.sec.run := by rw [secRun, hunit, if_neg Bool.false_ne_true]

/-- The fuses that SVN_COMMIT burns. -/
theorem svnBurnt_of_running (hrun : s.sec.run = some (.svnCommit, tag)) :
    svnBurnt s = secDone tag 0 { s with sec.svnBurned := s.sec.svnBurned + (runningSvn s - fusedSvn s) } := by
  simp only [svnBurnt, secRun_of_running hunit, hrun]

omit hunit in
theorem fusedSvn_burnt (hfused : fusedSvn s ≤ runningSvn s) (hmax : runningSvn s ≤ 64) :
    fusedSvn (secDone tag 0 { s with sec.svnBurned := s.sec.svnBurned + (runningSvn s - fusedSvn s) }) = runningSvn s := by
  have hsum : fusedSvn (secDone tag 0 { s with sec.svnBurned := s.sec.svnBurned + (runningSvn s - fusedSvn s) }) =
    min 64 (Config.svnFused % 65 + (s.sec.svnBurned + (runningSvn s - fusedSvn s))) := rfl
  have hdef : fusedSvn s = min 64 (Config.svnFused % 65 + s.sec.svnBurned) := rfl
  omega

variable (hrun : s.sec.run = some (.verify len, tag)) (hover : fetchOver len s = true) (hbad : s.sec.fetchBad = false)
  (hheader : fwHeaderOk (fwBytes s) len = true) (hsig : fwSignatureOk (fwBytes s) = true)
include hrun hover hbad hheader hsig

/-- An image that passes its checks starts, or is refused for its version. -/
theorem verifyEnds_checked : verifyEnds burnOk s =
    if byteAt (fwBytes s) 6 < fusedSvn s then secRefuse 0x0602 tag (detU (byteAt (fwBytes s) 6) (fusedSvn s) 0) s
    else fwStart tag burnOk (fwBytes s) s := by
  simp [verifyEnds, secRun_of_running hunit, hrun, hover, hbad, hheader, hsig]

end VerifyEnds

/-- Step 5 of the first VERIFY consumes an epoch. -/
theorem takeEpoch_first {s : State} (hfirst : s.sec.stepFive = false) (hepochs : epochsUsed s < 32768) : takeEpoch true s =
    { s with sec.stepFive := true, sec.epochsBurned := s.sec.epochsBurned + 1, sec.epoch := some (epochsUsed s), sec.epochOk := true } := by
  simp [takeEpoch, hfirst, hepochs]

/-- Settles O13: an image that passes the checks of R429 consumes an epoch and starts, unless its version is below the fused one. -/
theorem firmwareAndFuses : Obligations.FirmwareAndFuses := by
  refine ⟨fun s tag len hserves hrun => ⟨fun hphase => ?_, exec_secSvnCommit_above hserves hrun, exec_secSvnCommit_fused hserves hrun,
      fun hepoch => ?_⟩,
    fun s tag len hunit => ⟨fun hrun hover hbad hheader hsig hsvn hphase hfirst hepochs => ?_, fun hrun hfused hmax => ?_⟩,
    fun s tag len burnOk hunit hrun hover hbad hheader hsig hsvn => ?_⟩
  · obtain ⟨hkrun, hkbad, hkbring, hkflt, hkfw, hkepochs⟩ := fetchKeeps_firmwarePump 256 (len % 2 ^ 32) { s with
      sec.run := some (.verify (len % 2 ^ 32), tag % 256), sec.fetched := [], sec.fetchNext := 0, sec.fetchBad := false }
    exact ⟨_, exec_secVerify_booted hserves hrun hphase, hkrun, hkbad, hkbring, hkflt, hkfw, hkepochs⟩
  · have hunit := hserves.2
    refine congrArg Host.Outcome.next (?_ : treeBuilt s = _)
    simp [treeBuilt, hepoch, hunit]
  · refine ⟨_, congrArg Host.Outcome.next ((verifyEnds_checked hunit hrun hover hbad hheader hsig).trans (if_neg (by omega))), ?_⟩
    rw [fwStart, takeEpoch_first hfirst hepochs]
    refine ⟨?_, rfl, rfl, rfl, rfl, rfl, rfl, rfl, rfl⟩
    simp [secDone, hphase]
  · exact ⟨_, congrArg Host.Outcome.next (svnBurnt_of_running hunit hrun), fusedSvn_burnt hfused hmax, rfl, rfl, rfl, rfl, rfl⟩
  · exact ⟨_, congrArg Host.Outcome.next ((verifyEnds_checked hunit hrun hover hbad hheader hsig).trans (if_pos hsvn)),
      rfl, rfl, rfl, rfl, rfl, _, rfl, rfl⟩

end Sys2Proof.Machine
end

section
/-! PROOFS. Flits, the timeout and the completions of reads (R372 to R376). -/

namespace Sys2Proof.Machine

/-! ## Flits (R372, R373) -/

section Flits
variable (h : HostBlk)

/-- What a flit's SEQ and ACK leave of the host block. -/
def FlitKeeps (h k : HostBlk) : Prop :=
  k.posted = h.posted ∧ k.nonposted = h.nonposted ∧ k.queues = h.queues ∧ k.reads = h.reads ∧ k.tx = h.tx ∧ k.txq = h.txq

theorem flitKeeps_flitAccept (idle : Bool) (seq : Nat) : FlitKeeps h (flitAccept idle seq h) := by
  unfold flitAccept
  split_ifs <;> exact ⟨rfl, rfl, rfl, rfl, rfl, rfl⟩

/-- A flit in order is accepted. -/
theorem flitAccept_next : flitAccept false ((h.rxAck + 1) % 4096) h = { h with rxAck := (h.rxAck + 1) % 4096, rxNak := false } := by
  simp [flitAccept]

/-- A flit past the one in order is refused. -/
theorem flitAccept_past {seq : Nat} (hpast : 1 < (seq + 4096 - h.rxAck) % 4096) (hnear : (seq + 4096 - h.rxAck) % 4096 ≤ 2048)
    (_ : h.rxAck < 4096) : flitAccept false seq h = { h with rxNak := true } := by
  have hnext : seq ≠ (h.rxAck + 1) % 4096 := by omega
  have hrepeat : seq ≠ h.rxAck := by omega
  simp [flitAccept, hnext, hnear, hrepeat]

theorem flitAccept_idle (seq : Nat) : flitAccept true seq h = h := rfl

theorem flitAccept_unacked (idle : Bool) (seq : Nat) :
    (flitAccept idle seq h).unacked = h.unacked ∧ (flitAccept idle seq h).replays = h.replays := by
  unfold flitAccept
  split_ifs <;> exact ⟨rfl, rfl⟩

/-- An acknowledgement drops the flits up to the one that it names. -/
theorem flitAck_unacked {pre post : List Nat} {ack : Nat} (nak : Bool) (hunacked : h.unacked = pre ++ ack :: post) (hpre : ack ∉ pre) :
    (flitAck ack nak h).unacked = post ∧
      (flitAck ack nak h).replays = if nak then sat 32 (h.replays + post.length) else h.replays := by
  have hdrop : h.unacked.dropWhile (· ≠ ack) = ack :: post := by
    rw [hunacked, List.dropWhile_append_of_pos fun x hx => by simpa using fun he : x = ack => hpre (he ▸ hx)]
    simp
  have hmem : h.unacked.contains ack = true := by simp [hunacked]
  simp only [flitAck, hmem, hdrop, if_true]
  exact ⟨rfl, rfl⟩

end Flits

section Link
variable {s : State}

/-- The host block after a flit whose CRC passes, with nothing waiting to be sent. -/
def flitTaken (w : W64) (drill : Bool) (h : HostBlk) : HostBlk :=
  { flitCredits (fld w 27 26) (fld w 31 28) (flitAck (fld w 23 12) (fld w 24 24 = 1 && !drill)
      (flitAccept (fld w 25 25 = 1) (fld w 11 0) h)) with txq := [] }

theorem flitReceive_taken {w : W64} (hup : s.host.up = true) (hunit : unitStopped s 5 12 = false) (hidle : s.host.txq = []) :
    flitReceive w true s = { s with host := flitTaken w s.bring.drill s.host } := by
  have hkeep : (flitCredits (fld w 27 26) (fld w 31 28) (flitAck (fld w 23 12) (fld w 24 24 = 1 && !s.bring.drill)
      (flitAccept (fld w 25 25 = 1) (fld w 11 0) s.host))).txq = [] := by
    have haccept := (flitKeeps_flitAccept s.host (fld w 25 25 = 1) (fld w 11 0)).2.2.2.2.2
    unfold flitCredits
    split_ifs <;> exact haccept.trans hidle
  simp only [flitReceive, hup, hunit, Bool.not_true, Bool.or_self, Bool.false_eq_true, if_false, hkeep]
  rfl

theorem flitCredits_counts (cls count : Nat) (h : HostBlk) :
    (flitCredits cls count h).posted = h.posted + (if cls = 0 then count else 0) ∧
      (flitCredits cls count h).nonposted = h.nonposted + (if cls = 1 then count else 0) := by
  unfold flitCredits
  split_ifs <;> simp_all

theorem flitCredits_keeps (cls count : Nat) (h : HostBlk) :
    flitCredits cls count h = { h with posted := (flitCredits cls count h).posted, nonposted := (flitCredits cls count h).nonposted } := by
  unfold flitCredits
  split_ifs <;> rfl

variable (w : W64) (drill : Bool) (h : HostBlk)

theorem flitTaken_counts : (flitTaken w drill h).posted = h.posted + (if fld w 27 26 = 0 then fld w 31 28 else 0) ∧
    (flitTaken w drill h).nonposted = h.nonposted + (if fld w 27 26 = 1 then fld w 31 28 else 0) := by
  obtain ⟨hposted, hnonposted, -⟩ := flitKeeps_flitAccept h (fld w 25 25 = 1) (fld w 11 0)
  obtain ⟨hp, hn⟩ := flitCredits_counts (fld w 27 26) (fld w 31 28) (flitAck (fld w 23 12) (fld w 24 24 = 1 && !drill)
    (flitAccept (fld w 25 25 = 1) (fld w 11 0) h))
  exact ⟨hp.trans (congrArg (· + _) hposted), hn.trans (congrArg (· + _) hnonposted)⟩

theorem flitTaken_keeps : (flitTaken w drill h).queues = h.queues ∧ (flitTaken w drill h).reads = h.reads ∧
    (flitTaken w drill h).tx = h.tx := by
  obtain ⟨-, -, hqueues, hreads, htx, -⟩ := flitKeeps_flitAccept h (fld w 25 25 = 1) (fld w 11 0)
  rw [flitTaken, flitCredits_keeps]
  exact ⟨hqueues, hreads, htx⟩

theorem flitTaken_rx : (flitTaken w drill h).rxAck = (flitAccept (fld w 25 25 = 1) (fld w 11 0) h).rxAck ∧
    (flitTaken w drill h).rxNak = (flitAccept (fld w 25 25 = 1) (fld w 11 0) h).rxNak := by
  rw [flitTaken, flitCredits_keeps]
  exact ⟨rfl, rfl⟩

theorem flitTaken_acked {pre post : List Nat} (hunacked : h.unacked = pre ++ fld w 23 12 :: post) (hpre : fld w 23 12 ∉ pre) :
    (flitTaken w drill h).unacked = post ∧ (flitTaken w drill h).replays =
      if w.getLsbD 24 = true ∧ drill = false then min (h.replays + post.length) (2 ^ 32 - 1) else h.replays := by
  obtain ⟨hsame, hreplays⟩ := flitAccept_unacked h (fld w 25 25 = 1) (fld w 11 0)
  obtain ⟨hleft, hcount⟩ := flitAck_unacked (flitAccept (fld w 25 25 = 1) (fld w 11 0) h) (fld w 24 24 = 1 && !drill)
    (hsame.trans hunacked) hpre
  rw [flitTaken, flitCredits_keeps]
  refine ⟨hleft, hcount.trans ?_⟩
  rw [hreplays, sat]
  simp only [Bool.and_eq_true, decide_eq_true_eq, fld_bit_eq_one_iff, Bool.not_eq_true']

/-- A flit that passes its CRC changes the host block as R373 says. -/
theorem exec_hostFlitReceive_idle (hup : s.host.up = true) (hunit : unitStopped s 5 12 = false) (hidle : s.host.txq = []) :
    exec (.hostFlitReceive w true) s = .next { s with host := flitTaken w s.bring.drill s.host } :=
  congrArg Host.Outcome.next (flitReceive_taken hup hunit hidle)

end Link

/-! ## Reads of host memory (R376, R429) -/

section Completions
variable {s : State} {tag : Nat} {r : HostReq}

/-- The block once a read is answered. -/
def answered (tag : Nat) (s : State) : State := { s with host.reads := s.host.reads.filter fun x => x.tag ≠ tag }

theorem firmwarePump_bad {fuel len : Nat} (hbad : s.sec.fetchBad = true) : firmwarePump fuel len s = s := by
  cases fuel with
  | zero => rfl
  | succ fuel => rw [firmwarePump, if_pos (.inl hbad)]

/-- One step of the fetch changes the host block and the place of the next read. -/
theorem firmwarePump_one (len : Nat) (s : State) : ∃ host next,
    firmwarePump 1 len s = { s with host := host, sec.fetchNext := next } := by
  rw [firmwarePump]
  split_ifs
  · exact ⟨s.host, s.sec.fetchNext, rfl⟩
  · dsimp only
    rw [hostRead_eq]
    exact ⟨_, _, rfl⟩

variable (hread : (s.host.reads.find? fun r => r.tag = tag) = some r)
include hread

theorem hostCplArrives_other (status : Nat) (data : List Byte) (huse : r.use = .other) :
    hostCplArrives tag status data s = answered tag s := by
  simp only [hostCplArrives, hread, huse]
  rfl

theorem hostCplArrives_firmware {off : Nat} (status : Nat) (data : List Byte) (huse : r.use = .firmware off) :
    hostCplArrives tag status data s =
      firmwarePump 1 (verifyLen s) (firmwareArrives off status (padTo r.len data) (answered tag s)) := by
  simp only [hostCplArrives, hread, huse]
  rfl

end Completions

/-- Settles O42: a flit by `flitTaken`, a completion by the use of its read. -/
theorem hostLink : Obligations.HostLink := by
  intro s hup hunit
  refine ⟨fun w => ?_, fun w hidle => ?_, fun hnone => ?_, fun hsome => ?_, fun tag status data r hread huse => ?_,
    fun tag data r off hread huse => ⟨fun status hstatus => ?_, ?_⟩, fun tag status data hnone => ?_⟩
  · refine congrArg Host.Outcome.next (?_ : flitReceive w false s = _)
    simp [flitReceive, hup, hunit]
  · obtain ⟨hposted, hnonposted⟩ := flitTaken_counts w s.bring.drill s.host
    obtain ⟨hqueues, hreads, htx⟩ := flitTaken_keeps w s.bring.drill s.host
    obtain ⟨hack, hnak⟩ := flitTaken_rx w s.bring.drill s.host
    refine ⟨_, exec_hostFlitReceive_idle w hup hunit hidle, rfl, fun hdata hseq => ?_, fun hdata hpast hnear hlt => ?_, fun hidleFlit => ?_,
      fun pre post => flitTaken_acked w s.bring.drill s.host, hposted, hnonposted, hqueues, hreads, htx⟩
    · have hbit : decide (fld w 25 25 = 1) = false := by simpa [fld_bit_eq_one_iff] using hdata
      rw [hbit, hseq, flitAccept_next] at hack hnak
      exact ⟨hack.trans hseq.symm, hnak⟩
    · have hbit : decide (fld w 25 25 = 1) = false := by simpa [fld_bit_eq_one_iff] using hdata
      rw [hbit, flitAccept_past s.host hpast hnear hlt] at hack hnak
      exact ⟨hack, hnak⟩
    · have hbit : decide (fld w 25 25 = 1) = true := by simpa [fld_bit_eq_one_iff] using hidleFlit
      rw [hbit, flitAccept_idle] at hack hnak
      exact ⟨hack, hnak⟩
  · refine congrArg Host.Outcome.next (if_pos ?_)
    simp [hnone]
  · have hdown : exec .hostLinkTimeout s = .next (raise 0x0505 5 12 0x7FF (detG 12 0xF 0 0x7FF) { s with
        host.up := false, host.down := true, host.txq := [], host.reads := [] }) := by
      refine congrArg Host.Outcome.next ((if_neg (by simpa using hsome)).trans ?_)
      simp [hostLinkDown, hup]
    exact ⟨_, _, hdown, rfl, rfl, rfl, rfl, rfl, rfl, rfl⟩
  · exact congrArg Host.Outcome.next (hostCplArrives_other hread status data huse)
  · refine congrArg Host.Outcome.next ((hostCplArrives_firmware hread status data huse).trans ?_)
    rw [firmwareArrives, if_neg hstatus, firmwarePump_bad rfl]
    rfl
  · obtain ⟨host, next, hpump⟩ := firmwarePump_one (verifyLen s) (firmwareArrives off 0 (padTo r.len data) (answered tag s))
    refine ⟨_, congrArg Host.Outcome.next ((hostCplArrives_firmware hread 0 data huse).trans hpump), rfl, rfl⟩
  · have hfind : (s.host.reads.find? fun r => r.tag = tag) = none := by simpa [List.find?_eq_none] using hnone
    refine congrArg Host.Outcome.next (?_ : hostCplArrives tag status data s = s)
    simp only [hostCplArrives, hfind]

end Sys2Proof.Machine
end

section
/-! PROOFS. The queue registers and completion records (R378, R379, R382 to R385). -/

namespace Sys2Proof.Machine

/-! ## Queue registers (R378, R379) -/

section Registers
variable {s : State} {q : Nat} {x : Queue} {value : W64} (hqueue : queueAt s q = x)
include hqueue

theorem modQueue_at (f : Queue → Queue) : modQueue q f s = { s with host.queues := tset s.host.queues q (f x) } := by
  rw [← hqueue]
  rfl

theorem doorbell_rings (hen : x.sqEn = true) (hfit : fld value 11 0 < 2 ^ x.sqLog2) :
    doorbell q value s = { s with host.queues := tset s.host.queues q { x with tail := fld value 11 0 } } := by
  rw [← modQueue_at hqueue fun x => { x with tail := fld value 11 0 }]
  simp [doorbell, hqueue, hen, Nat.not_le.2 hfit]

theorem doorbell_refused (hbad : x.sqEn = false ∨ 2 ^ x.sqLog2 ≤ fld value 11 0) :
    doorbell q value s = { s with host.qerr := true } := by
  simp only [doorbell, hqueue]
  exact if_pos (by simpa using hbad)

/-- Enabling a queue whose ring size is one of R379's. -/
theorem sqWrite_enables (hen : x.sqEn = false) (hset : value.getLsbD 4 = true) (hlo : 4 ≤ fld value 3 0) (hhi : fld value 3 0 ≤ 12) :
    sqWrite q value s = { s with
      host.queues := tset s.host.queues q { x with sqBase := fld value 63 12 * 4096, sqEn := true, sqLog2 := fld value 3 0 } } := by
  have hbit : fld value 4 4 = 1 := (fld_bit_eq_one_iff value 4).2 hset
  rw [← modQueue_at hqueue fun x => { x with sqBase := fld value 63 12 * 4096, sqEn := true, sqLog2 := fld value 3 0 }]
  simp [sqWrite, hqueue, hbit, hen, Nat.not_lt.2 hlo, Nat.not_lt.2 hhi]

omit hqueue in
theorem sqWrite_size_refused (hset : value.getLsbD 4 = true) (hbad : fld value 3 0 < 4 ∨ 12 < fld value 3 0) :
    sqWrite q value s = { s with host.qerr := true } :=
  if_pos (.inr (.inl ⟨(fld_bit_eq_one_iff value 4).2 hset, hbad⟩))

theorem sqWrite_moved_refused (hen : x.sqEn = true) (hmoved : fld value 63 12 * 4096 ≠ x.sqBase ∨ fld value 3 0 ≠ x.sqLog2) :
    sqWrite q value s = { s with host.qerr := true } := by
  subst hqueue
  exact if_pos (.inl ⟨hen, hmoved⟩)

theorem sqWrite_busy_refused (hset : value.getLsbD 4 = false) (hbusy : x.sqHead ≠ x.tail ∨ x.inflight ≠ 0) :
    sqWrite q value s = { s with host.qerr := true } := by
  have hbit : fld value 4 4 ≠ 1 := by rw [Ne, fld_bit_eq_one_iff, hset]; exact Bool.false_ne_true
  subst hqueue
  exact if_pos (.inr (.inr ⟨hbit, hbusy⟩))

omit hqueue in
theorem queueAt_discardWaiting (k : Nat) (s : State) :
    queueAt (discardWaiting q s) k = if k = q then { queueAt s q with waiting := [] } else queueAt s k := by
  rw [discardWaiting, queueAt_modQueue]
  rfl

/-- A drained queue is disabled, and its waiting records are discarded. -/
theorem sqWrite_disables (hbase : fld value 63 12 * 4096 = x.sqBase) (hlog : fld value 3 0 = x.sqLog2) (hset : value.getLsbD 4 = false)
    (hdrained : x.sqHead = x.tail) (hflight : x.inflight = 0) :
    sqWrite q value s = discardWaiting q (modQueue q (fun y => { y with sqBase := x.sqBase, sqEn := false, sqLog2 := x.sqLog2 }) s) := by
  have hbit : fld value 4 4 ≠ 1 := by rw [Ne, fld_bit_eq_one_iff, hset]; exact Bool.false_ne_true
  simp [sqWrite, hqueue, hbit, hbase, hlog, hdrained, hflight]

theorem cqWrite_off (hen : x.sqEn = false) : cqWrite q value s = { s with
    host.queues := tset s.host.queues q { x with cqBase := fld value 63 12 * 4096, cqAlert := value.getLsbD 4, cqLog2 := fld value 3 0 } } := by
  have hbit : decide (fld value 4 4 = 1) = value.getLsbD 4 := by simp [fld_bit_eq_one_iff]
  rw [← modQueue_at hqueue fun x => { x with cqBase := fld value 63 12 * 4096, cqAlert := value.getLsbD 4, cqLog2 := fld value 3 0 }]
  simp [cqWrite, hqueue, hbit, hen]

end Registers

/-! ## Completion records (R382 to R385) -/

section Records
variable {s : State} {q : Nat} {x : Queue} {r : CplRec} {rest : List CplRec} (hqueue : queueAt s q = x)

theorem length_cplBytes (q : Nat) (phase : Bool) (r : CplRec) : (cplBytes q phase r).length = 64 := by
  simp [cplBytes, length_leBytes, length_padTo, zeros]

/-- The transactions of the record that is written: the record, and an alert where the ring was empty. -/
def recordTxns (q : Nat) (x : Queue) (r : CplRec) : List HostTxn :=
  [HostTxn.write (x.cqBase + 64 * x.cqTail) (cplBytes q x.phase r)] ++
    (if x.cqAlert && x.cqHead = x.cqTail then [HostTxn.msg (alertField 1 q 0)] else [])

/-- The queue once its oldest record is written. -/
def recordWritten (rest : List CplRec) (next : Nat) (x : Queue) : Queue :=
  { x with waiting := rest, cqTail := next, phase := if next = 0 then !x.phase else x.phase }

include hqueue

theorem writeRecord_none (hnone : x.waiting = []) : writeRecord q s = s := by
  simp only [writeRecord, hqueue, hnone]

variable (hwaiting : x.waiting = r :: rest)
include hwaiting

theorem writeRecord_disabled (hen : x.sqEn = false) : writeRecord q s =
    modQueue q (fun x => { x with waiting := rest }) { s with host.cqlost := sat 16 (s.host.cqlost + 1) } := by
  simp only [writeRecord, hqueue, hwaiting, hen, Bool.not_false, if_true]

theorem writeRecord_full (hen : x.sqEn = true) (hfull : (x.cqTail + 1) % 2 ^ x.cqLog2 = x.cqHead) : writeRecord q s = s := by
  simp only [writeRecord, hqueue, hwaiting, hen, hfull, Bool.not_true, Bool.false_eq_true, if_true, if_false]

theorem writeRecord_writes (hen : x.sqEn = true) (hroom : (x.cqTail + 1) % 2 ^ x.cqLog2 ≠ x.cqHead) : writeRecord q s =
    modQueue q (recordWritten rest ((x.cqTail + 1) % 2 ^ x.cqLog2)) (hostSend (recordTxns q x r) s) := by
  simp only [writeRecord, hqueue, hwaiting, hen, hroom, Bool.not_true, Bool.false_eq_true, if_false]
  rfl

end Records

theorem txnCredits_write (q : Nat) (x : Queue) (r : CplRec) (addr : Nat) :
    txnCredits (.write addr (cplBytes q x.phase r)) = (2, 0) ∧ txnFlits (.write addr (cplBytes q x.phase r)) = 1 := by
  simp [txnCredits, txnFlits, length_cplBytes]

/-- A record and its alert are sent at once where credits and the replay buffer leave room. -/
theorem hostSend_recordTxns {s : State} {q : Nat} {x : Queue} {r : CplRec} (hup : s.host.up = true) (hidle : s.host.txq = [])
    (hposted : 3 ≤ s.host.posted) (hunacked : s.host.unacked.length ≤ 1022) :
    (hostSend (recordTxns q x r) s).host.tx = s.host.tx ++ recordTxns q x r := by
  obtain ⟨hcredits, hflits⟩ := txnCredits_write q x r (x.cqBase + 64 * x.cqTail)
  have hroom : ¬ 1024 < s.host.unacked.length + 1 := by omega
  have hcredit : 2 ≤ s.host.posted := by omega
  have hleft : 1 ≤ s.host.posted - 2 := by omega
  rw [hostSend, if_pos hup, hidle, recordTxns]
  by_cases halert : (x.cqAlert && decide (x.cqHead = x.cqTail)) = true
  · have hmore : ¬ 1024 < s.host.unacked.length + 1 + 1 := by omega
    have halertCost : txnCredits (.msg (alertField 1 q 0)) = (1, 0) ∧ txnFlits (.msg (alertField 1 q 0)) = 1 := ⟨rfl, rfl⟩
    simp [linkPump, linkSend, halert, hcredits, hflits, hroom, hcredit, halertCost, hleft, hmore]
  · simp [linkPump, linkSend, halert, hcredits, hflits, hroom, hcredit]

/-- Settles O43: each write by the condition that R379 sets on it, a record by the room in its ring. -/
theorem hostQueues : Obligations.HostQueues := by
  intro s q x hup hqueue
  have hconfig : Reaches s .priv (hostBase + 0x100 + 0x20 * q) := reaches_priv hup
  have hring : Reaches s .priv (hostBase + 0x108 + 0x20 * q) := reaches_priv hup
  have hlink : s.host.up = true := by
    rw [hubServes, Bool.and_eq_true] at hup
    exact hup.1
  refine ⟨fun v value hreach => ⟨fun hen hfit => next_of_reaches hreach (doorbell_rings hqueue hen hfit),
      fun hbad => next_of_reaches hreach (doorbell_refused hqueue hbad)⟩,
    fun value hen hset hlo hhi => next_of_reaches hconfig (sqWrite_enables hqueue hen hset hlo hhi),
    fun value hset hbad => next_of_reaches hconfig (sqWrite_size_refused hset hbad),
    fun value hen hmoved => next_of_reaches hconfig (sqWrite_moved_refused hqueue hen hmoved),
    fun value hen hbase hlog hset => ⟨fun hbusy => next_of_reaches hconfig (sqWrite_busy_refused hqueue hset hbusy),
      fun hdrained hflight => ⟨_, next_of_reaches hconfig (sqWrite_disables hqueue hbase hlog hset hdrained hflight), ?_, ?_,
        fun k hk => ?_⟩⟩,
    fun value hen => next_of_reaches hring (cqWrite_off hqueue hen),
    fun hnone => congrArg Host.Outcome.next (writeRecord_none hqueue hnone),
    fun r rest hwaiting => ⟨fun hen => ⟨_, congrArg Host.Outcome.next (writeRecord_disabled hqueue hwaiting hen), rfl, ?_, rfl, rfl⟩,
      fun hen hfull => congrArg Host.Outcome.next (writeRecord_full hqueue hwaiting hen hfull),
      fun hen hroom => ⟨_, congrArg Host.Outcome.next (writeRecord_writes hqueue hwaiting hen hroom), ?_, ?_, fun k hk => ?_,
        fun hidle hposted hunacked => ?_⟩⟩⟩
  · rw [queueAt_discardWaiting, if_pos rfl, queueAt_modQueue, if_pos rfl, hqueue]
  · rw [discardWaiting, queueAt_modQueue, if_pos rfl, hqueue]
    rfl
  · rw [queueAt_discardWaiting, if_neg hk, queueAt_modQueue, if_neg hk]
  · rw [queueAt_modQueue, if_pos rfl]
    exact congrArg (fun y : Queue => { y with waiting := rest }) hqueue
  · rw [hostSend_eq]
    rfl
  · rw [queueAt_modQueue, if_pos rfl, queueAt, hostSend_queues]
    exact congrArg (recordWritten rest ((x.cqTail + 1) % 2 ^ x.cqLog2)) hqueue
  · rw [queueAt_modQueue, if_neg hk, queueAt, hostSend_queues]
    rfl
  · refine (hostSend_recordTxns hlink hidle hposted hunacked).trans ?_
    simp [recordTxns]

end Sys2Proof.Machine
end

section
/-! PROOFS. Entries of the command queues (R378 to R381). -/

namespace Sys2Proof.Machine

/-! ## The queue that is served (R378, R379) -/

section Served
variable {s : State} {q : Nat}

/-- The queue's head has moved past the entry taken from it. -/
def pastHead (q : Nat) (s : State) : State := advanceHead q (servedQueue q s)

/-- The entry taken is a command not yet complete. -/
def entryTaken (q : Nat) (s : State) : State := modQueue q (fun x => { x with inflight := x.inflight + 1 }) (pastHead q s)

theorem queueAt_servedQueue (k : Nat) : queueAt (servedQueue q s) k = queueAt s k := by
  unfold servedQueue
  split_ifs <;> rfl

theorem queueAt_pastHead (k : Nat) : queueAt (pastHead q s) k = if k = q then
    { queueAt s q with sqHead := ((queueAt s q).sqHead + 1) % 2 ^ (queueAt s q).sqLog2, blocked := none } else queueAt s k := by
  rw [pastHead, advanceHead, queueAt_modQueue, queueAt_servedQueue, queueAt_servedQueue]

theorem queueAt_entryTaken (k : Nat) : queueAt (entryTaken q s) k = if k = q then
    { queueAt s q with
      sqHead := ((queueAt s q).sqHead + 1) % 2 ^ (queueAt s q).sqLog2, blocked := none, inflight := (queueAt s q).inflight + 1 }
    else queueAt s k := by
  rw [entryTaken, queueAt_modQueue, queueAt_pastHead, queueAt_pastHead, if_pos rfl]
  split_ifs <;> rfl

theorem pastHead_eq (q : Nat) (s : State) : pastHead q s = { s with host := (pastHead q s).host } := by
  unfold pastHead advanceHead servedQueue
  split_ifs <;> rfl

theorem entryTaken_eq (q : Nat) (s : State) : entryTaken q s = { s with host := (entryTaken q s).host } := by
  rw [entryTaken, pastHead_eq]
  rfl

theorem queueAt_post_queue (r : CplRec) (k : Nat) : queueAt (post (.queue q) r s) k =
    if k = q then { queueAt s q with waiting := (queueAt s q).waiting ++ [r] } else queueAt s k := queueAt_modQueue ..

/-- The bar of an entry does not depend on the host block. -/
theorem entryBar_pastHead (b : List Byte) : entryBar q b (pastHead q s) = entryBar q b s := by
  rw [pastHead_eq]
  rfl

/-- A string of the length asked for is not padded. -/
theorem padTo_of_length {n : Nat} {b : List Byte} (hlen : b.length = n) : padTo n b = b := by
  subst hlen
  simp [padTo, slice]

end Served

/-! ## An entry that completes without effect (R381) -/

section Barred
variable {s : State} {q : Nat} {b : List Byte}

theorem opKnown_past (unit op : Nat) : opKnown (unit + 8) op = false := rfl

/-- A reserved byte that is set, or a unit that is not one of the seven, makes an entry malformed. -/
theorem entryBar_malformed (hpriv : 16 ≤ q) (hready : s.bring.ready = true)
    (hbad : byteAt b 2 ≠ 0 ∨ byteAt b 3 ≠ 0 ∨ byteAt b 0 = 0 ∨ 8 ≤ byteAt b 0) : entryBar q b s = some 0x14 := by
  have hview : ¬ (q < 16 ∧ (byteAt b 0 = 6 ∨ byteAt b 0 = 5 ∧ byteAt b 1 = 8 ∨ (!s.sec.owned) = true)) := fun h => by omega
  have hshape : (!opKnown (byteAt b 0) (byteAt b 1) || decide (byteAt b 2 ≠ 0) || decide (byteAt b 3 ≠ 0)) = true := by
    rcases hbad with h | h | h | h
    · simp [h]
    · simp [h]
    · simp [h, opKnown]
    · obtain ⟨unit, hunit⟩ := Nat.exists_eq_add_of_le' h
      simp [hunit, opKnown_past]
  simp only [entryBar]
  rw [if_neg hview, if_neg (by simp [hready]), if_pos hshape]

theorem entryBar_view (hjob : q < 16) (hbad : s.sec.owned = false ∨ byteAt b 0 = 6 ∨ byteAt b 0 = 5 ∧ byteAt b 1 = 8) :
    entryBar q b s = some 0x10 := by
  simp only [entryBar]
  refine if_pos ⟨hjob, ?_⟩
  rcases hbad with h | h | h <;> simp [h]

theorem entryBar_early (hpriv : 16 ≤ q) (hready : s.bring.ready = false) (hlo : 1 ≤ byteAt b 0) (hhi : byteAt b 0 ≤ 6)
    (hop : byteAt b 1 = 1) : entryBar q b s = some 0x11 := by
  have hview : ¬ (q < 16 ∧ (byteAt b 0 = 6 ∨ byteAt b 0 = 5 ∧ byteAt b 1 = 8 ∨ (!s.sec.owned) = true)) := fun h => by omega
  have hknown : opKnown (byteAt b 0) 1 = true := by
    generalize byteAt b 0 = unit at hlo hhi
    interval_cases unit <;> rfl
  simp only [entryBar]
  rw [if_neg hview, hop, hknown, hready]
  rfl

/-- An address of the unit whose entry a queue's view forbids (R424). -/
def entryUnitAddr (q : Nat) (b : List Byte) : Nat := unitAddr q (byteAt b 0) (byteAt b 0 = 5 ∧ byteAt b 1 = 8)

variable (hup : hubServes s = true) (hnext : nextQueue s = some q)
include hup hnext

/-- An entry that cannot be read. -/
theorem queueTake_unread (data : HostRead) (ecc : EccReport) : queueTake q none data ecc s =
    post (.queue q) { tag := 0, status := 0x13, kind := 0, body := leBytes 8 ((queueAt s q).sqBase + 64 * (queueAt s q).sqHead) }
      (pastHead q s) := by
  simp [queueTake, hup, hnext, addrBody, pastHead]

variable (hlen : b.length = 64)
include hlen

/-- An entry that is read stays where its unit is busy, and is taken else. -/
theorem queueTake_read (data : HostRead) (ecc : EccReport) : queueTake q (some b) data ecc s =
    if (entryBar q b s).isNone && unitBusy (byteAt b 0) (byteAt b 1) s then
      modQueue q (fun x => { x with blocked := some (byteAt b 0, byteAt b 1) }) s
    else entryRun q b data ecc (pastHead q s) := by
  simp [queueTake, hup, hnext, padTo_of_length hlen, pastHead]

/-- An entry that is barred completes with its status. -/
theorem queueTake_barred {status : Nat} (hbar : entryBar q b s = some status) (hview : status ≠ 0x10) (data : HostRead) (ecc : EccReport) :
    queueTake q (some b) data ecc s = postCmd { via := .queue q, tag := leAt b 4 4 } status [] (entryTaken q s) := by
  rw [queueTake_read hup hnext hlen]
  simp [entryRun, entryBar_pastHead, hbar, hview, entryTaken]

/-- An entry that its queue's view forbids is logged, too. -/
theorem queueTake_forbidden (hbar : entryBar q b s = some 0x10) (data : HostRead) (ecc : EccReport) :
    queueTake q (some b) data ecc s = postCmd { via := .queue q, tag := leAt b 4 4 } 0x10 []
      (modQueue q (fun x => { x with inflight := x.inflight + 1 }) (viewViolation (entryUnitAddr q b) 2 (pastHead q s))) := by
  rw [queueTake_read hup hnext hlen]
  simp [entryRun, entryBar_pastHead, hbar, entryUnitAddr]

theorem queueTake_forbidden_logs (hbar : entryBar q b s = some 0x10) (data : HostRead) (ecc : EccReport) :
    ∃ t r, queueTake q (some b) data ecc s = t ∧ t.flt.raised = s.flt.raised ++ [r] ∧ r.code = 0x0603 ∧
      r.detail = detA (entryUnitAddr q b) 2 ∧
      (queueAt t q).waiting = (queueAt s q).waiting ++ [{ tag := leAt b 4 4, status := 0x10, kind := 0, body := [] }] ∧
      t.stalls = s.stalls ∧ t.loft = s.loft ∧ t.roll = s.roll ∧ t.syl = s.syl ∧ t.snap = s.snap := by
  obtain ⟨r, hraised, hcode, hdetail, -⟩ := raiseHub_raised (s := pastHead q s) 0x0603 (detA (entryUnitAddr q b) 2)
  refine ⟨_, r, queueTake_forbidden hup hnext hlen hbar data ecc, ?_, hcode, hdetail, ?_, ?_⟩
  · refine (congrArg FltBlk.raised hraised).trans ?_
    rw [pastHead_eq]
  · rw [queueAt_postCmd_queue, if_pos rfl, queueAt_modQueue, if_pos rfl, queueAt, viewViolation_host, ← queueAt, queueAt_pastHead,
      if_pos rfl]
  · rw [pastHead_eq]
    exact ⟨rfl, rfl, rfl, rfl, rfl⟩

/-- An entry whose unit is busy stays. -/
theorem queueTake_busy (hbar : entryBar q b s = none) (hbusy : unitBusy (byteAt b 0) (byteAt b 1) s = true) (data : HostRead)
    (ecc : EccReport) : queueTake q (some b) data ecc s =
      modQueue q (fun x => { x with blocked := some (byteAt b 0, byteAt b 1) }) s := by
  rw [queueTake_read hup hnext hlen, hbar, hbusy]
  rfl

/-- A roll command's entry does what the roll's registers ask, its record going to the queue. -/
theorem queueTake_roll (hbar : entryBar q b s = none) (hunit : byteAt b 0 = 2) (hidx : leAt b 8 2 < 4096) (data : HostRead)
    (ecc : EccReport) : queueTake q (some b) data ecc s =
      rollCommand { via := .queue q, tag := leAt b 4 4 } (byteAt b 1) (leAt b 8 2) (leAt b 16 8 / 16 * 16) (entryArgs b) data
        (entryTaken q s) := by
  rw [queueTake_read hup hnext hlen, if_neg (by simp [hunit, unitBusy])]
  simp [entryRun, entryBar_pastHead, hbar, entryCommand, hunit, Nat.not_le.2 hidx, entryTaken]

end Barred

/-- Where the record of a barred entry goes, and what it leaves alone. -/
theorem postCmd_entryTaken {q : Nat} (tag status : Nat) (s : State) : ∃ t, postCmd { via := .queue q, tag := tag } status [] (entryTaken q s) = t ∧
    t = { s with host := t.host } ∧ (queueAt t q).waiting = (queueAt s q).waiting ++ [{ tag := tag, status := status, kind := 0, body := [] }] := by
  refine ⟨_, rfl, ?_, ?_⟩
  · rw [entryTaken_eq]
    rfl
  · rw [queueAt_postCmd_queue, if_pos rfl, queueAt_entryTaken, if_pos rfl]

/-! ## PAUSE from a queue (R251, R380) -/

section Pause
variable (s : State) (q tag i k : Nat)

/-- A PAUSE of a READY entry that queue `q` asks for. -/
def pausedByQueue : State :=
  rollDone { via := .queue q, tag := tag } 0 (modEntry i (fun e => { e with st := .paused }) (entryTaken q s))

theorem pausedByQueue_eq : pausedByQueue s q tag i = { s with host := (pausedByQueue s q tag i).host, roll := (pausedByQueue s q tag i).roll } := by
  rw [pausedByQueue, entryTaken_eq]
  rfl

theorem roll_pausedByQueue : (pausedByQueue s q tag i).roll = { s.roll with
    entries := tmod {} s.roll.entries i fun e => { e with st := .paused }, tag := tag % 256, result := 0 } := by
  rw [pausedByQueue, entryTaken_eq]
  rfl

theorem entryAt_pausedByQueue : entryAt (pausedByQueue s q tag i) k =
    if k = i then { entryAt s i with st := .paused } else entryAt s k := by
  rw [entryAt, roll_pausedByQueue]
  exact tget_tmod {} s.roll.entries i k fun e => { e with st := .paused }

theorem queueAt_pausedByQueue : queueAt (pausedByQueue s q tag i) k = if k = q then
    { queueAt s q with
      sqHead := ((queueAt s q).sqHead + 1) % 2 ^ (queueAt s q).sqLog2, blocked := none
      waiting := (queueAt s q).waiting ++ [{ tag := tag, status := 0, kind := 0, body := [] }] }
    else queueAt s k := by
  have hrecord (u : State) (k : Nat) : queueAt (rollDone { via := .queue q, tag := tag } 0 u) k = if k = q then { queueAt u q with
      waiting := (queueAt u q).waiting ++ [{ tag := tag, status := 0, kind := 0, body := [] }]
      inflight := (queueAt u q).inflight - 1 } else queueAt u k := queueAt_postCmd_queue ..
  have htaken (k : Nat) : queueAt (modEntry i (fun e => { e with st := .paused }) (entryTaken q s)) k = queueAt (entryTaken q s) k := rfl
  rw [pausedByQueue, hrecord, htaken, htaken, queueAt_entryTaken, queueAt_entryTaken, if_pos rfl]
  split_ifs <;> rfl

end Pause

/-- Settles O44: each kind of entry by its lemma on `queueTake` -/
theorem queueEntries : Obligations.QueueEntries := by
  intro s q hup hnext
  refine ⟨fun data => ?_, fun b data hlen hpriv hready hbad => ?_, fun b data hlen hjob hbad => ?_,
    fun b data hlen hpriv hready hlo hhi hop => ?_, fun b data hlen hbar hbusy => ?_,
    fun b data hlen hbar hunit hop hidx hjobBar hst => ?_⟩
  · refine ⟨_, congrArg Host.Outcome.next (queueTake_unread hup hnext data.host data.ecc), ?_, ?_, ?_⟩
    · rw [pastHead_eq]
      rfl
    · rw [queueAt_post_queue, if_pos rfl, queueAt_pastHead, if_pos rfl]
    · rw [queueAt_post_queue, if_pos rfl, queueAt_pastHead, if_pos rfl]
  · obtain ⟨t, ht, hhost, hwaiting⟩ := postCmd_entryTaken (q := q) (leAt b 4 4) 0x14 s
    exact ⟨t, congrArg Host.Outcome.next ((queueTake_barred hup hnext hlen (entryBar_malformed hpriv hready hbad) (by decide) data.host
      data.ecc).trans ht), hhost, hwaiting⟩
  · obtain ⟨t, r, ht, hraised, hcode, -, hwaiting, hframe⟩ := queueTake_forbidden_logs hup hnext hlen
      (entryBar_view hjob (hbad.imp_right .inl)) data.host data.ecc
    exact ⟨t, r, congrArg Host.Outcome.next ht, hraised, hcode, hwaiting, hframe⟩
  · obtain ⟨t, ht, hhost, hwaiting⟩ := postCmd_entryTaken (q := q) (leAt b 4 4) 0x11 s
    exact ⟨t, congrArg Host.Outcome.next ((queueTake_barred hup hnext hlen (entryBar_early hpriv hready hlo hhi hop) (by decide) data.host
      data.ecc).trans ht), hhost, hwaiting⟩
  · refine ⟨_, congrArg Host.Outcome.next (queueTake_busy hup hnext hlen hbar hbusy data.host data.ecc), rfl, ?_, ?_⟩
    · rw [queueAt_modQueue, if_pos rfl]
    · rw [queueAt_modQueue, if_pos rfl]
  · have hjob : jobBar true (entryTaken q s) = none := by
      rw [entryTaken_eq]
      exact hjobBar
    have hready : (entryAt (entryTaken q s) (leAt b 8 2)).st = .ready := by
      rw [entryTaken_eq]
      exact hst
    have hpause := rollPause_ready (iss := { via := .queue q, tag := leAt b 4 4 }) hjob hready
    have htake := queueTake_roll hup hnext hlen hbar hunit hidx data.host data.ecc
    rw [hop] at htake
    refine ⟨pausedByQueue s q (leAt b 4 4) (leAt b 8 2), congrArg Host.Outcome.next (htake.trans hpause), pausedByQueue_eq .., ?_,
      fun i hi => ?_, ?_, ?_, ?_, ?_, fun k hk => ?_⟩
    · rw [entryAt_pausedByQueue, if_pos rfl]
    · rw [entryAt_pausedByQueue, if_neg hi]
    · rw [roll_pausedByQueue]
    · rw [roll_pausedByQueue]
    · rw [queueAt_pausedByQueue, if_pos rfl]
    · rw [queueAt_pausedByQueue, if_pos rfl]
    · rw [queueAt_pausedByQueue, if_neg hk]

end Sys2Proof.Machine
end

section
/-! PROOFS. Job-view accesses that do not reach their register (R374, R424). -/

namespace Sys2Proof.Machine

/-! ## VIEW_VIOLATION (R424) -/

section Violation
variable {s : State} {addr : Nat}

theorem viewViolation_logs (access : Nat) (s : State) : ∃ r, viewViolation addr access s = { s with
      free := (viewViolation addr access s).free, dev.hubBeats := (viewViolation addr access s).dev.hubBeats
      flt.raised := (viewViolation addr access s).flt.raised } ∧
    (viewViolation addr access s).flt.raised = s.flt.raised ++ [r] ∧ r.code = 0x0603 ∧ r.detail = detA addr access :=
  ⟨_, rfl, rfl, rfl, rfl⟩

/-- A command that is a job-view write of a register is discarded with the link down, and logged where the view does not reach it. -/
theorem refused_of_regWrite {i : Instr} (hwrite : ∃ f, exec i s = .next (regWrite .job addr f s)) :
    (hubServes s = false → exec i s = .next s) ∧
    (hubServes s = true → jobReach s addr true = false →
      ∃ t r, exec i s = .next t ∧ t = { s with free := t.free, dev.hubBeats := t.dev.hubBeats, flt.raised := t.flt.raised } ∧
        t.flt.raised = s.flt.raised ++ [r] ∧ r.code = 0x0603 ∧ r.detail = detA addr 1) := by
  obtain ⟨f, hf⟩ := hwrite
  refine ⟨fun hdown => ?_, fun hup hreach => ?_⟩
  · rw [hf, regWrite, hdown]
    rfl
  · obtain ⟨r, hlog⟩ := viewViolation_logs (addr := addr) 1 s
    refine ⟨viewViolation addr 1 s, r, ?_, hlog⟩
    rw [hf, regWrite, hup, hreach]
    rfl

variable (hwin : inWindow addr = true) (ha : addr % 8 = 0) (hup : hubServes s = true)
include hwin ha hup

/-- A word read that does not reach its register is answered with zeros. -/
theorem registerRead_unreached (tag : Nat) (hreach : jobReach s addr false = false) :
    registerRead .job tag addr 8 s = hostSend [.cpl tag 0 (zeros 8)] (viewViolation addr 0 s) := by
  have hword : wordRead .job addr s = (0, viewViolation addr 0 s) := by simp [wordRead, hreach]
  rw [registerRead_burst hup hwin (accessOk_word ha)]
  simp only [Nat.reduceDiv, burstRead, hword]
  rfl

/-- A word written that does not reach its register is dropped. -/
theorem registerWrite_unreached (w : W64) (data : HostRead) (hreach : jobReach s addr true = false) :
    registerWrite .job addr [w] data s = viewViolation addr 1 s := by
  rw [registerWrite_burst (ws := [w]) hup hwin (accessOk_word ha), burstWrite, burstWrite, wordWrite, hreach]
  rfl

end Violation

/-- Settles O54: every command of the list is a job-view write of its address. -/
theorem jobViewRefusals : Obligations.JobViewRefusals := by
  refine ⟨fun s a b c d x y z h l1 l2 o e p hp => refused_of_regWrite ?_, fun s tag addr hup hwin ha hreach => ?_,
    fun s addr w data hup hwin ha hreach => ?_, fun r hcode => ?_, fun s q b data hup hnext hjob hlen hbad => ?_⟩
  · revert p
    simp only [List.forall_mem_cons, List.not_mem_nil, false_implies, implies_true, and_true]
    and_intros <;> exact ⟨_, rfl⟩
  · obtain ⟨r, hlog⟩ := viewViolation_logs (addr := addr) 0 s
    exact ⟨_, viewViolation addr 0 s, r, congrArg Host.Outcome.next (registerRead_unreached hwin ha hup tag hreach), rfl, hlog⟩
  · obtain ⟨r, hlog⟩ := viewViolation_logs (addr := addr) 1 s
    exact ⟨_, r, congrArg Host.Outcome.next (registerWrite_unreached hwin ha hup w data hreach), hlog⟩
  · have honly : deviceOnlyCodes.contains 0x0603 = true := by decide
    rw [logsJob, hcode, if_neg (by decide), honly]
    exact ⟨by decide, rfl⟩
  · obtain ⟨t, r, ht, hraised, hcode, hdetail, hwaiting, -⟩ := queueTake_forbidden_logs hup hnext hlen (entryBar_view hjob hbad)
      data.host data.ecc
    exact ⟨t, r, congrArg Host.Outcome.next ht, hraised, hcode, hdetail, hwaiting⟩

end Sys2Proof.Machine
end

section
/-! PROOFS. Stall windows and their apertures (R311, R416, R499 to R501). -/

namespace Sys2Proof.Machine

/-! ## Words and bytes -/

theorem leNat_lt (bs : List Byte) : leNat bs < 256 ^ bs.length := by
  induction bs with
  | nil => decide
  | cons b bs ih =>
    have hb := b.isLt
    rw [leNat, List.length_cons, pow_succ]
    omega

theorem leBytes_leNat (bs : List Byte) : leBytes bs.length (leNat bs) = bs := by
  induction bs with
  | nil => rfl
  | cons b bs ih =>
    have hb := b.isLt
    have htail : (b.toNat + 256 * leNat bs) / 256 = leNat bs := by omega
    have hhead : BitVec.ofNat 8 (b.toNat + 256 * leNat bs) = b := BitVec.eq_of_toNat_eq (by simp; omega)
    rw [List.length_cons, leNat, leBytes, htail, hhead, ih]

/-- The word of eight bytes holds them. -/
theorem wordBytes_of_bytes {bs : List Byte} (hlen : bs.length = 8) : wordBytes (w64 (leNat bs)) = bs := by
  have hlt := leNat_lt bs
  have hnat : (w64 (leNat bs)).toNat = leNat bs := by
    rw [hlen] at hlt
    simp only [w64, BitVec.toNat_ofNat]
    omega
  have hbytes := leBytes_leNat bs
  rw [wordBytes, hnat]
  rwa [hlen] at hbytes

theorem length_wordBytes (w : W64) : (wordBytes w).length = 8 := length_leBytes ..

/-! ## A window in an ungated yard (R499 to R501) -/

section Ungated
variable {s : State} {n p k : Nat} {value : W64}

theorem stallP_regPackets : stallP (regPackets s) p = stallP s p := by
  unfold regPackets
  split_ifs <;> rfl

theorem aperMay_regPackets (x : Stall) : aperMay (regPackets s) x = aperMay s x := by
  unfold regPackets
  split_ifs <;> rfl

theorem setStallP_regPackets (x : Stall) : setStallP (regPackets s) p x = { regPackets s with stalls := tset s.stalls p x } := by
  unfold regPackets
  split_ifs <;> rfl

/-- A stall replaced after its corrections are counted. -/
theorem setStallP_sramCount (sram : Secded) (u : State) (x : Stall) : setStallP (sramCount p sram u) p x = setStallP u p x := by
  unfold sramCount
  split_ifs
  · rfl
  · simp only [modStallP, setStallP, tset_tset]

theorem aperWrite_performed (hin : aperOffset (stallP s p) k < spaceSize (stallP s p).space) (hmay : aperMay s (stallP s p) = true) :
    aperWrite p k value s = setStallP s p (spaceSet (stallP s p) (aperOffset (stallP s p) k) (wordBytes value)) := by
  simp [aperWrite, hmay, Nat.not_le.2 hin]

theorem aperWrite_refused (hin : aperOffset (stallP s p) k < spaceSize (stallP s p).space) (hmay : aperMay s (stallP s p) = false) :
    aperWrite p k value s = setStallP s p { stallP s p with wrefused := true } := by
  simp [aperWrite, hmay, Nat.not_le.2 hin]

theorem aperRead_beyond (hout : spaceSize (stallP s p).space ≤ aperOffset (stallP s p) k) (sram : Secded) : aperRead n p k sram s =
    (0, setStallP s p { stallP s p with range := true, corrected := (stallP s p).corrected + sram.corrected }) := by
  simp only [aperRead, stallP_sramCount, if_true, setStallP_sramCount]
  exact if_pos hout

theorem aperRead_uncorr (hin : aperOffset (stallP s p) k < spaceSize (stallP s p).space) (c : Nat) : aperRead n p k ⟨c, true⟩ s =
    (0, setStallP s p { stallP s p with uncorr := true, corrected := (stallP s p).corrected + c }) := by
  simp only [aperRead, stallP_sramCount, if_true, setStallP_sramCount]
  exact if_neg (Nat.not_le.2 hin)

theorem aperRead_scratch (hin : aperOffset (stallP s p) k < spaceSize (stallP s p).space) (hspace : (stallP s p).space = 0) (c : Nat) :
    aperRead n p k ⟨c, false⟩ s =
      (w64 (leNat (memRead (stallP s p).scratch (aperOffset (stallP s p) k) 8)), sramCount p ⟨c, false⟩ s) := by
  simp only [aperRead, stallP_sramCount, if_true]
  refine (if_neg (Nat.not_le.2 hin)).trans ?_
  simp only [spaceBytes, hspace]
  rfl

variable (hwin : windowStall s n = some p) (hyard : yardUp s (yardOf p) = true) (hk : k < 256)
include hwin hyard

theorem stwWrite_addr : stwWrite n 0x8 value s = modStallP p (stwAddrSet value) (regPackets s) := by
  simp [stwWrite, hwin, hyard]

include hk

theorem stwWrite_aperture : stwWrite n (0x800 + 8 * k) value s = aperWrite p k value (regPackets s) := by
  have hword : (0x800 + 8 * k - 0x800) / 8 = k := by omega
  simp only [stwWrite, hwin, hyard, Bool.not_true, Bool.false_eq_true, if_false, hword]
  rw [if_neg (by omega), if_pos (by omega)]

theorem stwRead_aperture (sram : Secded) : stwRead n (0x800 + 8 * k) sram s = aperRead n p k sram (regPackets s) := by
  have hword : (0x800 + 8 * k - 0x800) / 8 = k := by omega
  simp only [stwRead, hwin, hyard, Bool.not_true, Bool.false_eq_true, if_false, hword]
  have hrest (a : Nat) (ha : a < 0x800) : ¬ 0x800 + 8 * k = a := by omega
  simp only [hrest 0x0 (by decide), hrest 0x8 (by decide), hrest 0x10 (by decide), hrest 0x18 (by decide), hrest 0x20 (by decide),
    hrest 0x28 (by decide), hrest 0x30 (by decide), if_false]
  exact if_pos (by omega)

end Ungated

/-! ## The accesses that use a window (R311, R375, R500, R501) -/

section Accesses
variable {s : State} {n p k : Nat} {value : W64} (hup : hubServes s = true) (hk : k < 256)

theorem exec_fabReg_priv (n off : Nat) (s : State) : exec (.fabReg .priv n off (some value)) s = .next (stwWrite n off value s) := rfl

include hk in
theorem exec_stwApertureWrite_priv (hup : hubServes s = true) :
    exec (.stwApertureWrite .priv n k value) s = .next (stwWrite n (0x800 + 8 * k) value s) := by
  refine congrArg Host.Outcome.next ((regWrite_priv s _ hup).trans ?_)
  rw [Nat.mod_eq_of_lt hk]

include hup hk in
theorem exec_stwApertureRead_priv (tag : Nat) (sram : Secded) : exec (.stwApertureRead .priv tag n k sram) s =
    .next (hostSend [.cpl tag 0 (wordBytes (stwRead n (0x800 + 8 * k) sram s).1)] (stwRead n (0x800 + 8 * k) sram s).2) := by
  refine congrArg Host.Outcome.next (?_ : apertureRead .priv tag n k sram s = _)
  simp [apertureRead, hup, Nat.mod_eq_of_lt hk]

/-- A window of logical stall `n` takes words at its offsets. -/
theorem window_address {off : Nat} (hn : n < 1200) (hoff : off < 0x1000) (ha : off % 8 = 0) : inWindow (stwBase n + off) = true ∧
    (stwBase n + off) % 8 = 0 ∧ 0x100000 ≤ stwBase n + off ∧ (stwBase n + off - 0x100000) / 0x1000 = n ∧
    (stwBase n + off) % 0x1000 = off := by
  rw [inWindow_iff]
  unfold stwBase
  omega

include hup

theorem exec_registerRead_window {off tag : Nat} (hn : n < 1200) (hoff : off < 0x1000) (ha : off % 8 = 0) :
    exec (.registerRead .priv tag (stwBase n + off) 8) s = .next (hostSend
      [.cpl tag 0 (wordBytes (stwRead n off noSecded s).1)] (stwRead n off noSecded s).2) := by
  obtain ⟨hin, halign, hlow, hstall, hword⟩ := window_address hn hoff ha
  refine congrArg Host.Outcome.next ((registerRead_burst hup hin (accessOk_word halign)).trans ?_)
  have hread : wordRead .priv (stwBase n + off) s = stwRead n off noSecded s := by
    rw [wordRead, if_neg (by simp), if_pos hlow, hstall, hword]
  simp only [Nat.reduceDiv, burstRead, hread, List.flatMap_cons, List.flatMap_nil, List.append_nil]

theorem exec_registerWrite_window {off : Nat} {data : HostRead} (hn : n < 1200) (hoff : off < 0x1000) (ha : off % 8 = 0) :
    exec (.registerWrite .priv (stwBase n + off) [value] data) s = .next (stwWrite n off value s) := by
  obtain ⟨hin, halign, hlow, hstall, hword⟩ := window_address hn hoff ha
  refine congrArg Host.Outcome.next ((registerWrite_burst (ws := [value]) hup hin (accessOk_word halign)).trans ?_)
  rw [burstWrite, burstWrite, wordWrite, if_neg (by simp), if_pos hlow, hstall, hword]

end Accesses

section Gated
variable {s : State} {n p : Nat} (hwin : windowStall s n = some p) (hyard : yardUp s (yardOf p) = false)
include hwin hyard

theorem stwRead_gated (off : Nat) (sram : Secded) : stwRead n off sram s = (0, s) := by simp [stwRead, hwin, hyard]

theorem stwWrite_gated (off : Nat) (value : W64) : stwWrite n off value s = s := by simp [stwWrite, hwin, hyard]

end Gated

theorem stallP_tset_same (s : State) (t : Table Stall) (p : Nat) (x : Stall) : stallP { s with stalls := tset t p x } p = x :=
  (tget_tset ({} : Stall) t p p x).trans (if_pos rfl)

theorem scratch_spaceSet {x : Stall} (hspace : x.space = 0) (o : Nat) (w : List Byte) :
    (spaceSet x o w).scratch = memWrite x.scratch o w := by simp only [spaceSet, hspace]

theorem wordBytes_zero : wordBytes 0 = zeros 8 := by decide

/-- Settles O56: each access by what `stwRead` and `stwWrite` do in an ungated and in a gated yard. -/
theorem stallWindows : Obligations.StallWindows := by
  intro s n p k value hup hn hk hwin
  refine ⟨fun hyard => ⟨fun hin hmay => ?_, fun hin hmay => ?_, fun hout tag sram => ?_, fun hin tag c => ⟨?_, fun hspace => ?_⟩, ?_⟩,
    fun hyard => ⟨fun off tag data hoff ha => ⟨?_, ?_⟩, ?_, ?_, fun tag sram => ?_⟩, fun off hreach => ?_⟩
  · have hwrite : stwWrite n (0x800 + 8 * k) value s = { regPackets s with
        stalls := tset s.stalls p (spaceSet (stallP s p) (aperOffset (stallP s p) k) (wordBytes value)) } := by
      rw [stwWrite_aperture hwin hyard hk, aperWrite_performed (by rwa [stallP_regPackets]) (by rwa [stallP_regPackets, aperMay_regPackets]),
        setStallP_regPackets, stallP_regPackets]
    have hexec := (exec_stwApertureWrite_priv (n := n) (value := value) hk hup).trans (congrArg Host.Outcome.next hwrite)
    refine ⟨hexec, (exec_fabReg_priv n _ s).trans (congrArg Host.Outcome.next hwrite), fun hwf hspace t ht => ?_⟩
    obtain rfl := Host.Outcome.next.inj (hexec.symm.trans ht)
    have hstall : (stallP { regPackets s with
        stalls := tset s.stalls p (spaceSet (stallP s p) (aperOffset (stallP s p) k) (wordBytes value)) } p).scratch =
        memWrite (stallP s p).scratch (aperOffset (stallP s p) k) (wordBytes value) := by
      rw [stallP_tset_same, scratch_spaceSet hspace]
    rw [hstall]
    refine ⟨?_, fun a ha => ?_⟩
    · have hread := memRead_memWrite hwf (aperOffset (stallP s p) k) (wordBytes value)
      rwa [length_wordBytes] at hread
    · rw [memGet_memWrite hwf, length_wordBytes, if_neg (by omega)]
  · rw [exec_stwApertureWrite_priv hk hup, stwWrite_aperture hwin hyard hk,
      aperWrite_refused (by rwa [stallP_regPackets]) (by rwa [stallP_regPackets, aperMay_regPackets]), setStallP_regPackets, stallP_regPackets]
  · rw [exec_stwApertureRead_priv hup hk, stwRead_aperture hwin hyard hk, aperRead_beyond (by rwa [stallP_regPackets]),
      setStallP_regPackets, stallP_regPackets, wordBytes_zero]
  · rw [exec_stwApertureRead_priv hup hk, stwRead_aperture hwin hyard hk, aperRead_uncorr (by rwa [stallP_regPackets]),
      setStallP_regPackets, stallP_regPackets, wordBytes_zero]
  · rw [exec_stwApertureRead_priv hup hk, stwRead_aperture hwin hyard hk,
      aperRead_scratch (by rwa [stallP_regPackets]) (by rwa [stallP_regPackets]), stallP_regPackets, wordBytes_of_bytes (by simp [memRead])]
  · rw [exec_fabReg_priv, stwWrite_addr hwin hyard, modStallP, setStallP_regPackets, stallP_regPackets]
  · rw [exec_registerRead_window hup hn hoff ha, stwRead_gated hwin hyard, wordBytes_zero]
  · rw [exec_registerWrite_window hup hn hoff ha, stwWrite_gated hwin hyard]
  · rw [exec_stwApertureWrite_priv hk hup, stwWrite_gated hwin hyard]
  · rw [exec_fabReg_priv, stwWrite_gated hwin hyard]
  · rw [exec_stwApertureRead_priv hup hk, stwRead_gated hwin hyard, wordBytes_zero]
  · obtain ⟨r, hlog⟩ := viewViolation_logs (addr := stwBase n + off) 1 s
    refine ⟨viewViolation (stwBase n + off) 1 s, r, congrArg Host.Outcome.next (?_ : fabReg .job n off (some value) s = _), hlog.2.1,
      hlog.2.2.1, rfl⟩
    simp [fabReg, hreach, b2n]

end Sys2Proof.Machine
end

section
/-! PROOFS. The commands of the video streams (R350, R354, R362, R363, R369). -/

namespace Sys2Proof.Machine

/-! ## A stream changed -/

section Streams
variable (s : State) (k j : Nat)

theorem streamAt_modStream (f : Stream → Stream) :
    streamAt (modStream k f s) j = if j = k then f (streamAt s k) else streamAt s j := tget_tmod ..

/-- A stream whose head picture has a place in the order of starts (R357). -/
def placed (order : Nat) (x : Stream) : Stream := { x with eligible := order }

/-- Making a stream's head picture eligible changes its place in the order alone. -/
theorem streamAt_makeEligible : ∃ order, ∀ j, streamAt (makeEligible k s) j =
    if j = k then placed order (streamAt s k) else streamAt s j := by
  by_cases hnone : ((streamAt s k).queue.isEmpty || (runsOn s k).isSome) = true
  · refine ⟨(streamAt s k).eligible, fun j => ?_⟩
    rw [makeEligible, if_pos hnone]
    split_ifs with hj
    · rw [hj]
      rfl
    · rfl
  · refine ⟨s.vid.order, fun j => ?_⟩
    rw [makeEligible, if_neg hnone]
    exact streamAt_modStream s k j (placed s.vid.order)

theorem makeEligible_eq : makeEligible k s = { s with vid := (makeEligible k s).vid } := by
  unfold makeEligible
  split_ifs <;> rfl

theorem makeEligible_engines : (makeEligible k s).vid.engines = s.vid.engines := by
  unfold makeEligible
  split_ifs <;> rfl

end Streams

/-! ## VID commands (R350, R354, R362, R363, R369, R370) -/

section Commands
variable {s : State} {tag k : Nat} (hidle : vidActive s = false)

theorem completed_vidDone (tag result : Nat) (u : State) :
    Completed tag result [] { u with vid.tag := tag % 256, vid.result := result } (vidDone (regIssuer tag) result u) := by
  rw [vidDone, vidOver, show (regIssuer tag).tag % 256 = tag % 256 from Nat.mod_mod ..]
  exact completed_postCmd ..

include hidle

theorem vidCmd_runs {busy : Bool} (hbar : jobBar busy s = none) (iss : Issuer) (f : State → State) : vidCmd busy iss f s = f s := by
  simp [vidCmd, hidle, hbar]

theorem vidOpen_opens {b : List Byte} (hbar : jobBar true s = none) (hst : (streamAt s k).st = .closed)
    (hfields : vidFieldsOk (vidRecord b) = true) (harea : refAreaOk s (vidRecord b) = true) (iss : Issuer) (addr : Nat) :
    vidOpen iss k addr (some b) s = vidDone iss 0 (modStream k (fun _ => { st := .opened, ctx := vidRecord b }) s) := by
  rw [vidOpen, vidCmd_runs hidle hbar]
  simp [hst, hfields, harea]

/-- The picture of a valid descriptor joins its stream's queue. -/
def queued (iss : Issuer) (k : Nat) (b : List Byte) (s : State) : State :=
  modStream k (fun x => { x with queue := x.queue ++ [picDesc iss.via b] }) s

/-- A picture submitted: it heads its stream's queue where that was empty. -/
def joined (iss : Issuer) (k : Nat) (b : List Byte) (s : State) : State :=
  if (streamAt s k).queue.isEmpty then makeEligible k (queued iss k b s) else queued iss k b s

omit hidle in
theorem joined_eq (iss : Issuer) (k : Nat) (b : List Byte) (s : State) : joined iss k b s = { s with vid := (joined iss k b s).vid } := by
  unfold joined
  split_ifs
  · rw [makeEligible_eq]
    rfl
  · rfl

omit hidle in
theorem streamAt_joined (iss : Issuer) (k : Nat) (b : List Byte) (s : State) : ∃ order, ∀ j, streamAt (joined iss k b s) j =
    if j = k then placed order { streamAt s k with queue := (streamAt s k).queue ++ [picDesc iss.via b] } else streamAt s j := by
  have hqueued (j : Nat) : streamAt (queued iss k b s) j =
      if j = k then { streamAt s k with queue := (streamAt s k).queue ++ [picDesc iss.via b] } else streamAt s j :=
    streamAt_modStream ..
  unfold joined
  split_ifs
  · obtain ⟨order, horder⟩ := streamAt_makeEligible (queued iss k b s) k
    refine ⟨order, fun j => ?_⟩
    rw [horder, hqueued, hqueued, if_pos rfl]
    split_ifs <;> rfl
  · refine ⟨(streamAt s k).eligible, fun j => ?_⟩
    rw [hqueued]
    rfl

theorem vidSubmit_queues {b : List Byte} (hbar : jobBar true s = none)
    (hst : (streamAt s k).st = .opened ∨ (streamAt s k).st = .error) {iss : Issuer}
    (hpic : picOk s (streamAt s k).ctx (picDesc iss.via b) = true) (hroom : (streamAt s k).queue.length < 16) (addr : Nat) :
    vidSubmit iss k addr (some b) s = vidDone iss 0 (joined iss k b s) := by
  rw [vidSubmit, vidCmd_runs hidle hbar]
  rcases hst with hst | hst <;> simp [hst, hpic, Nat.not_le.2 hroom, joined, queued]

theorem encodeCmd_performs {f : Stream → Option Stream} {y : Stream} (hbar : jobBar false s = none)
    (hst : (streamAt s k).st = .opened ∨ (streamAt s k).st = .error) (hrole : (streamAt s k).ctx.role ≠ 1)
    (hf : f (streamAt s k) = some y) (iss : Issuer) : encodeCmd iss k f s = vidDone iss 0 (modStream k (fun _ => y) s) := by
  rw [encodeCmd, vidCmd_runs hidle hbar]
  rcases hst with hst | hst <;> simp [hst, hrole, hf]

theorem vidKey_asks (hbar : jobBar false s = none) (hst : (streamAt s k).st = .opened ∨ (streamAt s k).st = .error)
    (hrole : (streamAt s k).ctx.role ≠ 1) (iss : Issuer) :
    vidKey iss k s = vidDone iss 0 (modStream k (fun _ => { streamAt s k with keypend := true }) s) :=
  encodeCmd_performs (f := fun x => some { x with keypend := true }) hidle hbar hst hrole rfl iss

theorem vidLtrMark_asks (hbar : jobBar false s = none) (hst : (streamAt s k).st = .opened ∨ (streamAt s k).st = .error)
    (hrole : (streamAt s k).ctx.role ≠ 1) (iss : Issuer) (j : Nat) :
    vidLtrMark iss k j s = vidDone iss 0 (modStream k (fun _ => { streamAt s k with ltrMark := some j }) s) :=
  encodeCmd_performs (f := fun x => some { x with ltrMark := some j }) hidle hbar hst hrole rfl iss

theorem encodeCmd_refuses {f : Stream → Option Stream} (hbar : jobBar false s = none)
    (hst : (streamAt s k).st = .opened ∨ (streamAt s k).st = .error) (hrole : (streamAt s k).ctx.role ≠ 1)
    (hf : f (streamAt s k) = none) (iss : Issuer) : encodeCmd iss k f s = vidDone iss 2 s := by
  rw [encodeCmd, vidCmd_runs hidle hbar]
  rcases hst with hst | hst <;> simp [hst, hrole, hf]

theorem vidClose_closes (hbar : jobBar false s = none) (hst : (streamAt s k).st = .opened ∨ (streamAt s k).st = .error)
    (hqueue : (streamAt s k).queue = []) (hruns : runsOn s k = none) (iss : Issuer) :
    vidClose iss k s = vidDone iss 0 (modStream k (fun x => { x with st := .closed, queue := [] }) s) := by
  rw [vidClose, vidCmd_runs hidle hbar]
  rcases hst with hst | hst <;> simp [hst, hruns, closeStream, hqueue]

end Commands

/-- Settles O40: each command is not barred, and does to its stream what its lemma says. -/
theorem videoStreamCommands : Obligations.VideoStreamCommands := by
  intro s v tag k hreach hidle
  refine ⟨fun b hbar hst hfields harea => ⟨_, next_of_reaches hreach (vidOpen_opens hidle hbar hst hfields harea ..), completed_vidDone ..⟩,
    fun b hbar hst hpic hroom => ?_,
    fun hbar hst hrole => ⟨⟨_, next_of_reaches hreach (vidKey_asks hidle hbar hst hrole _), completed_vidDone ..⟩,
      fun j => ⟨_, next_of_reaches hreach (vidLtrMark_asks hidle hbar hst hrole _ _), completed_vidDone ..⟩,
      fun j hslot => ⟨_, next_of_reaches hreach (encodeCmd_performs hidle hbar hst hrole (if_pos hslot) _), completed_vidDone ..⟩,
      fun j hslot => ⟨_, next_of_reaches hreach (encodeCmd_refuses hidle hbar hst hrole (if_neg (by simpa using hslot)) _),
        completed_vidDone ..⟩⟩,
    fun hbar hst hqueue hruns => ⟨_, next_of_reaches hreach (vidClose_closes hidle hbar hst hqueue hruns _), completed_vidDone ..⟩⟩
  obtain ⟨order, hstream⟩ := streamAt_joined (regIssuer tag) (k % 64) b s
  have hsame (j : Nat) : streamAt (vidDone (regIssuer tag) 0 (joined (regIssuer tag) (k % 64) b s)) j =
      streamAt (joined (regIssuer tag) (k % 64) b s) j := rfl
  refine ⟨_, next_of_reaches hreach (vidSubmit_queues hidle hbar hst hpic hroom s.vid.argAddr), rfl, Nat.mod_mod .., ?_, ?_,
    fun j hj => ?_, ?_⟩
  · rw [hsame, hstream, if_pos rfl]
    rfl
  · rw [hsame, hstream, if_pos rfl]
    rfl
  · rw [hsame, hstream, if_neg hj]
  · rw [joined_eq]
    exact ⟨rfl, rfl, rfl⟩

end Sys2Proof.Machine
end

section
/-! PROOFS. Pictures start on a free engine and complete (R355 to R357, R362, R368, R369). -/

namespace Sys2Proof.Machine

/-! ## A picture starts (R356, R357) -/

section Starts
variable {s : State} {e k : Nat} {x : Stream} {p : PicDesc} {rest : List PicDesc}

/-- The picture of stream `k` that an engine runs. -/
def runOf (k : Nat) (x : Stream) (p : PicDesc) : RunPic :=
  { stream := k, pic := p, picno := x.picno, key := isKey x p, ltrMark := x.ltrMark, ltrUse := if isKey x p then none else x.ltrUse }

/-- An engine that runs a picture. -/
def startedEng (run : RunPic) (k : Nat) (g : VidEng) : VidEng := { g with run := some run, stream := k }

theorem pictureStart_starts (hbar : startBarred s = false) (hfree : (vidEng s e).run = none) (hchosen : chosenStream s e = some (k, x))
    (hqueue : x.queue = p :: rest) : pictureStart e s = modStream k (startedStream p)
      { s with vid.engines := tmod {} s.vid.engines e (startedEng (runOf k x p) k) } := by
  simp only [pictureStart, hbar, hfree, hchosen, hqueue]
  rfl

end Starts

/-! ## What the end of a picture leaves alone (R355, R360 to R367) -/

/-- What the engines' reads and writes leave alone. -/
def picKeeps (s : State) : VidBlk × Nat × Table Stall × RollBlk := (s.vid, s.host.evq, s.stalls, s.roll)

theorem linkPump_evq (ts left : List HostTxn) (pOk nOk : Bool) (h : HostBlk) : (linkPump ts left pOk nOk h).evq = h.evq := by
  induction ts generalizing left pOk nOk h with
  | nil => rfl
  | cons t ts ih =>
    unfold linkPump
    dsimp only
    split_ifs
    · rfl
    · rw [ih]
      rfl
    · exact ih ..

theorem picKeeps_hostSend (ts : List HostTxn) (s : State) : picKeeps (hostSend ts s) = picKeeps s := by
  have hevq : (hostSend ts s).host.evq = s.host.evq := by
    unfold hostSend
    split_ifs
    · exact linkPump_evq ..
    · rfl
  simp [picKeeps, hevq]

theorem picKeeps_hubRead (ecc : EccReport) (access a n : Nat) (s : State) : picKeeps (hubRead ecc access a n s) = picKeeps s := by
  simp [picKeeps]

theorem picKeeps_vidReads (c : VidCtx) (p : PicDesc) (ecc : EccReport) (s : State) : picKeeps (vidReads c p ecc s) = picKeeps s := by
  unfold vidReads
  split_ifs <;> simp only [picKeeps_hubRead]

theorem picKeeps_storeRef (c : VidCtx) (store : Nat) (byte : Nat → Byte) (s : State) : picKeeps (storeRef c store byte s) = picKeeps s := by
  simp [storeRef, picKeeps]

theorem picKeeps_putDst (a : W64) (cells : List (Nat × Byte)) (s : State) : picKeeps (putDst a cells s) = picKeeps s := by
  unfold putDst
  split_ifs
  · rfl
  · exact picKeeps_hostSend ..

theorem picKeeps_vidEvent (e code k : Nat) (r : RunPic) (s : State) : picKeeps (vidEvent e code k r s) = picKeeps s := rfl

/-- An event is raised or not. -/
theorem picKeeps_vidEvent_if (b : Bool) (e code k : Nat) (r : RunPic) (s : State) :
    picKeeps (if b then vidEvent e code k r s else s) = picKeeps s := by
  split_ifs <;> rfl

theorem picKeeps_modStream {s u : State} (hu : picKeeps u = picKeeps s) (k : Nat) (f : Stream → Stream) :
    picKeeps (modStream k f u) = picKeeps (modStream k f s) := by
  simp only [picKeeps, Prod.mk.injEq] at hu
  obtain ⟨hvid, hevq, hstalls, hroll⟩ := hu
  simp only [picKeeps, modStream, hvid, hevq, hstalls, hroll]

/-! ## A picture completes (R355, R368, R369) -/

/-- A picture's completion record waits for its queue (R383). -/
def Recorded (p : PicDesc) (s t : State) : Prop :=
  ∃ c ∈ (queueAt t (viaQueue s p.via)).waiting, c.kind = 3 ∧ c.tag = p.tag ∧ c.status = 0

/-- The running picture's part of a completion: its stream changes by `f`, and its record is posted. -/
def EndsPicture (r : RunPic) (s t : State) : Prop :=
  ∃ f : Stream → Stream, picKeeps t = picKeeps (modStream r.stream f s) ∧ (∀ x, x.st = .closing → (f x).st = .closing) ∧
    ((streamAt s r.stream).ctx.role = 0 → ∀ x, (f x).st = x.st) ∧ Recorded r.pic s t

section Ends
variable {s u w : State} {r : RunPic} {f : Stream → Stream}

theorem viaQueue_of_picKeeps (hu : picKeeps u = picKeeps s) (via : Via) : viaQueue u via = viaQueue s via := by
  simp only [picKeeps, Prod.mk.injEq] at hu
  cases via with
  | reg => exact hu.2.1
  | queue q => rfl

theorem picKeeps_postPicture (p : PicDesc) (stream picno order bytes flags reftag : Nat) (s : State) :
    picKeeps (postPicture p stream picno order bytes flags reftag s) = picKeeps s := rfl

theorem endsPicture_posted {stream picno order bytes flags reftag : Nat} (hw : picKeeps w = picKeeps s)
    (hu : picKeeps u = picKeeps (modStream r.stream f w)) (hclosing : ∀ x, x.st = .closing → (f x).st = .closing)
    (hrole : (streamAt s r.stream).ctx.role = 0 → ∀ x, (f x).st = x.st) :
    EndsPicture r s (postPicture r.pic stream picno order bytes flags reftag u) := by
  have hkeeps := hu.trans (picKeeps_modStream hw r.stream f)
  refine ⟨f, (picKeeps_postPicture ..).trans hkeeps, hclosing, hrole,
    { tag := r.pic.tag, status := 0, kind := 3, body := picRecord r.pic stream picno order bytes flags reftag }, ?_, rfl, rfl, rfl⟩
  have hvia : viaQueue u r.pic.via = viaQueue s r.pic.via := viaQueue_of_picKeeps (s := modStream r.stream f s) hkeeps r.pic.via
  rw [postPicture, post, hvia, queueAt_modQueue, if_pos rfl]
  exact List.mem_append_right _ (List.mem_singleton.2 rfl)

theorem endsPicture_encodeEnds (e : Nat) (src : EntryData) : EndsPicture r s (encodeEnds e r src s) := by
  refine endsPicture_posted ?_ (picKeeps_vidEvent_if ..) (fun x hx => ?_) fun _ x => ?_
  · rw [picKeeps_putDst, picKeeps_storeRef, picKeeps_vidReads]
  · exact hx
  · rfl

theorem endsPicture_decodeEnds (hrole : (streamAt s r.stream).ctx.role ≠ 0) (e : Nat) (src : EntryData) :
    EndsPicture r s (decodeEnds e r src s) := by
  refine endsPicture_posted ?_ ((picKeeps_vidEvent_if ..).trans (picKeeps_vidEvent_if ..)) (fun x hx => ?_) fun h => absurd h hrole
  · split_ifs
    · rw [picKeeps_vidReads]
    · rw [picKeeps_storeRef, picKeeps_putDst, picKeeps_vidReads]
  · simp [hx]

end Ends

section Complete
variable {s : State} {e k : Nat} {r : RunPic}

/-- An engine whose picture is done. -/
def freedEng (g : VidEng) : VidEng := { g with run := none, pictures := (g.pictures + 1) % 2 ^ 32 }

/-- Engine `e` counts its picture and is free. -/
def freed (e : Nat) (s : State) : State := { s with vid.engines := tmod {} s.vid.engines e freedEng }

/-- A stream whose CLOSE waited is CLOSED. -/
def closedStream (x : Stream) : Stream := { x with st := .closed, closer := none }

/-- Records that wait go on waiting while another is posted. -/
theorem waiting_post (via : Via) (r : CplRec) (u : State) (q : Nat) {c : CplRec} (hc : c ∈ (queueAt u q).waiting) :
    c ∈ (queueAt (post via r u) q).waiting := by
  rw [post, queueAt_modQueue]
  split_ifs with hq
  · exact List.mem_append_left _ (hq ▸ hc)
  · exact hc

theorem waiting_doneInflight (via : Via) (u : State) (q : Nat) : (queueAt (doneInflight via u) q).waiting = (queueAt u q).waiting := by
  cases via with
  | reg => rfl
  | queue w =>
    rw [doneInflight, queueAt_modQueue]
    split_ifs with hq
    · rw [hq]
    · rfl

theorem waiting_postCmd (iss : Issuer) (status : Nat) (body : List Byte) (u : State) (q : Nat) {c : CplRec}
    (hc : c ∈ (queueAt u q).waiting) : c ∈ (queueAt (postCmd iss status body u) q).waiting := by
  rw [postCmd, waiting_doneInflight]
  exact waiting_post _ _ _ _ hc

theorem closeEnds_of_closing (hst : (streamAt s k).st = .closing) : closeEnds k s = modStream k closedStream s ∨
    ∃ iss, closeEnds k s = vidDone iss 0 (modStream k closedStream s) := by
  unfold closeEnds
  rw [if_neg (by simp [hst])]
  cases (streamAt s k).closer with
  | none => exact .inl rfl
  | some iss => exact .inr ⟨iss, rfl⟩

theorem closeEnds_of_open (hst : (streamAt s k).st ≠ .closing) : closeEnds k s = s := if_pos (by simpa using hst)

/-- The end of a CLOSE that waited changes its stream and posts a record. -/
def CloseKeeps (k : Nat) (s t : State) : Prop :=
  (∀ j, streamAt t j = if j = k ∧ (streamAt s k).st = .closing then closedStream (streamAt s k) else streamAt s j) ∧
    t.vid.engines = s.vid.engines ∧ t.stalls = s.stalls ∧ t.roll = s.roll ∧
    ∀ q, ∀ c ∈ (queueAt s q).waiting, c ∈ (queueAt t q).waiting

theorem closeKeeps_closeEnds : CloseKeeps k s (closeEnds k s) := by
  by_cases hst : (streamAt s k).st = .closing
  · have hstream (j : Nat) : streamAt (modStream k closedStream s) j =
        if j = k ∧ (streamAt s k).st = .closing then closedStream (streamAt s k) else streamAt s j := by
      rw [streamAt_modStream]
      simp only [hst, and_true]
    rcases closeEnds_of_closing hst with hclose | ⟨iss, hclose⟩
    · rw [hclose]
      exact ⟨hstream, rfl, rfl, rfl, fun q c hc => hc⟩
    · rw [hclose, vidDone, vidOver]
      refine ⟨fun j => ?_, by rw [postCmd_vid]; rfl, by rw [postCmd_stalls]; rfl, by rw [postCmd_roll]; rfl,
        fun q c hc => waiting_postCmd _ _ _ _ q hc⟩
      rw [streamAt, postCmd_vid]
      exact hstream j
  · rw [closeEnds_of_open hst]
    exact ⟨fun j => (if_neg fun h => hst h.2).symm, rfl, rfl, rfl, fun q c hc => hc⟩

/-- The part of a completion that does not depend on the engine's kind. -/
theorem pictureComplete_ends (hheld : videoHeld s = false) (hrun : (vidEng s e).run = some r) (src : EntryData) :
    ∃ u, EndsPicture r s u ∧ pictureComplete e src s = closeEnds r.stream (makeEligible r.stream (freed e u)) := by
  by_cases hrole : (streamAt s r.stream).ctx.role = 0
  · refine ⟨encodeEnds e r src s, endsPicture_encodeEnds e src, ?_⟩
    simp only [pictureComplete, hrun, hheld, hrole, if_true]
    rfl
  · refine ⟨decodeEnds e r src s, endsPicture_decodeEnds hrole e src, ?_⟩
    simp only [pictureComplete, hrun, hheld, hrole, if_false]
    rfl

end Complete

/-- Settles O41: an engine's end of a picture by `EndsPicture`, the end of a CLOSE that waited by `CloseKeeps`. -/
theorem picturesStartAndComplete : Obligations.PicturesStartAndComplete := by
  intro s e
  refine ⟨fun k x p rest hbar hfree hchosen hstream hqueue => ?_, fun r src hheld hrun => ?_, fun src hnone => ?_⟩
  · have hstart := pictureStart_starts hbar hfree hchosen hqueue
    have hread (j : Nat) : streamAt (pictureStart e s) j = if j = k then startedStream p (streamAt s k) else streamAt s j := by
      rw [hstart]
      exact streamAt_modStream ..
    have heng : vidEng (pictureStart e s) e = startedEng (runOf k x p) k (vidEng s e) := by
      rw [hstart]
      exact (tget_tmod ({} : VidEng) s.vid.engines e e _).trans (if_pos rfl)
    refine ⟨pictureStart e s, rfl, ?_, ?_, ?_, ⟨runOf k x p, ?_, rfl, rfl, rfl, rfl⟩, fun j hj => ?_, ?_⟩
    · rw [hread, if_pos rfl, hstream]
      simp [startedStream, hqueue]
    · rw [hread, if_pos rfl, hstream]
      rfl
    · rw [hread, if_pos rfl]
      rfl
    · rw [heng]
      rfl
    · rw [hread, if_neg hj]
    · rw [hstart]
      rfl
  · obtain ⟨u, ⟨f, hkeeps, hclosing, hrole, c, hc, hkind, htag, hstatus⟩, hcomplete⟩ := pictureComplete_ends hheld hrun src
    simp only [picKeeps, Prod.mk.injEq] at hkeeps
    obtain ⟨hvid, hevq, hstalls, hroll⟩ := hkeeps
    obtain ⟨hstreams, hengines, hcstalls, hcroll, hwaiting⟩ := closeKeeps_closeEnds (k := r.stream) (s := makeEligible r.stream (freed e u))
    obtain ⟨order, helig⟩ := streamAt_makeEligible (freed e u) r.stream
    have hfreed (j : Nat) : streamAt (freed e u) j = if j = r.stream then f (streamAt s r.stream) else streamAt s j := by
      have hsame : streamAt (freed e u) j = tget {} u.vid.streams j := rfl
      rw [hsame, hvid]
      exact streamAt_modStream ..
    have helig' : (streamAt (makeEligible r.stream (freed e u)) r.stream).st = (f (streamAt s r.stream)).st := by
      rw [helig, if_pos rfl, hfreed, if_pos rfl]
      rfl
    have heng : vidEng (makeEligible r.stream (freed e u)) e = freedEng (vidEng s e) := by
      rw [vidEng, makeEligible_engines]
      refine (tget_tmod ({} : VidEng) u.vid.engines e e _).trans ((if_pos rfl).trans ?_)
      rw [hvid]
      rfl
    refine ⟨_, congrArg Host.Outcome.next hcomplete, ?_, ?_, ⟨c, hwaiting _ c ?_, hkind, htag, hstatus⟩, fun hencode hopen => ?_,
      fun hclose => ?_, fun j hj => ?_, ?_, ?_⟩
    · rw [vidEng, hengines, ← vidEng, heng]
      rfl
    · rw [vidEng, hengines, ← vidEng, heng]
      rfl
    · rw [makeEligible_eq]
      exact hc
    · have hst := (hrole hencode (streamAt s r.stream)).trans hopen
      rw [hstreams, helig', hst, if_neg (by simp), helig', hst]
    · rw [hstreams, helig', hclosing _ hclose, if_pos ⟨rfl, rfl⟩]
      rfl
    · rw [hstreams, if_neg fun h => hj h.1, helig, if_neg hj, hfreed, if_neg hj]
    · rw [hcstalls, makeEligible_eq]
      exact hstalls
    · rw [hcroll, makeEligible_eq]
      exact hroll
  · refine congrArg Host.Outcome.next (?_ : pictureComplete e src s = s)
    rcases hnone with hheld | hfree
    · cases hrun : (vidEng s e).run with
      | none => simp only [pictureComplete, hrun]
      | some r => simp only [pictureComplete, hrun, hheld, if_true]
    · simp only [pictureComplete, hfree]

end Sys2Proof.Machine
end

section
/-! PROOFS. Gates are enabled, train and come UP (R325, R327, R328, R403). -/

namespace Sys2Proof.Machine

/-! ## Packets that wait at a gate (R333) -/

section Pump
variable (s : State) (g : Nat)

/-- What sending keeps of a gate. -/
def SendKeeps (x y : Gate) : Prop :=
  y.st = x.st ∧ y.rxAck = x.rxAck ∧ y.rxNak = x.rxNak ∧ y.rxBuf = x.rxBuf

/-- What sending at gate `g` keeps: the other gates, the engines, and of the gate what it receives. -/
structure PumpKeeps (g : Nat) (s t : State) : Prop where
  gate : SendKeeps (gateAt s g) (gateAt t g)
  others : ∀ j, j ≠ g → gateAt t j = gateAt s j
  engines : t.gate.engines = s.gate.engines
  rest : t = { s with gate := t.gate }

theorem pumpKeeps_gatePumpFuel (f : Nat) : PumpKeeps g s (gatePumpFuel f g s) := by
  induction f generalizing s with
  | zero => exact ⟨⟨rfl, rfl, rfl, rfl⟩, fun _ _ => rfl, rfl, rfl⟩
  | succ f ih =>
    unfold gatePumpFuel
    split
    · exact ⟨⟨rfl, rfl, rfl, rfl⟩, fun _ _ => rfl, rfl, rfl⟩
    · rename_i p ack rest _
      split_ifs
      · obtain ⟨⟨hst, hack, hnak, hbuf⟩, hothers, hengines, hrest⟩ := ih (modGate g (fun x => sendFrame p ack { x with out := rest }) s)
        rw [gateAt_modGate, if_pos rfl] at hst hack hnak hbuf
        refine ⟨⟨hst, hack, hnak, hbuf⟩, fun j hj => ?_, hengines, hrest⟩
        rw [hothers j hj, gateAt_modGate, if_neg hj]
      · exact ⟨⟨rfl, rfl, rfl, rfl⟩, fun _ _ => rfl, rfl, rfl⟩

theorem pumpKeeps_gatePump : PumpKeeps g s (gatePump g s) := pumpKeeps_gatePumpFuel ..

theorem gatePump_of_none (hnone : (gateAt s g).out = []) : gatePump g s = s := by
  rw [gatePump, hnone]
  rfl

end Pump

theorem resendAll_eq (x : Gate) : ∃ freed replays, resendAll x =
    { x with freed := freed, replays := replays, unacked := (resendAll x).unacked } := by
  obtain ⟨freed, replays, h⟩ := resendList_gate x.unacked x
  exact ⟨freed, replays, by rw [resendAll, h]⟩

/-! ## EN and RETRAIN (R327, R403) -/

section Control
variable {s : State} {g : Nat} {value : W64}

theorem fld_zero_eq_one (hset : value.getLsbD 0 = true) : fld value 0 0 = 1 := (fld_bit_eq_one_iff value 0).2 hset

theorem fld_one_eq_zero (hclear : value.getLsbD 1 = false) : fld value 1 1 = 0 := (fld_bit_eq_zero_iff value 1).2 hclear

theorem gateCtlWrite_enables (hphase : s.bring.phase ≠ .refused) (hbarns : barnsOn s = true) (hgood : 8 ≤ (goodLanes s g).length)
    (hoff : (gateAt s g).en = false) (hset : value.getLsbD 0 = true) (hclear : value.getLsbD 1 = false) :
    gateCtlWrite g value s = startTraining g (modGate g (fun x => { x with en := true }) s) := by
  have hok : enIgnored s g = false := by simp [enIgnored, hphase, hbarns, hgood]
  simp [gateCtlWrite, fld_zero_eq_one hset, fld_one_eq_zero hclear, hphase, hoff, hok]

theorem gateCtlWrite_ignored (hphase : s.bring.phase ≠ .refused) (hgood : (goodLanes s g).length < 8) (hset : value.getLsbD 0 = true)
    (hclear : value.getLsbD 1 = false) : gateCtlWrite g value s = s := by
  have hok : enIgnored s g = true := by simp [enIgnored, hgood]
  simp [gateCtlWrite, fld_zero_eq_one hset, fld_one_eq_zero hclear, hphase, hok]

/-- A gate that EN = 0 turns OFF. -/
def turnedOff (x : Gate) : Gate := { x with en := false, st := .off, keep := false, unacked := [], rxBuf := [], freed := 0 }

theorem gateCtlWrite_disables (hphase : s.bring.phase ≠ .refused) (hzero : value.getLsbD 0 = false) (hclear : value.getLsbD 1 = false) :
    gateCtlWrite g value s = modGate g turnedOff s := by
  have hen : fld value 0 0 = 0 := (fld_bit_eq_zero_iff value 0).2 hzero
  simp only [gateCtlWrite, hen, fld_one_eq_zero hclear]
  simp [hphase]
  rfl

/-- A gate that begins to train. -/
def training (x : Gate) : Gate :=
  { x with st := .train, keep := x.st == .up || (x.keep && x.st == .train), retrain := false, farProp := none }

theorem gateAt_startTraining (j : Nat) : gateAt (startTraining g s) j = if j = g then training (gateAt s g) else gateAt s j :=
  gateAt_modGate s g j training

theorem engineAt_startTraining : engineAt (startTraining g s) g = { engineAt s g with err := [], warned := 0 } :=
  (engineAt_modEngine ..).trans (if_pos rfl)

/-- A gate whose training is counted. -/
def retrainCounted (x : Gate) : Gate := { x with retrains := sat 16 (x.retrains + 1) }

theorem gateRetrainWrite_trains (hen : (gateAt s g).en = true) :
    gateRetrainWrite g s = startTraining g (modGate g retrainCounted s) := by
  rw [gateRetrainWrite, if_pos hen]
  rfl

end Control

/-! ## TRAIN codewords (R327, R328) -/

section Train
variable {s : State} {g node pgate : Nat} {prop : List Nat} {locks txf : Nat}

/-- What a TRAIN codeword tells of the far end. -/
def toldBy (node pgate : Nat) (prop : List Nat) (locks : Nat) (x : Gate) : Gate :=
  { x with pnode := node, pgate := pgate, farProp := some (prop, locks) }

/-- A TRAIN codeword recorded: what it tells of the far end, and its receive failures (R327, R403). -/
def trainTold (g node pgate : Nat) (prop : List Nat) (locks txf : Nat) (s : State) : State :=
  let s := modGate g (toldBy node pgate prop locks) s
  { s with bring.opt := tmod {} s.bring.opt g fun o => { o with txfail := txf % 512 } }

theorem gateAt_trainTold (j : Nat) (s : State) : gateAt (trainTold g node pgate prop locks txf s) j =
    if j = g then toldBy node pgate prop locks (gateAt s g) else gateAt s j := gateAt_modGate s g j (toldBy node pgate prop locks)

theorem engineAt_trainTold (j : Nat) (s : State) : engineAt (trainTold g node pgate prop locks txf s) j = engineAt s j := rfl

theorem memories_trainTold (s : State) : (trainTold g node pgate prop locks txf s).flt = s.flt ∧
    (trainTold g node pgate prop locks txf s).stalls = s.stalls := ⟨rfl, rfl⟩

theorem txfail_trainTold (s : State) : (optAt (trainTold g node pgate prop locks txf s) g).txfail = txf % 512 :=
  congrArg OptQual.txfail ((tget_tmod ({} : OptQual) s.bring.opt g g fun o => { o with txfail := txf % 512 }).trans (if_pos rfl))

/-- The lanes of an UP gate that follows the far end's proposal (R328). -/
def lanesFollowed (prop : List Nat) (e : Engine) : Engine := { e with active := prop, spare := none, spared := true }

/-- An UP gate that follows the far end's proposal. -/
def followed (g : Nat) (prop : List Nat) (s : State) : State := retrained g (lanesFollowed prop (engineAt s g)) s

theorem gateAt_followed (j : Nat) (s : State) : gateAt (followed g prop s) j =
    if j = g then { resendAll (gateAt s g) with retrains := sat 16 ((gateAt s g).retrains + 1) } else gateAt s j := by
  by_cases hj : j = g
  · rw [if_pos hj, hj, followed, gateAt_retrained]
  · rw [if_neg hj]
    exact (gateAt_modGate _ g j _).trans (if_neg hj)

theorem memories_followed (s : State) : (followed g prop s).flt = s.flt ∧ (followed g prop s).stalls = s.stalls := ⟨rfl, rfl⟩

theorem engineAt_followed (s : State) :
    engineAt (followed g prop s) g = { lanesFollowed prop (engineAt s g) with err := [], warned := 0 } := engineAt_retrained ..

variable (hunit : unitStopped s 5 g = false)
include hunit

/-- A codeword that changes nothing here is recorded. -/
theorem trainReceive_records (hst : (gateAt s g).st = .train ∨ (gateAt s g).st = .up ∧ prop = (engineAt s g).active) :
    trainReceive g node pgate prop locks txf s = trainTold g node pgate prop locks txf s := by
  have hkeep : farRetrains g prop s = s := by
    unfold farRetrains
    rcases hst with hst | ⟨-, hprop⟩ <;> simp [*]
  have hon : ((gateAt s g).st == .off) = false := by
    rcases hst with hst | ⟨hst, -⟩ <;> simp [hst]
  have hup : ((gateAt s g).st == .down) = false := by
    rcases hst with hst | ⟨hst, -⟩ <;> simp [hst]
  simp only [trainReceive, hon, hunit, hkeep, hup]
  rfl

/-- An UP gate follows a far end that proposes other wavelengths. -/
theorem trainReceive_follows (hmain : s.bring.drill = false) (hst : (gateAt s g).st = .up) (hother : prop ≠ (engineAt s g).active)
    (hlen : prop.length = 8) (hlocked : ∀ w ∈ prop, (engineAt s g).locked.testBit w = true) :
    trainReceive g node pgate prop locks txf s = trainTold g node pgate prop locks txf (followed g prop s) := by
  have hfollow : farRetrains g prop s = followed g prop s := by
    unfold farRetrains
    dsimp only
    rw [if_pos (by simpa [hst, hother, hlen, hmain] using hlocked)]
    rfl
  have hup : ((gateAt (followed g prop s) g).st == .down) = false := by
    rw [gateAt_followed, if_pos rfl]
    simp [resendAll_st, hst]
  have hon : ((gateAt s g).st == .off) = false := by simp [hst]
  simp only [trainReceive, hon, hunit, hfollow, hup]
  rfl

/-- Both ends adopt the map, and the gate is UP. -/
def linkUp (x : Gate) : Gate := { (if x.keep then resendAll x else freshLink x) with st := .up, keep := false }

omit hunit in
theorem linkUp_out (x : Gate) : (linkUp x).out = x.out := by
  obtain ⟨freed, replays, hresend⟩ := resendAll_eq x
  unfold linkUp
  split_ifs
  · rw [hresend]
  · rfl

/-- The engine of a link that comes UP. -/
def lanesAdopted (map : List Nat) (spare : Option Nat) (e : Engine) : Engine := { e with active := map, spare := spare, spared := false }

theorem trainDone_adopts {map : List Nat} (hst : (gateAt s g).st = .train) (hmap : adopted s g = some map) :
    ∃ spare, trainDone g s = gatePump g (modGate g linkUp (modEngine g (lanesAdopted map spare) s)) := by
  refine ⟨(goodLanes s g).find? fun w => !map.contains w, ?_⟩
  simp only [trainDone, hst, hunit, hmap]
  rfl

end Train

theorem length_adopted {s : State} {g : Nat} {map : List Nat} (hmap : adopted s g = some map) : map.length = 8 := by
  unfold adopted at hmap
  dsimp only at hmap
  split at hmap
  · exact absurd hmap (by simp)
  · split_ifs at hmap <;> simp_all

/-- Settles O37: each write and each codeword by what it makes of the gate and its engine. -/
theorem gatesTrain : Obligations.GatesTrain := by
  intro s g value hup
  have hreach : Reaches s .priv (gateBase + 0x100 + 8 * g) := reaches_priv hup
  refine ⟨fun hphase hbarns hgood hoff hset hclear => ?_,
    fun hphase hgood hset hclear => next_of_reaches hreach (gateCtlWrite_ignored hphase hgood hset hclear),
    fun hphase hzero hclear => ?_, fun hen => ?_, fun node pgate prop locks txf hunit hst => ?_,
    fun node pgate prop locks txf hunit hmain hst hother hlen hlocked => ?_, fun map hunit hst hmap => ?_⟩
  · refine ⟨_, next_of_reaches hreach (gateCtlWrite_enables hphase hbarns hgood hoff hset hclear), ?_, ?_, ?_, fun j hj => ?_, rfl, rfl⟩
    · rw [gateAt_startTraining, if_pos rfl, gateAt_modGate, if_pos rfl]
      rfl
    · rw [gateAt_startTraining, if_pos rfl]
      rfl
    · rw [engineAt_startTraining]
    · rw [gateAt_startTraining, if_neg hj, gateAt_modGate, if_neg hj]
  · refine ⟨_, next_of_reaches hreach (gateCtlWrite_disables hphase hzero hclear), ?_, ?_, fun j hj => ?_, rfl, rfl⟩
    · rw [gateAt_modGate, if_pos rfl]
      rfl
    · rw [gateAt_modGate, if_pos rfl]
      rfl
    · rw [gateAt_modGate, if_neg hj]
  · refine ⟨_, next_of_reaches hreach (gateRetrainWrite_trains hen), ?_, ?_, ?_, fun j hj => ?_, rfl, rfl⟩
    · rw [gateAt_startTraining, if_pos rfl]
      rfl
    · rw [gateAt_startTraining, if_pos rfl, gateAt_modGate, if_pos rfl]
      rfl
    · rw [gateAt_startTraining, if_pos rfl, gateAt_modGate, if_pos rfl]
      rfl
    · rw [gateAt_startTraining, if_neg hj, gateAt_modGate, if_neg hj]
  · refine ⟨trainTold g node pgate prop locks txf s, congrArg Host.Outcome.next (trainReceive_records hunit hst), ?_, txfail_trainTold s,
      fun j hj => ?_, rfl, rfl⟩
    · rw [gateAt_trainTold, if_pos rfl]
      rfl
    · rw [gateAt_trainTold, if_neg hj]
  · have hlanes : engineAt (trainTold g node pgate prop locks txf (followed g prop s)) g =
        { lanesFollowed prop (engineAt s g) with err := [], warned := 0 } :=
      (engineAt_trainTold g (followed g prop s)).trans (engineAt_followed s)
    refine ⟨trainTold g node pgate prop locks txf (followed g prop s),
      congrArg Host.Outcome.next (trainReceive_follows hunit hmain hst hother hlen hlocked), ?_, ?_, ?_, ?_, ?_, ?_, txfail_trainTold _,
      fun j hj => ?_, (memories_trainTold _).1.trans (memories_followed s).1, (memories_trainTold _).2.trans (memories_followed s).2⟩
    · rw [gateAt_trainTold, if_pos rfl, gateAt_followed, if_pos rfl]
      exact (resendAll_st _).trans hst
    · rw [hlanes]
      rfl
    · rw [hlanes]
      rfl
    · rw [hlanes]
      rfl
    · rw [gateAt_trainTold, if_pos rfl, gateAt_followed, if_pos rfl]
      exact resendAll_seq _
    · rw [gateAt_trainTold, if_pos rfl, gateAt_followed, if_pos rfl]
      rfl
    · rw [gateAt_trainTold, if_neg hj, gateAt_followed, if_neg hj]
  · obtain ⟨spare, hdone⟩ := trainDone_adopts hunit hst hmap
    obtain ⟨⟨hup, -, -, -⟩, -, hengines, hrest⟩ := pumpKeeps_gatePump (modGate g linkUp (modEngine g (lanesAdopted map spare) s)) g
    have hgate : gateAt (modGate g linkUp (modEngine g (lanesAdopted map spare) s)) g = linkUp (gateAt s g) := by
      rw [gateAt_modGate, if_pos rfl, gateAt_modEngine]
    have hquiet (hout : (gateAt s g).out = []) : gateAt (gatePump g (modGate g linkUp (modEngine g (lanesAdopted map spare) s))) g =
        linkUp (gateAt s g) := by
      rw [gatePump_of_none _ _ (by rw [hgate, linkUp_out, hout]), hgate]
    refine ⟨_, congrArg Host.Outcome.next hdone, ?_, ?_, length_adopted hmap, fun hkeep hout => ?_, fun hkeep hout => ?_, ?_, ?_⟩
    · rw [hup, hgate]
      rfl
    · rw [engineAt, hengines]
      exact congrArg Engine.active ((engineAt_modEngine s g g (lanesAdopted map spare)).trans (if_pos rfl))
    · rw [hquiet hout, linkUp, hkeep]
      exact ⟨rfl, rfl, rfl⟩
    · rw [hquiet hout, linkUp, hkeep]
      exact resendAll_seq _
    · rw [hrest]
      rfl
    · rw [hrest]
      rfl

end Sys2Proof.Machine
end

section
/-! PROOFS. Gate frames in order, acknowledged, repeated and limited (R323, R324, R326). -/

namespace Sys2Proof.Machine

/-! ## What a frame's control word does (R323, R324, R342) -/

section Acks
variable (s : State) (g : Nat)

theorem ackOp_stalls (n d i : Nat) : ackOp n d i s = { s with stalls := (ackOp n d i s).stalls } := by
  unfold ackOp
  split <;> rfl

/-- The writes that acknowledged frames carried are counted at their stalls. -/
theorem foldl_ack_stalls (l : List TxFrame) : ∃ stalls, l.foldl (fun s f => match f.ack with
    | some (n, d, i) => ackOp n d i s
    | none => s) s = { s with stalls := stalls } := by
  induction l generalizing s with
  | nil => exact ⟨s.stalls, rfl⟩
  | cons f l ih =>
    rw [List.foldl_cons]
    cases f.ack with
    | none => exact ih s
    | some a =>
      obtain ⟨n, d, i⟩ := a
      obtain ⟨stalls, h⟩ := ih (ackOp n d i s)
      dsimp only
      rw [h, ackOp_stalls]
      exact ⟨stalls, rfl⟩

/-- Frames of a gate dropped. -/
def droppedFrames (n : Nat) (x : Gate) : Gate := { x with unacked := x.unacked.drop n }

/-- An acknowledgement that names a frame drops it and those before it. -/
theorem ackFrames_names {pre post : List TxFrame} {f : TxFrame} (hunacked : (gateAt s g).unacked = pre ++ f :: post)
    (hpre : ∀ x ∈ pre, x.seq ≠ f.seq) :
    ∃ stalls, ackFrames g f.seq s = { modGate g (droppedFrames (pre.length + 1)) s with stalls := stalls } := by
  have hany : ((gateAt s g).unacked.any fun x => x.seq = f.seq) = true := by simp [hunacked]
  have htake : ((gateAt s g).unacked.takeWhile fun x => x.seq ≠ f.seq) = pre := by
    rw [hunacked, List.takeWhile_append_of_pos fun x hx => by simpa using hpre x hx]
    simp
  have hdrop : ((gateAt s g).unacked.dropWhile fun x => x.seq ≠ f.seq) = f :: post := by
    rw [hunacked, List.dropWhile_append_of_pos fun x hx => by simpa using hpre x hx]
    simp
  obtain ⟨stalls, h⟩ := foldl_ack_stalls (modGate g (droppedFrames (pre.length + 1)) s) (pre ++ [f])
  refine ⟨stalls, Eq.trans ?_ h⟩
  simp only [ackFrames, hany, htake, hdrop, if_true, List.take_succ_cons, List.take_zero, List.length_append, List.length_singleton]
  rfl

/-- From `s` to `t` gate `g` has kept what it receives, and the loft and the fault block are as they were. -/
structure LinkKeeps (g : Nat) (s t : State) : Prop where
  gate : SendKeeps (gateAt s g) (gateAt t g)
  loft : t.loft = s.loft
  flt : t.flt = s.flt

theorem LinkKeeps.refl (g : Nat) (s : State) : LinkKeeps g s s := ⟨⟨rfl, rfl, rfl, rfl⟩, rfl, rfl⟩

theorem LinkKeeps.trans {g : Nat} {s t u : State} (hst : LinkKeeps g s t) (htu : LinkKeeps g t u) : LinkKeeps g s u := by
  obtain ⟨⟨h1, h2, h3, h4⟩, h5, h6⟩ := hst
  obtain ⟨⟨k1, k2, k3, k4⟩, k5, k6⟩ := htu
  exact ⟨⟨k1.trans h1, k2.trans h2, k3.trans h3, k4.trans h4⟩, k5.trans h5, k6.trans h6⟩

theorem linkKeeps_modGate {f : Gate → Gate} (hf : ∀ x, SendKeeps x (f x)) : LinkKeeps g s (modGate g f s) := by
  refine ⟨?_, rfl, rfl⟩
  rw [gateAt_modGate, if_pos rfl]
  exact hf _

theorem linkKeeps_acks (l : List TxFrame) : LinkKeeps g s (l.foldl (fun s f => match f.ack with
    | some (n, d, i) => ackOp n d i s
    | none => s) s) := by
  obtain ⟨stalls, h⟩ := foldl_ack_stalls s l
  rw [h]
  exact ⟨⟨rfl, rfl, rfl, rfl⟩, rfl, rfl⟩

theorem linkKeeps_ackFrames (ack : Nat) : LinkKeeps g s (ackFrames g ack s) := by
  unfold ackFrames
  dsimp only
  split_ifs
  · exact .trans (linkKeeps_modGate s g (f := droppedFrames _) fun x => ⟨rfl, rfl, rfl, rfl⟩) (linkKeeps_acks _ g _)
  · exact .refl g s

theorem sendKeeps_resendAll (x : Gate) : SendKeeps x (resendAll x) := by
  obtain ⟨freed, replays, h⟩ := resendAll_eq x
  rw [h]
  exact ⟨rfl, rfl, rfl, rfl⟩

theorem linkKeeps_gatePump : LinkKeeps g s (gatePump g s) := by
  obtain ⟨hgate, -, -, hrest⟩ := pumpKeeps_gatePump s g
  refine ⟨hgate, ?_, ?_⟩ <;> rw [hrest]

theorem linkKeeps_readControl (ctrl : BitVec 48) : LinkKeeps g s (readControl g ctrl s) := by
  unfold readControl
  dsimp only
  refine .trans ?_ (linkKeeps_gatePump _ g)
  refine .trans ?_ (linkKeeps_modGate _ g fun x => ⟨rfl, rfl, rfl, rfl⟩)
  split_ifs
  · exact .trans (linkKeeps_ackFrames ..) (linkKeeps_modGate _ g sendKeeps_resendAll)
  · exact linkKeeps_ackFrames ..

/-- The link credits of a control word taken (R325). -/
def lcredTaken (n : Nat) (x : Gate) : Gate := { x with credits := x.credits + n }

/-- A control word without NAK drops the frames that its ACK names, and sends none again. -/
theorem unacked_readControl {pre post : List TxFrame} {f : TxFrame} {ctrl : BitVec 48} (hunacked : (gateAt s g).unacked = pre ++ f :: post)
    (hseq : f.seq = (ctrl.extractLsb' 0 8).toNat) (hpre : ∀ x ∈ pre, x.seq ≠ f.seq) (hnak : ctrl.getLsbD 8 = false)
    (hout : (gateAt s g).out = []) : (gateAt (readControl g ctrl s) g).unacked = post := by
  obtain ⟨stalls, hack⟩ := ackFrames_names s g hunacked hpre
  have hfield : bits ctrl.toNat 7 0 = f.seq := by simp [hseq, bits]
  have hclear : ctrl.toNat.testBit 8 = false := by rw [BitVec.testBit_toNat, hnak]
  have hcontrol : readControl g ctrl s = gatePump g (modGate g (lcredTaken (bits ctrl.toNat 19 10)) (ackFrames g f.seq s)) := by
    simp only [readControl, hfield, hclear]
    rfl
  have hgate : gateAt (ackFrames g f.seq s) g = droppedFrames (pre.length + 1) (gateAt s g) := by
    rw [hack]
    exact (gateAt_modGate ..).trans (if_pos rfl)
  have hread : gateAt (modGate g (lcredTaken (bits ctrl.toNat 19 10)) (ackFrames g f.seq s)) g =
      lcredTaken (bits ctrl.toNat 19 10) (droppedFrames (pre.length + 1) (gateAt s g)) := by
    rw [gateAt_modGate, if_pos rfl, hgate]
  rw [hcontrol, gatePump_of_none _ _ (by rw [hread]; exact hout), hread]
  simp [lcredTaken, droppedFrames, hunacked]

end Acks

/-! ## Frames that arrive (R322 to R324) -/

section Frames
variable {s : State} {g seq : Nat} {bad : List Nat} {ctrl : BitVec 48} {payload : List Byte} (hup : (gateAt s g).st = .up)
  (hunit : unitStopped s 5 g = false)
include hup hunit

/-- A frame whose codewords decode is read; what the spare carried does not matter. -/
theorem frameReceive_decoded (hgood : ∀ l ∈ bad, 8 ≤ l) : frameReceive g bad seq ctrl payload s =
    modGate g (acceptFrame seq payload) (readControl g ctrl (countUncorr g bad s)) := by
  have hall : (bad.all fun l => decide (8 ≤ l)) = true := by simpa using hgood
  have hst : (gateAt (countUncorr g bad s) g).st = .up := hup
  simp [frameReceive, hunit, hup, hst, hall]

/-- A bad codeword of the frame sets NAK. -/
theorem frameReceive_bad (hbad : ∃ l ∈ bad, l < 8) : frameReceive g bad seq ctrl payload s =
    modGate g (fun x => { x with rxNak := true }) (countUncorr g bad s) := by
  have hall : (bad.all fun l => decide (8 ≤ l)) = false := by simpa using hbad
  have hst : (gateAt (countUncorr g bad s) g).st = .up := hup
  simp [frameReceive, hunit, hup, hst, hall]

end Frames

theorem linkKeeps_countUncorr (g : Nat) (bad : List Nat) (s : State) : LinkKeeps g s (countUncorr g bad s) :=
  ⟨⟨rfl, rfl, rfl, rfl⟩, rfl, rfl⟩

/-- Settles O38: what a frame's control word does keeps what the gate receives, by `linkKeeps_readControl`. -/
theorem gateFramesInOrder : Obligations.GateFramesInOrder := by
  intro s g hup hunit
  refine ⟨fun bad seq ctrl payload hgood hseq => ?_, fun bad seq ctrl payload hgood hseq => ?_, fun bad seq ctrl payload hbad => ?_,
    fun f rest hunacked hlen hmain => ?_, fun hlimit => ?_, fun hunacked => ?_⟩
  · obtain ⟨⟨hst, hack, -, hbuf⟩, hloft, hflt⟩ := LinkKeeps.trans (linkKeeps_countUncorr g bad s) (linkKeeps_readControl _ g ctrl)
    have haccept (x : Gate) (hx : x.rxAck = (gateAt s g).rxAck) : acceptFrame seq payload x = { x with
        rxAck := seq, rxNak := false, rxBuf := dropIdle (x.rxBuf ++ chunks 128 (padTo 5120 payload)) } := by
      rw [acceptFrame, if_pos (by rw [hseq, hx])]
    refine ⟨_, congrArg Host.Outcome.next (frameReceive_decoded hup hunit hgood), ?_⟩
    rw [gateAt_modGate, if_pos rfl, haccept _ hack]
    refine ⟨rfl, rfl, ?_, hst.trans hup, fun pre f post hunacked hname hpre hnak hout => ?_, hloft, hflt⟩
    · dsimp only
      rw [hbuf]
    · exact unacked_readControl (countUncorr g bad s) g hunacked hname hpre hnak hout
  · obtain ⟨⟨hst, hack, -, hbuf⟩, hloft, hflt⟩ := LinkKeeps.trans (linkKeeps_countUncorr g bad s) (linkKeeps_readControl _ g ctrl)
    have hrefuse (x : Gate) (hx : x.rxAck = (gateAt s g).rxAck) : acceptFrame seq payload x = { x with rxNak := true } := by
      rw [acceptFrame, if_neg (by rwa [hx])]
    refine ⟨_, congrArg Host.Outcome.next (frameReceive_decoded hup hunit hgood), ?_⟩
    rw [gateAt_modGate, if_pos rfl, hrefuse _ hack]
    exact ⟨hack, rfl, hbuf, hloft, hflt⟩
  · refine ⟨_, congrArg Host.Outcome.next (frameReceive_bad hup hunit hbad), ?_, rfl, rfl, rfl⟩
    rw [gateAt_modGate, if_pos rfl]
    rfl
  · refine congrArg Host.Outcome.next (?_ : repeatOldest g s = _)
    have hfull : 128 ≤ (f :: rest).length := by
      rw [List.length_cons]
      omega
    simp only [repeatOldest, hunacked]
    rw [if_pos ⟨by simp [hup], hfull, by simp [hmain]⟩]
    rfl
  · have hany : ((gateAt s g).unacked.any fun f => decide (8 ≤ f.sends)) = true := by simpa using hlimit
    refine ⟨gateDown g 0xF s, _, congrArg Host.Outcome.next (if_pos (by simp [hup, hany])), ?_, rfl, rfl, rfl, fun j hj => ?_, rfl⟩
    · rw [gateAt_gateDown]
    · rw [gateDown, gateAt_raise, gateAt_modGate, if_neg hj]
  · have hsome : (gateAt s g).unacked.isEmpty = false := by simpa using hunacked
    refine ⟨gateDown g 0xF s, _, congrArg Host.Outcome.next (if_pos (by simp [hup, hsome])), ?_, rfl, rfl, rfl, fun j hj => ?_, rfl⟩
    · rw [gateAt_gateDown]
    · rw [gateDown, gateAt_raise, gateAt_modGate, if_neg hj]

end Sys2Proof.Machine
end

section
/-! PROOFS. Gate packets pass through or arrive (R323, R329, R331, R337, R342, R344). -/

namespace Sys2Proof.Machine

/-! ## The packet at the front of a gate (R329, R331) -/

section Front
variable {s : State} {g : Nat} {q : GatePkt} (hmain : s.bring.drill = false) (hfront : frontPkt s g = some q)
include hmain hfront

/-- A packet for this device is given to its handler. -/
theorem withFront_delivers (hroute : routeStep g q = none) (f : GatePkt → State → State) : withFront g q.op f s = f q s := by
  simp [withFront, hfront, hmain, hroute]

/-- A packet for another device goes on where its gate has room. -/
theorem withFront_relays {out : Nat} {straight : Bool} {q' : GatePkt} (hroute : routeStep g q = some (out, straight, q'))
    (hroom : gateRoom (gateAt s out) q' straight = true) (f : GatePkt → State → State) :
    withFront g q.op f s = popPkt g q (modGate out (sendFrame q' none) s) := by
  simp [withFront, hfront, hmain, hroute, relay, hroom]

end Front

section Relay
variable (s : State) (g out : Nat) (q q' : GatePkt)

/-- The low byte of a control word is its ACK (R323). -/
theorem extract_ctrlWord (x : Gate) (rep : Bool) : (ctrlWord x rep).extractLsb' 0 8 = BitVec.ofNat 8 x.rxAck := by
  refine BitVec.eq_of_toNat_eq ?_
  simp [ctrlWord, pack]
  omega

/-- A packet taken from the front of a gate. -/
def frontTaken (q : GatePkt) (x : Gate) : Gate := { x with rxBuf := (dropIdle x.rxBuf).drop (pktSlots q), freed := x.freed + pktSlots q }

theorem gateAt_popPkt (j : Nat) : gateAt (popPkt g q s) j = if j = g then frontTaken q (gateAt s g) else gateAt s j :=
  gateAt_modGate s g j (frontTaken q)

theorem gateAt_relayed (j : Nat) : gateAt (popPkt g q (modGate out (sendFrame q' none) s)) j =
    if j = g then frontTaken q (gateAt (modGate out (sendFrame q' none) s) g) else gateAt (modGate out (sendFrame q' none) s) j :=
  gateAt_popPkt ..

theorem unacked_relayed : (gateAt (popPkt g q (modGate out (sendFrame q' none) s)) out).unacked = (gateAt s out).unacked ++
    [{ seq := (gateAt s out).txSeq, pkt := q', sends := 1, ack := none, ctrl := ctrlWord (gateAt s out) false }] := by
  have hsent : gateAt (modGate out (sendFrame q' none) s) out = sendFrame q' none (gateAt s out) :=
    (gateAt_modGate ..).trans (if_pos rfl)
  rw [gateAt_relayed]
  split_ifs with hout
  · rw [← hout, hsent]
    rfl
  · rw [hsent]
    rfl

theorem freed_relayed (hout : out ≠ g) :
    (gateAt (popPkt g q (modGate out (sendFrame q' none) s)) g).freed = (gateAt s g).freed + pktSlots q := by
  rw [gateAt_relayed, if_pos rfl, gateAt_modGate, if_neg hout.symm]
  rfl

end Relay

/-! ## DATA for this device (R342) -/

section Data
variable (s : State) (g : Nat) (q : GatePkt)

/-- A DATA packet counted and taken from its gate. -/
def dataTaken : State := countPkts 4 1 (countRx q.group (popPkt g q s))

theorem expectedTile_dataTaken (n p w : Nat) : expectedTile (dataTaken s g q) n p w = expectedTile s n p w := rfl

theorem stallP_dataTaken (p : Nat) : stallP (dataTaken s g q) p = stallP s p := rfl

theorem imgAt_dataTaken (k : Nat) : imgAt (dataTaken s g q) k = imgAt s k := rfl

theorem dataTaken_rest : (dataTaken s g q).flt = s.flt ∧ (dataTaken s g q).loft = s.loft := ⟨rfl, rfl⟩

variable {s g q} {p : Nat} {l : Loaded} (hphys : physOf s q.stall = some p) (hloaded : (stallP s p).loaded = some l)
include hphys hloaded

theorem gateDeliver_stores (hexpected : ∀ d n it, expectedTile s q.stall p q.window = some (d, n, it) → n % 2 ^ 16 = q.tile) :
    gateDeliver g q s = gateStore q.stall p l.slot q (dataTaken s g q) := by
  have hphys' : physOf (dataTaken s g q) q.stall = some p := hphys
  have hloaded' : (stallP (dataTaken s g q) p).loaded = some l := hloaded
  unfold gateDeliver
  rw [← dataTaken]
  simp only [hphys', hloaded', expectedTile_dataTaken]
  cases htile : expectedTile s q.stall p q.window with
  | none => rfl
  | some e =>
    obtain ⟨d, n, it⟩ := e
    exact if_pos (hexpected d n it htile)

theorem gateDeliver_conflicts {d n : Nat} {it : List Nat} (hexpected : expectedTile s q.stall p q.window = some (d, n, it))
    (hother : n % 2 ^ 16 ≠ q.tile) : gateDeliver g q s = stallFault p 0x0204 (detL d it) (dataTaken s g q) := by
  have hphys' : physOf (dataTaken s g q) q.stall = some p := hphys
  have hloaded' : (stallP (dataTaken s g q) p).loaded = some l := hloaded
  unfold gateDeliver
  rw [← dataTaken]
  simp only [hphys', hloaded', expectedTile_dataTaken, hexpected]
  exact if_neg hother

end Data

/-- A stall that stops at a fault of its own has raised it, and keeps its scratch. -/
theorem stallFault_logs (p code : Nat) (detail : List Byte) (u : State) :
    ∃ x, (stallFault p code detail u).flt.raised = u.flt.raised ++ [x] ∧ x.code = code ∧ x.unit = p ∧
      (stallP (stallFault p code detail u) p).jstop = true ∧
      (∀ y, (stallP (stallFault p code detail u) y).scratch = (stallP u y).scratch) ∧ (stallFault p code detail u).loft = u.loft := by
  refine ⟨_, rfl, rfl, rfl, ?_, fun y => ?_, rfl⟩
  · rw [stallP_stallFault, if_pos rfl]
  · rw [stallP_stallFault]
    split_ifs with hy
    · rw [hy]
    · rfl

section Store
variable {s : State} {n p slot : Nat} {q : GatePkt} {r : WinRec}

/-- The bytes of a packet in its window entry. -/
def bytesEntered (q : GatePkt) (r : WinRec) (x : Stall) : Stall :=
  { x with scratch := memWrite x.scratch (r.base + q.entry % max 1 r.cap * r.size + 16 * q.offset) q.payload }

/-- The tile that a packet ends, held by its window. -/
def tileEnded (q : GatePkt) (r : WinRec) (x : Stall) : Stall :=
  { x with wins := tset x.wins q.window (tget [] x.wins q.window ++
    [{ entry := q.entry % max 1 r.cap, tile := q.tile, grp := some (q.group, q.member) }]) }

variable (hwin : windowOf (imgAt s slot) n q.window = some r)
include hwin

theorem gateStore_part (hpart : 480 ≤ q.payload.length) : gateStore n p slot q s = modStallP p (bytesEntered q r) s := by
  simp only [gateStore, hwin]
  exact if_neg (Nat.not_lt.2 hpart)

theorem gateStore_ends (hend : q.payload.length < 480) : gateStore n p slot q s =
    overflowCheck n p q.window r.cap (modStallP p (tileEnded q r) (modStallP p (bytesEntered q r) s)) := by
  simp only [gateStore, hwin]
  exact if_pos hend

/-- What a DATA packet makes of its stall and leaves alone. -/
theorem gateStore_stores : ∃ t, gateStore n p slot q s = t ∧
    (stallP t p).scratch = memWrite (stallP s p).scratch (r.base + q.entry % max 1 r.cap * r.size + 16 * q.offset) q.payload ∧
    (q.payload.length < 480 → tget [] (stallP t p).wins q.window = tget [] (stallP s p).wins q.window ++
      [{ entry := q.entry % max 1 r.cap, tile := q.tile, grp := some (q.group, q.member) }]) ∧
    (480 ≤ q.payload.length → t.flt = s.flt) ∧ (∀ x, x ≠ p → stallP t x = stallP s x) ∧ t.loft = s.loft := by
  by_cases hend : q.payload.length < 480
  · obtain ⟨hwins, hscratch, hothers, hloft, -, -⟩ := windowKept_overflowCheck n p q.window r.cap
      (modStallP p (tileEnded q r) (modStallP p (bytesEntered q r) s))
    have hstall (x : Nat) : stallP (modStallP p (tileEnded q r) (modStallP p (bytesEntered q r) s)) x =
        if x = p then tileEnded q r (bytesEntered q r (stallP s p)) else stallP s x := by
      rw [stallP_modStallP, stallP_modStallP, stallP_modStallP, if_pos rfl]
      split_ifs <;> rfl
    refine ⟨_, gateStore_ends hwin hend, ?_, fun _ => ?_, fun hpart => absurd hend (Nat.not_lt.2 hpart), fun x hx => ?_, hloft⟩
    · rw [hscratch, hstall, if_pos rfl]
      rfl
    · rw [hwins, hstall, if_pos rfl, tileEnded, tget_tset, if_pos rfl]
      rfl
    · rw [hothers x hx, hstall, if_neg hx]
  · refine ⟨_, gateStore_part hwin (Nat.not_lt.1 hend), ?_, fun h => absurd h hend, fun _ => rfl, fun x hx => ?_, rfl⟩
    · rw [stallP_modStallP, if_pos rfl]
      rfl
    · rw [stallP_modStallP, if_neg hx]

end Store

/-! ## CREDIT and ABORT for this device (R337, R344) -/

section Credit
variable (s : State) (g k : Nat) (q : GatePkt)

theorem takeCredit_counts :
    tget 0 (takeCredit g q s).gate.sendCred k = tget 0 s.gate.sendCred k + (if k = q.stall * 64 + q.window then q.tile else 0) ∧
    tget 0 (takeCredit g q s).gate.granted k = tget 0 s.gate.granted k + (if k = q.stall * 64 + q.window then q.tile else 0) := by
  have hcount (t : Table Nat) : tget 0 (tmod 0 t (q.stall * 64 + q.window) fun c => c + q.tile) k =
      tget 0 t k + if k = q.stall * 64 + q.window then q.tile else 0 := by
    rw [tget_tmod]
    split_ifs with hk <;> simp [hk]
  exact ⟨hcount s.gate.sendCred, hcount s.gate.granted⟩

end Credit

section Abort
variable {s : State} {g : Nat} {q : GatePkt}

theorem aborts_gatePumpFuel (f g : Nat) (s : State) : (gatePumpFuel f g s).gate.aborts = s.gate.aborts := by
  induction f generalizing s with
  | zero => rfl
  | succ f ih =>
    unfold gatePumpFuel
    split
    · rfl
    · split_ifs
      · exact ih _
      · rfl

theorem aborts_gateQueue (p : GatePkt) (ack : Option (Nat × Nat × Nat)) (front : Bool) (s : State) :
    (gateQueue p ack front s).gate.aborts = s.gate.aborts := by
  unfold gateQueue
  by_cases hself : routeNseg p.routeHi = 0
  · rw [if_pos hself]
  · rw [if_neg hself]
    refine (aborts_gatePumpFuel ..).trans ?_
    by_cases hdata : p.op = 1
    · rw [if_pos hdata]
      rfl
    · rw [if_neg hdata]
      rfl

/-- An ABORT taken from its gate and counted. -/
def abortCounted (g : Nat) (q : GatePkt) (s : State) : State :=
  { popPkt g q s with gate.aborts := sat 16 (s.gate.aborts + 1) }

/-- The member to which an ABORT is passed on, away from its sender (R344). -/
def abortNext (s : State) (q : GatePkt) : Nat :=
  let n := grpNmem (groupAt s q.group)
  let self := grpSelf (groupAt s q.group)
  if q.member = predMember n self then succMember n self else predMember n self

theorem raise_logs (code source unit lstall : Nat) (detail : List Byte) (u : State) :
    ∃ r, (raise code source unit lstall detail u).flt.raised = u.flt.raised ++ [r] ∧ r.code = code ∧ r.unit = unit :=
  ⟨_, rfl, rfl, rfl⟩

/-- An ABORT passed on, and the sender's loss reported. -/
def abortPassed (g : Nat) (q : GatePkt) (s : State) : State :=
  raise 0x0504 5 g 0x7FF (detG g 0xF q.group q.member) (gateQueue (memberPkt s q.group (abortNext s q) 3) none true s)

/-- A received ABORT is discarded where the job has stopped or no resident image names its group. -/
theorem takeAbort_eq : takeAbort g q s = if s.flt.jstopped || stopped s || !(namedGroups s).contains q.group then abortCounted g q s
    else abortPassed g q (abortCounted g q s) := rfl

theorem abortPassed_keeps (s : State) : (abortPassed g q s).gate.aborts = s.gate.aborts ∧ (abortPassed g q s).stalls = s.stalls ∧
    (abortPassed g q s).loft = s.loft ∧
    ∃ r, (abortPassed g q s).flt.raised = s.flt.raised ++ [r] ∧ r.code = 0x0504 ∧ r.unit = g := by
  have haborts := aborts_gateQueue (memberPkt s q.group (abortNext s q) 3) none true s
  have hrest := gateQueue_eq s (memberPkt s q.group (abortNext s q) 3) none true
  obtain ⟨r, hraised, hcode, hunit⟩ := raise_logs 0x0504 5 g 0x7FF (detG g 0xF q.group q.member)
    (gateQueue (memberPkt s q.group (abortNext s q) 3) none true s)
  have hstalls := congrArg State.stalls hrest
  have hloft := congrArg State.loft hrest
  have hflt := congrArg (fun u : State => u.flt.raised ++ [r]) hrest
  exact ⟨haborts, hstalls, hloft, r, hraised.trans hflt, hcode, hunit⟩

end Abort

/-- Settles O39: a packet is relayed by `withFront_relays`, or given to its handler by `withFront_delivers`. -/
theorem gatePacketsArrive : Obligations.GatePacketsArrive := by
  intro s g q hmain hfront
  refine ⟨fun out straight q' hroute hroom c hc => ?_, fun hroute hop p l r hphys hloaded hwin => ⟨fun hexpected => ?_,
    fun d n it hexpected hother => ?_⟩, fun hroute hop => ?_, fun hroute hop => ?_⟩
  · have hrelay : exec c s = .next (popPkt g q (modGate out (sendFrame q' none) s)) := by
      have hfwd := withFront_relays hmain hfront hroute hroom
      simp only [List.mem_cons, Prod.mk.injEq, List.not_mem_nil, or_false] at hc
      rcases hc with ⟨hop, rfl⟩ | ⟨hop, rfl⟩ | ⟨hop, rfl⟩ <;> rw [hop] at hfwd
      · exact congrArg Host.Outcome.next (hfwd (gateDeliver g))
      · exact congrArg Host.Outcome.next (hfwd (takeCredit g))
      · exact congrArg Host.Outcome.next (hfwd (takeAbort g))
    exact ⟨_, _, hrelay, unacked_relayed s g out q q', rfl, rfl, extract_ctrlWord _ _, freed_relayed s g out q q', rfl, rfl, rfl⟩
  · obtain ⟨t, ht, hscratch, hwins, hflt, hothers, hloft⟩ := gateStore_stores (n := q.stall) (p := p) (slot := l.slot) (q := q) (r := r)
      (s := dataTaken s g q) (by rwa [imgAt_dataTaken])
    have hdeliver := (withFront_delivers hmain hfront hroute (gateDeliver g)).trans ((gateDeliver_stores hphys hloaded hexpected).trans ht)
    rw [hop] at hdeliver
    obtain ⟨hsameFlt, hsameLoft⟩ := dataTaken_rest s g q
    simp only [stallP_dataTaken, hsameFlt, hsameLoft] at hscratch hwins hflt hothers hloft
    exact ⟨t, congrArg Host.Outcome.next hdeliver, hscratch, hwins, hflt, hothers, hloft⟩
  · have hdeliver := (withFront_delivers hmain hfront hroute (gateDeliver g)).trans (gateDeliver_conflicts hphys hloaded hexpected hother)
    rw [hop] at hdeliver
    obtain ⟨x, hraised, hcode, hunit, hstop, hscratch, hloft⟩ := stallFault_logs p 0x0204 (detL d it) (dataTaken s g q)
    obtain ⟨hsameFlt, hsameLoft⟩ := dataTaken_rest s g q
    simp only [stallP_dataTaken, hsameFlt, hsameLoft] at hraised hscratch hloft
    exact ⟨_, x, congrArg Host.Outcome.next hdeliver, hraised, hcode, hunit, hstop, hscratch, hloft⟩
  · have hdeliver := withFront_delivers hmain hfront hroute (takeCredit g)
    rw [hop] at hdeliver
    exact ⟨_, congrArg Host.Outcome.next hdeliver, fun k => (takeCredit_counts s g k q).1, fun k => (takeCredit_counts s g k q).2, rfl, rfl, rfl⟩
  · have hdeliver := withFront_delivers hmain hfront hroute (takeAbort g)
    rw [hop, takeAbort_eq] at hdeliver
    split_ifs at hdeliver with hbar
    · refine ⟨abortCounted g q s, congrArg Host.Outcome.next hdeliver, rfl, rfl, rfl, fun hjob hdev hnamed => ?_, fun _ => rfl⟩
      simp [hjob, hdev, hnamed] at hbar
    · obtain ⟨haborts, hstalls, hloft, hraised⟩ := abortPassed_keeps (g := g) (q := q) (abortCounted g q s)
      refine ⟨_, congrArg Host.Outcome.next hdeliver, haborts, hstalls, hloft, fun _ _ _ => hraised, fun hdiscard => ?_⟩
      rcases hdiscard with h | h <;> simp [h] at hbar

end Sys2Proof.Machine
end

section
/-! PROOFS. A job stops, goes on and is cleared (R435 to R437, R440, R450, R453). -/

namespace Sys2Proof.Machine

/-! ## What a stall that fetches leaves alone (R453) -/

section Fetching
variable {s u : State} {n p k no : Nat}

/-- The blocks of a state that a stall's fetches and takes leave alone: CTX, PWR, SEC, BRING and the loft. -/
def jobBlocks (s : State) : CtxBlk × PwrBlk × SecBlk × BringBlk × LoftBlk := (s.ctx, s.pwr, s.sec, s.bring, s.loft)

theorem jobBlocks_inject (cls src dst : Nat) (body : PktBody) (s : State) : jobBlocks (inject cls src dst body s) = jobBlocks s := rfl

theorem jobBlocks_injectLoft (own : Bool) (cls src dst : Nat) (body : PktBody) (s : State) :
    jobBlocks (injectLoft own cls src dst body s) = jobBlocks s := by
  cases own
  · exact jobBlocks_inject ..
  · rfl

theorem jobBlocks_sendRead (n p desc inst opnd entry : Nat) (it : List Nat) (cells : List (Nat × Nat)) (s : State) :
    jobBlocks (sendRead n p desc inst opnd entry it cells s) = jobBlocks s :=
  foldl_keeps (fun s _ => jobBlocks_injectLoft _ _ _ _ _ s) _ s

theorem jobBlocks_fetchOne (hfetch : fetchOne n p k no s = some u) : jobBlocks u = jobBlocks s := by
  unfold fetchOne at hfetch
  dsimp only at hfetch
  split at hfetch
  · cases hfetch
  · split at hfetch
    · cases hfetch
    · split at hfetch
      · split_ifs at hfetch
        cases hfetch
        rfl
      · split at hfetch
        · cases hfetch
        · cases hfetch
          rfl
        · cases hfetch
          exact jobBlocks_sendRead ..

theorem jobBlocks_fetchFuel (f : Nat) : jobBlocks (fetchFuel f n p k no s) = jobBlocks s := by
  induction f generalizing s with
  | zero => rfl
  | succ f ih =>
    unfold fetchFuel
    split
    · next hfetch => exact ih.trans (jobBlocks_fetchOne hfetch)
    · rfl

theorem jobBlocks_fetchPump : jobBlocks (fetchPump n p k s) = jobBlocks s := by
  unfold fetchPump
  split_ifs
  · exact foldl_keeps (fun _ _ => jobBlocks_fetchFuel _) _ s
  · rfl

theorem jobBlocks_takePump : jobBlocks (takePump n p k s) = jobBlocks s := by
  unfold takePump
  dsimp only
  split
  · split_ifs <;> rfl
  · rfl

/-- A stall that is no longer pre-empted. -/
def released (x : Stall) : Stall := { x with preempted := false }

theorem stallResumes_of_phys (hp : physOf s n = some p) : stallResumes s n =
    fetchAll n p ((List.range (opsOf (stallP (modStallP p released s) p)).length).foldl (fun s k => takePump n p k s)
      (modStallP p released s)) := by
  simp only [stallResumes, hp]
  rfl

theorem jobBlocks_stallResumes (s : State) (n : Nat) : jobBlocks (stallResumes s n) = jobBlocks s := by
  cases hp : physOf s n with
  | none => simp only [stallResumes, hp]
  | some p =>
    rw [stallResumes_of_phys hp]
    exact (foldl_keeps (fun _ _ => jobBlocks_fetchPump) _ _).trans (foldl_keeps (fun _ _ => jobBlocks_takePump) _ _)

/-- A stall whose program holds no operation only stops being pre-empted. -/
theorem stallResumes_of_idle (hp : physOf s n = some p) (hidle : opsOf (stallP s p) = []) :
    stallResumes s n = modStallP p released s := by
  have hops : opsOf (stallP (modStallP p released s) p) = [] := by
    rw [stallP_modStallP_same]
    exact hidle
  simp only [stallResumes_of_phys hp, hops, List.length_nil, List.range_zero, List.foldl_nil, fetchAll]

/-- Every stall of a list whose stalls have no operation goes on, and one that goes on already is left so. -/
theorem preempted_stallResumes {ns : List Nat} (hidle : ∀ n ∈ ns, ∀ p, physOf s n = some p → opsOf (stallP s p) = []) {q : Nat}
    (hq : (stallP s q).preempted = false ∨ ∃ n ∈ ns, physOf s n = some q) :
    (stallP (ns.foldl stallResumes s) q).preempted = false := by
  induction ns generalizing s with
  | nil => simpa using hq
  | cons n ns ih =>
    rw [List.foldl_cons]
    cases hp : physOf s n with
    | none =>
      have hsame : stallResumes s n = s := by simp only [stallResumes, hp]
      rw [hsame]
      refine ih (fun m hm => hidle m (List.mem_cons_of_mem n hm)) (hq.imp_right ?_)
      rintro ⟨m, hm, hphys⟩
      cases hm with
      | head => rw [hp] at hphys; cases hphys
      | tail _ hm => exact ⟨m, hm, hphys⟩
    | some p =>
      rw [stallResumes_of_idle hp (hidle n List.mem_cons_self p hp)]
      have hphys (m : Nat) : physOf (modStallP p released s) m = physOf s m := rfl
      refine ih (fun m hm r hr => ?_) ?_
      · have hops := hidle m (List.mem_cons_of_mem n hm) r hr
        rw [stallP_modStallP]
        split_ifs with hrp
        · rw [hrp] at hops
          exact hops
        · exact hops
      · by_cases hqp : q = p
        · exact .inl (by rw [hqp, stallP_modStallP_same]; rfl)
        · rw [stallP_modStallP, if_neg hqp]
          refine hq.imp_right ?_
          rintro ⟨m, hm, hm'⟩
          cases hm with
          | head => rw [hp] at hm'; cases hm'; exact absurd rfl hqp
          | tail _ hm => exact ⟨m, hm, hm'⟩

end Fetching

/-! ## What a commit sets again (R227, R450) -/

/-- The roll and the RNG registers. -/
def rollAndRng (s : State) : RollBlk × RngBlk := (s.roll, s.rng)

theorem rollAndRng_zeroCounters (b : List Byte) (s : State) : rollAndRng (zeroCounters b s) = rollAndRng s := by
  unfold zeroCounters
  generalize hubCounters b = hs, yardCounters b = ys
  rfl

theorem recommitStalls_eq (k : Nat) (s : State) : recommitStalls k s = zeroCounters (imgAt s k)
    ((fillMapsOf (imgAt s k)).foldl (fun s f => zeroFillMap f s)
      (modServing (committedStall (imgAt s k) k) (stallSet (imgAt s k)) s)) := by
  unfold recommitStalls
  extract_lets +onlyGivenNames b t
  have hserving : modServing (committedStall b k) (stallSet b) s = t := rfl
  show _ = zeroCounters b (List.foldl _ (modServing (committedStall b k) (stallSet b) s) (fillMapsOf b))
  rw [hserving]

theorem rollAndRng_recommitStalls (k : Nat) (s : State) : rollAndRng (recommitStalls k s) = rollAndRng s := by
  have hbeside (u : State) : rollAndRng (besideMemories u) = rollAndRng u := rfl
  rw [recommitStalls_eq, rollAndRng_zeroCounters, ← hbeside, besideMemories_zeroFillMaps, besideMemories_modServing, hbeside]

/-- A circuit as a commit sets it. -/
def recommitCirc (x : Circ) : Circ := if x.st == .absent then x else { st := .stopped }

theorem circAt_recommit (s : State) (t : Table Circ) (c : Nat) :
    circAt { s with roll.circuits := t.map fun e => (e.1, recommitCirc e.2) } c = recommitCirc (tget {} t c) :=
  tget_map (d := ({} : Circ)) (f := recommitCirc) rfl t c

/-- What the commits of the resident images set of the roll and of the RNG registers. -/
theorem toCommit_roll_rng (s : State) : (toCommit s).roll.entries = [] ∧ (toCommit s).rng.seed = s.rng.seed0 ∧
    (toCommit s).rng.base = s.rng.base0 ∧ ∀ c, (circAt s c).st ≠ .absent → circAt (toCommit s) c = { st := .stopped } := by
  have hkeeps : rollAndRng ((residents s).foldl (fun s k => recommitStalls k s) s) = rollAndRng s :=
    foldl_keeps (fun s k => rollAndRng_recommitStalls k s) _ s
  unfold toCommit
  generalize (residents s).foldl (fun s k => recommitStalls k s) s = u at hkeeps
  simp only [rollAndRng, Prod.mk.injEq] at hkeeps
  obtain ⟨hroll, hrng⟩ := hkeeps
  refine ⟨rfl, congrArg RngBlk.seed0 hrng, congrArg RngBlk.base0 hrng, fun c hc => ?_⟩
  have hread : recommitCirc (circAt u c) = { st := .stopped } := by
    rw [circAt, hroll, ← circAt, recommitCirc, if_neg (by simpa using hc)]
  exact (circAt_recommit u u.roll.circuits c).trans hread

/-! ## The CTX commands -/

section Commands
variable {s : State} (hidle : s.ctx.vac = none) (hpreempt : s.ctx.preempt = none) (hbar : unitBar s = none)

theorem completed_ctxDone (tag result : Nat) (u : State) :
    Completed tag result [] { u with ctx.tag := tag % 256, ctx.result := result } (ctxDone (regIssuer tag) result u) := by
  rw [ctxDone, show (regIssuer tag).tag % 256 = tag % 256 from Nat.mod_mod ..]
  exact completed_postCmd ..

include hidle hpreempt hbar

theorem ctxCmd_runs (iss : Issuer) (f : State → State) : ctxCmd iss f s = f s := by
  simp [ctxCmd, hidle, hpreempt, hbar]

theorem ctxPreempt_starts (hrun : s.ctx.st = .run) (iss : Issuer) : ctxPreempt iss s =
    { s with ctx.preempt := some iss, ctx.st := if s.syl.load.isSome then .run else .stopping } := by
  simp [ctxPreempt, ctxCmd_runs hidle hpreempt hbar, hrun]

/-- A stopped job runs again: the device before its stalls go on. -/
def running (s : State) : State := { s with ctx.st := .run, ctx.saved := false }

theorem ctxResume_runs (hst : s.ctx.st = .stopped) (iss : Issuer) :
    ctxResume iss s = ctxDone iss 0 ((satchelStalls s).foldl stallResumes (running s)) := by
  simp only [ctxResume, ctxCmd_runs hidle hpreempt hbar, hst, bne_self_eq_false, Bool.false_eq_true, if_false, running]

theorem ctxClear_ends (hst : s.ctx.st = .held) (iss : Issuer) : ctxClear iss s = ctxDone iss 0 (running (toCommit s)) := by
  simp only [ctxClear, ctxCmd_runs hidle hpreempt hbar, hst, bne_self_eq_false, Bool.false_eq_true, if_false, running]

end Commands

theorem allStopped_of (s : State)
    (hstalls : ∀ n ∈ satchelStalls s, ∀ p, physOf s n = some p → (stallP s p).preempted = true ∧ writesOut (stallP s p) = 0)
    (hnet : ∀ k ∈ s.fab.net, toWindow (satchelStalls s) k.body = false) (hvid : ∀ e ∈ s.vid.engines, e.2.run = none) :
    allStopped s = true := by
  unfold allStopped
  generalize satchelStalls s = ns at hstalls hnet ⊢
  have hall : (ns.all fun n => (physOf s n).all fun p =>
      (stallP s p).preempted && decide (writesOut (stallP s p) = 0)) = true := by
    refine List.all_eq_true.2 fun n hn => ?_
    cases hp : physOf s n with
    | none => rfl
    | some p => simpa using hstalls n hn p hp
  have hany : (s.fab.net.any fun k => toWindow ns k.body) = false := List.any_eq_false.2 fun k hk => by simp [hnet k hk]
  have hengines : (s.vid.engines.all fun e => e.2.run.isNone) = true := List.all_eq_true.2 fun e he => by simp [hvid e he]
  simp only [hall, hany, hengines]
  rfl

theorem stallPreemptStop_stops {s : State} {n p k : Nat} (hst : s.ctx.st = .stopping) (hn : n ∈ residentStalls s)
    (hp : physOf s n = some p) (hk : stopsAs n p s = some k) : stallPreemptStop n s = { s with
      stalls := tset s.stalls p { stallP s p with preempted := true, stopKind := k } } := by
  simp only [stallPreemptStop, hst, hp, hk, List.contains_iff_mem.2 hn]
  rfl

end Sys2Proof.Machine

namespace Sys2Proof
open Machine

/-- Settles O47: a stall without a program stops as at its end; the stalls' fetches leave the registers of the job, and `toCommit` sets what
the commits set. -/
theorem jobsStopAndResume : Obligations.JobsStopAndResume := by
  intro s v tag hidle
  refine ⟨fun hreach hbar hpre hst => next_of_reaches hreach (ctxPreempt_starts hidle hpre hbar hst _),
    fun n p k hst hn hp hk => congrArg Host.Outcome.next (stallPreemptStop_stops hst hn hp hk),
    fun n p hst hn hp hprog => congrArg Host.Outcome.next (stallPreemptStop_stops hst hn hp (by simp [stopsAs, hprog])),
    fun hst hpre hstalls hnet hvid => ?_, fun hreach hbar hpre hst => ?_, fun hreach hbar hpre hst => ?_⟩
  · have hstops : ctxStopped s = ctxDone (regIssuer tag) 0 { s with ctx.st := .stopped, ctx.preempt := none, ctx.saved := false } := by
      simp only [ctxStopped, hst, hpre, allStopped_of s hstalls hnet hvid, if_true]
    exact ⟨_, congrArg Host.Outcome.next hstops, completed_ctxDone ..⟩
  · refine ⟨_, next_of_reaches hreach (ctxResume_runs hidle hpre hbar hst _), ?_⟩
    have hkeeps : jobBlocks ((satchelStalls s).foldl stallResumes (running s)) = jobBlocks (running s) :=
      foldl_keeps jobBlocks_stallResumes _ _
    have hgo := preempted_stallResumes (s := running s) (ns := satchelStalls s)
    generalize (satchelStalls s).foldl stallResumes (running s) = u at hkeeps hgo
    simp only [jobBlocks, Prod.mk.injEq] at hkeeps
    obtain ⟨hctx, hpwr, hsec, -, hloft⟩ := hkeeps
    exact ⟨congrArg CtxBlk.st hctx, congrArg CtxBlk.saved hctx, rfl, Nat.mod_mod .., hpwr, hsec, hloft,
      fun hops n hn p hp => hgo hops (.inr ⟨n, hn, hp⟩)⟩
  · obtain ⟨hentries, hseed, hbase, hcirc⟩ := toCommit_roll_rng s
    exact ⟨_, next_of_reaches hreach (ctxClear_ends hidle hpre hbar hst _), completed_ctxDone .., hentries, hseed, hbase, hcirc⟩

end Sys2Proof
end

section
/-! PROOFS. A job is saved, restored and vacated (R291, R446 to R450, R454). -/

namespace Sys2Proof.Machine

/-! ## A satchel written (R442 to R446) -/

section Save
variable {s u : State}

/-- A state with other packet counts, the only thing that a hub read without corrections leaves. -/
def withPackets (s : State) (packets : Table Nat) : State := { s with fab.packets := packets }

theorem stallBlock_withPackets (s : State) (packets : Table Nat) (n : Nat) : stallBlock (withPackets s packets) n = stallBlock s n := rfl

theorem hubSection_withPackets (s : State) (packets : Table Nat) : hubSection (withPackets s packets) = hubSection s := rfl

theorem satchelStalls_withPackets (s : State) (packets : Table Nat) : satchelStalls (withPackets s packets) = satchelStalls s := rfl

theorem satchelSylDigest_withPackets (s : State) (packets : Table Nat) :
    satchelSylDigest (withPackets s packets) = satchelSylDigest s := rfl

theorem satchelExtents_withPackets (s : State) (packets : Table Nat) :
    satchelExtents (withPackets s packets) = satchelExtents s := rfl

theorem satchelLength_withPackets (s : State) (packets : Table Nat) (whole : Bool) :
    satchelLength (withPackets s packets) whole = satchelLength s whole := by
  rw [satchelLength, satchelStalls_withPackets, satchelExtents_withPackets, satchelLength]

theorem satchelBytes_withPackets (s : State) (packets : Table Nat) (whole : Bool) (label : W64) :
    satchelBytes (withPackets s packets) whole label = satchelBytes s whole label := by
  have hblocks : stallBlock (withPackets s packets) = stallBlock s := funext (stallBlock_withPackets s packets)
  have hheader : satchelHeader (withPackets s packets) whole label = satchelHeader s whole label := by
    rw [satchelHeader, satchelLength_withPackets, satchelStalls_withPackets, satchelSylDigest_withPackets, satchelHeader]
    rfl
  have hloft : loftRead (withPackets s packets) = loftRead s := rfl
  rw [satchelBytes, satchelBody, hheader, hubSection_withPackets, satchelStalls_withPackets, hblocks, satchelExtents_withPackets, hloft,
    satchelLength_withPackets, satchelBytes, satchelBody]

/-- A hub read in which the decoder found nothing counts its packets only. -/
theorem hubRead_clean (s : State) (access a n : Nat) : ∃ packets, hubRead { corrected := [], uncorrectable := [] } access a n s =
    withPackets s packets := ⟨_, rfl⟩

theorem hubReads_clean (es : List (Nat × Nat)) (s : State) : ∃ packets, es.foldl (fun s r =>
    hubRead { corrected := [], uncorrectable := [] } 0 r.1 (r.2 - r.1) s) s = withPackets s packets := by
  induction es generalizing s with
  | nil => exact ⟨s.fab.packets, rfl⟩
  | cons e es ih =>
    obtain ⟨packets, hread⟩ := hubRead_clean s 0 e.1 (e.2 - e.1)
    obtain ⟨packets', hreads⟩ := ih (withPackets s packets)
    exact ⟨packets', by rw [List.foldl_cons, hread, hreads]; rfl⟩

/-- The CTX block changed. -/
def withCtx (ctx : CtxBlk) (s : State) : State := { s with ctx := ctx }

theorem hostSend_withCtx (ts : List HostTxn) (ctx : CtxBlk) (s : State) :
    hostSend ts (withCtx ctx s) = withCtx ctx (hostSend ts s) := by
  have hlink : (withCtx ctx s).host = s.host := rfl
  unfold hostSend
  rw [hlink]
  split_ifs <;> rfl

/-- The bytes of a satchel go to host memory, and the job is saved. -/
def savedTo (addr : Nat) (label : W64) (whole : Bool) (s : State) : State :=
  withCtx { s.ctx with saved := true } (hostSend (hostWrites addr (satchelBytes s whole label)) s)

theorem saveEnds_done {whole : Bool} {addr : Nat} {label : W64} (iss : Issuer)
    (hclean : (if whole then (satchelExtents s).findSome? fun r => firstPoison s r.1 (r.2 - r.1) else none) = none) :
    saveEnds iss addr label whole false (.done []) s = ctxDone iss 0 (savedTo addr label whole
      ((if whole then satchelExtents s else []).foldl (fun s r =>
        hubRead { corrected := [], uncorrectable := [] } 0 r.1 (r.2 - r.1) s) s)) := by
  simp only [saveEnds, saveWent, hclean, Bool.false_eq_true, if_false]
  generalize (if whole then satchelExtents s else []).foldl _ s = u
  have hctx : (hostSend (hostWrites addr (satchelBytes u whole label)) u).ctx = u.ctx := hostSend_ctx ..
  rw [savedTo, ← hctx]
  rfl

theorem completed_saved (tag addr : Nat) (label : W64) (whole : Bool) (packets : Table Nat) :
    Completed tag 0 [] (hostSend (hostWrites addr (satchelBytes s whole label))
      { withPackets s packets with ctx.saved := true, ctx.tag := tag % 256, ctx.result := 0 })
      (ctxDone (regIssuer tag) 0 (savedTo addr label whole (withPackets s packets))) := by
  have hwith (tag : Nat) (u : State) : { u with ctx.saved := true, ctx.tag := tag, ctx.result := 0 } =
      withCtx { u.ctx with saved := true, tag := tag, result := 0 } u := rfl
  rw [savedTo, satchelBytes_withPackets, hwith, hostSend_withCtx]
  exact completed_ctxDone ..

end Save
/-! ## A SAVE that meets poison, or has too little room (R291, R446, R447) -/

section SaveFails
variable {s : State}

theorem wordOf_wordsIn {a n w : Nat} (hw : w ∈ wordsIn a n) : wordOf w = w := by
  unfold wordsIn at hw
  split_ifs at hw
  · cases hw
  · obtain ⟨i, -, rfl⟩ := List.mem_map.1 hw
    unfold wordOf
    omega

/-- The first poisoned word of a range is the address of a poisoned word. -/
theorem poisonedWord_of_firstPoison {a n w : Nat} (hfirst : firstPoison s a n = some w) : poisonedWord s (wordOf w) = true := by
  rw [wordOf_wordsIn (List.mem_of_find?_eq_some hfirst)]
  exact List.find?_some hfirst

/-- A poisoned extent stops a SAVE of the whole job at a poisoned word. -/
theorem satchel_poison {x : Nat × Nat} {w : Nat} (hx : x ∈ satchelExtents s) (hpoison : firstPoison s x.1 (x.2 - x.1) = some w) :
    ∃ a, ((satchelExtents s).findSome? fun r => firstPoison s r.1 (r.2 - r.1)) = some a ∧ poisonedWord s (wordOf a) = true := by
  have hsome := List.findSome?_isSome_iff (l := satchelExtents s) (f := fun r => firstPoison s r.1 (r.2 - r.1))
  obtain ⟨a, ha⟩ := Option.isSome_iff_exists.1 (hsome.2 ⟨x, hx, by rw [hpoison]; rfl⟩)
  obtain ⟨y, -, hy⟩ := List.exists_of_findSome?_eq_some ha
  exact ⟨a, ha, poisonedWord_of_firstPoison hy⟩

/-- A job that a SAVE has not saved. -/
def unsaved (s : State) : State := withCtx { s.ctx with saved := false } s

theorem saveEnds_poisoned {a addr : Nat} {label : W64} (iss : Issuer)
    (hfirst : ((satchelExtents s).findSome? fun r => firstPoison s r.1 (r.2 - r.1)) = some a)
    (hpoison : poisonedWord s (wordOf a) = true) : saveEnds iss addr label true false (.done []) s =
      ctxDone iss 4 (raise 0x0402 2 (controllerOf s a) 0x7FF (detA (wordOf a) 5) (unsaved s)) := by
  have hsame : poisonOne (wordOf a) (unsaved s) = unsaved s := if_pos hpoison
  rw [← hsame]
  simp only [saveEnds, saveWent, hfirst, if_true]
  rfl

end SaveFails

section SaveCommand
variable {s : State} (hidle : s.ctx.vac = none) (hpreempt : s.ctx.preempt = none) (hbar : unitBar s = none) (hst : s.ctx.st = .stopped)
include hidle hpreempt hbar hst

theorem ctxSave_short {addr len : Nat} {label : W64} {whole store : Bool} {outcome : SaveOutcome} (hlen : len < satchelLength s whole)
    (iss : Issuer) : ctxSave iss addr len label whole store outcome s = ctxDone iss 5 s := by
  simp only [ctxSave, ctxCmd_runs hidle hpreempt hbar, hst, bne_self_eq_false, Bool.false_eq_true, if_false, hlen, decide_true,
    Bool.true_or, if_true]

theorem ctxSave_writes {len : Nat} {whole : Bool} (hlen : satchelLength s whole ≤ len) (addr : Nat) (label : W64)
    (outcome : SaveOutcome) (iss : Issuer) : ctxSave iss addr len label whole false outcome s = saveEnds iss addr label whole false outcome s := by
  simp only [ctxSave, ctxCmd_runs hidle hpreempt hbar, hst, bne_self_eq_false, Bool.false_eq_true, if_false, Nat.not_lt.2 hlen,
    decide_false, Bool.false_and, Bool.or_false]

end SaveCommand

/-! ## RESTORE (R448 to R450) -/

section Restore
variable {s : State} {b : List Byte} {len : Nat}

/-- The blocks that no part of a restored satchel changes: the loft, PWR, SEC, FLT and the video engines. -/
def besideSatchel (s : State) : LoftBlk × PwrBlk × SecBlk × FltBlk × Table VidEng := (s.loft, s.pwr, s.sec, s.flt, s.vid.engines)

theorem besideSatchel_putStalls (blocks hub : List Byte) (s : State) : besideSatchel (putStalls blocks hub s) = besideSatchel s := by
  refine foldl_keeps (fun u q => ?_) _ s
  split <;> rfl

theorem besideSatchel_putGateCredits (blocks : List Byte) (s : State) : besideSatchel (putGateCredits blocks s) = besideSatchel s := by
  refine foldl_keeps (fun u q => foldl_keeps (fun u w => ?_) _ u) _ s
  dsimp only
  split_ifs <;> rfl

theorem besideSatchel_putHub (hub : List Byte) (s : State) : besideSatchel (putHub hub s) = besideSatchel s := by
  simp only [besideSatchel, putHub]

theorem seed_putHub (hub : List Byte) (s : State) : (putHub hub s).rng.seed = wordAt hub 0x40000 := by
  simp only [putHub]

/-- The bytes of the stall blocks and of the hub section of a satchel. -/
def satchelBlocks (s : State) (b : List Byte) : List Byte := slice b 0x101000 (0x260000 * (satchelStalls s).length)

/-- The hub section of a satchel. -/
def satchelHub (b : List Byte) : List Byte := slice b 0x1000 0x100000

/-- The stalls, the gate credits and the hub section of a satchel in their places. -/
def satchelPut (b : List Byte) (s : State) : State :=
  putHub (satchelHub b) (putGateCredits (satchelBlocks s b) (putStalls (satchelBlocks s b) (satchelHub b) s))

theorem besideSatchel_satchelPut (b : List Byte) (s : State) : besideSatchel (satchelPut b s) = besideSatchel s := by
  rw [satchelPut, besideSatchel_putHub, besideSatchel_putGateCredits, besideSatchel_putStalls]

theorem seed_satchelPut (b : List Byte) (s : State) : (satchelPut b s).rng.seed = wordAt (satchelHub b) 0x40000 := seed_putHub ..

/-- A job that a RESTORE leaves stopped, and whether its firmware differs. -/
def restored (fwdiff : Bool) (s : State) : State := withCtx { s.ctx with st := .stopped, saved := false, fwdiff := fwdiff } s

theorem restoreSteps_restores (hhead : satchelHead b len = true) (hfits : satchelFits s b = true) (hsealed : satchelSealed b len = true)
    (hkind : byteAt b 6 = 0) (iss : Issuer) : ∃ fwdiff,
      restoreSteps iss len false b s = ctxDone iss 0 (restored fwdiff (satchelPut b s)) := by
  refine ⟨slice b 96 32 != runningDigest (satchelPut b s), ?_⟩
  simp only [restoreSteps, hhead, hfits, hsealed, hkind, zero_ne_one, putExtents, List.all_nil, Bool.not_true, Bool.false_eq_true, if_false,
    restored, withCtx, satchelPut, satchelHub, satchelBlocks]

theorem restoreSteps_badHead (hhead : satchelHead b len = false) (iss : Issuer) :
    restoreSteps iss len false b s = restoreRefused iss 0x0902 1 false s := by
  simp only [restoreSteps, hhead, Bool.not_false, if_true]

theorem restoreSteps_misfit (hhead : satchelHead b len = true) (hfits : satchelFits s b = false) (iss : Issuer) :
    restoreSteps iss len false b s = restoreRefused iss 0x0901 2 false s := by
  simp only [restoreSteps, hhead, hfits, Bool.not_true, Bool.not_false, Bool.false_eq_true, if_false, if_true]

theorem codes_markCtx (s : State) : (markCtx s).flt.raised.map (·.code) = s.flt.raised.map (·.code) := by
  have hcode (q : FRec × Nat) (c : Prop) [Decidable c] : FRec.code (if c then { q.1 with viaCtx := true } else q.1) = q.1.code := by
    split_ifs <;> rfl
  simp only [markCtx, List.map_map, Function.comp_def, hcode]
  conv_rhs => rw [← List.zipIdx_map_fst 0 s.flt.raised, List.map_map, Function.comp_def]

theorem codes_raiseHub (code : Nat) (detail : List Byte) (s : State) :
    (raiseHub code detail s).flt.raised.map (·.code) = s.flt.raised.map (·.code) ++ [code] := by
  simp [raiseHub]

/-- The record of a refusal, marked as CTX's. -/
def refusalMarked (code step : Nat) (store : Bool) (s : State) : State :=
  markCtx (raiseHub code (detP (if store then 3 else 0) 0 step) s)

theorem refusalMarked_reads (code step : Nat) (store : Bool) (s : State) :
    (refusalMarked code step store s).flt.raised.map (·.code) = s.flt.raised.map (·.code) ++ [code] ∧
    (refusalMarked code step store s).stalls = s.stalls ∧ (refusalMarked code step store s).loft = s.loft ∧
    (refusalMarked code step store s).roll = s.roll :=
  ⟨(codes_markCtx _).trans (codes_raiseHub ..), rfl, rfl, rfl⟩

/-- What a refused RESTORE leaves: the job HELD with its result, one record more, and the job's state as it was. -/
theorem restoreRefused_holds (tag code step : Nat) (store : Bool) (s : State) :
    let t := restoreRefused (regIssuer tag) code step store s
    t.ctx.st = .held ∧ t.ctx.result = 4 ∧ t.flt.raised.map (·.code) = s.flt.raised.map (·.code) ++ [code] ∧ t.stalls = s.stalls ∧
      t.loft = s.loft ∧ t.roll = s.roll := by
  have hreads := refusalMarked_reads code step store s
  have hrefused : restoreRefused (regIssuer tag) code step store s =
      ctxDone (regIssuer tag) 4 (withCtx { (refusalMarked code step store s).ctx with st := .held } (refusalMarked code step store s)) := rfl
  rw [hrefused]
  generalize refusalMarked code step store s = u at hreads ⊢
  exact ⟨rfl, rfl, hreads⟩

theorem ctxRestore_steps {bs : List Byte} (hidle : s.ctx.vac = none) (hpreempt : s.ctx.preempt = none) (hbar : unitBar s = none)
    (hcapture : s.snap.st ≠ .capture) (hdrain : s.snap.st ≠ .drain) (hready : restoreReady s = true)
    (hdriven : drivenMarked s (slice (padTo len bs) 0x1000 0x100000) = true) (iss : Issuer) (addr : Nat) :
    ctxRestore iss addr len false (some bs) s = restoreSteps iss len false (padTo len bs) s := by
  have hsnap : (s.snap.st == .capture || s.snap.st == .drain || !restoreReady s) = false := by simp [hcapture, hdrain, hready]
  simp only [ctxRestore, ctxCmd_runs hidle hpreempt hbar, hsnap, hdriven, Bool.false_and, Bool.false_eq_true, if_false, if_true]

end Restore

/-! ## VACATE (R454) -/

section Vacate
variable {s : State}

/-- What closing a stream leaves alone: the stalls and the loft. -/
def jobMemories (s : State) : Table Stall × LoftBlk := (s.stalls, s.loft)

theorem jobMemories_closeStream (k : Nat) (closer : Option Issuer) (s : State) :
    jobMemories (closeStream k closer s) = jobMemories s := by
  have hdiscards := foldl_keeps (g := jobMemories) (f := fun s p => discardPicture k p s) (fun _ _ => rfl) (streamAt s k).queue s
  unfold closeStream
  dsimp only
  split_ifs
  · exact hdiscards
  · exact hdiscards

/-- The streams that are not CLOSED are closed. -/
def streamsClosed (s : State) : State :=
  ((s.vid.streams.filter fun e => e.2.st != .closed).map (·.1)).foldl (fun s k => closeStream k (streamAt s k).closer s) s

theorem jobMemories_streamsClosed (s : State) : jobMemories (streamsClosed s) = jobMemories s :=
  foldl_keeps (fun u k => jobMemories_closeStream k _ u) _ s

/-- An entry without its sample. -/
def endedEntry (x : RollEntry) : RollEntry := { x with st := .free, ppend := false }

/-- The execution state discarded. -/
def executionEnded (s : State) : State :=
  { s with
    stalls := s.stalls.map fun e => (e.1, endedStall e.2)
    roll.circuits := s.roll.circuits.map fun e => (e.1, stoppedCirc e.2)
    roll.entries := s.roll.entries.map fun e => (e.1, endedEntry e.2) }

theorem vacDiscard_eq (s : State) : vacDiscard s =
    (residents (executionEnded (streamsClosed s))).foldl (fun s k => unloadImage k s) (executionEnded (streamsClosed s)) := by
  unfold vacDiscard streamsClosed executionEnded stoppedCirc endedEntry
  rfl

theorem stallP_executionEnded (s : State) (p : Nat) : stallP (executionEnded s) p = endedStall (stallP s p) :=
  tget_map (d := ({} : Stall)) (f := endedStall) rfl s.stalls p

theorem entryAt_executionEnded (s : State) (i : Nat) : entryAt (executionEnded s) i = endedEntry (entryAt s i) :=
  tget_map (d := ({} : RollEntry)) (f := endedEntry) rfl s.roll.entries i

/-- A stall without execution state. -/
def Ended (x : Stall) : Prop := x.prog = none ∧ x.slots = [] ∧ x.ring = []

/-- Every stall has ended, with the scratch of `m`, and the loft is `loft`. -/
def AllEnded (m : Nat → Mem) (loft : LoftBlk) (s : State) : Prop :=
  (∀ p, Ended (stallP s p) ∧ (stallP s p).scratch = m p) ∧ (∀ i, (entryAt s i).st = .free) ∧ s.loft = loft

theorem ended_modServing {m : Nat → Mem} {ns : List Nat} (hs : ∀ p, Ended (stallP s p) ∧ (stallP s p).scratch = m p) (p : Nat) :
    Ended (stallP (modServing (fun _ => freedStall) ns s) p) ∧ (stallP (modServing (fun _ => freedStall) ns s) p).scratch = m p := by
  induction ns generalizing s with
  | nil => exact hs p
  | cons n ns ih =>
    refine ih fun q => ?_
    dsimp only
    split
    · rw [stallP_modStallP]
      split_ifs with hq
      · obtain ⟨⟨-, hslots, -⟩, hscratch⟩ := hs q
        exact ⟨⟨rfl, hq ▸ hslots, rfl⟩, hq ▸ hscratch⟩
      · exact hs q
    · exact hs q

theorem allEnded_unloadImage {m : Nat → Mem} {loft : LoftBlk} (k : Nat) (hs : AllEnded m loft s) :
    AllEnded m loft (unloadImage k s) := by
  obtain ⟨hstalls, hentries, hloft⟩ := hs
  refine ⟨fun p => ?_, fun i => ?_, (unloadImage_loft k s).trans hloft⟩
  · rw [unloadImage_stallP]
    exact ended_modServing hstalls p
  · rw [entryAt, unloadImage_entries]
    exact hentries i

theorem allEnded_unloadImages {m : Nat → Mem} {loft : LoftBlk} (ks : List Nat) (hs : AllEnded m loft s) :
    AllEnded m loft (ks.foldl (fun s k => unloadImage k s) s) := by
  induction ks generalizing s with
  | nil => exact hs
  | cons k ks ih =>
    rw [List.foldl_cons]
    exact ih (allEnded_unloadImage k hs)

theorem allEnded_vacDiscard (s : State) : AllEnded (fun p => (stallP s p).scratch) s.loft (vacDiscard s) := by
  have hclosed := jobMemories_streamsClosed s
  simp only [jobMemories, Prod.mk.injEq] at hclosed
  obtain ⟨hstalls, hloft⟩ := hclosed
  rw [vacDiscard_eq]
  refine allEnded_unloadImages _ ⟨fun p => ?_, fun i => ?_, hloft⟩
  · rw [stallP_executionEnded, stallP, hstalls]
    exact ⟨⟨rfl, rfl, rfl⟩, rfl⟩
  · rw [entryAt_executionEnded]
    rfl

theorem ctxVacate_ends (hidle : s.ctx.vac = none) (hbar : unitBar s = none)
    (hst : s.ctx.st = .run ∨ s.ctx.st = .stopped ∨ s.ctx.st = .held) (hcapture : s.snap.st ≠ .capture) (hdrain : s.snap.st ≠ .drain)
    (iss : Issuer) : ctxVacate iss 0 s = vacEnds iss (vacDiscard s) := by
  have hruns : (!(s.ctx.st == .run || s.ctx.st == .stopped || s.ctx.st == .held) || s.snap.st == .capture || s.snap.st == .drain) = false := by
    simp [hcapture, hdrain]
    tauto
  have hmask : setBits 16 0 = [] := by simp [setBits]
  simp only [ctxVacate, hidle, hbar, hruns, hmask, vacNext, Option.isSome_none, Bool.false_eq_true, if_false]

/-- What the end of a VACATE without ranges leaves of the CTX block, and what it leaves as it was. -/
theorem vacEnds_reads (tag : Nat) (u : State) :
    let t := vacEnds (regIssuer tag) u
    t.ctx.st = .run ∧ t.ctx.saved = false ∧ t.ctx.vresult = 0 ∧ t.ctx.vtag = tag % 256 ∧ t.ctx.vac = none ∧ t.flt.jstopped = false ∧
      t.roll = u.roll ∧ t.stalls = u.stalls ∧ t.loft = u.loft :=
  ⟨rfl, rfl, rfl, Nat.mod_mod .., rfl, rfl, rfl, rfl, rfl⟩

end Vacate

end Sys2Proof.Machine

namespace Sys2Proof
open Machine

/-- Settles O48: a SAVE whose reads find nothing changes packet counts only, which no byte of the satchel names; the parts of a RESTORE write
neither the loft nor FLT; a VACATE ends every stall and entry before it unloads the images, which keep that. -/
theorem jobsSaveAndRestore : Obligations.JobsSaveAndRestore := by
  intro s v tag hidle hbar
  refine ⟨fun hreach hpre => ⟨fun whole hst hlen hclean => ?_, fun x w hst hlen hx hpoison => ?_, fun whole store outcome hst hlen =>
      ⟨_, next_of_reaches hreach (ctxSave_short hidle hpre hbar hst hlen _), completed_ctxDone ..⟩,
      fun bs b hcapture hdrain hready hb hdriven => ?_⟩,
    fun hreach hst hcapture hdrain => ?_⟩
  · have hexec := next_of_reaches hreach (ctxSave_writes hidle hpre hbar hst hlen s.ctx.argAddr s.ctx.argLabel (.done []) (regIssuer tag))
    rw [saveEnds_done _ (by
      cases whole
      · rfl
      · exact List.findSome?_eq_none_iff.2 (hclean rfl))] at hexec
    obtain ⟨packets, hreads⟩ := hubReads_clean (if whole then satchelExtents s else []) s
    cases whole with
    | false => exact ⟨_, s, hexec, rfl, fun _ => rfl, completed_saved tag _ _ false s.fab.packets⟩
    | true =>
      rw [hreads] at hexec
      exact ⟨_, withPackets s packets, hexec, rfl, fun h => absurd h (by decide), completed_saved ..⟩
  · obtain ⟨a, hfirst, hword⟩ := satchel_poison hx hpoison
    have hexec := next_of_reaches hreach (ctxSave_writes hidle hpre hbar hst hlen s.ctx.argAddr s.ctx.argLabel (.done []) (regIssuer tag))
    rw [saveEnds_poisoned _ hfirst hword] at hexec
    exact ⟨_, _, hexec, rfl, rfl, rfl, rfl, rfl, rfl⟩
  · subst hb
    have hexec := next_of_reaches hreach (ctxRestore_steps hidle hpre hbar hcapture hdrain hready hdriven (regIssuer tag) s.ctx.argAddr)
    refine ⟨fun hhead hfits hsealed hkind => ?_, fun hhead => ?_, fun hhead hfits => ?_⟩
    · obtain ⟨fwdiff, hsteps⟩ := restoreSteps_restores hhead hfits hsealed hkind (regIssuer tag)
      rw [hsteps] at hexec
      have hkeeps := besideSatchel_satchelPut (padTo s.ctx.argLen bs) s
      have hseed := seed_satchelPut (padTo s.ctx.argLen bs) s
      generalize satchelPut (padTo s.ctx.argLen bs) s = u at hexec hkeeps hseed
      simp only [besideSatchel, Prod.mk.injEq] at hkeeps
      obtain ⟨hloft, hpwr, hsec, hflt, hengines⟩ := hkeeps
      exact ⟨_, hexec, rfl, rfl, Nat.mod_mod .., rfl, hloft, hpwr, hsec, hflt, hseed, hengines⟩
    · rw [restoreSteps_badHead hhead] at hexec
      obtain ⟨hst, hresult, hcodes, hkeeps⟩ := restoreRefused_holds tag 0x0902 1 false s
      exact ⟨_, _, hexec, hst, hresult, hcodes, rfl, hkeeps⟩
    · rw [restoreSteps_misfit hhead hfits] at hexec
      obtain ⟨hst, hresult, hcodes, hkeeps⟩ := restoreRefused_holds tag 0x0901 2 false s
      exact ⟨_, _, hexec, hst, hresult, hcodes, rfl, hkeeps⟩
  · have hexec := next_of_reaches hreach (ctxVacate_ends hidle hbar hst hcapture hdrain (regIssuer tag))
    obtain ⟨hstalls, hentries, hloft⟩ := allEnded_vacDiscard s
    generalize vacDiscard s = u at hexec hstalls hentries hloft
    exact ⟨_, hexec, rfl, rfl, rfl, Nat.mod_mod .., rfl, rfl, hentries, fun p => (hstalls p).1, fun p => (hstalls p).2, hloft⟩

end Sys2Proof
end

section
/-! PROOFS. A drain that a JOB-class fault ends reads no loss (R470). -/

namespace Sys2Proof.Machine

/-! ## A drain that a JOB-class fault ends (R470) -/

/-- A drain of step 0 with one Flush outstanding, the loss not read. -/
def flushingDrain : Drain :=
  { slot := 0, seq := 1, step := 0, jobid := 0, body := [], todo := [], outstanding := [(0, .flush)] }

/-- The device after a JOB-class fault during that drain: the drain ends once its Flush completes, and reads no loss. -/
def faultedDrain : State := snapOnJobFault { snap.st := .drain, snap.drain := some flushingDrain }

theorem faultedDrain_drain : faultedDrain.snap.drain = some { flushingDrain with ending := true } := rfl

theorem stepDone_faultedDrain : stepDone faultedDrain 0 = true := by decide

theorem firstPoison_faultedDrain (a n : Nat) : firstPoison faultedDrain a n = none := List.find?_eq_none.2 fun _ _ => Bool.false_ne_true

/-- Its loss is not read, though the step is done and carries no poison. -/
theorem snapLossRead_faultedDrain : snapLossRead faultedDrain = faultedDrain := rfl

end Sys2Proof.Machine

namespace Sys2Proof
open Machine

/-- Refutes O49: nothing in its clause about the loss excludes a drain that a JOB-class fault is ending (R470), and such a drain reads no
loss. -/
theorem not_snapshotsTaken : ¬ Obligations.SnapshotsTaken := by
  intro h
  obtain ⟨-, -, hdrain, -⟩ := h faultedDrain .priv 0
  obtain ⟨hloss, -⟩ := hdrain { flushingDrain with ending := true } rfl faultedDrain_drain rfl
  obtain ⟨t, e, hexec, he, hread, -⟩ := hloss rfl stepDone_faultedDrain (firstPoison_faultedDrain ..)
  have ht : faultedDrain = t := Host.Outcome.next.inj ((congrArg Host.Outcome.next snapLossRead_faultedDrain).symm.trans hexec)
  rw [← ht, faultedDrain_drain] at he
  cases he
  cases hread

end Sys2Proof
end

section
/-! PROOFS. GROUPS, RESTORE and the replay of a snapshot (R465, R472 to R476). -/

namespace Sys2Proof.Machine

/-! ## The SNAP commands -/

section Commands
variable {s : State}

theorem completed_snapDone (tag result : Nat) (u : State) :
    Completed tag result [] { u with snap.tag := tag % 256, snap.result := result } (snapDone (regIssuer tag) result u) := by
  rw [snapDone, show (regIssuer tag).tag % 256 = tag % 256 from Nat.mod_mod ..]
  exact completed_postCmd ..

theorem snapCmd_runs (habort : s.snap.aborting = none) (hbar : unitBar s = none) (iss : Issuer) (f : State → State) :
    snapCmd iss f s = f s := by
  simp [snapCmd, habort, hbar]

end Commands

/-! ## GROUPS (R472) -/

section Groups
variable {s : State}

/-- A sparse table reads as the function that it holds. -/
theorem tget_sparse {α : Type} [DecidableEq α] (d : α) (f : Nat → α) {n i : Nat} (hi : i < n) : tget d (sparse d n f) i = f i := by
  have hentry (j : Nat) : (if f j = d then none else some (j, f j)) = (if f j = d then none else some (f j)).map fun x => (j, id x) := by
    split_ifs <;> rfl
  simp only [sparse, hentry, tget]
  rw [tfind_filterMap (fun j => if f j = d then none else some (f j)) id, if_pos (List.mem_range.2 hi)]
  split_ifs with hd
  · exact hd.symm
  · rfl

/-- The group words of a group section. -/
def groupsPut (b : List Byte) (s : State) : State :=
  { s with gate.groups := sparse 0 256 fun g => wordAt b (8 * g) &&& groupMask }

/-- The routes of a group section. -/
def routesPut (b : List Byte) (s : State) : State :=
  { s with
    gate.routeLo := sparse 0 2048 fun r => wordAt b (0x800 + 16 * r) &&& routeLoMask
    gate.routeHi := sparse 0 2048 fun r => wordAt b (0x808 + 16 * r) &&& routeHiMask }

theorem putGroups_eq (keep : Bool) (b : List Byte) (s : State) :
    putGroups keep b s = if keep then groupsPut b s else routesPut b (groupsPut b s) := rfl

theorem groupAt_putGroups (keep : Bool) (b : List Byte) {g : Nat} (hg : g < 256) :
    groupAt (putGroups keep b s) g = wordAt b (8 * g) &&& groupMask := by
  have hgroups : (putGroups keep b s).gate.groups = sparse 0 256 fun g => wordAt b (8 * g) &&& groupMask := by
    cases keep <;> rfl
  rw [groupAt, hgroups, tget_sparse 0 _ hg]

theorem routeAt_putGroups (b : List Byte) {r : Nat} (hr : r < 2048) : routeAt (putGroups false b s) r =
    (wordAt b (0x800 + 16 * r) &&& 0x0FFFFFFFFFFFFFFF, wordAt b (0x808 + 16 * r) &&& 0x7FFFFFFFFFFFFFFF) := by
  have hlo : (putGroups false b s).gate.routeLo = sparse 0 2048 fun r => wordAt b (0x800 + 16 * r) &&& routeLoMask := by
    simp only [putGroups, Bool.false_eq_true, if_false]
  have hhi : (putGroups false b s).gate.routeHi = sparse 0 2048 fun r => wordAt b (0x808 + 16 * r) &&& routeHiMask := by
    simp only [putGroups, Bool.false_eq_true, if_false]
  rw [routeAt, hlo, hhi, tget_sparse 0 _ hr, tget_sparse 0 _ hr, routeLoMask, routeHiMask]

/-- GROUPS writes the gate block's tables only, and the routes unless they are kept. -/
theorem putGroups_frame (keep : Bool) (b : List Byte) (s : State) :
    putGroups keep b s = { s with gate := (putGroups keep b s).gate } ∧ (putGroups keep b s).gate.gates = s.gate.gates ∧
    (keep = true → (putGroups keep b s).gate.routeLo = s.gate.routeLo ∧ (putGroups keep b s).gate.routeHi = s.gate.routeHi) := by
  cases keep
  · exact ⟨rfl, rfl, fun h => absurd h Bool.false_ne_true⟩
  · exact ⟨rfl, rfl, fun _ => ⟨rfl, rfl⟩⟩

variable (habort : s.snap.aborting = none) (hbar : unitBar s = none)
include habort hbar

theorem snapGroups_writes (hnamed : namedGroups s = []) (iss : Issuer) (addr slot : Nat) (keep : Bool) (b : List Byte) :
    snapGroups iss addr slot true keep (some b) s = snapDone iss 0 (putGroups keep b s) := by
  simp [snapGroups, snapCmd_runs habort hbar, hnamed, snapSourceBar]

theorem snapGroups_refuses (hnamed : namedGroups s ≠ []) (iss : Issuer) (addr slot : Nat) (host keep : Bool) (data : HostRead) :
    snapGroups iss addr slot host keep data s = snapDone iss 2 s := by
  simp [snapGroups, snapCmd_runs habort hbar, hnamed]

end Groups

theorem routeAt_snapDone (tag result r : Nat) (u : State) : routeAt (snapDone (regIssuer tag) result u) r = routeAt u r := rfl

/-- What a command that has changed the gate block leaves once it completes. -/
theorem snapDone_gate {s u : State} (hu : u = { s with gate := u.gate }) (tag result : Nat) :
    let t := snapDone (regIssuer tag) result u
    t = { s with snap := t.snap, host := t.host, gate := t.gate } := by
  have hshape (gate : GateBlk) (x : State) (hx : x = { s with gate := gate }) :
      snapDone (regIssuer tag) result x = { s with
        snap := (snapDone (regIssuer tag) result x).snap
        host := (snapDone (regIssuer tag) result x).host
        gate := (snapDone (regIssuer tag) result x).gate } := by
    subst hx
    rfl
  exact hshape u.gate u hu

/-! ## RESTORE (R473, R474) -/

section Restore
variable {s : State} {b : List Byte} {slot : Nat}

/-- What the parts of a snapshot leave as it was: PWR, SEC and FLT. -/
def besideSnapshot (s : State) : PwrBlk × SecBlk × FltBlk := (s.pwr, s.sec, s.flt)

theorem snapParts_hubWrite (a : Nat) (bs : List Byte) (s : State) :
    (besideSnapshot (hubWrite a bs s), (hubWrite a bs s).roll.circuits) = (besideSnapshot s, s.roll.circuits) := by
  simp [besideSnapshot]

theorem snapParts_putExtents (es : List (Nat × Nat)) (bs : List Byte) (s : State) :
    (besideSnapshot (putExtents es bs s), (putExtents es bs s).roll.circuits) = (besideSnapshot s, s.roll.circuits) := by
  induction es generalizing bs s with
  | nil => rfl
  | cons e es ih => exact (ih ..).trans (snapParts_hubWrite ..)

theorem besideSnapshot_putRecords (b : List Byte) (s : State) : besideSnapshot (putRecords b s) = besideSnapshot s := by
  refine foldl_keeps (fun u q => ?_) _ s
  split <;> rfl

theorem besideSnapshot_putSnapHub (b : List Byte) (s : State) : besideSnapshot (putSnapHub b s) = besideSnapshot s := by
  simp only [besideSnapshot, putSnapHub, putHub]

theorem flight_putSnapHub (b : List Byte) (s : State) : ∀ e ∈ (putSnapHub b s).roll.circuits, e.2.flight = [] := by
  intro e he
  obtain ⟨x, -, rfl⟩ := List.mem_map.1 he
  rfl

/-- The control records and the hub section of a snapshot in their places. -/
def sectionsPut (b : List Byte) (s : State) : State := putSnapHub (slice b 0x1000 0x100000) (putRecords (b.drop 0x111000) s)

/-- The data-position word written, and the gate credits as granted at the commit. -/
def positionPut (word : List Byte) (s : State) : State :=
  let u := hubWrite (stageBase s) word s
  { u with gate.sendCred := u.gate.granted }

theorem snapParts_positionPut (word : List Byte) (s : State) :
    (besideSnapshot (positionPut word s), (positionPut word s).roll.circuits) = (besideSnapshot s, s.roll.circuits) :=
  snapParts_hubWrite (stageBase s) word s

theorem snapWrite_eq (b : List Byte) (step : Nat) (s : State) : ∃ es word bs,
    snapWrite b step s = putExtents es bs (positionPut word (sectionsPut b s)) := ⟨_, _, _, rfl⟩

/-- The parts of a snapshot leave PWR, SEC and FLT as they were and no round in flight. -/
theorem snapWrite_reads (b : List Byte) (step : Nat) (s : State) :
    besideSnapshot (snapWrite b step s) = besideSnapshot s ∧ ∀ e ∈ (snapWrite b step s).roll.circuits, e.2.flight = [] := by
  obtain ⟨es, word, bs, hwrite⟩ := snapWrite_eq b step s
  have hparts := (snapParts_putExtents es bs _).trans (snapParts_positionPut word (sectionsPut b s))
  rw [← hwrite] at hparts
  obtain ⟨hbeside, hcircuits⟩ := Prod.mk.inj hparts
  refine ⟨hbeside.trans ((besideSnapshot_putSnapHub ..).trans (besideSnapshot_putRecords ..)), ?_⟩
  rw [hcircuits]
  exact flight_putSnapHub _ _

/-- A restored snapshot begins its replay. -/
def replaying (b : List Byte) (src : Nat) (fwdiff : Bool) (s : State) : State :=
  { s with
    snap.st := .replay
    snap.replayStep := leAt b 16 4
    snap.source := src
    snap.expectLoss := slice b (leAt b 8 8 - 4096 + 8) 64
    snap.fwdiff := fwdiff }

theorem snapSteps_replays (hhead : snapHead s true slot b = true) (hfits : snapFits s b = true)
    (hdigest : slice b (leAt b 8 8 - 32) 32 = sha256 (padTo (leAt b 8 8 - 32) b))
    (hpos : positionOk (snapWrite b (leAt b 16 4) s) (leAt b (0x111000 + 0x8000 * (satchelStalls s).length) 4) (leAt b 16 4) = true)
    (iss : Issuer) : ∃ fwdiff,
      snapSteps iss true slot b s = snapDone iss 0 (replaying b 0 fwdiff (snapWrite b (leAt b 16 4) s)) := by
  refine ⟨slice b 96 32 != runningDigest (snapWrite b (leAt b 16 4) s), ?_⟩
  simp only [snapSteps, hhead, hfits, hpos, hdigest, bne_self_eq_false, snapSource, Bool.not_true, Bool.false_eq_true, if_false, if_true,
    replaying]

theorem snapSteps_badHead (hhead : snapHead s true slot b = false) (iss : Issuer) :
    snapSteps iss true slot b s = snapRefused iss 0x0902 0 (leAt b 16 4) 1 s := by
  simp only [snapSteps, hhead, snapSource, Bool.not_false, if_true]

theorem snapSteps_misfit (hhead : snapHead s true slot b = true) (hfits : snapFits s b = false) (iss : Issuer) :
    snapSteps iss true slot b s = snapRefused iss 0x0901 0 (leAt b 16 4) 2 s := by
  simp only [snapSteps, hhead, hfits, snapSource, Bool.not_true, Bool.not_false, Bool.false_eq_true, if_false, if_true]

/-- What a refused RESTORE leaves: SNAP HELD with its result, one record more, and the job's state as it was. -/
theorem snapRefused_holds (tag code src step v : Nat) (s : State) :
    let t := snapRefused (regIssuer tag) code src step v s
    t.snap.st = .held ∧ t.snap.result = 4 ∧ t.flt.raised.map (·.code) = s.flt.raised.map (·.code) ++ [code] ∧ t.stalls = s.stalls ∧
      t.loft = s.loft ∧ t.roll = s.roll :=
  ⟨rfl, rfl, codes_raiseHub .., rfl, rfl, rfl⟩

theorem snapRestore_steps (habort : s.snap.aborting = none) (hbar : unitBar s = none) (hst : s.snap.st = .armed)
    (hready : restoreReady s = true) (hdriven : drivenMarked s (slice b 0x1000 0x100000) = true) (iss : Issuer) (addr slot : Nat) :
    snapRestore iss addr slot true (some b) s = snapSteps iss true slot b s := by
  simp only [snapRestore, snapCmd_runs habort hbar, hst, hready, hdriven, bne_self_eq_false, Bool.not_true, Bool.or_false, Bool.false_and,
    Bool.false_eq_true, if_false, if_true]

end Restore

/-! ## The replay check and CLEAR (R475, R476) -/

section Replay
variable {s : State}

theorem snapClear_ends (habort : s.snap.aborting = none) (hbar : unitBar s = none) (hst : s.snap.st = .held) (iss : Issuer) :
    snapClear iss s = snapDone iss 0 { toCommit s with snap.st := .armed } := by
  simp only [snapClear, snapCmd_runs habort hbar, hst, bne_self_eq_false, Bool.false_eq_true, if_false]

variable (hst : s.snap.st = .replay) (hdone : stepDone s s.snap.replayStep = true)
include hst hdone

theorem replayCheck_poisoned {a : Nat} (hpoison : firstPoison s (stageBase s + 0x40) s.snap.losslen = some a) :
    replayCheck s = raise 0x0402 2 (controllerOf s a) 0x7FF (detA a 0) s := by
  simp only [replayCheck, hst, hdone, hpoison, bne_self_eq_false, Bool.not_true, Bool.or_false, Bool.false_eq_true, if_false]

/-- The hub has read the loss. -/
def lossFetched (s : State) : State := hubPkts 1 0 (stageBase s + 0x40) s.snap.losslen s

variable (hclean : firstPoison s (stageBase s + 0x40) s.snap.losslen = none)
include hclean

theorem replayCheck_agrees (hsame : lossDiffers s = none) :
    replayCheck s = scheduleNext s.snap.replayStep { lossFetched s with snap.st := .armed } := by
  have hread : lossDiffers (hubPkts 1 0 (stageBase s + 0x40) s.snap.losslen s) = none := hsame
  simp only [replayCheck, hst, hdone, hclean, hread, bne_self_eq_false, Bool.not_true, Bool.or_false, Bool.false_eq_true, if_false]
  rfl

theorem replayCheck_differs {i : Nat} (hdiffers : lossDiffers s = some i) : replayCheck s =
    { raiseHub 0x0903 (detP s.snap.source s.snap.replayStep i) (abortGroups (lossFetched s)) with snap.st := .held } := by
  have hread : lossDiffers (hubPkts 1 0 (stageBase s + 0x40) s.snap.losslen s) = some i := hdiffers
  simp only [replayCheck, hst, hdone, hclean, hread, bne_self_eq_false, Bool.not_true, Bool.or_false, Bool.false_eq_true, if_false]
  rfl

end Replay

/-- Setting NEXT changes SNAP only, and not its state. -/
theorem scheduleNext_eq (step : Nat) (s : State) :
    (scheduleNext step s).snap.st = s.snap.st ∧ scheduleNext step s = { s with snap := (scheduleNext step s).snap } := by
  unfold scheduleNext
  dsimp only
  split_ifs
  · exact ⟨rfl, rfl⟩
  · exact ⟨rfl, rfl⟩

/-- A hub record raised after the groups' jobs are aborted. -/
theorem raiseHub_abortGroups (code : Nat) (detail : List Byte) (s : State) :
    let t := raiseHub code detail (abortGroups s)
    t.flt.raised.map (·.code) = s.flt.raised.map (·.code) ++ [code] ∧ t.stalls = s.stalls ∧ t.roll = s.roll := by
  rw [abortGroups_eq]
  exact ⟨codes_raiseHub .., rfl, rfl⟩

/-! ## Configuration registers (R465) -/

theorem configWrite_refused {s : State} {off : Nat} {value : W64} (hconfig : isConfig off = true) (hbars : configBars s = true) :
    configWrite off value s = { s with snap.crefused := true } := by
  simp only [configWrite, hconfig, hbars, Bool.not_true, Bool.false_eq_true, if_false, if_true]

theorem configWrite_stage {s : State} {value : W64} (hbars : configBars s = false) : configWrite 0x30 value s = { s with
    snap.losslen := fld value 62 56, snap.stage := fld value 49 32, snap.circmask := BitVec.ofNat 32 (fld value 31 0) } := by
  simp only [configWrite, show isConfig 0x30 = true from rfl, hbars, Bool.not_true, Bool.false_eq_true, if_false]
  rfl

end Sys2Proof.Machine

namespace Sys2Proof
open Machine

/-- Settles O50: a table written by GROUPS reads what the section holds; the parts of a snapshot write no record, and its circuits have no
round in flight. -/
theorem snapshotsRestored : Obligations.SnapshotsRestored := by
  intro s v tag slot
  refine ⟨fun hreach hbar habort => ⟨fun b keep hnamed => ?_, fun hnamed host keep data =>
      ⟨_, next_of_reaches hreach (snapGroups_refuses habort hbar hnamed ..), completed_snapDone ..⟩, fun b hst hready hdriven => ?_,
      fun hst => ⟨_, next_of_reaches hreach (snapClear_ends habort hbar hst _), completed_snapDone ..⟩⟩,
    fun a hst hdone hpoison => ⟨_, _, congrArg Host.Outcome.next (replayCheck_poisoned hst hdone hpoison), rfl, rfl, rfl⟩,
    fun hst hdone hclean => ⟨fun hsame => ?_, fun i hdiffers => ?_⟩,
    fun value hreach hbars => next_of_reaches hreach (configWrite_stage hbars),
    fun value off hreach hconfig hbars => next_of_reaches hreach (configWrite_refused hconfig hbars)⟩
  · have hexec := next_of_reaches hreach (snapGroups_writes habort hbar hnamed (regIssuer tag) s.snap.argAddr (slot % 2) keep b)
    obtain ⟨hframe, hgates, hroutes⟩ := putGroups_frame keep b s
    refine ⟨_, hexec, rfl, Nat.mod_mod .., fun g hg => groupAt_putGroups keep b hg, hroutes, fun hkeep r hr => ?_,
      snapDone_gate hframe tag 0, hgates⟩
    subst hkeep
    exact (routeAt_snapDone ..).trans (routeAt_putGroups b hr)
  · have hexec := next_of_reaches hreach (snapRestore_steps habort hbar hst hready hdriven (regIssuer tag) s.snap.argAddr (slot % 2))
    refine ⟨fun hhead => ?_, fun hhead hfits => ?_, fun hhead hfits hdigest hpos => ?_⟩
    · rw [snapSteps_badHead hhead] at hexec
      exact ⟨_, hexec, snapRefused_holds ..⟩
    · rw [snapSteps_misfit hhead hfits] at hexec
      exact ⟨_, hexec, snapRefused_holds ..⟩
    · obtain ⟨fwdiff, hsteps⟩ := snapSteps_replays hhead hfits hdigest hpos (regIssuer tag)
      rw [hsteps] at hexec
      obtain ⟨hbeside, hflight⟩ := snapWrite_reads b (leAt b 16 4) s
      generalize snapWrite b (leAt b 16 4) s = u at hexec hbeside hflight
      simp only [besideSnapshot, Prod.mk.injEq] at hbeside
      obtain ⟨hpwr, hsec, hflt⟩ := hbeside
      exact ⟨_, hexec, rfl, rfl, rfl, hflt, hpwr, hsec, hflight⟩
  · obtain ⟨hst', hframe⟩ := scheduleNext_eq s.snap.replayStep { lossFetched s with snap.st := .armed }
    refine ⟨_, congrArg Host.Outcome.next (replayCheck_agrees hst hdone hclean hsame), hst', ?_⟩
    rw [hframe]
    rfl
  · obtain ⟨hcodes, hstalls, hroll⟩ := raiseHub_abortGroups 0x0903 (detP s.snap.source s.snap.replayStep i) (lossFetched s)
    exact ⟨_, congrArg Host.Outcome.next (replayCheck_differs hst hdone hclean hdiffers), rfl, hcodes, hstalls, hroll⟩

end Sys2Proof
end
